-- ==== Sys2Proof/Word.lean ====
section
/-! DEFINITION. The byte type and the plainest arithmetic of numbers on the wire. -/

namespace Sys2Proof

/-- One byte of the request port or of the field link. -/
abbrev Byte := BitVec 8

/-- A number of two bytes, most significant first (13 Formats). -/
def be16 (hi lo : Byte) : Nat := hi.toNat * 256 + lo.toNat

/-- A number of four bytes, most significant first (13 Formats). -/
def be32 (b3 b2 b1 b0 : Byte) : Nat :=
  ((b3.toNat * 256 + b2.toNat) * 256 + b1.toNat) * 256 + b0.toNat

end Sys2Proof
end

