-- ==== Sys2Proof/Names.lean ====
section
/-! DEFINITION. The names the manual gives to states, reasons, roles, results and notice sources. -/

namespace Sys2Proof

/-- A sailing slot, which is also a berth: slot 0 is berth A, slot 1 is berth B (00 Keys, R1). -/
inductive SlotId where
  | berthA | berthB
  deriving DecidableEq, Repr

/-- Operating states of the part (R175). -/
inductive OpState where
  | setup | run | rest
  deriving DecidableEq, Repr

/-- Life of a sailing slot (R1): FREE, OPEN, CLOSING. -/
inductive SlotState where
  | free | opened | closing
  deriving DecidableEq, Repr

/-- Guest states (R11). -/
inductive GuestState where
  | expected | boarded | notSailing
  deriving DecidableEq, Repr

/-- Cabin status, derived from the guest list (R12). -/
inductive CabinStatus where
  | sailing | pending | void
  deriving DecidableEq, Repr

/-- Pull state of a cabin (R142): NONE, PULLING, PULLED. -/
inductive PullState where
  | noPull | pulling | pulled
  deriving DecidableEq, Repr

/-- Bag states (R24). -/
inductive BagState where
  | registered | onLoop | landing | jammed | inCart | aboard | offload | stray | missing
  deriving DecidableEq, Repr

/-- Origin of a set PULL flag (R26). -/
inductive PullOrigin where
  | cabin | request
  deriving DecidableEq, Repr

/-- Stray reasons (R22, R29). -/
inductive StrayReason where
  | noRead | multiRead | unknownTag | doubleLoad | duplicateTag | wrongSailing | mismatch
  | recircLimit | held | pulled
  deriving DecidableEq, Repr

/-- Roles of field nodes (R43). -/
inductive Role where
  | loop | induct | arch | chute | door | encode
  deriving DecidableEq, Repr

/-- The controller's view of a node's presence (R42). -/
inductive NodeState where
  | unheard | live | down
  deriving DecidableEq, Repr

/-- Tracking states (R81). -/
inductive TrackState where
  | anchoring | confirming | tracking | failed
  deriving DecidableEq, Repr

/-- Hold causes of an induction point (R77, R78). -/
inductive HoldCause where
  | tracking | pen | table | state | node
  deriving DecidableEq, Repr

/-- What a chute feeds (R108). -/
inductive ChuteKind where
  | deck | stray
  deriving DecidableEq, Repr

/-- Fault causes of a chute (R108). -/
inductive FaultCause where
  | failures | node | cartLost
  deriving DecidableEq, Repr

/-- Chute states (R108): the fault cause is present in FAULT alone. -/
inductive ChuteState where
  | closed | opened | blocked | fault (cause : FaultCause)
  deriving DecidableEq, Repr

/-- The two cart positions of a chute (R108). -/
inductive PosName where
  | x | y
  deriving DecidableEq, Repr

/-- Cart states (R114). -/
inductive CartState where
  | standby | filling | closing | full | cut | queued | atDoor
  deriving DecidableEq, Repr

/-- Route states (R126). -/
inductive RouteState where
  | unset | idle | loading
  deriving DecidableEq, Repr

/-- Reasons that stop a door belt (R132). -/
inductive HaltReason where
  | noRead | unknownTag | wrongDoor | pulledBag | notBoarded | misplaced | unidentified | node
  deriving DecidableEq, Repr

/-- Modes of the walker (R166). -/
inductive SweepMode where
  | patrol | fast
  deriving DecidableEq, Repr

/-- A walk of the sweep unit (R166): a close walk naming a slot, or the clear walk. -/
inductive WalkKind where
  | close (slot : SlotId) | clear
  deriving DecidableEq, Repr

/-- Priorities of notice sources (12 Notices). -/
inductive Priority where
  | high | low
  deriving DecidableEq, Repr

/-- The fifteen notice sources, in number order (12 Notices). -/
inductive Source where
  | loopFailed | loopLost | loopRegained | capacity | nodeDown | doorStopped | chuteFault
  | chuteBlocked | jam | cartDone | routeIdle | offload | pullDone | strayAged | walkDone
  deriving DecidableEq, Repr

/-- Result codes (13 Code tables). -/
inductive Result where
  | done | accepted | noResponse | unknownRequest | badLength | badField | badConfig | notFound
  | staleHandle | exists_ | full | allowance | wrongState | sailingBusy | openBags | busy
  | inUse | chain | voidTarget | emptyQueue | atDoor | notAtDoor | notRoutable | stillActive
  deriving DecidableEq, Repr

/-- How BAG GET names its bag (13 Key forms). -/
inductive BagKeyForm where
  | handle | tag
  deriving DecidableEq, Repr

/-- What a tag reader made of a bag (13 field frame): one tag, none or several. -/
inductive ReadResult where
  | noTag | one (tag : Nat) | several
  deriving DecidableEq, Repr

/-- The kinds of object RUN's configuration tests name (R177). -/
inductive ObjectKind where
  | induction | arch | chute | door
  deriving DecidableEq, Repr

/-- Why an encode report placed nothing (R162). -/
inductive NotTaken where
  | pen | table
  deriving DecidableEq, Repr

/-- A level of an induction belt or of a door belt: GO and RUN are `true` (R58). -/
abbrev Level := Bool

/-- A route named by its slot and its number 0 to 11 (00 Keys). -/
structure RouteKey where
  slot : SlotId
  route : Nat
  deriving DecidableEq, Repr

/-- A cabin named by its slot and its number (00 Keys). -/
structure CabinKey where
  slot : SlotId
  number : Nat
  deriving DecidableEq, Repr

/-- A bag named by its record's index and generation (R20). -/
structure Handle where
  index : Nat
  gen : BitVec 8
  deriving DecidableEq, Repr

end Sys2Proof
end

