-- ==== Sys2Proof/Config.lean ====
section
/-! DEFINITION. What the manual leaves open and the model leaves free: opaque constants, of which nothing can be proved.
DESIGN CHOICE: each is a free value named in the assumption log (logs 7 to 10). -/

namespace Sys2Proof

/-- A value that a body carries in a code byte and that Formats gives no code for (R182, log 9). -/
inductive CodeName where
  | slotState (v : SlotState)
  | tracking (v : TrackState)
  | holdCauses (tracking pen table state node : Bool)
  | carrier (loaded unknown : Bool)
  | chuteKind (v : ChuteKind)
  | chuteState (closed opened blocked : Bool)
  | faultCause (v : FaultCause)
  | position (cart marked : Bool)
  | nodeState (v : NodeState)
  | routeState (v : RouteState)
  | mode (v : SweepMode)
  | object (v : ObjectKind)
  | role (v : Role)
  | priority (v : Priority)
  | offloadOutcome (retire : Bool)
  | jamOutcome (landed : Bool)
  | action (reinduct returned : Bool)
  deriving DecidableEq, Repr

/-- The code byte of a value Formats gives no table for. DESIGN CHOICE: free value, safe (log 9). -/
opaque Config.code : CodeName → Byte

/-- The bytes of a number that does not fit its field: `beyondWidth bytes number place`.
DESIGN CHOICE: free value, safe (log 9). -/
opaque Config.beyondWidth : Nat → Nat → Nat → Byte

/-- A header byte of a transaction that ended before it: nothing was sent there.
DESIGN CHOICE: free value, safe (log 9). -/
opaque Config.unsentByte : Nat → Byte

/-- Chooses the free record a new cabin takes from the pool, for each value of the free counter.
DESIGN CHOICE: free value, safe (log 7). -/
opaque Config.cabinPlace : Nat → Nat

/-- The pass number that follows 4,294,967,295. DESIGN CHOICE: free value, safe (log 8). -/
opaque Config.passAfterLast : Nat → BitVec 32

/-- Whether an outbound frame's stamp byte is taken when the frame is sent, or when it is made.
DESIGN CHOICE: free value, safe (log 10). -/
opaque Config.stampAtSending : Bool

end Sys2Proof
end

