-- ==== Sys2Proof/Syntax.lean ====
section
/-! DEFINITION. The commands of the block: one constructor for each row of spec/opcode_table.json.

A request carries the header of its transaction and its body fields at the widths of R182; a code byte that its table does
not hold is `none` (log 5). A frame carries its head and its payload bytes. -/

namespace Sys2Proof

/-- The four key bytes of a request header, bytes 2 to 5 (13 Formats). -/
structure Key where
  b2 : Byte
  b3 : Byte
  b4 : Byte
  b5 : Byte
  deriving DecidableEq, Repr

/-- The header of a request transaction: byte 1 (notify flag and body length), the key, and the number of bytes that came
before SPI_CS_N rose (R172). Byte 0, the code, is the constructor's. -/
structure Head where
  flags : Byte
  key : Key
  came : Nat
  deriving DecidableEq, Repr

/-- The head of a field frame: node, sequence and stamp bytes (13 The field frame). -/
structure FrameHead where
  node : Byte
  seq : Byte
  stamp : Byte
  deriving DecidableEq, Repr

/-- The body of CONFIG LIMITS: every limit, in the order of R176's table. -/
structure LimitsBody where
  recirc : Byte
  confirm : Byte
  loss : Byte
  drift : Byte
  failure : Byte
  silence : Byte
  penLow : Byte
  strayAge : Byte
  patrolRate : BitVec 16
  deriving DecidableEq, Repr

/-- One command of the block. -/
inductive Instr where
  -- the part and the request port (R172 to R175)
  | powerOn
  | hallResetN (lowMicros : Nat)
  | statusOnly (first : Byte)
  | fetch (clocked : Nat)
  | unknownRequest (code : Byte) (h : Head)
  | responseReady
  -- setup (R176 to R178)
  | configLoop (h : Head) (carriers : BitVec 16) (positions : Byte)
  | configInduction (h : Head) (offset : BitVec 16) (node : Byte)
  | configArch (h : Head) (offset : BitVec 16) (node : Byte)
  | configChute (h : Head) (kind : Option ChuteKind) (offset : BitVec 16) (lead window capacity node : Byte)
  | configDoor (h : Head) (berth : Option SlotId) (node : Byte)
  | configNode (h : Head) (role : Option Role) (objects : List Byte)
  | configLimits (h : Head) (body : LimitsBody)
  | run (h : Head)
  | hallClear (h : Head)
  | hallRest (h : Head)
  | wake (h : Head)
  | hallTime (h : Head)
  -- sailings (R4 to R8)
  | openSailing (h : Head) (ship : BitVec 16) (boardFirst : Option Bool)
  | closeSailing (h : Head) (ship : BitVec 16)
  | sailingGet (h : Head)
  | routeSet (h : Head) (door : Byte) (notifyAll : Option Bool)
  -- cabins (R14 to R19)
  | cabinPut (h : Head) (route allowance : Byte) (guests : List (Byte × BitVec 32))
  | cabinGet (h : Head)
  | cabinDrop (h : Head)
  | cabinForward (h : Head) (target : BitVec 16)
  | guestStatus (h : Head) (guest : Byte) (state : Option GuestState)
  -- bags (R36 to R41, R139, R150, R151)
  | bagRegister (h : Head) (tag : BitVec 32)
  | bagGet (h : Head) (form : Option BagKeyForm)
  | bagReassign (h : Head) (slot : Byte) (cabin : BitVec 16)
  | bagHold (h : Head)
  | bagRelease (h : Head)
  | bagPull (h : Head)
  | bagRetire (h : Head)
  | offloadConfirmRetire (h : Head) (known : Bool) (position : Byte)
  | offloadConfirmPen (h : Head) (position : Byte)
  | bagUnload (h : Head) (position : Byte)
  -- loop (R79, R80, R91, R92)
  | loopGet (h : Head)
  | carrierGet (h : Head)
  | trackingReset (h : Head)
  | trackingResume (h : Head)
  -- chutes and carts (R110 to R125)
  | chuteAssign (h : Head) (slot route : Byte)
  | chuteOpen (h : Head)
  | chuteClose (h : Head)
  | chuteGet (h : Head)
  | cartCut (h : Head)
  | cutComplete (chute : Nat)
  | cartGet (h : Head) (first : Byte)
  | cartClearUnidentified (h : Head)
  | jamClearLanded (h : Head) (known : Bool) (chute position : Byte)
  | jamClearRemoved (h : Head) (chute position : Byte)
  -- routes and doors (R128 to R141)
  | routeStart (h : Head) (stay : Option Bool)
  | routePause (h : Head)
  | routeContinue (h : Head)
  | routeGet (h : Head)
  | doorGet (h : Head)
  | doorRelease (h : Head)
  -- strays (R163, R164)
  | strayNext (h : Head) (place : Byte)
  | strayGet (h : Head)
  | strayResolveReinduct (h : Head)
  | strayResolveReturn (h : Head)
  | strayResolveHold (h : Head) (known : Bool)
  -- notices (R180, R181)
  | noticeRead (h : Head)
  | noticeMask (h : Head) (sources : List (Option Bool × Option Priority)) (global : Option Bool)
  | noticeClear (h : Head)
  -- the receiver (R44)
  | frameDiscard (bytes : List Byte)
  | frameByteTimeout (bytes : List Byte) (gapMicros : Nat)
  -- field frames and the expiries of their pitches
  | pitch (f : FrameHead)
  | checkDeadline (carrier : Nat)
  | landingDeadline (chute : Nat)
  | home (f : FrameHead)
  | launch (f : FrameHead) (point read : Byte) (tag : BitVec 32)
  | arch (f : FrameHead) (arch occupied read : Byte) (tag : BitVec 32)
  | check (f : FrameHead) (chute occupied : Byte)
  | land (f : FrameHead) (chute : Byte)
  | cartPresent (f : FrameHead) (chute position : Byte)
  | cartRemoved (f : FrameHead) (chute position report : Byte)
  | doorArbitrate (door : Nat)
  | doorscan (f : FrameHead) (door read : Byte) (tag : BitVec 32)
  | cartComplete (door : Nat)
  | encode (f : FrameHead) (position read : Byte) (tag : BitVec 32)
  -- the part's own activity
  | nodeDown (node : Nat)
  | levelRefresh
  | frameTransmit
  | patrolVisit
  | closeWalkVisit
  | closeWalkComplete
  | clearWalkVisit
  | clearWalkComplete
  deriving DecidableEq, Repr

end Sys2Proof
end

