-- ==== Sys2Proof/Decode.lean ====
section
/-! DEFINITION. The decoder over the bits of the opcode table. No row of the table gives bits, so no word spells a command
there; how bytes on the request port and on the field link spell commands is in Machine/Wire.lean. -/

namespace Sys2Proof

/-- The command a word of the table's bits spells: the table gives bits for no row. -/
def decodeTableWord (_nbits _w : Nat) : Option Instr := none

end Sys2Proof
end

