-- ==== Sys2Proof/Machine/Table.lean ====
section
/-! DEFINITION. Sparse tables: lists of (key, record) with strictly rising keys. -/

namespace Sys2Proof.Machine

/-- A table of records by number, in rising order of the number. -/
abbrev Table (α : Type) := List (Nat × α)

/-- The record at key `i`, if there is one. -/
def Table.get? {α : Type} : Table α → Nat → Option α
  | [], _ => none
  | (k, v) :: t, i => if i = k then some v else Table.get? t i

/-- The table with the record at key `i` set to `v`, in its place in the order. -/
def Table.put {α : Type} : Table α → Nat → α → Table α
  | [], i, v => [(i, v)]
  | (k, w) :: t, i, v =>
    if i < k then (i, v) :: (k, w) :: t
    else if i = k then (i, v) :: t
    else (k, w) :: Table.put t i v

/-- The table without the record at key `i`. -/
def Table.erase {α : Type} (t : Table α) (i : Nat) : Table α :=
  t.filter (fun e => e.1 != i)

/-- The table with `f` applied to the record at key `i`, if there is one. -/
def Table.modify {α : Type} (t : Table α) (i : Nat) (f : α → α) : Table α :=
  t.map (fun e => if e.1 = i then (e.1, f e.2) else e)

/-- The table with `f` applied to every record. -/
def Table.mapValues {α : Type} (t : Table α) (f : α → α) : Table α :=
  t.map (fun e => (e.1, f e.2))

/-- Whether there is a record at key `i`. -/
def Table.has {α : Type} (t : Table α) (i : Nat) : Bool :=
  (Table.get? t i).isSome

/-- The lowest number from `n` on that no record of the table holds (R21 names it for bag records). -/
def Table.lowestFree {α : Type} : Table α → Nat → Nat
  | [], n => n
  | (k, _) :: t, n => if k = n then Table.lowestFree t (n + 1) else n

/-- The canonical form: the keys rise strictly. -/
def Table.wf {α : Type} : Table α → Bool
  | [] => true
  | (k, _) :: t => (t.all fun e => decide (k < e.1)) && Table.wf t

end Sys2Proof.Machine
end

