-- ==== Sys2Proof/Machine/State.lean ====
section
/-! DEFINITION. The state of the block as plain data, the state after reset, and the outcomes a step can stop with. -/

namespace Sys2Proof.Machine

/-! ## Record store (01, 02) -/

/-- The six counters of a sailing slot (R1, R2). -/
structure Counters where
  registered : Nat
  hall : Nat
  stray : Nat
  missing : Nat
  aboard : Nat
  offload : Nat
  deriving DecidableEq, Repr

/-- A sailing slot record (R1). -/
structure Sailing where
  state : SlotState
  ship : Option Nat
  boardFirst : Bool
  counts : Counters
  deriving DecidableEq, Repr

/-- A guest entry of a cabin (R11). -/
structure Guest where
  slot : Nat
  number : BitVec 32
  state : GuestState
  deriving DecidableEq, Repr

/-- The walker's position: the index last left and the pass of that visit (R166). -/
structure WalkerPos where
  index : Nat
  pass : BitVec 32
  deriving DecidableEq, Repr

/-- A cabin record (R10, R142). `place` is the record of the pool that holds it (R169, log 7). -/
structure Cabin where
  route : Nat
  allowance : Nat
  guests : List Guest
  forward : Option Nat
  forwardedIn : Nat
  liveBags : Nat
  aboard : Nat
  pull : PullState
  pullStart : Option WalkerPos
  place : Nat
  deriving DecidableEq, Repr

/-- The holder a bag's location field names (R25). -/
inductive Location where
  | carrier (number : Nat)
  | chute (number : Nat)
  | cart (serial : Nat)
  | pen (position : Nat)
  deriving DecidableEq, Repr

/-- A live bag record (R22). `home` holds slot and cabin, which are present together or absent together (R23). -/
structure Bag where
  tag : Option Nat
  home : Option CabinKey
  state : BagState
  location : Option Location
  laps : Nat
  pull : Option PullOrigin
  hold : Bool
  recheck : Bool
  reinduct : Bool
  aged : Bool
  reason : Option StrayReason
  entered : Option Nat
  deriving DecidableEq, Repr

/-- The record store: sailing slots, cabin table, bag table with its generations, tag map.
`cabins` is keyed by slot × 65,536 + cabin number; `gens` lists the generations other than 0. -/
structure Store where
  slotA : Sailing
  slotB : Sailing
  cabins : Table Cabin
  bags : Table Bag
  gens : Table (BitVec 8)
  tagMap : Table Handle
  deriving DecidableEq, Repr

/-! ## Field link (03) -/

/-- A node record (R42). -/
structure Node where
  role : Option Role
  objects : List Nat
  state : NodeState
  expected : Option Byte
  lastHeard : Option Nat
  outSeq : Byte
  deriving DecidableEq, Repr

/-- What an ENCODE ANSWER says (R162). -/
inductive EncodeAnswer where
  | route (key : RouteKey)
  | reason (r : StrayReason)
  | notTaken (cause : NotTaken)
  deriving DecidableEq, Repr

/-- What an outbound frame carries (R56 to R59). -/
inductive OutPayload where
  | divert (chute : Nat) (count : Byte)
  | induct (point : Nat) (go : Level)
  | door (number : Nat) (run : Level)
  | answer (position : Nat) (answer : EncodeAnswer)
  deriving DecidableEq, Repr

/-- A frame waiting in the transmit queue (R56). -/
structure OutFrame where
  node : Nat
  seq : Byte
  stamp : Byte
  payload : OutPayload
  deriving DecidableEq, Repr

/-- The field link controller. `nodes` holds nodes 1 to 32 in order; `lineTx` is the frame last sent on LINK_TX and `rx` the
bytes the receiver has taken since the SYNC it hunts from (R44). -/
structure Link where
  nodes : List Node
  stampRef : Option Byte
  lastPitch : Option Byte
  txQueue : List OutFrame
  lineTx : List Byte
  rx : List Byte
  deriving DecidableEq, Repr

/-! ## Loop tracker (04, 05) and divert unit (06) -/

/-- What a carrier is believed to hold (R62). -/
inductive Content where
  | empty
  | loaded (bag : Handle)
  | unknown
  deriving DecidableEq, Repr

/-- The armed mark of a carrier: chute, pitches remaining to the check deadline, reason of a STRAY destination (R99). -/
structure Mark where
  chute : Nat
  remaining : Nat
  reason : Option StrayReason
  deriving DecidableEq, Repr

/-- An entry of the carrier table (R62); its armed chute is the mark's chute. -/
structure Carrier where
  content : Content
  armed : Option Mark
  deriving DecidableEq, Repr

/-- The hold causes that stand for an induction point (R77). -/
structure HoldSet where
  tracking : Bool
  pen : Bool
  table : Bool
  state : Bool
  node : Bool
  deriving DecidableEq, Repr

/-- An induction point (R60, R77); `go` is its commanded level. -/
structure Induction where
  offset : Nat
  node : Nat
  causes : HoldSet
  go : Level
  deriving DecidableEq, Repr

/-- An arch (R60). -/
structure Arch where
  offset : Nat
  node : Nat
  deriving DecidableEq, Repr

/-- The loop tracker (R60 to R63). N is the length of `carriers`. -/
structure Loop where
  carriers : List Carrier
  pos : Nat
  track : TrackState
  lossCount : Nat
  confirmRun : Nat
  mismatchRun : Nat
  homeMark : Bool
  points : Table Induction
  arches : Table Arch
  deriving DecidableEq, Repr

/-! ## Chutes and carts (07) -/

/-- A cart position of a chute (R108, R115). -/
inductive Position where
  | empty
  | cart (serial : Nat)
  | marked
  deriving DecidableEq, Repr

/-- An entry of a pending-landing list (R108). -/
structure Pending where
  bag : Handle
  deadline : Byte
  deriving DecidableEq, Repr

/-- A chute record (R108), with the divert unit's failure count for it (R106). -/
structure Chute where
  kind : ChuteKind
  offset : Nat
  lead : Nat
  window : Nat
  capacity : Nat
  node : Nat
  assigned : Option RouteKey
  state : ChuteState
  reserved : Nat
  landing : List Pending
  jams : List Handle
  posX : Position
  posY : Position
  active : Option PosName
  failures : Nat
  deriving DecidableEq, Repr

/-- An entry of a cart's contents (R114). -/
structure Entry where
  bag : Handle
  aboard : Bool
  deriving DecidableEq, Repr

/-- A live cart's record (R114); its serial is its key in the pool. -/
structure Cart where
  origin : Nat
  route : Option RouteKey
  capacity : Nat
  entries : List Entry
  unidentified : Nat
  notify : Bool
  state : CartState
  deriving DecidableEq, Repr

/-! ## Routes and doors (08) -/

/-- A route record (R126). -/
structure Route where
  door : Option Nat
  chutes : List Nat
  queue : List Nat
  state : RouteState
  stay : Bool
  notifyAll : Bool
  loaded : Nat
  deriving DecidableEq, Repr

/-- The halt set of a door (R132). -/
structure HaltSet where
  noRead : Bool
  unknownTag : Bool
  wrongDoor : Bool
  pulledBag : Bool
  notBoarded : Bool
  misplaced : Bool
  unidentified : Bool
  node : Bool
  deriving DecidableEq, Repr

/-- A door record (R132); `running` is the belt, which is also the door's commanded level (R58, R134). -/
structure Door where
  berth : SlotId
  node : Nat
  running : Level
  halts : HaltSet
  cart : Option Nat
  lastServed : Option Nat
  deriving DecidableEq, Repr

/-! ## Stray pen (10), sweep (11), notices and port (12) -/

/-- The stray pen manager (R154, R157). -/
structure Pen where
  size : Nat
  positions : Table Handle
  strays : List Handle
  hold : Bool
  deriving DecidableEq, Repr

/-- A walk running, with the next record it visits: bag records 0 to 16,383, then cabin records (R169, R171). -/
structure Walk where
  kind : WalkKind
  next : Nat
  deriving DecidableEq, Repr

/-- The sweep unit (R166). -/
structure Sweep where
  pos : WalkerPos
  mode : SweepMode
  walk : Option Walk
  deriving DecidableEq, Repr

/-- A notice source (R179); a source without subjects holds subject 0 as its pending mark. -/
structure Notice where
  subjects : List Nat
  enabled : Bool
  priority : Priority
  deriving DecidableEq, Repr

/-- The notice unit (R179): the fifteen sources in number order, the global enable, and whether NOTICE_N is driven low. -/
structure NoticeUnit where
  sources : List Notice
  global : Bool
  pinLow : Bool
  deriving DecidableEq, Repr

/-- The limits of CONFIG LIMITS (R176). -/
structure Limits where
  recirc : Nat
  confirm : Nat
  loss : Nat
  drift : Nat
  failure : Nat
  silence : Nat
  penLow : Nat
  strayAge : Nat
  patrolRate : Nat
  deriving DecidableEq, Repr

/-! ## Responses (13) -/

/-- The body of a bag response (R37). -/
structure BagView where
  handle : Handle
  tag : Option Nat
  home : Option CabinKey
  governing : Option (Nat × CabinStatus)
  state : BagState
  location : Option Location
  laps : Nat
  pull : Option PullOrigin
  hold : Bool
  recheck : Bool
  reinduct : Bool
  aged : Bool
  reason : Option StrayReason
  entered : Option Nat
  deriving DecidableEq, Repr

/-- The body of a cabin response (R15). -/
structure CabinView where
  key : CabinKey
  route : Nat
  allowance : Nat
  status : CabinStatus
  forward : Option Nat
  forwardedIn : Nat
  liveBags : Nat
  aboard : Nat
  pull : PullState
  pullStart : Option WalkerPos
  guests : List Guest
  deriving DecidableEq, Repr

/-- The body of LOOP GET (R79); a point is its number, offset, level and hold causes, an arch its number and offset. -/
structure LoopView where
  carriers : Nat
  pos : Nat
  stampRef : Option Byte
  track : TrackState
  lossCount : Nat
  confirmRun : Nat
  mismatchRun : Nat
  homeMark : Bool
  points : List (Nat × Nat × Level × HoldSet)
  arches : List (Nat × Nat)
  loaded : Nat
  unknown : Nat
  armed : Nat
  deriving DecidableEq, Repr

/-- The body of CARRIER GET (R80). -/
structure CarrierView where
  number : Nat
  content : Content
  armed : Option Nat
  offset : Nat
  deriving DecidableEq, Repr

/-- The body of CHUTE GET (R125). -/
structure ChuteView where
  kind : ChuteKind
  assigned : Option RouteKey
  state : ChuteState
  offset : Nat
  lead : Nat
  window : Nat
  capacity : Nat
  node : Nat
  reserved : Nat
  landing : Nat
  jammed : Nat
  failures : Nat
  credit : Nat
  posX : Position
  posY : Position
  active : Option PosName
  jams : List Handle
  deriving DecidableEq, Repr

/-- The body of CART GET (R125). -/
structure CartView where
  serial : Nat
  origin : Nat
  route : Option RouteKey
  capacity : Nat
  state : CartState
  notify : Bool
  unidentified : Nat
  count : Nat
  first : Nat
  entries : List Entry
  deriving DecidableEq, Repr

/-- The body of ROUTE GET (R141). -/
structure RouteView where
  state : RouteState
  door : Option Nat
  stay : Bool
  notifyAll : Bool
  loaded : Nat
  chutes : List Nat
  queued : Nat
  serials : List Nat
  atDoor : Option Nat
  deriving DecidableEq, Repr

/-- The body of DOOR GET (R141). -/
structure DoorView where
  berth : SlotId
  node : Nat
  nodeState : NodeState
  running : Level
  halts : HaltSet
  cart : Option Nat
  lastServed : Option Nat
  routes : List (Nat × RouteState)
  deriving DecidableEq, Repr

/-- The body of STRAY GET (R163); `routable` is the route the stray would take. -/
structure StrayView where
  position : Nat
  handle : Handle
  tag : Option Nat
  home : Option CabinKey
  reason : Option StrayReason
  entered : Option Nat
  aged : Bool
  reinduct : Bool
  hold : Bool
  pull : Option PullOrigin
  laps : Nat
  routable : Option RouteKey
  deriving DecidableEq, Repr

/-- The body of a response, before it is written as bytes. -/
inductive Body where
  | empty
  | handle (h : Handle)
  | bag (v : BagView)
  | cabin (v : CabinView)
  | sailing (v : Sailing)
  | limits (v : Limits)
  | badConfig (test : Nat) (object : Option (ObjectKind × Nat))
  | time (second : Nat) (op : OpState) (pos : WalkerPos) (mode : SweepMode) (walk : Option WalkKind)
  | loop (v : LoopView)
  | carrier (v : CarrierView)
  | trackingReset (missing disarmed : Nat)
  | chute (v : ChuteView)
  | cart (v : CartView)
  | route (v : RouteView)
  | door (v : DoorView)
  | halts (v : HaltSet)
  | stray (v : StrayView)
  | strayList (length : Nat) (v : Option StrayView)
  | notice (source : Option (Nat × Option Nat))
  deriving DecidableEq, Repr

/-- What a request's rule answers: a result code and a body. -/
structure Answer where
  result : Result
  body : Body
  deriving DecidableEq, Repr

/-- A response: the code and header of the request answered, and its answer (R174). -/
structure Response where
  code : Byte
  head : Head
  answer : Answer
  deriving DecidableEq, Repr

/-- The port state (R173): idle, WORKING on a request, or a response waiting. -/
inductive Port where
  | idle
  | working (r : Response)
  | waiting (r : Response)
  deriving DecidableEq, Repr

/-! ## The state -/

/-- The state of the block. `subTick`, `patrolPhase`, `freeCount` and `pending` are the model's own (logs 1 and 7). -/
structure State where
  opState : OpState
  hallSecond : Nat
  subTick : Nat
  patrolPhase : Nat
  limits : Limits
  port : Port
  discarded : Bool
  spiOut : List Byte
  store : Store
  link : Link
  loop : Loop
  chutes : Table Chute
  carts : Table Cart
  nextSerial : Nat
  routes : List Route
  doors : Table Door
  pen : Pen
  sweep : Sweep
  notices : NoticeUnit
  freeCount : Nat
  pending : List Instr
  deriving DecidableEq, Repr

/-- Why a step could stop with a fault: no rule of the manual stops the part, so there is no reason. -/
inductive Fault where
  deriving DecidableEq, Repr

/-- Why a step could be refused. -/
inductive Refusal where
  /-- Raised by exec alone, for a row of the table without a meaning yet; safe. No arm raises it now. -/
  | notModelled (mnemonic : String)
  deriving DecidableEq, Repr

/-! ## Reset (R175) -/

/-- Every counter 0. -/
def Counters.zero : Counters := ⟨0, 0, 0, 0, 0, 0⟩

/-- A FREE slot (R1). -/
def Sailing.reset : Sailing := ⟨.free, none, false, Counters.zero⟩

/-- The record store after reset (R1, R10, R20, R32). -/
def Store.reset : Store := ⟨Sailing.reset, Sailing.reset, [], [], [], []⟩

/-- An unconfigured node (R42). -/
def Node.reset : Node := ⟨none, [], .unheard, none, none, 0⟩

/-- The field link after reset (R42, R53, R56). DESIGN CHOICE: nothing on LINK_TX yet, safe (log 27); a frame partly received is
lost, the receiver holding no bytes, unsafe (log 47). -/
def Link.reset : Link := ⟨List.replicate 32 Node.reset, none, none, [], [], []⟩

/-- An EMPTY, unarmed carrier (R62). -/
def Carrier.reset : Carrier := ⟨.empty, none⟩

/-- The loop tracker after reset (R60, R62, R63). -/
def Loop.reset : Loop := ⟨List.replicate 64 Carrier.reset, 0, .anchoring, 0, 0, 0, false, [], []⟩

/-- An UNSET route (R126). -/
def Route.reset : Route := ⟨none, [], [], .unset, false, false, 0⟩

/-- The empty halt set. -/
def HaltSet.empty : HaltSet := ⟨false, false, false, false, false, false, false, false⟩

/-- The stray pen after reset (R154, R157). -/
def Pen.reset : Pen := ⟨96, [], [], false⟩

/-- The sweep unit after reset (R166). -/
def Sweep.reset : Sweep := ⟨⟨16383, 0⟩, .patrol, none⟩

/-- A source with an empty set, not enabled. -/
def Notice.reset (p : Priority) : Notice := ⟨[], false, p⟩

/-- The notice unit after reset, each priority its default (R179 and the table before it). -/
def NoticeUnit.reset : NoticeUnit :=
  ⟨[Notice.reset .high, Notice.reset .low, Notice.reset .low, Notice.reset .high, Notice.reset .high,
    Notice.reset .high, Notice.reset .high, Notice.reset .low, Notice.reset .low, Notice.reset .low,
    Notice.reset .low, Notice.reset .low, Notice.reset .low, Notice.reset .low, Notice.reset .low], false, false⟩

/-- The default limits (R176). -/
def Limits.reset : Limits := ⟨3, 16, 4, 3, 3, 5, 4, 30, 128⟩

/-- The block right after power-on or the reset pin (R175). DESIGN CHOICE: the model's own counters are 0 (logs 1 and 7). -/
def State.reset : State where
  opState := .setup
  hallSecond := 0
  subTick := 0
  patrolPhase := 0
  limits := Limits.reset
  port := .idle
  discarded := false
  spiOut := []
  store := Store.reset
  link := Link.reset
  loop := Loop.reset
  chutes := []
  carts := []
  nextSerial := 1
  routes := List.replicate 24 Route.reset
  doors := []
  pen := Pen.reset
  sweep := Sweep.reset
  notices := NoticeUnit.reset
  freeCount := 0
  pending := []

/-! ## Setters, one for each field -/

def State.setOpState (s : State) (v : OpState) : State := { s with opState := v }
def State.setHallSecond (s : State) (v : Nat) : State := { s with hallSecond := v }
def State.setSubTick (s : State) (v : Nat) : State := { s with subTick := v }
def State.setPatrolPhase (s : State) (v : Nat) : State := { s with patrolPhase := v }
def State.setLimits (s : State) (v : Limits) : State := { s with limits := v }
def State.setPort (s : State) (v : Port) : State := { s with port := v }
def State.setDiscarded (s : State) (v : Bool) : State := { s with discarded := v }
def State.setSpiOut (s : State) (v : List Byte) : State := { s with spiOut := v }
def State.setStore (s : State) (v : Store) : State := { s with store := v }
def State.setLink (s : State) (v : Link) : State := { s with link := v }
def State.setLoop (s : State) (v : Loop) : State := { s with loop := v }
def State.setChutes (s : State) (v : Table Chute) : State := { s with chutes := v }
def State.setCarts (s : State) (v : Table Cart) : State := { s with carts := v }
def State.setNextSerial (s : State) (v : Nat) : State := { s with nextSerial := v }
def State.setRoutes (s : State) (v : List Route) : State := { s with routes := v }
def State.setDoors (s : State) (v : Table Door) : State := { s with doors := v }
def State.setPen (s : State) (v : Pen) : State := { s with pen := v }
def State.setSweep (s : State) (v : Sweep) : State := { s with sweep := v }
def State.setNotices (s : State) (v : NoticeUnit) : State := { s with notices := v }
def State.setFreeCount (s : State) (v : Nat) : State := { s with freeCount := v }
def State.setPending (s : State) (v : List Instr) : State := { s with pending := v }

end Sys2Proof.Machine
end

