-- ==== Sys2Proof/Machine/Store.lean ====
section
/-! DEFINITION. The record store (01, 02): keys, counters, and the claims that create, move, tag, assign and retire bag records.
Each claim is applied whole or, on a stale handle, not at all (R34). -/

namespace Sys2Proof

/-- The number of a slot: 0 for berth A, 1 for berth B. -/
def SlotId.toNat : SlotId → Nat
  | .berthA => 0
  | .berthB => 1

/-- The slot of a number; no slot beyond 1 (R3). -/
def SlotId.ofNat? : Nat → Option SlotId
  | 0 => some .berthA
  | 1 => some .berthB
  | _ => none

/-- The other slot. -/
def SlotId.other : SlotId → SlotId
  | .berthA => .berthB
  | .berthB => .berthA

/-- A route's place among the 24 routes, also its notice subject: slot × 12 + route (R126). -/
def RouteKey.subject (k : RouteKey) : Nat := k.slot.toNat * 12 + k.route

/-- A cabin's key in the cabin table. -/
def CabinKey.code (k : CabinKey) : Nat := k.slot.toNat * 65536 + k.number

/-- The slot a cabin table key belongs to. -/
def slotOfCabinCode (n : Nat) : SlotId := if n < 65536 then .berthA else .berthB

/-- The cabin a cabin table key names. -/
def CabinKey.ofCode (n : Nat) : CabinKey := ⟨slotOfCabinCode n, n % 65536⟩

/-- The states counted in the hall counter (R1). -/
def BagState.inHall : BagState → Bool
  | .onLoop | .landing | .jammed | .inCart => true
  | _ => false

/-- Whether two states belong to the same sailing counter (R2). -/
def BagState.sameCounter (p q : BagState) : Bool := p == q || (p.inHall && q.inHall)

namespace Machine

/-! ## Capacities -/

/-- Records of the bag table (R20). -/
def bagRecords : Nat := 16384

/-- Records of the cabin pool (R10). -/
def cabinRecords : Nat := 6144

/-- The bag-table low mark (R31). -/
def bagLowMark : Nat := 64

/-! ## Cabins -/

/-- The status of a cabin, derived from its guest list (R12). -/
def Cabin.status (c : Cabin) : CabinStatus :=
  if c.guests.any (fun g => g.state == .boarded) then .sailing
  else if c.guests.any (fun g => g.state == .expected) then .pending
  else .void

/-- A cabin stands void while it is VOID with no forward target (R12). -/
def Cabin.standsVoid (c : Cabin) : Bool := c.status == .void && c.forward.isNone

/-! ## Counters (R2, R13) -/

/-- The counter of a state rises by 1. -/
def Counters.inc (c : Counters) : BagState → Counters
  | .registered => { c with registered := c.registered + 1 }
  | .onLoop | .landing | .jammed | .inCart => { c with hall := c.hall + 1 }
  | .stray => { c with stray := c.stray + 1 }
  | .missing => { c with missing := c.missing + 1 }
  | .aboard => { c with aboard := c.aboard + 1 }
  | .offload => { c with offload := c.offload + 1 }

/-- The counter of a state falls by 1. -/
def Counters.dec (c : Counters) : BagState → Counters
  | .registered => { c with registered := c.registered - 1 }
  | .onLoop | .landing | .jammed | .inCart => { c with hall := c.hall - 1 }
  | .stray => { c with stray := c.stray - 1 }
  | .missing => { c with missing := c.missing - 1 }
  | .aboard => { c with aboard := c.aboard - 1 }
  | .offload => { c with offload := c.offload - 1 }

/-- A bag leaves one state for another: the counters move unless both states share one (R2). -/
def Counters.move (c : Counters) (src dst : BagState) : Counters :=
  if src.sameCounter dst then c else (c.dec src).inc dst

/-- The counter that counts a state. -/
def Counters.of (c : Counters) : BagState → Nat
  | .registered => c.registered
  | .onLoop | .landing | .jammed | .inCart => c.hall
  | .stray => c.stray
  | .missing => c.missing
  | .aboard => c.aboard
  | .offload => c.offload

/-! ## Reading the store -/

/-- The record of a slot. -/
def Store.slot (t : Store) : SlotId → Sailing
  | .berthA => t.slotA
  | .berthB => t.slotB

/-- The store with a slot's record replaced. -/
def Store.putSlot (t : Store) (b : SlotId) (v : Sailing) : Store :=
  match b with
  | .berthA => { t with slotA := v }
  | .berthB => { t with slotB := v }

/-- The store with a slot's counters changed. -/
def Store.count (t : Store) (b : SlotId) (f : Counters → Counters) : Store :=
  t.putSlot b { t.slot b with counts := f (t.slot b).counts }

/-- The cabin of a key. -/
def Store.cabin? (t : Store) (k : CabinKey) : Option Cabin := t.cabins.get? k.code

/-- The store with a cabin's record changed. -/
def Store.modifyCabin (t : Store) (k : CabinKey) (f : Cabin → Cabin) : Store :=
  { t with cabins := t.cabins.modify k.code f }

/-- The generation of an index, live or free (R20). -/
def Store.gen (t : Store) (i : Nat) : BitVec 8 := (t.gens.get? i).getD 0

/-- The store with an index's generation set; the table lists no generation 0. -/
def Store.setGen (t : Store) (i : Nat) (g : BitVec 8) : Store :=
  { t with gens := if g = 0 then t.gens.erase i else t.gens.put i g }

/-- The live record a handle names: none for a stale handle or a free record (R20, R34). -/
def Store.bag? (t : Store) (h : Handle) : Option Bag :=
  if t.gen h.index = h.gen then t.bags.get? h.index else none

/-- The number of free bag records (R20). -/
def Store.freeBags (t : Store) : Nat := bagRecords - t.bags.length

/-- The bag-table low condition (R31). -/
def Store.low (t : Store) : Bool := decide (t.freeBags < bagLowMark)

/-- The governing cabin of a bag: its cabin's forward target if it has one, else its cabin (R17). -/
def Store.governingKey (t : Store) (b : Bag) : Option CabinKey := do
  let k ← b.home
  let c ← t.cabin? k
  match c.forward with
  | none => some k
  | some n => some ⟨k.slot, n⟩

/-- The record of the governing cabin (R17). -/
def Store.governing (t : Store) (b : Bag) : Option Cabin := do
  t.cabin? (← t.governingKey b)

/-- Whether the bag's governing cabin is VOID. -/
def Store.governedVoid (t : Store) (b : Bag) : Bool :=
  match t.governing b with
  | some c => c.status == .void
  | none => false

/-- Whether the bag's governing cabin stands VOID (R95 line 5). -/
def Store.governedStandsVoid (t : Store) (b : Bag) : Bool :=
  match t.governing b with
  | some c => c.standsVoid
  | none => false

/-- The route of a bag: its slot and the deck route of its governing cabin (R95 line 7, R135). -/
def Store.bagRoute (t : Store) (b : Bag) : Option RouteKey := do
  let k ← b.home
  let c ← t.governing b
  some ⟨k.slot, c.route⟩

/-- The answers of a tag lookup (R33). -/
inductive Lookup where
  | unknown
  | closedTag
  | found (h : Handle) (b : Bag)
  deriving DecidableEq, Repr

/-- A tag lookup (R33). -/
def Store.lookup (t : Store) (tag : Nat) : Lookup :=
  match t.tagMap.get? tag with
  | none => .unknown
  | some h =>
    match t.bag? h with
    | none => .unknown
    | some b =>
      match b.home with
      | some k => if (t.slot k.slot).state = .closing then .closedTag else .found h b
      | none => .found h b

/-! ## Claims on bag records -/

/-- The store with the live record of a handle changed; a stale handle changes nothing (R34). -/
def Store.modifyBag (t : Store) (h : Handle) (f : Bag → Bag) : Store :=
  match t.bag? h with
  | none => t
  | some b => { t with bags := t.bags.put h.index (f b) }

/-- The aboard count of a cabin as a bag naming it changes state (R13). -/
def Cabin.aboardMove (c : Cabin) (src dst : BagState) : Cabin :=
  if src == dst then c
  else if dst == .aboard then { c with aboard := c.aboard + 1 }
  else if src == .aboard then { c with aboard := c.aboard - 1 }
  else c

/-- The counters of slot and cabin as a bag changes state (R2, R13); an unassigned bag is counted nowhere. -/
def Store.countMove (t : Store) (home : Option CabinKey) (src dst : BagState) : Store :=
  match home with
  | none => t
  | some k => (t.count k.slot (fun c => c.move src dst)).modifyCabin k (fun c => c.aboardMove src dst)

/-- A bag's fields as it enters a state with a location: RECHECK is cleared on leaving ON_LOOP, REINDUCT and AGED on leaving
STRAY, and the entered time is set on entering STRAY and absent outside it (R25, R28). -/
def Bag.enter (b : Bag) (st : BagState) (loc : Option Location) (now : Nat) : Bag :=
  { b with
    state := st
    location := loc
    recheck := b.recheck && !(b.state == .onLoop && st != .onLoop)
    reinduct := b.reinduct && !(b.state == .stray && st != .stray)
    aged := b.aged && !(b.state == .stray && st != .stray)
    entered := if st = .stray then (if b.state = .stray then b.entered else some now) else none }

/-- A bag enters a state, its counters with it (R2, R24). The holders are the caller's. -/
def Store.moveBag (t : Store) (h : Handle) (st : BagState) (loc : Option Location) (now : Nat) : Store :=
  match t.bag? h with
  | none => t
  | some b =>
    Store.countMove { t with bags := t.bags.put h.index (b.enter st loc now) } b.home b.state st

/-- A new bag record before the creating claim's own fields: laps 0, flags clear, reason and entered time absent (R21). -/
def Bag.blank (st : BagState) (loc : Option Location) : Bag :=
  ⟨none, none, st, loc, 0, none, false, false, false, false, none, none⟩

/-- The counters of slot and cabin as a record with a home is created or assigned (R2, R13). -/
def Store.countIn (t : Store) (home : Option CabinKey) (st : BagState) : Store :=
  match home with
  | none => t
  | some k =>
    (t.count k.slot (fun c => c.inc st)).modifyCabin k
      (fun c => { c with liveBags := c.liveBags + 1, aboard := if st = .aboard then c.aboard + 1 else c.aboard })

/-- The counters of slot and cabin as a record with a home retires or is assigned away (R2, R13, R30). -/
def Store.countOut (t : Store) (home : Option CabinKey) (st : BagState) : Store :=
  match home with
  | none => t
  | some k =>
    (t.count k.slot (fun c => c.dec st)).modifyCabin k
      (fun c => { c with liveBags := c.liveBags - 1, aboard := if st = .aboard then c.aboard - 1 else c.aboard })

/-- The tag map with an entry for a record's tag, if it has one (R32). -/
def Store.mapTag (t : Store) (tag : Option Nat) (h : Handle) : Store :=
  match tag with
  | none => t
  | some n => { t with tagMap := t.tagMap.put n h }

/-- A bag is created at the lowest free index with that index's generation, or the creation fails (R21). -/
def Store.create (t : Store) (b : Bag) : Option (Handle × Store) :=
  if t.bags.length < bagRecords then
    let i := t.bags.lowestFree 0
    let h : Handle := ⟨i, t.gen i⟩
    some (h, (Store.mapTag { t with bags := t.bags.put i b } b.tag h).countIn b.home b.state)
  else none

/-- A record is given a tag, with its tag map entry (R32, R75, R159). -/
def Store.giveTag (t : Store) (h : Handle) (tag : Nat) : Store :=
  (t.modifyBag h (fun b => { b with tag := some tag })).mapTag (some tag) h

/-- The sailing counters as a bag of one state is assigned from one home to a slot: they move only where the slot changes
(R38). -/
def Store.countAssign (t : Store) (old : Option CabinKey) (b : SlotId) (st : BagState) : Store :=
  match old with
  | none => t.count b (fun c => c.inc st)
  | some o => if o.slot = b then t else (t.count o.slot (fun c => c.dec st)).count b (fun c => c.inc st)

/-- A bag is assigned to a slot and cabin, its counters with it (R38). -/
def Store.assign (t : Store) (h : Handle) (k : CabinKey) : Store :=
  match t.bag? h with
  | none => t
  | some b =>
    let t1 := (t.modifyBag h (fun b => { b with home := some k })).countAssign b.home k.slot b.state
    let t2 := match b.home with
      | none => t1
      | some o => t1.modifyCabin o (fun c => { c with liveBags := c.liveBags - 1 })
    t2.modifyCabin k (fun c => { c with liveBags := c.liveBags + 1 })

/-- A record retires: its tag leaves the map, its counters fall, its generation advances and it is free (R30).
The holder is the caller's. -/
def Store.retire (t : Store) (h : Handle) : Store :=
  match t.bag? h with
  | none => t
  | some b =>
    let t1 : Store := match b.tag with
      | none => t
      | some n => { t with tagMap := t.tagMap.erase n }
    let t2 := t1.countOut b.home b.state
    Store.setGen { t2 with bags := t2.bags.erase h.index } h.index (t.gen h.index + 1)

end Machine

end Sys2Proof
end

