-- ==== Sys2Proof/Machine/Operands.lean ====
section
/-! DEFINITION. The operands of requests and frames: key forms, header fields, code bytes, and the ordered tests by which a
request is refused (13 Formats, R3, R35, R172). -/

namespace Sys2Proof

/-! ## Header and key forms (13) -/

/-- The notify flag, bit 7 of byte 1. -/
def Head.notify (h : Head) : Bool := h.flags.getLsbD 7

/-- The body length, bits 5 to 0 of byte 1. -/
def Head.bodyLen (h : Head) : Nat := h.flags.toNat % 64

/-- The number of an object key: 0, 0, number in two bytes. -/
def Key.number (k : Key) : Nat := be16 k.b4 k.b5

/-- The slot of a cabin key or a route key. -/
def Key.slot? (k : Key) : Option SlotId := SlotId.ofNat? k.b2.toNat

/-- The cabin number of a cabin key: slot, 0, cabin number in two bytes. -/
def Key.cabin (k : Key) : Nat := be16 k.b4 k.b5

/-- The route number of a route key: slot, route, 0, 0. -/
def Key.route (k : Key) : Nat := k.b3.toNat

/-- The handle of a handle key: index in two bytes, generation, 0. -/
def Key.handle (k : Key) : Handle := ⟨be16 k.b2 k.b3, k.b4⟩

/-- The tag id of a tag key: four bytes. -/
def Key.tag (k : Key) : Nat := be32 k.b2 k.b3 k.b4 k.b5

/-- The key of an object. -/
def Key.ofNumber (n : Nat) : Key := ⟨0, 0, BitVec.ofNat 8 (n / 256), BitVec.ofNat 8 n⟩

/-- The key of a cabin. -/
def Key.ofCabin (b : SlotId) (n : Nat) : Key :=
  ⟨BitVec.ofNat 8 b.toNat, 0, BitVec.ofNat 8 (n / 256), BitVec.ofNat 8 n⟩

/-- The key of a route. -/
def Key.ofRoute (k : RouteKey) : Key := ⟨BitVec.ofNat 8 k.slot.toNat, BitVec.ofNat 8 k.route, 0, 0⟩

/-- The key of a bag's handle. -/
def Key.ofHandle (h : Handle) : Key := ⟨BitVec.ofNat 8 (h.index / 256), BitVec.ofNat 8 h.index, h.gen, 0⟩

/-- The key forms of 13, with the two ways a route key is used: a sailing request's route byte is unused. -/
inductive KeyForm where
  | handle | tag | cabin | sailing | route | object | noKey
  deriving DecidableEq, Repr

/-- A key with its form's unused bytes 0 (R182). -/
def KeyForm.clear (f : KeyForm) (k : Key) : Key :=
  match f with
  | .handle => { k with b5 := 0 }
  | .tag => k
  | .cabin => { k with b3 := 0 }
  | .sailing => { k with b3 := 0, b4 := 0, b5 := 0 }
  | .route => { k with b4 := 0, b5 := 0 }
  | .object => { k with b2 := 0, b3 := 0 }
  | .noKey => ⟨0, 0, 0, 0⟩

/-- The form of a request's key, by its code (13 Key forms). BAG GET's widest form is the tag's. DESIGN CHOICE: a code that
names no request has no form of its own, and every byte of its key counts as used; safe (log 41). DEDUCED: CONFIG INDUCTION and
CONFIG ARCH have the object form, though its row does not name points and arches; unsafe (log 49). -/
def keyForm (code : Nat) : KeyForm :=
  if code = 0x21 then .tag
  else if code = 0x3F ∨ code = 0x4A ∨ 0x22 ≤ code ∧ code ≤ 0x28 then .handle
  else if code = 0x20 ∨ 0x18 ≤ code ∧ code ≤ 0x1C then .cabin
  else if 0x10 ≤ code ∧ code ≤ 0x12 then .sailing
  else if code = 0x13 ∨ 0x40 ≤ code ∧ code ≤ 0x43 then .route
  else if code = 0x31 ∨ code = 0x49 ∨ code = 0x52 ∨ code = 0x44 ∨ code = 0x45 ∨ 0x02 ≤ code ∧ code ≤ 0x06 ∨
      0x38 ≤ code ∧ code ≤ 0x3E then .object
  else if code = 0x01 ∨ 0x07 ≤ code ∧ code ≤ 0x0C ∨ code = 0x30 ∨ code = 0x32 ∨ code = 0x33 ∨ code = 0x48 ∨
      code = 0x50 ∨ code = 0x51 then .noKey
  else .tag

/-- The key form of a BAG GET as it is read: the body's first byte gives it, and bytes beyond the body are ignored (R172). DESIGN
CHOICE: a body without that byte, or that ended before it, has the handle form; safe (log 45). -/
def Head.bagForm (h : Head) (form : Option BagKeyForm) : Option BagKeyForm :=
  if h.bodyLen = 0 ∨ h.came < 7 then some .handle else form

/-- The header of BAG GET as it is read: a handle key's last byte is unused, a tag key's is not (13 Key forms, R182). DESIGN CHOICE:
a form byte outside its table leaves the key as it came; safe (log 45). -/
def Head.forBagGet (h : Head) (form : Option BagKeyForm) : Head :=
  match h.bagForm form with
  | some .handle => { h with key := KeyForm.handle.clear h.key }
  | _ => h

/-- A whole header with a key and a body length, the notify flag clear and every byte sent. -/
def Head.whole (k : Key) (len : Nat) : Head := ⟨BitVec.ofNat 8 len, k, 6 + len⟩

/-! ## Payload bytes of frames (R183) -/

/-- The greatest tag id. -/
def maxTag : Nat := 999999999

/-- Whether a number is a tag id. -/
def tagInRange (n : Nat) : Bool := decide (1 ≤ n) && decide (n ≤ maxTag)

/-- A read result with its tag field: none for a byte above 2, or for ONE with a tag that is no tag id (R183). -/
def ReadResult.ofBytes (read : Byte) (tag : BitVec 32) : Option ReadResult :=
  if read.toNat = 0 then some .noTag
  else if read.toNat = 1 then (if tagInRange tag.toNat then some (.one tag.toNat) else none)
  else if read.toNat = 2 then some .several
  else none

/-- An indication of one bit in a byte: none for a byte above 1 (R183). DESIGN CHOICE: an on or off field of a request's body is
read so too, 1 as on and 0 as off, a byte above 1 refused BAD_FIELD; unsafe (log 40). -/
def bitOfByte (b : Byte) : Option Bool :=
  if b.toNat = 0 then some false else if b.toNat = 1 then some true else none

/-- A cart position byte: 0 X, 1 Y, none above 1 (R183). -/
def PosName.ofByte (b : Byte) : Option PosName :=
  (bitOfByte b).map (fun y => if y then .y else .x)

namespace Machine

/-! ## Answers and ordered tests -/

/-- The answer of a refused request: its code and an empty body (R3, R35). -/
def Answer.refuse (r : Result) : Answer := ⟨r, .empty⟩

/-- The answer DONE with a body. -/
def Answer.done (b : Body) : Answer := ⟨.done, b⟩

/-- The code of the first test that fails, in the order given. -/
def firstFailure : List (Bool × Result) → Option Result
  | [] => none
  | (ok, r) :: rest => if ok then firstFailure rest else some r

/-- A request's tests in order, then its effect: the first test that fails refuses the request and changes nothing. -/
def guarded (tests : List (Bool × Result)) (s : State) (act : State × Answer) : State × Answer :=
  match firstFailure tests with
  | some r => (s, Answer.refuse r)
  | none => act

/-- A range test. -/
def inRange (lo n hi : Nat) : Bool := decide (lo ≤ n) && decide (n ≤ hi)

/-- The state of a slot. -/
def State.slotState (s : State) (b : SlotId) : SlotState := (s.store.slot b).state

/-- The tests of R3 after the range test, for a request that a FREE slot refuses. -/
def sailingTests (s : State) (b : SlotId) : List (Bool × Result) :=
  [(s.opState != .setup, .wrongState), (s.slotState b != .closing, .sailingBusy), (s.slotState b != .free, .wrongState)]

/-- The tests of R35 for a bag named by its handle, `fields` telling whether every other field is in range. -/
def bagTests (s : State) (h : Handle) (fields : Bool) : List (Bool × Result) :=
  [(decide (h.index < bagRecords) && fields, .badField),
   (s.opState != .setup, .wrongState),
   (s.store.gen h.index == h.gen, .staleHandle),
   ((s.store.bags.get? h.index).isSome, .notFound),
   (match s.store.bag? h with
    | some b => (match b.home with
      | some k => s.slotState k.slot != .closing
      | none => true)
    | none => true, .sailingBusy)]

end Machine

end Sys2Proof
end

