-- ==== Sys2Proof/Machine/Ops.lean ====
section
/-! DEFINITION. Shared operations: bag claims, notices, the transmit queue and levels, induction holds, the tracking state,
the carrier table and the stray pen. -/

namespace Sys2Proof

/-- The number of a notice source (12 Notices). -/
def Source.number : Source → Nat
  | .loopFailed => 0
  | .loopLost => 1
  | .loopRegained => 2
  | .capacity => 3
  | .nodeDown => 4
  | .doorStopped => 5
  | .chuteFault => 6
  | .chuteBlocked => 7
  | .jam => 8
  | .cartDone => 9
  | .routeIdle => 10
  | .offload => 11
  | .pullDone => 12
  | .strayAged => 13
  | .walkDone => 14

namespace Machine

/-! ## Claims on bag records, lifted to the state -/

/-- The live record a handle names. -/
def State.bag? (s : State) (h : Handle) : Option Bag := s.store.bag? h

/-- The live record of a handle is changed; a stale handle changes nothing (R34). -/
def State.modifyBag (s : State) (h : Handle) (f : Bag → Bag) : State := s.setStore (s.store.modifyBag h f)

/-- A bag enters a state with a location, its counters with it (R2, R24, R25). -/
def State.moveBag (s : State) (h : Handle) (st : BagState) (loc : Option Location) : State :=
  s.setStore (s.store.moveBag h st loc s.hallSecond)

/-- A bag becomes MISSING: no location, no holder (R24). The caller takes it out of its holder. -/
def State.makeMissing (s : State) (h : Handle) : State := s.moveBag h .missing none

/-! ## Notices (R179) -/

/-- A subject put in its place in a rising list without repeats. -/
def insertSubject (n : Nat) : List Nat → List Nat
  | [] => [n]
  | m :: t => if n < m then n :: m :: t else if n = m then m :: t else m :: insertSubject n t

/-- Whether an enabled source is pending. -/
def NoticeUnit.anyPending (u : NoticeUnit) : Bool :=
  u.sources.any (fun n => n.enabled && !n.subjects.isEmpty)

/-- NOTICE_N driven afresh: low while the global enable is on and an enabled source is pending (R179). -/
def NoticeUnit.drive (u : NoticeUnit) : NoticeUnit := { u with pinLow := u.global && u.anyPending }

/-- The notice unit with one source's set changed and NOTICE_N driven afresh. -/
def NoticeUnit.onSubjects (u : NoticeUnit) (src : Source) (f : List Nat → List Nat) : NoticeUnit :=
  NoticeUnit.drive { u with sources := u.sources.modify src.number (fun n => { n with subjects := f n.subjects }) }

/-- A subject is added to a source; one already in the set changes nothing (R179). -/
def State.raise (s : State) (src : Source) (n : Nat) : State :=
  s.setNotices (s.notices.onSubjects src (insertSubject n))

/-- Subjects are removed from a source. -/
def State.dropSubjects (s : State) (src : Source) (p : Nat → Bool) : State :=
  s.setNotices (s.notices.onSubjects src (fun l => l.filter (fun n => !p n)))

/-- The subjects of a source. -/
def State.subjects (s : State) (src : Source) : List Nat :=
  match s.notices.sources[src.number]? with
  | some n => n.subjects
  | none => []

/-! ## Nodes and outbound frames (R42, R43, R56 to R58) -/

/-- The record of a node, 1 to 32. -/
def State.node? (s : State) (n : Nat) : Option Node := if n = 0 then none else s.link.nodes[n - 1]?

/-- A node's record is changed. -/
def State.modifyNode (s : State) (n : Nat) (f : Node → Node) : State :=
  if n = 0 then s else s.setLink { s.link with nodes := s.link.nodes.modify (n - 1) f }

/-- Whether a node serves an object by the binding of CONFIG NODE (R43); a LOOP or ENCODE node serves its one object. -/
def Node.serves (n : Node) (r : Role) (object : Nat) : Bool :=
  n.role == some r && (r == .loop || r == .encode || n.objects.contains object)

/-- The number of the first node of a list, counted from `i`, that meets a condition. -/
def findNode (p : Node → Bool) : List Node → Nat → Option Nat
  | [], _ => none
  | n :: t, i => if p n then some i else findNode p t (i + 1)

/-- The node that serves an object (R43). -/
def State.servingNode (s : State) (r : Role) (object : Nat) : Option Nat :=
  findNode (fun n => n.serves r object) s.link.nodes 1

/-- Whether a node is LIVE. -/
def State.nodeLive (s : State) (n : Nat) : Bool :=
  match s.node? n with
  | some x => x.state == .live
  | none => false

/-- Whether two payloads are levels for one object (R56). -/
def OutPayload.sameLevel : OutPayload → OutPayload → Bool
  | .induct i _, .induct j _ => i == j
  | .door i _, .door j _ => i == j
  | _, _ => false

/-- The capacity of the transmit queue (R56). -/
def txCapacity : Nat := 64

/-- A frame is made for the node that serves an object: a waiting level frame for the object takes the new level; else the
frame joins the queue with the node's outbound sequence, or, with the queue full, is not sent (R56). DESIGN CHOICE: a waiting
frame keeps its node and sequence, also where CONFIG NODE has since bound the object to another node; unsafe (log 34). -/
def State.send (s : State) (r : Role) (object : Nat) (p : OutPayload) : State :=
  match s.servingNode r object with
  | none => s
  | some n =>
    if s.link.txQueue.any (fun f => p.sameLevel f.payload) then
      s.setLink { s.link with
        txQueue := s.link.txQueue.map (fun f => if p.sameLevel f.payload then { f with payload := p } else f) }
    else if s.link.txQueue.length < txCapacity then
      let seq := match s.node? n with
        | some x => x.outSeq
        | none => 0
      let s1 := s.modifyNode n (fun x => { x with outSeq := x.outSeq + 1 })
      s1.setLink { s1.link with txQueue := s1.link.txQueue ++ [⟨n, seq, s.link.stampRef.getD 0, p⟩] }
    else s

/-- A level frame for an induction point (R58). -/
def State.sendInduct (s : State) (point : Nat) (go : Level) : State := s.send .induct point (.induct point go)

/-- A level frame for a door (R58). -/
def State.sendDoor (s : State) (door : Nat) (run : Level) : State := s.send .door door (.door door run)

/-! ## Induction holds (R77, R78) -/

/-- A set of hold causes is empty. -/
def HoldSet.isEmpty (c : HoldSet) : Bool := !c.tracking && !c.pen && !c.table && !c.state && !c.node

/-- The set with a cause present or absent. -/
def HoldSet.put (c : HoldSet) (x : HoldCause) (v : Bool) : HoldSet :=
  match x with
  | .tracking => { c with tracking := v }
  | .pen => { c with pen := v }
  | .table => { c with table := v }
  | .state => { c with state := v }
  | .node => { c with node := v }

/-- Whether a cause is in the set. -/
def HoldSet.has (c : HoldSet) : HoldCause → Bool
  | .tracking => c.tracking
  | .pen => c.pen
  | .table => c.table
  | .state => c.state
  | .node => c.node

/-- A point's hold causes change; its level is GO while the set is empty, and a change of level is sent (R58, R77). -/
def State.onCauses (s : State) (i : Nat) (f : HoldSet → HoldSet) : State :=
  match s.loop.points.get? i with
  | none => s
  | some p =>
    let go := (f p.causes).isEmpty
    let s1 := s.setLoop { s.loop with points := s.loop.points.put i { p with causes := f p.causes, go := go } }
    if go = p.go then s1 else s1.sendInduct i go

/-- A hold cause is added to or removed from one point. -/
def State.putCause (s : State) (i : Nat) (x : HoldCause) (v : Bool) : State := s.onCauses i (fun c => c.put x v)

/-- A hold cause is added to or removed from each of some points in turn. -/
def State.putCauses (s : State) (x : HoldCause) (v : Bool) : List Nat → State
  | [] => s
  | i :: t => (s.putCause i x v).putCauses x v t

/-- A hold cause is added to or removed from every configured point, in rising point order (log 12). -/
def State.putCauseAll (s : State) (x : HoldCause) (v : Bool) : State :=
  s.putCauses x v (s.loop.points.map (·.1))

/-! ## The bag-table low condition (R31) -/

/-- A bag is created; a creation that brings the free count below the low mark declares the low condition (R21, R31). -/
def State.createBag (s : State) (b : Bag) : Option (Handle × State) :=
  match s.store.create b with
  | none => none
  | some (h, t) =>
    let s1 := s.setStore t
    some (h, if !s.store.low && t.low then (s1.raise .capacity 0).putCauseAll .table true else s1)

/-- A record retires; a retirement that brings the free count back to the low mark ends the low condition (R30, R31). -/
def State.retireRecord (s : State) (h : Handle) : State :=
  let t := s.store.retire h
  let s1 := s.setStore t
  if s.store.low && !t.low then s1.putCauseAll .table false else s1

/-! ## The tracking state (R81 to R86) -/

/-- Tracking becomes ANCHORING with both runs 0 and the home mark clear (R63, R81). -/
def Loop.anchor (l : Loop) : Loop :=
  { l with track := .anchoring, confirmRun := 0, mismatchRun := 0, homeMark := false }

/-- The tracking state takes a cause of loss (R83). -/
def State.causeOfLoss (s : State) : State :=
  if s.loop.track = .tracking ∨ s.loop.track = .confirming then
    let n := s.loop.lossCount + 1
    let s1 :=
      if n < s.limits.loss then
        (s.setLoop { s.loop.anchor with lossCount := n }).raise .loopLost 0
      else
        (s.setLoop { s.loop.anchor with track := .failed, lossCount := s.limits.loss }).raise .loopFailed 0
    s1.putCauseAll .tracking true
  else s

/-- Tracking is regained (R86). -/
def State.regainTracking (s : State) : State :=
  ((s.setLoop { s.loop with track := .tracking, mismatchRun := 0, homeMark := false }).raise
    .loopRegained 0).putCauseAll .tracking false

/-- How an arch report stands to the tracker's belief (04 Arch observations). -/
inductive Classification where
  | confirm
  | mismatch
  | neutral
  deriving DecidableEq, Repr

/-- An arch classification acts on the runs (R85, R86). -/
def State.classify (s : State) (c : Classification) : State :=
  match s.loop.track, c with
  | .tracking, .confirm => s.setLoop { s.loop with mismatchRun := 0 }
  | .tracking, .mismatch =>
    let n := s.loop.mismatchRun + 1
    let s1 := s.setLoop { s.loop with mismatchRun := n }
    if s.limits.drift ≤ n then s1.causeOfLoss else s1
  | .confirming, .confirm =>
    let n := s.loop.confirmRun + 1
    let s1 := s.setLoop { s.loop with confirmRun := n }
    if s.limits.confirm ≤ n then s1.regainTracking else s1
  | .confirming, .mismatch => s.setLoop { s.loop with confirmRun := 0 }
  | _, _ => s

/-! ## The carrier table (R60, R62) -/

/-- The carrier of a number. -/
def State.carrier? (s : State) (c : Nat) : Option Carrier := s.loop.carriers[c]?

/-- A carrier's entry is changed. -/
def State.modifyCarrier (s : State) (c : Nat) (f : Carrier → Carrier) : State :=
  s.setLoop { s.loop with carriers := s.loop.carriers.modify c f }

/-- What a carrier holds is set; its armed chute stays (R62). -/
def State.setContent (s : State) (c : Nat) (x : Content) : State :=
  s.modifyCarrier c (fun e => { e with content := x })

/-- The number of carriers N. -/
def State.carrierCount (s : State) : Nat := s.loop.carriers.length

/-- A number modulo N. -/
def State.wrap (s : State) (n : Int) : Nat := (n % (s.carrierCount : Int)).toNat

/-- The carrier at a checkpoint of an offset (R60). -/
def State.carrierAt (s : State) (offset : Nat) : Nat := s.wrap ((s.loop.pos : Int) - (offset : Int))

/-! ## The stray pen (R154 to R157) -/

/-- The free count of the pen (R154). -/
def State.freePen (s : State) : Nat := s.pen.size - s.pen.positions.length

/-- The pen hold is tested against the free count (R157). -/
def State.testPenHold (s : State) : State :=
  if !s.pen.hold && decide (s.freePen < s.limits.penLow) then
    ((s.setPen { s.pen with hold := true }).putCauseAll .pen true).raise .capacity 1
  else if s.pen.hold && decide (s.limits.penLow + 2 ≤ s.freePen) then
    (s.setPen { s.pen with hold := false }).putCauseAll .pen false
  else s

/-- A position is freed: the bag leaves the stray list and the position's subject leaves STRAY_AGED (R156). -/
def State.freePosition (s : State) (h : Handle) (position : Nat) : State :=
  ((s.setPen { s.pen with
      positions := s.pen.positions.erase position, strays := s.pen.strays.filter (· != h) }).dropSubjects
    .strayAged (· == position)).testPenHold

/-- A bag takes a position and joins the tail of the stray list (R155); its record is the caller's. -/
def State.occupy (s : State) (h : Handle) (position : Nat) : State :=
  (s.setPen { s.pen with
    positions := s.pen.positions.put position h, strays := s.pen.strays ++ [h] }).testPenHold

/-- Intake: a bag, already out of its former holder, enters the pen at a position (R155). -/
def State.intake (s : State) (h : Handle) (position : Nat) : State :=
  (((s.moveBag h .stray (some (.pen position))).modifyBag h
    (fun b => { b with aged := false, reinduct := false })).occupy h position)

/-- A position is named and below P (R154). -/
def State.isPosition (s : State) (n : Nat) : Bool := decide (n < s.pen.size)

/-- A position is free. -/
def State.positionFree (s : State) (n : Nat) : Bool := !s.pen.positions.has n

end Machine

end Sys2Proof
end

