-- ==== Sys2Proof/Machine/DoorOps.lean ====
section
/-! DEFINITION. The door controller (08): the cart pool, routes and their queues, halts, belts, arbitration and cart
completion. -/

namespace Sys2Proof.Machine

/-! ## The cart pool (R114) -/

/-- The number of live carts the pool can hold (R114). -/
def cartRecords : Nat := 256

/-- The live cart of a serial. -/
def State.cart? (s : State) (n : Nat) : Option Cart := s.carts.get? n

/-- A live cart's record is changed. -/
def State.modifyCart (s : State) (n : Nat) (f : Cart → Cart) : State := s.setCarts (s.carts.modify n f)

/-- The places of a cart not taken by entries or unidentified items (R113). -/
def Cart.freePlaces (c : Cart) : Nat := c.capacity - (c.entries.length + c.unidentified)

/-- A cart is full when its entries and unidentified items fill its capacity (R118). -/
def Cart.full (c : Cart) : Bool := decide (c.capacity ≤ c.entries.length + c.unidentified)

/-- A cart is empty when it holds neither entries nor unidentified items (R116). -/
def Cart.isEmpty (c : Cart) : Bool := c.entries.isEmpty && decide (c.unidentified = 0)

/-- A cart at the door completes when every entry is marked and nothing is unidentified (R140). -/
def Cart.done (c : Cart) : Bool := c.entries.all (·.aboard) && decide (c.unidentified = 0)

/-- A bag's entry leaves a cart's contents. -/
def State.dropEntry (s : State) (n : Nat) (h : Handle) : State :=
  s.modifyCart n (fun c => { c with entries := c.entries.filter (fun e => e.bag != h) })

/-- The bags of a retiring cart: a marked entry's bag loses its location (R140); an unmarked entry's bag becomes MISSING
(log 14). -/
def State.leaveCart (s : State) : List Entry → State
  | [] => s
  | e :: t =>
    (if e.aboard then s.modifyBag e.bag (fun b => { b with location := none }) else s.makeMissing e.bag).leaveCart t

/-- A cart retires: its record returns to the pool (R114). -/
def State.retireCart (s : State) (n : Nat) : State :=
  match s.cart? n with
  | none => s
  | some c => (s.leaveCart c.entries).setCarts (s.carts.erase n)

/-! ## Routes (R126, R127, R131) -/

/-- The record of a route. -/
def State.route? (s : State) (k : RouteKey) : Option Route := s.routes[k.subject]?

/-- A route's record is changed. -/
def State.modifyRoute (s : State) (k : RouteKey) (f : Route → Route) : State :=
  s.setRoutes (s.routes.modify k.subject f)

/-- The state of a route. -/
def State.routeState (s : State) (k : RouteKey) : RouteState :=
  match s.route? k with
  | some r => r.state
  | none => .unset

/-- Whether a live cart's route is a given one. -/
def State.cartOnRoute (s : State) (n : Nat) (k : RouteKey) : Bool :=
  match s.cart? n with
  | some c => c.route == some k
  | none => false

/-- The cart of a route that stands at a door (R126). -/
def State.routeCart (s : State) (k : RouteKey) : Option Nat :=
  s.doors.findSome? (fun e => e.2.cart.filter (fun n => s.cartOnRoute n k))

/-- A LOADING route with an empty queue, no stay option and no cart at the door becomes IDLE (R131). -/
def State.testIdle (s : State) (k : RouteKey) : State :=
  match s.route? k with
  | none => s
  | some r =>
    if r.state == .loading && r.queue.isEmpty && !r.stay && (s.routeCart k).isNone then
      (s.modifyRoute k (fun r => { r with state := .idle })).raise .routeIdle k.subject
    else s

/-- CART_DONE for a cart that completes or retires while queued, where its own flag or its route's asks for it (R140). -/
def State.tellCartDone (s : State) (c : Cart) : State :=
  match c.route with
  | none => s
  | some k =>
    match s.route? k with
    | none => s
    | some r => if c.notify || r.notifyAll then s.raise .cartDone k.subject else s

/-- A QUEUED cart retires: it leaves its queue, and its route is tested for IDLE (R127). -/
def State.retireQueued (s : State) (n : Nat) : State :=
  match s.cart? n with
  | none => s
  | some c =>
    match c.route with
    | none => s.retireCart n
    | some k =>
      ((s.modifyRoute k (fun r => { r with queue := r.queue.filter (· != n) })).retireCart n |>.tellCartDone c).testIdle k

/-! ## Doors (R132 to R134, R137) -/

/-- The record of a configured door. -/
def State.door? (s : State) (d : Nat) : Option Door := s.doors.get? d

/-- A door's record is changed. -/
def State.modifyDoor (s : State) (d : Nat) (f : Door → Door) : State := s.setDoors (s.doors.modify d f)

/-- Whether a halt set is empty. -/
def HaltSet.isEmpty (h : HaltSet) : Bool := h == HaltSet.empty

/-- The halt set with a reason present or absent. -/
def HaltSet.put (h : HaltSet) (x : HaltReason) (v : Bool) : HaltSet :=
  match x with
  | .noRead => { h with noRead := v }
  | .unknownTag => { h with unknownTag := v }
  | .wrongDoor => { h with wrongDoor := v }
  | .pulledBag => { h with pulledBag := v }
  | .notBoarded => { h with notBoarded := v }
  | .misplaced => { h with misplaced := v }
  | .unidentified => { h with unidentified := v }
  | .node => { h with node := v }

/-- Whether a door serves a route: a route of its slot whose door field names it (R132). -/
def State.doorServes (s : State) (d : Nat) (k : RouteKey) : Bool :=
  match s.door? d, s.route? k with
  | some x, some r => k.slot == x.berth && r.door == some d
  | _, _ => false

/-- Whether the cart at a door is of a LOADING route. -/
def State.doorLoading (s : State) (x : Door) : Bool :=
  match x.cart with
  | none => false
  | some n =>
    match s.cart? n with
    | none => false
    | some c =>
      match c.route with
      | none => false
      | some k => s.routeState k == .loading

/-- The five conditions of a running belt (R134). -/
def State.beltRuns (s : State) (x : Door) : Bool :=
  s.doorLoading x && x.halts.isEmpty && s.nodeLive x.node && s.opState == .run

/-- A door's belt is set by its conditions, and a change is sent (R134, R58). -/
def State.setBelt (s : State) (d : Nat) : State :=
  match s.door? d with
  | none => s
  | some x =>
    let v := s.beltRuns x
    if v = x.running then s else (s.modifyDoor d (fun x => { x with running := v })).sendDoor d v

/-- The belts of some doors are set in turn. -/
def State.setBeltsOf (s : State) : List Nat → State
  | [] => s
  | d :: t => (s.setBelt d).setBeltsOf t

/-- Every door's belt is set, in rising door order. -/
def State.setBelts (s : State) : State := s.setBeltsOf (s.doors.map (·.1))

/-- A halt reason is added to a configured door, with its notice (R137). -/
def State.addHalt (s : State) (d : Nat) (x : HaltReason) : State :=
  match s.door? d with
  | none => s
  | some _ => ((s.modifyDoor d (fun y => { y with halts := y.halts.put x true })).raise .doorStopped d).setBelt d

/-- A halt reason is removed from a door (R49, R137). -/
def State.dropHalt (s : State) (d : Nat) (x : HaltReason) : State :=
  (s.modifyDoor d (fun y => { y with halts := y.halts.put x false })).setBelt d

/-- The routes of a slot in arbitration order, from the one after the last-served route and wrapping from 11 to 0 (R133). -/
def arbitrationOrder (b : SlotId) (last : Option Nat) : List RouteKey :=
  let first := match last with
    | none => 0
    | some r => r + 1
  (List.range 12).map (fun i => ⟨b, (first + i) % 12⟩)

/-- Whether a route is LOADING, served by the door and has a queue (R133). -/
def State.offers (s : State) (d : Nat) (k : RouteKey) : Bool :=
  s.doorServes d k && s.routeState k == .loading &&
    (match s.route? k with
     | some r => !r.queue.isEmpty
     | none => false)

/-- The route that wins the arbitration of a door, if one does (R133). -/
def State.winner (s : State) (d : Nat) (x : Door) : Option RouteKey :=
  (arbitrationOrder x.berth x.lastServed).find? (s.offers d)

/-- The head cart of the winning route comes to the door; unidentified items in it halt the door (R133). -/
def State.takeToDoor (s : State) (d : Nat) (k : RouteKey) : State :=
  match s.route? k with
  | none => s
  | some r =>
    match r.queue with
    | [] => s
    | n :: rest =>
      let s1 := ((s.modifyRoute k (fun r => { r with queue := rest })).modifyCart n
        (fun c => { c with state := .atDoor })).modifyDoor d
        (fun x => { x with cart := some n, lastServed := some k.route })
      match s1.cart? n with
      | some c => if c.unidentified = 0 then s1 else s1.addHalt d .unidentified
      | none => s1

/-- The cart at a door completes and retires; its route is then tested for IDLE (R140). -/
def State.completeCart (s : State) (d n : Nat) (c : Cart) : State :=
  let s1 := ((s.retireCart n).modifyDoor d (fun x => { x with cart := none })).tellCartDone c
  match c.route with
  | none => s1
  | some k => s1.testIdle k

/-- One turn of a door's completions and arbitrations: none when neither is due (R133, R140). -/
def State.doorTurn (s : State) (d : Nat) : Option State :=
  match s.door? d with
  | none => none
  | some x =>
    match x.cart with
    | some n =>
      match s.cart? n with
      | none => none
      | some c => if c.done then some (s.completeCart d n c) else none
    | none => (s.winner d x).map (s.takeToDoor d)

/-- Turns of a door until none is due, then its belt. -/
def State.doorTurns (s : State) (d : Nat) : Nat → State
  | 0 => s.setBelt d
  | fuel + 1 =>
    match s.doorTurn d with
    | none => s.setBelt d
    | some t => t.doorTurns d fuel

/-- A door completes and arbitrates as far as its conditions go, then its belt is set (R133, R134, R140). A completion takes
a live cart away and an arbitration a queued one, so twice the live carts and one bound the turns. -/
def State.settleDoor (s : State) (d : Nat) : State := s.doorTurns d (2 * s.carts.length + 1)

/-- The door at which a cart stands. -/
def State.doorOfCart (s : State) (n : Nat) : Option Nat :=
  (s.doors.find? (fun e => e.2.cart == some n)).map (·.1)

/-- A cart that lost an entry or its unidentified items: queued and empty it retires; at a door it is tested for completion
(R127, R140). -/
def State.testCart (s : State) (n : Nat) : State :=
  match s.cart? n with
  | none => s
  | some c =>
    match c.state with
    | .queued => if c.isEmpty then s.retireQueued n else s
    | .atDoor =>
      match s.doorOfCart n with
      | some d => s.settleDoor d
      | none => s
    | _ => s

/-- The door of a route. -/
def State.routeDoor (s : State) (k : RouteKey) : Option Nat := (s.route? k).bind (·.door)

/-- The door of a route completes and arbitrates as far as its conditions go. -/
def State.settleRoute (s : State) (k : RouteKey) : State :=
  match s.routeDoor k with
  | some d => s.settleDoor d
  | none => s

/-- A cart departs its chute: it is queued on its route, or, having none, retires (R116, R127). -/
def State.departCart (s : State) (n : Nat) : State :=
  match s.cart? n with
  | none => s
  | some c =>
    match c.route with
    | none => s.retireCart n
    | some k =>
      ((s.modifyCart n (fun c => { c with state := .queued })).modifyRoute k
        (fun r => { r with queue := r.queue ++ [n] })).settleRoute k

end Sys2Proof.Machine
end

