-- ==== Sys2Proof/Machine/Flags.lean ====
section
/-! DEFINITION. The flags of bags and what reads them: the demand check, the destination rule, the reconcile visit, offload
and the pull state of cabins (06, 09, 10). -/

namespace Sys2Proof.Machine

/-! ## Demand check (R148) -/

/-- The bag with its PULL flag set or cleared by its governing cabin's status, an origin REQUEST kept (R148); a bag with no
governing cabin is passed by. -/
def Store.checked (t : Store) (b : Bag) : Bag :=
  match t.governing b with
  | none => b
  | some c =>
    if c.status = .void then { b with pull := some (b.pull.getD .cabin) }
    else if b.pull = some .cabin then { b with pull := none }
    else b

/-- A demand check of a bag (R148). -/
def State.demandCheck (s : State) (h : Handle) : State := s.modifyBag h s.store.checked

/-! ## The destination rule (R95, R158) -/

/-- What the destination rule gives (R95). -/
inductive Destination where
  | stray (reason : StrayReason)
  | route (key : RouteKey)
  | nowhere
  deriving DecidableEq, Repr

/-- Whether a bag's slot is CLOSING. -/
def State.bagClosing (s : State) (b : Bag) : Bool :=
  match b.home with
  | some k => s.slotState k.slot == .closing
  | none => false

/-- Lines 3 to 5 of the destination rule (R95). -/
def State.linesHeld (s : State) (b : Bag) : Option StrayReason :=
  if b.hold then some .held
  else if s.bagClosing b then some .wrongSailing
  else if b.pull.isSome || s.store.governedStandsVoid b then some .pulled
  else none

/-- Lines 7 and 8 of the destination rule (R95). -/
def State.linesRoute (s : State) (b : Bag) : Destination :=
  match s.store.bagRoute b with
  | some k => .route k
  | none => .stray (if b.tag.isSome then .unknownTag else .noRead)

/-- Lines 1 and 2 of the destination rule (R95). -/
def State.linesReason (s : State) (b : Bag) : Option StrayReason :=
  match b.reason with
  | some r => some r
  | none => if b.laps = s.limits.recirc then some .recircLimit else none

/-- The destination rule at a chute's decision point (R95). -/
def State.destination (s : State) (b : Bag) (kind : ChuteKind) : Destination :=
  match s.linesReason b with
  | some r => .stray r
  | none =>
    match s.linesHeld b with
    | some r => .stray r
    | none => if b.recheck && kind == .deck then .nowhere else s.linesRoute b

/-- Lines 3, 4, 5, 7 and 8 of the destination rule, for a bag in the pen (R158). -/
def State.penDestination (s : State) (b : Bag) : Destination :=
  match s.linesHeld b with
  | some r => .stray r
  | none => s.linesRoute b

/-- The route a stray would take, if it is routable (R158). -/
def State.routable (s : State) (b : Bag) : Option RouteKey :=
  match s.penDestination b with
  | .route k => some k
  | _ => none

/-- A stray's reason is re-evaluated; `named` is taken by a routable bag that has none (R158). -/
def State.reEvaluate (s : State) (h : Handle) (named : Option StrayReason) : State :=
  match s.bag? h with
  | none => s
  | some b =>
    match s.penDestination b with
    | .stray r => s.modifyBag h (fun b => { b with reason := some r })
    | _ => s.modifyBag h (fun b => { b with reason := match b.reason with
        | some r => some r
        | none => named })

/-! ## Offload and the reconcile visit (R146, R147, R149) -/

/-- The cart a bag's location names. -/
def Bag.cart? (b : Bag) : Option Nat :=
  match b.location with
  | some (.cart n) => some n
  | _ => none

/-- OFFLOAD is raised for a bag's slot (R153). -/
def State.tellOffload (s : State) (b : Bag) : State :=
  match b.home with
  | some k => s.raise .offload k.slot.toNat
  | none => s

/-- An ABOARD bag becomes OFFLOAD, its marked entry leaving the cart at the door (R149). -/
def State.offloadBag (s : State) (h : Handle) : State :=
  match s.bag? h with
  | none => s
  | some b =>
    match b.cart? with
    | none => (s.moveBag h .offload none).tellOffload b
    | some n => (((s.moveBag h .offload none).dropEntry n h).tellOffload b).testCart n

/-- A reconcile visit under a VOID governing cabin (R146). -/
def State.reconcileVoid (s : State) (h : Handle) (b : Bag) : State :=
  match b.state with
  | .registered | .landing | .jammed | .inCart | .missing => s.demandCheck h
  | .stray => (s.demandCheck h).modifyBag h (fun b => { b with reason := some .pulled })
  | .aboard => s.offloadBag h
  | .onLoop | .offload => s

/-- A reconcile visit under a governing cabin that is not VOID (R147). -/
def State.reconcileSailing (s : State) (h : Handle) (b : Bag) : State :=
  let s1 := s.demandCheck h
  if b.state = .offload ∧ b.pull ≠ some .request then s1.moveBag h .aboard none else s1

/-- The reconcile visit of a bag (R146, R147); a bag with no governing cabin is passed by. -/
def State.reconcile (s : State) (h : Handle) : State :=
  match s.bag? h with
  | none => s
  | some b =>
    match s.store.governing b with
    | none => s
    | some c => if c.status = .void then s.reconcileVoid h b else s.reconcileSailing h b

/-! ## Pull states of cabins (R12, R142 to R145) -/

/-- A cabin is PULLING. -/
def Cabin.pulling (c : Cabin) : Bool := c.pull == .pulling

/-- The walker's mode follows the PULLING cabins (R167). -/
def State.setMode (s : State) : State :=
  s.setSweep { s.sweep with mode := if s.store.cabins.any (fun e => e.2.pulling) then .fast else .patrol }

/-- A cabin's pull state as it starts or ceases to stand void, `was` telling whether it stood void before (R143, R145). -/
def Cabin.settlePull (c : Cabin) (was : Bool) (pos : WalkerPos) : Cabin :=
  if !was && c.standsVoid then { c with pull := .pulling, pullStart := some pos }
  else if was && !c.standsVoid then { c with pull := .noPull, pullStart := none }
  else c

/-- A cabin's fields change, and its pull state with them where it starts or ceases to stand void (R12). -/
def State.changeCabin (s : State) (k : CabinKey) (f : Cabin → Cabin) : State :=
  (s.setStore (s.store.modifyCabin k (fun c => (f c).settlePull c.standsVoid s.sweep.pos))).setMode

end Sys2Proof.Machine
end

