-- ==== Sys2Proof/Machine/ChuteOps.lean ====
section
/-! DEFINITION. The chute controller (07): claims and credit, swaps, lost claims, landings, cut completion, and what a
retirement takes out of a bag's holder. -/

namespace Sys2Proof

/-- The other cart position. -/
def PosName.other : PosName → PosName
  | .x => .y
  | .y => .x

/-- Whether a chute may enter FAULT by a cause: one in FAULT keeps its first, and a CLOSED one takes no NODE (R51, R109). -/
def ChuteState.faults : ChuteState → FaultCause → Bool
  | .fault _, _ => false
  | .closed, .node => false
  | _, _ => true

namespace Machine

/-! ## Chute records (R108, R109) -/

/-- The record of a configured chute. -/
def State.chute? (s : State) (k : Nat) : Option Chute := s.chutes.get? k

/-- A chute's record is changed. -/
def State.modifyChute (s : State) (k : Nat) (f : Chute → Chute) : State := s.setChutes (s.chutes.modify k f)

/-- What a position of a chute holds. -/
def Chute.position (c : Chute) : PosName → Position
  | .x => c.posX
  | .y => c.posY

/-- The chute with a position changed. -/
def Chute.putPosition (c : Chute) (p : PosName) (v : Position) : Chute :=
  match p with
  | .x => { c with posX := v }
  | .y => { c with posY := v }

/-- The serial of the cart at a position. -/
def Position.serial? : Position → Option Nat
  | .cart n => some n
  | _ => none

/-- The serial of a chute's active cart. -/
def Chute.active? (c : Chute) : Option Nat := c.active.bind (fun p => (c.position p).serial?)

/-- The active cart of a chute, with its serial. -/
def State.activeCart (s : State) (c : Chute) : Option (Nat × Cart) := do
  let n ← c.active?
  let x ← s.cart? n
  some (n, x)

/-- A chute goes to FAULT, with its notice, where its state allows it (R109). -/
def State.faultChute (s : State) (k : Nat) (cause : FaultCause) : State :=
  match s.chute? k with
  | none => s
  | some c =>
    if c.state.faults cause then
      (s.modifyChute k (fun c => { c with state := .fault cause })).raise .chuteFault k
    else s

/-! ## Claims and credit (R113) -/

/-- The claims of a chute: reserved, pending and jammed. -/
def Chute.claims (c : Chute) : Nat := c.reserved + c.landing.length + c.jams.length

/-- The claims of all STRAY chutes together. -/
def State.strayClaims (s : State) : Nat :=
  (s.chutes.map (fun e => if e.2.kind = .stray then e.2.claims else 0)).sum

/-- The STRAY chutes' credit computed while ignoring chute state. -/
def State.penRoom (s : State) : Nat := s.freePen - s.strayClaims

/-- The credit of a chute. -/
def State.credit (s : State) (c : Chute) : Nat :=
  if c.state = .opened then
    match c.kind with
    | .stray => s.penRoom
    | .deck =>
      match s.activeCart c with
      | none => 0
      | some (_, x) => if x.state = .closing then 0 else x.freePlaces - c.claims
  else 0

/-! ## Swaps (R116, R118, R119) -/

/-- The serial of the STANDBY cart at a position. -/
def State.standby? (s : State) (c : Chute) (p : PosName) : Option Nat :=
  match (c.position p).serial? with
  | none => none
  | some n =>
    match s.cart? n with
    | some x => if x.state = .standby then some n else none
    | none => none

/-- The active cart of a chute has left or filled: the standby cart becomes active, or the chute has none and, OPEN, becomes
BLOCKED with its notice (R116, R118). -/
def State.swap (s : State) (k : Nat) : State :=
  match s.chute? k with
  | none => s
  | some c =>
    match c.active with
    | none => s
    | some p =>
      match s.standby? c p.other with
      | some n =>
        (s.modifyCart n (fun x => { x with state := .filling })).modifyChute k
          (fun c => { c with active := some p.other })
      | none =>
        if c.state = .opened then
          (s.modifyChute k (fun c => { c with active := none, state := .blocked })).raise .chuteBlocked k
        else s.modifyChute k (fun c => { c with active := none })

/-- An active cart that is full becomes FULL and the chute swaps (R118). -/
def State.settleFull (s : State) (k : Nat) : State :=
  match s.chute? k with
  | none => s
  | some c =>
    match s.activeCart c with
    | none => s
    | some (n, x) => if x.full then (s.modifyCart n (fun x => { x with state := .full })).swap k else s

/-- A CLOSING active cart of a chute without claims becomes CUT and the chute swaps (R119). -/
def State.settleCut (s : State) (k : Nat) : State :=
  match s.chute? k with
  | none => s
  | some c =>
    match s.activeCart c with
    | none => s
    | some (n, x) =>
      if x.state = .closing ∧ c.claims = 0 then (s.modifyCart n (fun x => { x with state := .cut })).swap k else s

/-- The cuts of some chutes are settled in turn. -/
def State.settleCuts (s : State) : List Nat → State
  | [] => s
  | k :: t => (s.settleCut k).settleCuts t

/-! ## Arming and disarming (R99, R100) -/

/-- A carrier is disarmed and its chute's reserved count falls by 1. -/
def State.disarm (s : State) (c k : Nat) : State :=
  (s.modifyCarrier c (fun e => { e with armed := none })).modifyChute k
    (fun x => { x with reserved := x.reserved - 1 })

/-- Every carrier armed for a chute is disarmed, and its reserved count is 0 (R117). -/
def State.disarmChute (s : State) (k : Nat) : State :=
  (s.setLoop { s.loop with carriers := s.loop.carriers.map (fun e =>
    match e.armed with
    | some m => if m.chute = k then { e with armed := none } else e
    | none => e) }).modifyChute k (fun x => { x with reserved := 0 })

/-! ## Lost claims (R117) -/

/-- Each of some bags becomes MISSING in turn. -/
def State.makeAllMissing (s : State) : List Handle → State
  | [] => s
  | h :: t => (s.makeMissing h).makeAllMissing t

/-- The claims of a chute are lost (R117). -/
def State.loseClaims (s : State) (k : Nat) : State :=
  match s.chute? k with
  | none => s
  | some c =>
    (((s.makeAllMissing (c.landing.map (·.bag) ++ c.jams)).modifyChute k
      (fun c => { c with landing := [], jams := [] })).disarmChute k).faultChute k .cartLost

/-- The claims of a chute whose active cart has left pass to a standby cart that has room for them, or are lost (R117). -/
def State.settleClaims (s : State) (k : Nat) (other : PosName) : State :=
  match s.chute? k with
  | none => s
  | some c =>
    if c.claims = 0 then s
    else
      match s.standby? c other with
      | none => s.loseClaims k
      | some n =>
        match s.cart? n with
        | none => s.loseClaims k
        | some x => if c.claims ≤ x.capacity then s else s.loseClaims k

/-! ## Landings (R102, R104, R120, R121) -/

/-- A bag leaves its carrier for the tail of a chute's pending-landing list; a STRAY destination's reason is written on it
(R102, R104). -/
def State.toLanding (s : State) (h : Handle) (k : Nat) (deadline : Byte) (reason : Option StrayReason) : State :=
  ((s.moveBag h .landing (some (.chute k))).modifyBag h
    (fun b => { b with reason := match reason with
      | some r => some r
      | none => b.reason })).modifyChute k
    (fun c => { c with landing := c.landing ++ [⟨h, deadline⟩] })

/-- The lowest-numbered free pen position (R155). -/
def State.lowestPosition (s : State) : Nat := s.pen.positions.lowestFree 0

/-- A bag, out of its list, lands in the active cart of a DECK chute, with the demand check at landing (R120). -/
def State.landInCart (s : State) (h : Handle) (n : Nat) : State :=
  ((s.moveBag h .inCart (some (.cart n))).modifyCart n
    (fun x => { x with entries := x.entries ++ [⟨h, false⟩] })).demandCheck h

/-- A bag, out of its list, lands: into the active cart, or into the pen (R120, R121). DESIGN CHOICE (log 28): with claims
at a DECK chute without an active cart, which R113 rules out, they are lost as R117 gives. -/
def State.landBag (s : State) (k : Nat) (c : Chute) (h : Handle) : State :=
  match c.kind with
  | .stray => s.intake h s.lowestPosition
  | .deck =>
    match s.activeCart c with
    | some (n, _) => s.landInCart h n
    | none => (s.makeMissing h).loseClaims k

/-- The list entry that a LAND takes: the oldest pending, else the oldest jammed (R120). -/
def Chute.oldest (c : Chute) : Option Handle :=
  match c.landing with
  | e :: _ => some e.bag
  | [] => c.jams.head?

/-- The chute without the entry that a LAND takes. -/
def Chute.dropOldest (c : Chute) : Chute :=
  match c.landing with
  | _ :: t => { c with landing := t }
  | [] => { c with jams := c.jams.tail }

/-- An item at a DECK chute that no record matches (R120). -/
def State.landUnidentified (s : State) (k : Nat) (c : Chute) : State :=
  match s.activeCart c with
  | none => s.faultChute k .cartLost
  | some (n, x) =>
    (if x.freePlaces ≤ c.claims then s.loseClaims k else s).modifyCart n
      (fun x => { x with unidentified := x.unidentified + 1 })

/-- An item at a STRAY chute that no record matches (R121). -/
def State.landAnonymous (s : State) (k : Nat) : State :=
  if s.strayClaims < s.freePen then
    match s.createBag { Bag.blank .stray (some (.pen s.lowestPosition)) with
        reason := some .noRead, entered := some s.hallSecond } with
    | some (h, t) => t.occupy h s.lowestPosition
    | none => s.faultChute k .cartLost
  else s.faultChute k .cartLost

/-- A landing at a chute: the oldest entry lands, or the item is unidentified; then full carts and cuts (R120, R121). -/
def State.takeLanding (s : State) (k : Nat) : State :=
  match s.chute? k with
  | none => s
  | some c =>
    let s1 :=
      match c.oldest with
      | some h => (s.modifyChute k Chute.dropOldest).landBag k c h
      | none =>
        match c.kind with
        | .deck => s.landUnidentified k c
        | .stray => s.landAnonymous k
    (s1.settleFull k).settleCut k

/-! ## Landing deadlines (R122) -/

/-- Whether a deadline is reached at a processed pitch: the pitch less the deadline, modulo 256, is 0 to 127. -/
def reached (pitch deadline : Byte) : Bool := decide ((pitch - deadline).toNat ≤ 127)

/-- Each of some bags becomes JAMMED in turn at a chute. -/
def State.jamAll (s : State) (k : Nat) : List Handle → State
  | [] => s
  | h :: t => (s.moveBag h .jammed (some (.chute k))).jamAll k t

/-- The entries of a chute whose deadline a pitch reaches become JAMMED, in list order (R122). -/
def State.jamDue (s : State) (pitch : Byte) (k : Nat) : State :=
  match s.chute? k with
  | none => s
  | some c =>
    let due := (c.landing.filter (fun e => reached pitch e.deadline)).map (·.bag)
    if due.isEmpty then s
    else
      ((s.jamAll k due).modifyChute k (fun c =>
        { c with landing := c.landing.filter (fun e => !reached pitch e.deadline), jams := c.jams ++ due })).raise .jam k

/-- The landing deadlines of some chutes are tested in turn. -/
def State.jamDueAll (s : State) (pitch : Byte) : List Nat → State
  | [] => s
  | k :: t => (s.jamDue pitch k).jamDueAll pitch t

/-! ## Retirement (R30) -/

/-- A bag's handle leaves the holder its state names. -/
def State.leaveHolder (s : State) (h : Handle) (b : Bag) : State :=
  match b.state, b.location with
  | .onLoop, some (.carrier c) => s.setContent c .empty
  | .landing, some (.chute k) =>
    (s.modifyChute k (fun c => { c with landing := c.landing.filter (fun e => e.bag != h) })).settleCut k
  | .jammed, some (.chute k) =>
    (s.modifyChute k (fun c => { c with jams := c.jams.filter (· != h) })).settleCut k
  | .inCart, some (.cart n) => s.dropEntry n h
  | .aboard, some (.cart n) => s.dropEntry n h
  | .stray, some (.pen p) => s.freePosition h p
  | _, _ => s

/-- A bag retires: it leaves its holder and its record is free (R30). -/
def State.retireBag (s : State) (h : Handle) : State :=
  match s.bag? h with
  | none => s
  | some b => (s.leaveHolder h b).retireRecord h

end Machine

end Sys2Proof
end

