-- ==== Sys2Proof/Machine/Formats.lean ====
section
/-! DEFINITION. Formats (13): code tables, response bodies as bytes, the port status and the FETCH answer, and field frames
with their CRC. -/

namespace Sys2Proof

/-! ## Code tables -/

/-- The number of a result code. -/
def Result.code : Result → Byte
  | .done => 0
  | .accepted => 1
  | .noResponse => 2
  | .unknownRequest => 3
  | .badLength => 4
  | .badField => 5
  | .badConfig => 6
  | .notFound => 7
  | .staleHandle => 8
  | .exists_ => 9
  | .full => 10
  | .allowance => 11
  | .wrongState => 12
  | .sailingBusy => 13
  | .openBags => 14
  | .busy => 15
  | .inUse => 16
  | .chain => 17
  | .voidTarget => 18
  | .emptyQueue => 19
  | .atDoor => 20
  | .notAtDoor => 21
  | .notRoutable => 22
  | .stillActive => 23

/-- The number of a bag state. -/
def BagState.code : BagState → Byte
  | .registered => 0
  | .onLoop => 1
  | .landing => 2
  | .jammed => 3
  | .inCart => 4
  | .aboard => 5
  | .offload => 6
  | .stray => 7
  | .missing => 8

/-- The number of a stray reason. -/
def StrayReason.code : StrayReason → Byte
  | .noRead => 1
  | .multiRead => 2
  | .unknownTag => 3
  | .doubleLoad => 4
  | .duplicateTag => 5
  | .wrongSailing => 6
  | .mismatch => 7
  | .recircLimit => 8
  | .held => 9
  | .pulled => 10

/-- The number of a cabin status. -/
def CabinStatus.code : CabinStatus → Byte
  | .sailing => 0
  | .pending => 1
  | .void => 2

/-- The number of a guest state. -/
def GuestState.code : GuestState → Byte
  | .expected => 0
  | .boarded => 1
  | .notSailing => 2

/-- The number of a cabin's pull state. -/
def PullState.code : PullState → Byte
  | .noPull => 0
  | .pulling => 1
  | .pulled => 2

/-- The number of a cart state. -/
def CartState.code : CartState → Byte
  | .standby => 0
  | .filling => 1
  | .closing => 2
  | .full => 3
  | .cut => 4
  | .queued => 5
  | .atDoor => 6

/-- The number of an operating state, as the port status gives it. -/
def OpState.code : OpState → Nat
  | .setup => 0
  | .run => 1
  | .rest => 2

/-- The number of a walk kind: the slots', and 2 for the clear walk. -/
def WalkKind.number : WalkKind → Nat
  | .close b => b.toNat
  | .clear => 2

/-- The number of a PULL origin: 0 CABIN, 1 REQUEST. -/
def PullOrigin.number : PullOrigin → Nat
  | .cabin => 0
  | .request => 1

/-- The number of a cart position: 0 X, 1 Y. -/
def PosName.number : PosName → Nat
  | .x => 0
  | .y => 1

/-- One bit as a number. -/
def bitNat (b : Bool) : Nat := if b then 1 else 0

/-! ## Fields (R182) -/

/-- A number in a field of some bytes, most significant first; one that does not fit gives bytes the manual does not state
(log 9). -/
def field (width n : Nat) : List Byte :=
  if n < 256 ^ width then (List.range width).map (fun i => BitVec.ofNat 8 (n / 256 ^ (width - 1 - i)))
  else (List.range width).map (Config.beyondWidth width n)

/-- An absent field whose range holds 0: all ones (R182). -/
def ones (width : Nat) : List Byte := List.replicate width 0xFF

/-- An optional number whose range does not hold 0: absent is 0 (R182). -/
def optZero (width : Nat) (v : Option Nat) : List Byte := field width (v.getD 0)

/-- An optional number whose range holds 0: absent is all ones (R182). -/
def optOnes (width : Nat) (v : Option Nat) : List Byte :=
  match v with
  | some n => field width n
  | none => ones width

/-- One bit in a byte. DESIGN CHOICE: every flag, set or clear mark and on or off field of a response body that Formats gives no
codes for (the home mark of LOOP GET among them) is 1 for set or on and 0 for clear or off; unsafe (log 52). -/
def bitByte (b : Bool) : Byte := if b then 1 else 0

/-- A list: a count byte and its entries (R182). -/
def listField {α : Type} (l : List α) (f : α → List Byte) : List Byte := field 1 l.length ++ l.flatMap f

/-- A handle: index in two bytes, generation. DEDUCED: 3 bytes wherever a response body has one, as BAG GET gives it; unsafe
(log 22). -/
def handleField (h : Handle) : List Byte := field 2 h.index ++ [h.gen]

/-- An optional handle: absent is all ones. -/
def optHandle (h : Option Handle) : List Byte :=
  match h with
  | some x => handleField x
  | none => ones 3

/-- An optional route: slot and route, each all ones when absent (R182). -/
def routeField (k : Option RouteKey) : List Byte :=
  optOnes 1 (k.map (·.slot.toNat)) ++ optOnes 1 (k.map (·.route))

/-- A code Formats gives no number for (log 9). -/
def codeByte (c : CodeName) : Byte := Config.code c

/-- An optional code: absent it is 0 where no code of its table is 0, and all ones otherwise (R182). -/
def optCode (table : List CodeName) (c : Option CodeName) : Byte :=
  match c with
  | some x => codeByte x
  | none => if table.any (fun x => codeByte x == 0) then 0xFF else 0

namespace Machine

/-! ## Response bodies -/

/-- Location kind and number (13 BAG GET). DESIGN CHOICE: the number of the kind 0, none, is 0; unsafe (log 56). -/
def locationField : Option Location → List Byte
  | none => [0] ++ field 2 0
  | some (.carrier n) => [1] ++ field 2 n
  | some (.chute n) => [2] ++ field 2 n
  | some (.cart n) => [3] ++ field 2 n
  | some (.pen n) => [4] ++ field 2 n

/-- The halt set byte (13 Code tables). -/
def HaltSet.byte (h : HaltSet) : Byte :=
  BitVec.ofNat 8 (bitNat h.noRead + 2 * bitNat h.unknownTag + 4 * bitNat h.wrongDoor + 8 * bitNat h.pulledBag +
    16 * bitNat h.notBoarded + 32 * bitNat h.misplaced + 64 * bitNat h.unidentified + 128 * bitNat h.node)

/-- The flags byte of BAG GET. -/
def BagView.flags (v : BagView) : Byte :=
  BitVec.ofNat 8 (bitNat v.pull.isSome + 2 * bitNat (v.pull == some .request) + 4 * bitNat v.hold +
    8 * bitNat v.recheck + 16 * bitNat v.reinduct + 32 * bitNat v.aged)

/-- A stray reason byte, 0 when absent. -/
def reasonByte (r : Option StrayReason) : Byte :=
  match r with
  | some x => x.code
  | none => 0

/-- The body of a bag response (13 BAG GET). -/
def BagView.bytes (v : BagView) : List Byte :=
  handleField v.handle ++ optZero 4 v.tag ++ optOnes 1 (v.home.map (·.slot.toNat)) ++ optZero 2 (v.home.map (·.number)) ++
  optZero 2 (v.governing.map (·.1)) ++
  (match v.governing with
   | some g => [g.2.code]
   | none => ones 1) ++
  [v.state.code] ++ locationField v.location ++ field 1 v.laps ++ [v.flags, reasonByte v.reason] ++ optOnes 4 v.entered

/-- A walker position: index and pass. -/
def WalkerPos.bytes (p : WalkerPos) : List Byte := field 2 p.index ++ field 4 p.pass.toNat

/-- The body of a cabin response (13 CABIN GET). -/
def CabinView.bytes (v : CabinView) : List Byte :=
  field 1 v.key.slot.toNat ++ field 2 v.key.number ++ field 1 v.route ++ field 1 v.allowance ++ [v.status.code] ++
  optZero 2 v.forward ++ field 2 v.forwardedIn ++ field 1 v.liveBags ++ field 1 v.aboard ++ [v.pull.code] ++
  (match v.pullStart with
   | some p => p.bytes
   | none => ones 2 ++ field 4 0) ++
  listField v.guests (fun g => field 1 g.slot ++ field 4 g.number.toNat ++ [g.state.code])

/-- The body of SAILING GET (R6, R182). -/
def Sailing.bytes (v : Sailing) : List Byte :=
  [codeByte (.slotState v.state)] ++ optZero 2 v.ship ++ [bitByte v.boardFirst] ++ field 2 v.counts.registered ++
  field 2 v.counts.hall ++ field 2 v.counts.stray ++ field 2 v.counts.missing ++ field 2 v.counts.aboard ++
  field 2 v.counts.offload

/-- The limits, in the order of R176. -/
def Limits.bytes (v : Limits) : List Byte :=
  field 1 v.recirc ++ field 1 v.confirm ++ field 1 v.loss ++ field 1 v.drift ++ field 1 v.failure ++ field 1 v.silence ++
  field 1 v.penLow ++ field 1 v.strayAge ++ field 2 v.patrolRate

/-- A set of hold causes (R79). DESIGN CHOICE: the whole set is one byte, as a halt set is, and not a list with a count byte;
unsafe (log 60). Which byte stands for which set is free (log 9). -/
def HoldSet.byte (c : HoldSet) : Byte := codeByte (.holdCauses c.tracking c.pen c.table c.state c.node)

/-- The body of LOOP GET (R79, log 22): a point gives its offset, level and causes, an arch its offset. DESIGN CHOICE: the
entries of both lists stand in rising point and arch number, unsafe (log 51); the home mark is 1 for set and 0 for clear, unsafe
(log 52); a point's set of causes is one byte, unsafe (log 60). -/
def LoopView.bytes (v : LoopView) : List Byte :=
  field 2 v.carriers ++ field 2 v.pos ++ optOnes 1 (v.stampRef.map (·.toNat)) ++ [codeByte (.tracking v.track)] ++
  field 1 v.lossCount ++ field 1 v.confirmRun ++ field 1 v.mismatchRun ++ [bitByte v.homeMark] ++
  listField v.points (fun p => field 2 p.2.1 ++ [bitByte p.2.2.1, p.2.2.2.byte]) ++
  listField v.arches (fun a => field 2 a.2) ++
  field 2 v.loaded ++ field 2 v.unknown ++ field 2 v.armed

/-- The state byte of a carrier. -/
def Content.byte : Content → Byte
  | .empty => codeByte (.carrier false false)
  | .loaded _ => codeByte (.carrier true false)
  | .unknown => codeByte (.carrier false true)

/-- The bag of a LOADED carrier. -/
def Content.bag? : Content → Option Handle
  | .loaded h => some h
  | _ => none

/-- The body of CARRIER GET (R80). -/
def CarrierView.bytes (v : CarrierView) : List Byte :=
  field 2 v.number ++ [v.content.byte] ++ optHandle v.content.bag? ++ optOnes 1 v.armed ++ field 2 v.offset

/-- State and serial of a cart position. -/
def Position.bytes : Position → List Byte
  | .empty => [codeByte (.position false false)] ++ field 2 0
  | .cart n => [codeByte (.position true false)] ++ field 2 n
  | .marked => [codeByte (.position false true)] ++ field 2 0

/-- The state of a chute without its cause. -/
def chuteStateByte : ChuteState → Byte
  | .closed => codeByte (.chuteState true false false)
  | .opened => codeByte (.chuteState false true false)
  | .blocked => codeByte (.chuteState false false true)
  | .fault _ => codeByte (.chuteState false false false)

/-- The fault cause of a chute, absent outside FAULT (R108, R182). -/
def chuteCauseByte (v : ChuteState) : Byte :=
  optCode [.faultCause .failures, .faultCause .node, .faultCause .cartLost] (match v with
    | .fault c => some (.faultCause c)
    | _ => none)

/-- The body of CHUTE GET (R125, log 22). -/
def ChuteView.bytes (v : ChuteView) : List Byte :=
  [codeByte (.chuteKind v.kind)] ++ routeField v.assigned ++
  [chuteStateByte v.state, chuteCauseByte v.state] ++ field 2 v.offset ++ field 1 v.lead ++
  field 1 v.window ++ field 1 v.capacity ++ field 1 v.node ++ field 4 v.reserved ++ field 4 v.landing ++
  field 4 v.jammed ++ field 1 v.failures ++ field 1 v.credit ++ v.posX.bytes ++ v.posY.bytes ++
  optOnes 1 (v.active.map (·.number)) ++ listField v.jams handleField

/-- An entry of CART GET: the aboard mark and the index in 14 bits, then the generation. DESIGN CHOICE: the index in the low 14 bits
of the first two bytes, bit 6 of the first unused and 0; unsafe (log 55). -/
def Entry.bytes (e : Entry) : List Byte :=
  field 2 (bitNat e.aboard * 32768 + e.bag.index) ++ [e.bag.gen]

/-- The body of CART GET. -/
def CartView.bytes (v : CartView) : List Byte :=
  field 2 v.serial ++ field 1 v.origin ++
  (match v.route with
   | some k => field 1 k.slot.toNat ++ field 1 k.route
   | none => [0xFF, 0]) ++
  field 1 v.capacity ++ [v.state.code, bitByte v.notify] ++ field 1 v.unidentified ++ field 1 v.count ++
  field 1 v.first ++ listField v.entries Entry.bytes

/-- The body of ROUTE GET (R141). -/
def RouteView.bytes (v : RouteView) : List Byte :=
  [codeByte (.routeState v.state)] ++ optOnes 1 v.door ++ [bitByte v.stay, bitByte v.notifyAll] ++ field 4 v.loaded ++
  listField v.chutes (field 1) ++ field 2 v.queued ++ listField v.serials (field 2) ++ optZero 2 v.atDoor

/-- The body of DOOR GET (R141, log 22). DESIGN CHOICE: an entry of the list of served routes is the route number and the state,
without the slot, which is the berth's; unsafe (log 59). -/
def DoorView.bytes (v : DoorView) : List Byte :=
  field 1 v.berth.toNat ++ field 1 v.node ++ [codeByte (.nodeState v.nodeState), bitByte v.running, v.halts.byte] ++
  optZero 2 v.cart ++ optOnes 1 v.lastServed ++
  listField v.routes (fun r => field 1 r.1 ++ [codeByte (.routeState r.2)])

/-- The body of STRAY GET (R163, log 22). -/
def StrayView.bytes (v : StrayView) : List Byte :=
  field 1 v.position ++ handleField v.handle ++ optZero 4 v.tag ++ optOnes 1 (v.home.map (·.slot.toNat)) ++
  optZero 2 (v.home.map (·.number)) ++ [reasonByte v.reason] ++ optOnes 4 v.entered ++
  [bitByte v.aged, bitByte v.reinduct, bitByte v.hold, bitByte v.pull.isSome] ++
  optOnes 1 (v.pull.map (·.number)) ++ field 1 v.laps ++ [bitByte v.routable.isSome] ++ routeField v.routable

/-- The kind of the object a test of RUN names, absent where it names none (R177, R182, log 24). -/
def objectKindByte (v : Option ObjectKind) : Byte :=
  optCode [.object .induction, .object .arch, .object .chute, .object .door] (v.map CodeName.object)

/-- The bytes of a response body. -/
def Body.bytes : Body → List Byte
  | .empty => []
  | .handle h => handleField h
  | .bag v => v.bytes
  | .cabin v => v.bytes
  | .sailing v => v.bytes
  | .limits v => v.bytes
  | .badConfig test object =>
    field 1 test ++ [objectKindByte (object.map (·.1))] ++ optOnes 1 (object.map (·.2))
  | .time second op pos mode walk =>
    field 4 second ++ field 1 op.code ++ pos.bytes ++ [codeByte (.mode mode)] ++ optOnes 1 (walk.map (·.number))
  | .loop v => v.bytes
  | .carrier v => v.bytes
  | .trackingReset missing disarmed => field 2 missing ++ field 2 disarmed
  | .chute v => v.bytes
  | .cart v => v.bytes
  | .route v => v.bytes
  | .door v => v.bytes
  | .halts v => [v.byte]
  | .stray v => v.bytes
  | .strayList n v => field 1 n ++ (match v with
      | some x => x.bytes
      | none => [])
  | .notice source => optOnes 1 (source.map (·.1)) ++ optOnes 1 (source.bind (·.2))

/-! ## The port (R172, R174) -/

/-- The port status byte (13 The request port). -/
def State.status (s : State) : Byte :=
  BitVec.ofNat 8
    ((match s.port with
      | .waiting _ => 1
      | .working _ => 2
      | .idle => 0) +
     4 * bitNat s.notices.anyPending + 8 * bitNat s.discarded + 16 * s.opState.code)

/-- A byte of a header of which some bytes came: one that did not come has no stated value (log 9). -/
def sentByte (h : Head) (i : Nat) (b : Byte) : Byte := if i < h.came then b else Config.unsentByte i

/-- The echo of a request header, bit 6 of its second byte and the unused bytes of its key written as 0 (R174, R182). -/
def Response.echo (r : Response) : List Byte :=
  let h := r.head
  let k := (keyForm r.code.toNat).clear
    ⟨sentByte h 2 h.key.b2, sentByte h 3 h.key.b3, sentByte h 4 h.key.b4, sentByte h 5 h.key.b5⟩
  [sentByte h 0 r.code, sentByte h 1 h.flags &&& 0xBF, k.b2, k.b3, k.b4, k.b5]

/-- The bytes of a response after the status byte (R174). -/
def Response.bytes (r : Response) : List Byte :=
  r.echo ++ [r.answer.result.code] ++ field 1 r.answer.body.bytes.length ++ r.answer.body.bytes

/-- The answer to a FETCH while no response waits, after the status byte (R174). -/
def noResponseBytes : List Byte := List.replicate 6 0 ++ [Result.code .noResponse, 0]

/-! ## Field frames (13, R183) -/

/-- One bit of the CRC-16: generator 0x1021, most significant bit first (R183). -/
def crcBit (c : BitVec 16) : BitVec 16 := if c.msb then (c <<< 1) ^^^ 0x1021 else c <<< 1

/-- One byte of the CRC-16. -/
def crcByte (c : BitVec 16) (b : Byte) : BitVec 16 :=
  (List.range 8).foldl (fun x _ => crcBit x) (c ^^^ (b.setWidth 16 <<< 8))

/-- The CRC-16 of some bytes from initial value 0xFFFF (R183). -/
def crc16 (l : List Byte) : BitVec 16 := l.foldl crcByte 0xFFFF

/-- The SYNC byte. -/
def syncByte : Byte := 0xA5

/-- A frame as bytes: SYNC, length, node, sequence, kind, stamp, payload, CRC high byte first (13 The field frame). -/
def frameBytes (node seq kind stamp : Byte) (payload : List Byte) : List Byte :=
  let body := field 1 payload.length ++ [node, seq, kind, stamp] ++ payload
  let crc := crc16 body
  [syncByte] ++ body ++ [(crc >>> 8).setWidth 8, crc.setWidth 8]

/-- The kind code of an outbound frame. -/
def OutPayload.kind : OutPayload → Byte
  | .divert _ _ => 0x41
  | .induct _ _ => 0x42
  | .door _ _ => 0x43
  | .answer _ _ => 0x44

/-- The three bytes of an ENCODE ANSWER after its position. -/
def EncodeAnswer.bytes : EncodeAnswer → List Byte
  | .route k => [0] ++ field 1 k.slot.toNat ++ field 1 k.route
  | .reason r => [1, r.code, 0]
  | .notTaken .pen => [2, 0, 0]
  | .notTaken .table => [2, 1, 0]

/-- The payload of an outbound frame. -/
def OutPayload.bytes : OutPayload → List Byte
  | .divert k c => field 1 k ++ [c]
  | .induct i go => field 1 i ++ [bitByte go]
  | .door d run => field 1 d ++ [bitByte run]
  | .answer p a => field 1 p ++ a.bytes

/-- An outbound frame as bytes, with its stamp byte. -/
def OutFrame.bytes (f : OutFrame) (stamp : Byte) : List Byte :=
  frameBytes (BitVec.ofNat 8 f.node) f.seq f.payload.kind stamp f.payload.bytes

/-- The bytes from the first SYNC byte on. -/
def hunt (l : List Byte) : List Byte := l.dropWhile (· != syncByte)

end Machine

end Sys2Proof
end

