-- ==== Sys2Proof/Machine/Port.lean ====
section
/-! DEFINITION. The part and the request port (12): power-on, the reset pin, transactions, FETCH and the response. -/

namespace Sys2Proof.Machine

/-- What a command's meaning answers. -/
abbrev Outcome := Host.Outcome State Fault Refusal

/-! ## Taking a request (R172, R173) -/

/-- The tests of length that come before a request's own rule: enough bytes came, and the body length is the one the request
carries (R172). -/
def Head.lengthOk (h : Head) (len : Nat) : Bool :=
  decide (6 + h.bodyLen ≤ h.came) && decide (h.bodyLen ≤ 56) && decide (h.bodyLen = len)

/-- A request is taken, or, while the port is WORKING, discarded (R173). Its rule is applied as it is taken (log 4), and its
answer waits for RESPONSE_READY. DESIGN CHOICE: of the bytes shifted out only the status byte is recorded, the manual giving
no others; safe (log 38). -/
def State.takeRequest (s : State) (code : Byte) (h : Head) (len : Nat) (act : State → State × Answer) : State :=
  let s0 := s.setSpiOut [s.status]
  match s.port with
  | .working _ => s0.setDiscarded true
  | _ =>
    let s1 := s0.setDiscarded false
    let r := if Head.lengthOk h len then act s1 else (s1, Answer.refuse .badLength)
    r.1.setPort (.working ⟨code, h, r.2⟩)

/-- A request transaction, as the meaning of its command. -/
def request (code : Byte) (h : Head) (len : Nat) (act : State → State × Answer) (s : State) : Outcome :=
  .next (s.takeRequest code h len act)

/-! ## Reset (R175) -/

/-- The part after power-on or the reset pin; the commands that wait, and the model's free counter, stay (log 7). -/
def State.restart (s : State) : State := (State.reset.setPending s.pending).setFreeCount s.freeCount

/-- POWER_ON (R175). -/
def execPowerOn (s : State) : Outcome := .next s.restart

/-- HALL_RESET_N driven low for some microseconds: a pulse shorter than 1 ms is ignored (R175, log 30). -/
def execHallResetN (lowMicros : Nat) (s : State) : Outcome :=
  .next (if 1000 ≤ lowMicros then s.restart else s)

/-! ## Transactions without a request (R172, R174) -/

/-- STATUS_ONLY: the port status is the whole transaction (R172). -/
def execStatusOnly (_first : Byte) (s : State) : Outcome := .next (s.setSpiOut [s.status])

/-- FETCH, with the number of bytes the transaction clocks (R174). DESIGN CHOICE: what is shifted out past the answer's end is not
recorded; safe (log 38). -/
def execFetch (clocked : Nat) (s : State) : Outcome :=
  .next (match s.port with
    | .waiting r => (s.setSpiOut ((s.status :: r.bytes).take clocked)).setPort .idle
    | _ => s.setSpiOut ((s.status :: noResponseBytes).take clocked))

/-- UNKNOWN_REQUEST: a code that names no request (R172). DESIGN CHOICE: one that is also too short, or gives a body above 56, is
answered BAD_LENGTH; unsafe (log 37). -/
def execUnknownRequest (code : Byte) (h : Head) (s : State) : Outcome :=
  request code h h.bodyLen (fun t => (t, Answer.refuse .unknownRequest)) s

/-- RESPONSE_READY: the response of the request being applied is placed in the response slot (R173). -/
def execResponseReady (s : State) : Outcome :=
  .next (match s.port with
    | .working r => s.setPort (.waiting r)
    | _ => s)

end Sys2Proof.Machine
end

