-- ==== Sys2Proof/Machine/Sailings.lean ====
section
/-! DEFINITION. The requests on sailings (01): OPEN SAILING, CLOSE SAILING, SAILING GET, ROUTE SET. -/

namespace Sys2Proof.Machine

/-! ## The tests of R3 -/

/-- A request whose key names a slot: the range test of R3, then the slot's act. -/
def onSlot (h : Head) (fields : Bool) (s : State) (act : SlotId → State × Answer) : State × Answer :=
  match h.key.slot? with
  | none => (s, Answer.refuse .badField)
  | some b => if fields then act b else (s, Answer.refuse .badField)

/-- A request that a FREE slot refuses: every test of R3, then its own tests, then its effect. -/
def onSailing (h : Head) (fields : Bool) (s : State) (own : SlotId → List (Bool × Result))
    (act : SlotId → State × Answer) : State × Answer :=
  onSlot h fields s (fun b => guarded (sailingTests s b ++ own b) s (act b))

/-- Whether a slot is not FREE and holds a ship code. -/
def State.holdsShip (s : State) (b : SlotId) (ship : Nat) : Bool :=
  s.slotState b != .free && (s.store.slot b).ship == some ship

/-- A slot's record is replaced. -/
def State.putSlot (s : State) (b : SlotId) (v : Sailing) : State := s.setStore (s.store.putSlot b v)

/-! ## OPEN SAILING (R4) -/

/-- The effect of OPEN SAILING on a slot: it opens, or, OPEN with the same ship code, takes the policy (R4). -/
def State.openSlot (s : State) (b : SlotId) (ship : Nat) (policy : Bool) : State :=
  s.putSlot b { s.store.slot b with state := .opened, ship := some ship, boardFirst := policy }

/-- OPEN SAILING (R4). -/
def execOpenSailing (h : Head) (ship : BitVec 16) (boardFirst : Option Bool) (s : State) : Outcome :=
  request 0x10 h 3 (fun t =>
    onSlot h (inRange 1 ship.toNat 65535 && boardFirst.isSome) t (fun b =>
      guarded [(t.opState != .setup, .wrongState), (t.slotState b != .closing, .sailingBusy),
          (if t.slotState b = .free then !t.holdsShip b.other ship.toNat else t.holdsShip b ship.toNat, .exists_)] t
        (t.openSlot b ship.toNat (boardFirst.getD false), Answer.done .empty))) s

/-! ## CLOSE SAILING (R8) -/

/-- The twelve routes of a slot. -/
def slotRoutes (b : SlotId) : List RouteKey := (List.range 12).map (fun i => ⟨b, i⟩)

/-- A route is UNSET, or IDLE with an empty queue (R8). -/
def State.routeQuiet (s : State) (k : RouteKey) : Bool :=
  match s.route? k with
  | none => true
  | some r => r.state == .unset || (r.state == .idle && r.queue.isEmpty)

/-- The tests of CLOSE SAILING (R8). -/
def closeTests (s : State) (b : SlotId) (ship : Nat) : List (Bool × Result) :=
  let c := (s.store.slot b).counts
  [(s.opState == .run, .wrongState), ((s.store.slot b).ship == some ship, .notFound), (s.sweep.walk.isNone, .busy),
   (decide (c.hall = 0 ∧ c.stray = 0 ∧ c.missing = 0 ∧ c.offload = 0), .openBags),
   ((slotRoutes b).all s.routeQuiet, .inUse),
   (s.doors.all (fun e => e.2.berth != b || e.2.cart.isNone), .inUse)]

/-- The slot becomes CLOSING and its close walk begins (R8, R169). -/
def State.startClose (s : State) (b : SlotId) : State :=
  let s1 := s.putSlot b { s.store.slot b with state := .closing }
  s1.setSweep { s1.sweep with walk := some ⟨.close b, 0⟩ }

/-- CLOSE SAILING (R8). DESIGN CHOICE: ship code 0, for which R8 gives no test of its own, is refused BAD_FIELD with the range
tests of R3, before the tests of R8; unsafe (log 33). -/
def execCloseSailing (h : Head) (ship : BitVec 16) (s : State) : Outcome :=
  request 0x11 h 2 (fun t =>
    onSailing h (inRange 1 ship.toNat 65535) t (fun b => closeTests t b ship.toNat)
      (fun b => (t.startClose b, ⟨.accepted, .empty⟩))) s

/-! ## SAILING GET (R6) -/

/-- SAILING GET (R6). -/
def execSailingGet (h : Head) (s : State) : Outcome :=
  request 0x12 h 0 (fun t =>
    onSlot h true t (fun b =>
      guarded [(t.opState != .setup, .wrongState), (t.slotState b != .closing, .sailingBusy)] t
        (t, Answer.done (.sailing (t.store.slot b))))) s

/-! ## ROUTE SET (R7) -/

/-- The route a request's key names, in a slot. -/
def Head.routeOf (h : Head) (b : SlotId) : RouteKey := ⟨b, h.key.route⟩

/-- Whether a request's key names a route 0 to 11. -/
def Head.routeInRange (h : Head) : Bool := decide (h.key.route < 12)

/-- Whether a door is configured for a slot's berth. -/
def State.doorOfBerth (s : State) (d : Nat) (b : SlotId) : Bool :=
  match s.door? d with
  | some x => x.berth == b
  | none => false

/-- A route as ROUTE SET leaves it: an UNSET route's queue is emptied, in R7's words (R7). DEDUCED: over R127, which names no such
way out of a queue; unsafe (log 13). -/
def Route.bindDoor (r : Route) (door : Nat) (notifyAll : Bool) : Route :=
  if r.state = .unset then
    { r with door := some door, notifyAll := notifyAll, state := .idle, queue := [], stay := false, loaded := 0 }
  else { r with door := some door, notifyAll := notifyAll }

/-- ROUTE SET (R7). -/
def execRouteSet (h : Head) (door : Byte) (notifyAll : Option Bool) (s : State) : Outcome :=
  request 0x13 h 2 (fun t =>
    onSailing h (Head.routeInRange h && decide (door.toNat < 6) && notifyAll.isSome) t
      (fun b => [(t.doorOfBerth door.toNat b, .badField),
        (t.routeState (Head.routeOf h b) != .loading && (t.routeCart (Head.routeOf h b)).isNone, .inUse)])
      (fun b => (t.modifyRoute (Head.routeOf h b) (fun r => r.bindDoor door.toNat (notifyAll.getD false)),
        Answer.done .empty))) s

end Sys2Proof.Machine
end

