-- ==== Sys2Proof/Machine/Cabins.lean ====
section
/-! DEFINITION. The requests on cabins (01): CABIN PUT, CABIN GET, CABIN DROP, CABIN FORWARD, GUEST STATUS. -/

namespace Sys2Proof.Machine

/-- The cabin a request's key names, in a slot. -/
def Head.cabinOf (h : Head) (b : SlotId) : CabinKey := ⟨b, h.key.cabin⟩

/-- Whether a request's key names a cabin number. -/
def Head.cabinInRange (h : Head) : Bool := decide (h.key.cabin ≠ 0)

/-- A cabin as CABIN GET returns it (R15). -/
def Cabin.view (c : Cabin) (k : CabinKey) : CabinView :=
  ⟨k, c.route, c.allowance, c.status, c.forward, c.forwardedIn, c.liveBags, c.aboard, c.pull, c.pullStart, c.guests⟩

/-- The answer that carries a cabin as it stands. -/
def State.cabinAnswer (s : State) (k : CabinKey) : Answer :=
  match s.store.cabin? k with
  | some c => Answer.done (.cabin (c.view k))
  | none => Answer.refuse .notFound

/-- Whether a cabin exists. -/
def State.hasCabin (s : State) (k : CabinKey) : Bool := (s.store.cabin? k).isSome

/-! ## CABIN PUT (R14) -/

/-- A guest put in its place in rising guest slot order. -/
def insertGuest (g : Guest) : List Guest → List Guest
  | [] => [g]
  | x :: t => if g.slot < x.slot then g :: x :: t else x :: insertGuest g t

/-- The state a guest enters with: its own where slot and number both match a guest already in the cabin, else EXPECTED. -/
def carriedState (old : List Guest) (slot : Nat) (number : BitVec 32) : GuestState :=
  match old.find? (fun g => g.slot == slot && g.number == number) with
  | some g => g.state
  | none => .expected

/-- The guest list of CABIN PUT over the old list, in rising guest slot order (R14). -/
def guestList (old : List Guest) (given : List (Byte × BitVec 32)) : List Guest :=
  given.foldr (fun e l => insertGuest ⟨e.1.toNat, e.2, carriedState old e.1.toNat e.2⟩ l) []

/-- The guest list given is 1 to 4 entries with different slots 1 to 4 (R14). DESIGN CHOICE: a list of no entries, of more than
four or with a guest slot twice fails the range test of R3, before its other tests, and not a test of R14's own after them;
unsafe (log 50). -/
def guestsOk (given : List (Byte × BitVec 32)) : Bool :=
  inRange 1 given.length 4 && given.all (fun e => inRange 1 e.1.toNat 4) && decide (given.map (·.1)).Nodup

/-- The first place from `n` on, of `fuel` places wrapping at the pool's end, that no cabin of a list holds. -/
def freePlaceFrom (cabins : Table Cabin) (n : Nat) : Nat → Nat
  | 0 => n
  | fuel + 1 =>
    if cabins.any (fun e => e.2.place == n) then freePlaceFrom cabins ((n + 1) % cabinRecords) fuel else n

/-- The record of the pool that a new cabin takes: any free one may be it (free value, log 7). -/
def State.newPlace (s : State) : Nat :=
  freePlaceFrom s.store.cabins (Config.cabinPlace s.freeCount % cabinRecords) cabinRecords

/-- A new cabin (R10). -/
def State.newCabin (s : State) (route allowance : Nat) (given : List (Byte × BitVec 32)) : Cabin :=
  ⟨route, allowance, guestList [] given, none, 0, 0, 0, .noPull, none, s.newPlace⟩

/-- A cabin is created (R10, R14). -/
def State.createCabin (s : State) (k : CabinKey) (route allowance : Nat) (given : List (Byte × BitVec 32)) : State :=
  (s.setStore { s.store with cabins := s.store.cabins.put k.code (s.newCabin route allowance given) }).setFreeCount
    (s.freeCount + 1)

/-- A cabin is replaced in place (R14). -/
def State.replaceCabin (s : State) (k : CabinKey) (route allowance : Nat) (given : List (Byte × BitVec 32)) : State :=
  s.changeCabin k (fun c => { c with route := route, allowance := allowance, guests := guestList c.guests given })

/-- The rule of CABIN PUT after the tests of R3 (R14). -/
def State.putCabin (s : State) (k : CabinKey) (route allowance : Nat) (given : List (Byte × BitVec 32)) :
    State × Answer :=
  match s.store.cabin? k with
  | none =>
    let t := s.createCabin k route allowance given
    guarded [(decide (s.store.cabins.length < cabinRecords), .full)] s (t, t.cabinAnswer k)
  | some c =>
    let t := s.replaceCabin k route allowance given
    guarded [(decide (c.liveBags ≤ allowance), .allowance)] s (t, t.cabinAnswer k)

/-- CABIN PUT (R14); the guest list is tested among the fields (log 50). -/
def execCabinPut (h : Head) (route allowance : Byte) (guests : List (Byte × BitVec 32)) (s : State) : Outcome :=
  request 0x18 h (3 + 5 * guests.length) (fun t =>
    onSailing h (Head.cabinInRange h && decide (route.toNat < 12) && inRange 1 allowance.toNat 15 && guestsOk guests) t
      (fun _ => [])
      (fun b => t.putCabin (Head.cabinOf h b) route.toNat allowance.toNat guests)) s

/-! ## CABIN GET (R15) -/

/-- CABIN GET (R15). -/
def execCabinGet (h : Head) (s : State) : Outcome :=
  request 0x19 h 0 (fun t =>
    onSailing h (Head.cabinInRange h) t (fun b => [(t.hasCabin (Head.cabinOf h b), .notFound)])
      (fun b => (t, t.cabinAnswer (Head.cabinOf h b)))) s

/-! ## CABIN DROP (R16) -/

/-- Whether a cabin may be dropped (R16). -/
def State.droppable (s : State) (k : CabinKey) : Bool :=
  match s.store.cabin? k with
  | some c => decide (c.liveBags = 0) && c.forward.isNone && decide (c.forwardedIn = 0)
  | none => false

/-- A cabin retires: its record returns to the pool, and the mode follows (R16, R167). -/
def State.dropCabin (s : State) (k : CabinKey) : State :=
  (s.setStore { s.store with cabins := s.store.cabins.erase k.code }).setMode

/-- CABIN DROP (R16). -/
def execCabinDrop (h : Head) (s : State) : Outcome :=
  request 0x1A h 0 (fun t =>
    onSailing h (Head.cabinInRange h) t
      (fun b => [(t.hasCabin (Head.cabinOf h b), .notFound), (t.droppable (Head.cabinOf h b), .openBags)])
      (fun b => (t.dropCabin (Head.cabinOf h b), Answer.done .empty))) s

/-! ## CABIN FORWARD (R18) -/

/-- A cabin's forwarded-in count rises by 1. -/
def State.gainForward (s : State) (k : CabinKey) : State :=
  s.setStore (s.store.modifyCabin k (fun c => { c with forwardedIn := c.forwardedIn + 1 }))

/-- A cabin's forwarded-in count falls by 1. -/
def State.loseForward (s : State) (k : CabinKey) : State :=
  s.setStore (s.store.modifyCabin k (fun c => { c with forwardedIn := c.forwardedIn - 1 }))

/-- A cabin's forward target is replaced or removed, the counts of the old and the new target with it (R18). -/
def State.forwardCabin (s : State) (k : CabinKey) (target : Option Nat) : State :=
  match s.store.cabin? k with
  | none => s
  | some c =>
    if c.forward = target then s
    else
      let s1 := match c.forward with
        | some n => s.loseForward ⟨k.slot, n⟩
        | none => s
      let s2 := s1.changeCabin k (fun c => { c with forward := target })
      match target with
      | some n => s2.gainForward ⟨k.slot, n⟩
      | none => s2

/-- The tests of CABIN FORWARD (R18). DESIGN CHOICE: the source is tested also where the request carries none, of which R18 does not
say so; unsafe (log 46). -/
def forwardTests (s : State) (k : CabinKey) (target : Nat) : List (Bool × Result) :=
  let aim : CabinKey := ⟨k.slot, target⟩
  [(s.hasCabin k, .notFound)] ++
  (if target = 0 then []
   else
    [(s.hasCabin aim, .notFound), (decide (target ≠ k.number), .chain),
     ((s.store.cabin? aim).all (fun c => c.forward.isNone), .chain),
     ((s.store.cabin? k).all (fun c => decide (c.forwardedIn = 0)), .chain),
     ((s.store.cabin? aim).all (fun c => c.status != .void), .voidTarget)])

/-- CABIN FORWARD; target 0 is none (R18, R182). -/
def execCabinForward (h : Head) (target : BitVec 16) (s : State) : Outcome :=
  request 0x1B h 2 (fun t =>
    onSailing h (Head.cabinInRange h) t (fun b => forwardTests t (Head.cabinOf h b) target.toNat)
      (fun b => (t.forwardCabin (Head.cabinOf h b) (if target.toNat = 0 then none else some target.toNat),
        Answer.done .empty))) s

/-! ## GUEST STATUS (R19) -/

/-- Whether a cabin has a guest with a guest slot. -/
def State.hasGuest (s : State) (k : CabinKey) (slot : Nat) : Bool :=
  match s.store.cabin? k with
  | some c => c.guests.any (fun g => g.slot == slot)
  | none => false

/-- A guest's state is set. -/
def Cabin.setGuest (c : Cabin) (slot : Nat) (v : GuestState) : Cabin :=
  { c with guests := c.guests.map (fun g => if g.slot = slot then { g with state := v } else g) }

/-- GUEST STATUS (R19). -/
def execGuestStatus (h : Head) (guest : Byte) (state : Option GuestState) (s : State) : Outcome :=
  request 0x1C h 2 (fun t =>
    onSailing h (Head.cabinInRange h && inRange 1 guest.toNat 4 && state.isSome) t
      (fun b => [(t.hasCabin (Head.cabinOf h b), .notFound), (t.hasGuest (Head.cabinOf h b) guest.toNat, .notFound)])
      (fun b => (t.changeCabin (Head.cabinOf h b) (fun c => c.setGuest guest.toNat (state.getD .expected)),
        Answer.done .empty))) s

end Sys2Proof.Machine
end

