-- ==== Sys2Proof/Machine/Bags.lean ====
section
/-! DEFINITION. The requests on bags (02, 08, 09): BAG REGISTER, GET, REASSIGN, HOLD, RELEASE, PULL, RETIRE, OFFLOAD CONFIRM
and BAG UNLOAD. -/

namespace Sys2Proof.Machine

/-! ## Answers -/

/-- The governing cabin's number and status, as BAG GET gives them (R37). -/
def State.governingView (s : State) (b : Bag) : Option (Nat × CabinStatus) :=
  match s.store.governingKey b, s.store.governing b with
  | some k, some c => some (k.number, c.status)
  | _, _ => none

/-- A bag as BAG GET returns it (R37). -/
def State.bagView (s : State) (h : Handle) (b : Bag) : BagView :=
  ⟨h, b.tag, b.home, s.governingView b, b.state, b.location, b.laps, b.pull, b.hold, b.recheck, b.reinduct, b.aged,
    b.reason, b.entered⟩

/-- The answer DONE of a request on a bag that its tests found live, with the bag as it stands. -/
def State.bagAnswer (s : State) (h : Handle) : Answer :=
  Answer.done (match s.bag? h with
    | some b => .bag (s.bagView h b)
    | none => .handle h)

/-- The state of a bag, where it is live. -/
def State.bagState (s : State) (h : Handle) : Option BagState := (s.bag? h).map (·.state)

/-- Whether a bag is live in one of some states. -/
def State.bagIn (s : State) (h : Handle) (l : List BagState) : Bool :=
  match s.bagState h with
  | some x => l.contains x
  | none => false

/-- A request that names a bag by handle: the tests of R35, its own tests, then its effect, answered with the bag as it then
stands. -/
def onBag (h : Head) (fields : Bool) (s : State) (own : List (Bool × Result)) (t : State) : State × Answer :=
  guarded (bagTests s h.key.handle fields ++ own) s (t, t.bagAnswer h.key.handle)

/-- A request that retires the bag it names: the tests of R35, its own tests, then the retirement, answered with the retired
handle. -/
def retiring (h : Head) (fields : Bool) (s : State) (own : List (Bool × Result)) : State × Answer :=
  guarded (bagTests s h.key.handle fields ++ own) s (s.retireBag h.key.handle, Answer.done (.handle h.key.handle))

/-- The tests of a request that takes a bag into a named pen position, after those of R35 (R139, R151). DESIGN CHOICE: a position of
128 or more fails here, not the field test of R35; unsafe (log 48). -/
def penTests (s : State) (position : Nat) (stateOk : Bool) : List (Bool × Result) :=
  [(s.isPosition position, .badField), (stateOk, .wrongState), (s.positionFree position, .inUse),
   (decide (1 ≤ s.penRoom), .full)]

/-- A bag's stray reason is set. -/
def State.setReason (s : State) (h : Handle) (r : StrayReason) : State :=
  s.modifyBag h (fun b => { b with reason := some r })

/-! ## BAG REGISTER, BAG GET, BAG REASSIGN (R36 to R38) -/

/-- The record BAG REGISTER creates, before its PULL flag (R36). -/
def registeredBag (tag : Nat) (k : CabinKey) : Bag := { Bag.blank .registered none with tag := some tag, home := some k }

/-- The tests of BAG REGISTER after R3 (R36). -/
def registerTests (s : State) (k : CabinKey) (tag : Nat) : List (Bool × Result) :=
  [(tagInRange tag, .badField), (s.hasCabin k, .notFound), (!s.store.tagMap.has tag, .exists_),
   ((s.store.cabin? k).all (fun c => decide (c.liveBags < c.allowance)), .allowance),
   (decide (s.store.bags.length < bagRecords), .full)]

/-- The effect of BAG REGISTER (R36). -/
def State.register (s : State) (k : CabinKey) (tag : Nat) : State × Answer :=
  match s.createBag (registeredBag tag k) with
  | some (h, t) => (t.demandCheck h, Answer.done (.handle h))
  | none => (s, Answer.refuse .full)

/-- BAG REGISTER (R36). -/
def execBagRegister (h : Head) (tag : BitVec 32) (s : State) : Outcome :=
  request 0x20 h 4 (fun t =>
    onSailing h (Head.cabinInRange h) t (fun b => registerTests t (Head.cabinOf h b) tag.toNat)
      (fun b => t.register (Head.cabinOf h b) tag.toNat)) s

/-- BAG GET by tag (R35, R37). -/
def State.getByTag (s : State) (tag : Nat) : State × Answer :=
  guarded [(tagInRange tag, .badField), (s.opState != .setup, .wrongState)] s
    (s, match s.store.lookup tag with
      | .unknown => Answer.refuse .notFound
      | .closedTag => Answer.refuse .sailingBusy
      | .found h b => Answer.done (.bag (s.bagView h b)))

/-- BAG GET (R37). -/
def execBagGet (h : Head) (form : Option BagKeyForm) (s : State) : Outcome :=
  request 0x21 (h.forBagGet form) 1 (fun t =>
    match form with
    | none => (t, Answer.refuse .badField)
    | some .tag => t.getByTag h.key.tag
    | some .handle => onBag h true t [] t) s

/-- The cabin BAG REASSIGN names, where its fields are in range. -/
def reassignTarget (slot : Byte) (cabin : BitVec 16) : Option CabinKey :=
  if cabin.toNat = 0 then none else (SlotId.ofNat? slot.toNat).map (fun b => ⟨b, cabin.toNat⟩)

/-- The bag's present cabin is the one named, or the one named has room (R38). -/
def State.roomFor (s : State) (h : Handle) (k : CabinKey) : Bool :=
  (s.bag? h).any (fun b => b.home == some k) || (s.store.cabin? k).all (fun c => decide (c.liveBags < c.allowance))

/-- The effect of BAG REASSIGN; the PULL flag follows the new governing cabin in every state (R26, R38, log 15). -/
def State.reassign (s : State) (h : Handle) (k : CabinKey) : State :=
  if (s.bag? h).any (fun b => b.home == some k) then s
  else ((s.setStore (s.store.assign h k)).demandCheck h).reconcile h

/-- BAG REASSIGN (R38). -/
def execBagReassign (h : Head) (slot : Byte) (cabin : BitVec 16) (s : State) : Outcome :=
  request 0x22 h 3 (fun t =>
    match reassignTarget slot cabin with
    | none => (t, Answer.refuse .badField)
    | some k =>
      onBag h true t
        (sailingTests t k.slot ++
          [(t.bagIn h.key.handle [.registered, .onLoop, .stray, .missing], .wrongState), (t.hasCabin k, .notFound),
           (t.roomFor h.key.handle k, .allowance)])
        (t.reassign h.key.handle k)) s

/-! ## BAG HOLD, BAG RELEASE, BAG PULL, BAG RETIRE (R39 to R41, R150) -/

/-- BAG HOLD (R39). -/
def execBagHold (h : Head) (s : State) : Outcome :=
  request 0x23 h 0 (fun t =>
    onBag h true t [(t.bagIn h.key.handle [.registered, .onLoop, .stray, .missing], .wrongState)]
      (t.modifyBag h.key.handle (fun b => { b with hold := true }))) s

/-- A bag as BAG RELEASE leaves it, `void` telling whether its governing cabin is VOID (R40). -/
def Bag.release (b : Bag) (void : Bool) : Bag :=
  { b with
    hold := false
    pull := if b.pull = some .request then (if void then some .cabin else none) else b.pull }

/-- BAG RELEASE (R40). -/
def execBagRelease (h : Head) (s : State) : Outcome :=
  request 0x24 h 0 (fun t =>
    onBag h true t [] (t.modifyBag h.key.handle (fun b => b.release (t.store.governedVoid b)))) s

/-- The effect of BAG PULL (R150). -/
def State.pullBag (s : State) (h : Handle) : State :=
  match s.bag? h with
  | none => s
  | some b =>
    if b.pull = some .request then s
    else
      let s1 := s.modifyBag h (fun b => { b with pull := some .request })
      if b.state = .aboard then s1.offloadBag h else s1

/-- BAG PULL (R150). -/
def execBagPull (h : Head) (s : State) : Outcome :=
  request 0x25 h 0 (fun t => onBag h true t [] (t.pullBag h.key.handle)) s

/-- BAG RETIRE (R41). -/
def execBagRetire (h : Head) (s : State) : Outcome :=
  request 0x26 h 0 (fun t =>
    retiring h true t [(t.bagIn h.key.handle [.registered, .missing, .stray, .offload], .wrongState)]) s

/-! ## OFFLOAD CONFIRM, BAG UNLOAD (R139, R151) -/

/-- OFFLOAD CONFIRM with RETIRE, `known` telling whether the outcome byte is in its table (R151, R182). -/
def execOffloadConfirmRetire (h : Head) (known : Bool) (_position : Byte) (s : State) : Outcome :=
  request 0x27 h 2 (fun t => retiring h known t [(t.bagIn h.key.handle [.offload], .wrongState)]) s

/-- OFFLOAD CONFIRM with PEN (R151). -/
def execOffloadConfirmPen (h : Head) (position : Byte) (s : State) : Outcome :=
  request 0x27 h 2 (fun t =>
    onBag h true t (penTests t position.toNat (t.bagIn h.key.handle [.offload]))
      ((t.intake h.key.handle position.toNat).setReason h.key.handle .pulled)) s

/-- The effect of BAG UNLOAD (R139). -/
def State.unload (s : State) (h : Handle) (position : Nat) : State :=
  match (s.bag? h).bind Bag.cart? with
  | none => s
  | some n => (((s.dropEntry n h).intake h position).setReason h .pulled).testCart n

/-- BAG UNLOAD (R139). -/
def execBagUnload (h : Head) (position : Byte) (s : State) : Outcome :=
  request 0x28 h 1 (fun t =>
    onBag h true t (penTests t position.toNat (t.bagIn h.key.handle [.inCart]))
      (t.unload h.key.handle position.toNat)) s

end Sys2Proof.Machine
end

