-- ==== Sys2Proof/Machine/Setup.lean ====
section
/-! DEFINITION. The setup requests (12): configuration, RUN, HALL CLEAR, HALL REST, WAKE and HALL TIME. -/

namespace Sys2Proof.Machine

/-- An object or source key names a number below a bound. -/
def Key.below (k : Key) (bound : Nat) : Bool := decide (k.number < bound)

/-- The greatest node number (R42). -/
def maxNode : Nat := 32

/-- Whether a walk is the clear walk. -/
def State.clearWalk (s : State) : Bool := s.sweep.walk.any (fun w => w.kind == .clear)

/-- The tests of a configuration request: range, SETUP, and, where it changes geometry, pen or doors, no clear walk (R176). -/
def configTests (s : State) (fields busy : Bool) : List (Bool × Result) :=
  [(fields, .badField), (s.opState == .setup, .wrongState), (!(busy && s.clearWalk), .busy)]

/-! ## CONFIG LOOP (R61, R154, R157) -/

/-- P becomes a number; a change of P releases a standing pen hold (R157, log 19). -/
def State.setPenSize (s : State) (n : Nat) : State :=
  if n = s.pen.size then s
  else
    let s1 := s.setPen { s.pen with size := n, hold := false }
    if s.pen.hold then s1.putCauseAll .pen false else s1

/-- The effect of CONFIG LOOP (R61, R154). -/
def State.configLoop (s : State) (n p : Nat) : State :=
  (s.setLoop { s.loop with carriers := List.replicate n Carrier.reset, pos := 0 }).setPenSize p

/-- CONFIG LOOP (R61, R176). -/
def execConfigLoop (h : Head) (carriers : BitVec 16) (positions : Byte) (s : State) : Outcome :=
  request 0x01 h 3 (fun t =>
    guarded (configTests t (inRange 64 carriers.toNat 512 && inRange 16 positions.toNat 128) true) t
      (t.configLoop carriers.toNat positions.toNat, Answer.done .empty)) s

/-! ## CONFIG INDUCTION, CONFIG ARCH, CONFIG CHUTE, CONFIG DOOR (R60, R77, R108, R132, R176) -/

/-- An object is configured, or, with node 0, removed (R176). DEDUCED: node 0 for an object that is not configured removes nothing
and is answered DONE, since R176's table names no refusal for it; unsafe (log 58). -/
def configure {α : Type} (t : Table α) (i node : Nat) (v : α) : Table α := if node = 0 then t.erase i else t.put i v

/-- The hold causes of a point that CONFIG INDUCTION creates or replaces (R77). -/
def State.freshCauses (s : State) : HoldSet := ⟨true, s.pen.hold, s.store.low, true, true⟩

/-- An induction point is configured or removed; its level is HOLD (R77). -/
def State.configInduction (s : State) (i offset node : Nat) : State :=
  let p : Induction := ⟨offset, node, s.freshCauses, false⟩
  s.setLoop { s.loop with points := configure s.loop.points i node p }

/-- An arch is configured or removed. -/
def State.configArch (s : State) (i offset node : Nat) : State :=
  let a : Arch := ⟨offset, node⟩
  s.setLoop { s.loop with arches := configure s.loop.arches i node a }

/-- CONFIG INDUCTION (R61, R77, R176). DEDUCED: the point's number stands in the key in the object form; unsafe (log 49). -/
def execConfigInduction (h : Head) (offset : BitVec 16) (node : Byte) (s : State) : Outcome :=
  request 0x02 h 3 (fun t =>
    guarded (configTests t (Key.below h.key 6 && decide (node.toNat ≤ maxNode)) false) t
      (t.configInduction h.key.number offset.toNat node.toNat, Answer.done .empty)) s

/-- CONFIG ARCH (R61, R176). DEDUCED: the arch's number stands in the key in the object form; unsafe (log 49). -/
def execConfigArch (h : Head) (offset : BitVec 16) (node : Byte) (s : State) : Outcome :=
  request 0x03 h 3 (fun t =>
    guarded (configTests t (Key.below h.key 4 && decide (node.toNat ≤ maxNode)) false) t
      (t.configArch h.key.number offset.toNat node.toNat, Answer.done .empty)) s

/-- A chute record as CONFIG CHUTE makes it (R106, R108). -/
def Chute.fresh (kind : ChuteKind) (offset lead window capacity node : Nat) : Chute :=
  ⟨kind, offset, lead, window, capacity, node, none, .closed, 0, [], [], .empty, .empty, none, 0⟩

/-- CONFIG CHUTE (R108, R176). -/
def execConfigChute (h : Head) (kind : Option ChuteKind) (offset : BitVec 16) (lead window capacity node : Byte)
    (s : State) : Outcome :=
  request 0x04 h 7 (fun t =>
    guarded (configTests t (Key.below h.key 40 && kind.isSome && inRange 2 lead.toNat 16 && inRange 2 window.toNat 32 &&
        inRange 4 capacity.toNat 48 && decide (node.toNat ≤ maxNode)) true) t
      (t.setChutes (configure t.chutes h.key.number node.toNat
        (Chute.fresh (kind.getD .deck) offset.toNat lead.toNat window.toNat capacity.toNat node.toNat)),
        Answer.done .empty)) s

/-- CONFIG DOOR (R132, R176). -/
def execConfigDoor (h : Head) (berth : Option SlotId) (node : Byte) (s : State) : Outcome :=
  request 0x05 h 2 (fun t =>
    guarded (configTests t (Key.below h.key 6 && berth.isSome && decide (node.toNat ≤ maxNode)) true) t
      (t.setDoors (configure t.doors h.key.number node.toNat
        ⟨berth.getD .berthA, node.toNat, false, HaltSet.empty, none, none⟩), Answer.done .empty)) s

/-! ## CONFIG NODE (R42, R43) -/

/-- The objects a role admits: how many, and the bound of their numbers (R43, log 18). DESIGN CHOICE: a chute listed twice counts
twice and is not refused; unsafe (log 35). -/
def Role.admits (r : Role) (objects : List Byte) : Bool :=
  match r with
  | .loop | .encode => decide (objects.length ≤ 1) && objects.all (fun o => decide (o.toNat = 0))
  | .induct => decide (objects.length = 1) && objects.all (fun o => decide (o.toNat < 6))
  | .arch => decide (objects.length = 1) && objects.all (fun o => decide (o.toNat < 4))
  | .chute => inRange 1 objects.length 4 && objects.all (fun o => decide (o.toNat < 40))
  | .door => decide (objects.length = 1) && objects.all (fun o => decide (o.toNat < 6))

/-- Whether a node of the list, other than node `n`, serves one of some objects of a role, or has the one LOOP or ENCODE role
(R43). `i` is the number of the list's first node. -/
def othersServe (r : Role) (objects : List Nat) (n : Nat) : Nat → List Node → Bool
  | _, [] => false
  | i, x :: t =>
    (i != n && x.role == some r && (r == .loop || r == .encode || objects.any x.objects.contains)) ||
      othersServe r objects n (i + 1) t

/-- CONFIG NODE (R42, R43, R176). The node's outbound sequence is kept (log 18). -/
def execConfigNode (h : Head) (role : Option Role) (objects : List Byte) (s : State) : Outcome :=
  request 0x06 h (2 + objects.length) (fun t =>
    match role with
    | none => (t, Answer.refuse .badField)
    | some r =>
      let n := h.key.number
      let served := objects.map (·.toNat)
      guarded [(inRange 1 n maxNode && Role.admits r objects, .badField), (t.opState == .setup, .wrongState),
          (!othersServe r served n 1 t.link.nodes, .inUse)] t
        (t.modifyNode n (fun x => { x with
          role := some r, objects := served, state := .unheard, expected := none, lastHeard := none }),
          Answer.done .empty)) s

/-! ## CONFIG LIMITS (R25, R84, R85, R86, R106, R157, R176) -/

/-- The limits a CONFIG LIMITS carries. -/
def limitsOf (b : LimitsBody) : Limits :=
  ⟨b.recirc.toNat, b.confirm.toNat, b.loss.toNat, b.drift.toNat, b.failure.toNat, b.silence.toNat, b.penLow.toNat,
    b.strayAge.toNat, b.patrolRate.toNat⟩

/-- The ranges of R176's table. -/
def Limits.inRange (l : Limits) : Bool :=
  Machine.inRange 1 l.recirc 15 && Machine.inRange 4 l.confirm 64 && Machine.inRange 1 l.loss 15 &&
  Machine.inRange 2 l.drift 8 && Machine.inRange 1 l.failure 7 && Machine.inRange 1 l.silence 60 &&
  Machine.inRange 0 l.penLow 32 && Machine.inRange 1 l.strayAge 240 && Machine.inRange 16 l.patrolRate 1024

/-- A run or count at or above a new limit becomes the limit less 1 (R84, R85, R86, R106). DEDUCED: in FAILED tracking and for a chute in
FAULT too; unsafe (log 26). -/
def belowLimit (n limit : Nat) : Nat := if limit ≤ n then limit - 1 else n

/-- The limits are replaced, with the adjustments their owning rules give (R176). -/
def State.configLimits (s : State) (l : Limits) : State :=
  let s1 := s.setLimits l
  let s2 := s1.setLoop { s1.loop with
    lossCount := belowLimit s1.loop.lossCount l.loss
    confirmRun := belowLimit s1.loop.confirmRun l.confirm
    mismatchRun := belowLimit s1.loop.mismatchRun l.drift }
  let s3 := s2.setChutes (s2.chutes.mapValues (fun c => { c with failures := belowLimit c.failures l.failure }))
  let s4 := s3.setStore { s3.store with
    bags := s3.store.bags.mapValues (fun b => { b with laps := min b.laps l.recirc }) }
  if l.penLow = s.limits.penLow then s4 else s4.testPenHold

/-- CONFIG LIMITS (R176). -/
def execConfigLimits (h : Head) (body : LimitsBody) (s : State) : Outcome :=
  request 0x07 h 10 (fun t =>
    guarded [((limitsOf body).inRange, .badField), (t.opState != .rest, .wrongState)] t
      (t.configLimits (limitsOf body), Answer.done (.limits (t.configLimits (limitsOf body)).limits))) s

/-! ## RUN (R177) -/

/-- Whether an object is served by a node of its role, and that node is the one its configuration request names. -/
def State.bound (s : State) (r : Role) (object node : Nat) : Bool := s.servingNode r object == some node

/-- The first object of a table that fails a test. -/
def firstBad {α : Type} (kind : ObjectKind) (t : Table α) (ok : Nat → α → Bool) : Option (ObjectKind × Nat) :=
  (t.find? (fun e => !ok e.1 e.2)).map (fun e => (kind, e.1))

/-- Test 1 of RUN: induction points, then arches, then chutes. -/
def State.unserved (s : State) : Option (ObjectKind × Nat) :=
  firstBad .induction s.loop.points (fun i p => s.bound .induct i p.node) <|>
  firstBad .arch s.loop.arches (fun i a => s.bound .arch i a.node) <|>
  firstBad .chute s.chutes (fun i c => s.bound .chute i c.node)

/-- Test 2 of RUN: every offset, and every chute's offset plus 1, is below N. DESIGN CHOICE: the object named is the first of the
induction points, then the arches, then the chutes, as test 1 lists them; unsafe (log 39). -/
def State.offLoop (s : State) : Option (ObjectKind × Nat) :=
  firstBad .induction s.loop.points (fun _ p => decide (p.offset < s.carrierCount)) <|>
  firstBad .arch s.loop.arches (fun _ a => decide (a.offset < s.carrierCount)) <|>
  firstBad .chute s.chutes (fun _ c => decide (c.offset + 1 < s.carrierCount))

/-- The number of STRAY chutes. -/
def State.strayChutes (s : State) : Nat := (s.chutes.filter (fun e => e.2.kind == .stray)).length

/-- Test 5 of RUN. -/
def State.unservedDoor (s : State) : Option (ObjectKind × Nat) :=
  firstBad .door s.doors (fun i d => s.bound .door i d.node)

/-- The first faulty item of the configuration: the test, and the object where the test has one (R177, log 24). -/
def State.badConfig (s : State) : Option (Nat × Option (ObjectKind × Nat)) :=
  match s.unserved with
  | some o => some (1, some o)
  | none =>
    match s.offLoop with
    | some o => some (2, some o)
    | none =>
      if s.loop.arches.isEmpty then some (3, none)
      else if !inRange 1 s.strayChutes 2 then some (4, none)
      else s.unservedDoor.map (fun o => (5, some o))

/-- The part enters RUN from SETUP (R177). -/
def State.enterRun (s : State) : State :=
  let s1 := s.setOpState .run
  ((s1.setLoop s1.loop.anchor).putCauseAll .state false).setBelts

/-- RUN (R177). -/
def execRun (h : Head) (s : State) : Outcome :=
  request 0x08 h 0 (fun t =>
    guarded [(t.opState == .setup, .wrongState), (!t.clearWalk, .busy)] t
      (match t.badConfig with
       | some (n, o) => (t, ⟨.badConfig, .badConfig n o⟩)
       | none => (t.enterRun, Answer.done .empty))) s

/-! ## HALL CLEAR, HALL REST, WAKE, HALL TIME (R171, R178) -/

/-- Every configured node becomes UNHEARD, and S is absent (R42, R53). -/
def Link.unhear (l : Link) : Link :=
  { l with
    nodes := l.nodes.map (fun n =>
      if n.role.isSome then { n with state := .unheard, expected := none, lastHeard := none } else n)
    stampRef := none
    lastPitch := none }

/-- A slot that is not FREE becomes CLOSING (R171). -/
def Sailing.close (v : Sailing) : Sailing := if v.state = .free then v else { v with state := .closing }

/-- The carrier table and tracker at HALL CLEAR: UNKNOWN carriers become EMPTY, armed chutes are removed (R62, R63, R81). -/
def Loop.clear (l : Loop) : Loop :=
  { l.anchor with
    lossCount := 0
    carriers := l.carriers.map (fun c => ⟨if c.content = .unknown then .empty else c.content, none⟩) }

/-- A chute at HALL CLEAR (R106, R108). -/
def Chute.clear (c : Chute) : Chute := { c with state := .closed, assigned := none, reserved := 0, failures := 0 }

/-- A door at HALL CLEAR, before its belt is set (R132). -/
def Door.clear (d : Door) : Door := { d with halts := HaltSet.empty, lastServed := none }

/-- Every induction point takes STATE, TRACKING and NODE (R77, log 16). -/
def State.holdAll (s : State) : State :=
  ((s.putCauseAll .state true).putCauseAll .tracking true).putCauseAll .node true

/-- What HALL CLEAR does within the request (R171 and the rules it names). -/
def State.hallClear (s : State) : State :=
  let s1 := s.setOpState .setup
  let s2 := s1.setStore { s1.store with slotA := s1.store.slotA.close, slotB := s1.store.slotB.close }
  let s3 := (s2.setLoop s2.loop.clear).setLink s2.link.unhear
  let s4 := (s3.setChutes (s3.chutes.mapValues Chute.clear)).setRoutes (s3.routes.map (fun r => { r with chutes := [] }))
  let s5 := s4.setDoors (s4.doors.mapValues Door.clear)
  let s6 := s5.setSweep { s5.sweep with walk := some ⟨.clear, 0⟩ }
  (s6.holdAll.settleCuts (s6.chutes.map (·.1))).setBelts

/-- HALL CLEAR (R171, R178). -/
def execHallClear (h : Head) (s : State) : Outcome :=
  request 0x09 h 0 (fun t =>
    guarded [(t.sweep.walk.isNone, .busy)] t (t.hallClear, ⟨.accepted, .empty⟩)) s

/-- Whether a close walk runs. -/
def State.closeWalk (s : State) : Bool := s.sweep.walk.any (fun w => w.kind != .clear)

/-- The part enters REST (R178). -/
def State.enterRest (s : State) : State :=
  let s1 := s.setOpState .rest
  (((s1.setLoop s1.loop.anchor).putCauseAll .state true).putCauseAll .tracking true).setBelts

/-- HALL REST (R178). -/
def execHallRest (h : Head) (s : State) : Outcome :=
  request 0x0A h 0 (fun t =>
    guarded [(t.opState == .run, .wrongState), (!t.closeWalk, .busy),
        (t.routes.all (fun r => r.state != .loading) && t.loop.carriers.all (fun c => c.armed.isNone), .inUse)] t
      (t.enterRest, Answer.done .empty)) s

/-- What WAKE and a waking LOOP frame do (R178, R45); every point takes NODE, its node being UNHEARD (R78). -/
def State.wake (s : State) : State :=
  let s1 := (s.setLink s.link.unhear).setOpState .run
  ((((s1.setLoop s1.loop.anchor).putCauseAll .tracking true).putCauseAll .node true).putCauseAll .state false).setBelts

/-- WAKE (R178). -/
def execWake (h : Head) (s : State) : Outcome :=
  request 0x0B h 0 (fun t =>
    guarded [(t.opState == .rest, .wrongState)] t (t.wake, Answer.done .empty)) s

/-- HALL TIME (R178). -/
def execHallTime (h : Head) (s : State) : Outcome :=
  request 0x0C h 0 (fun t =>
    (t, Answer.done (.time t.hallSecond t.opState t.sweep.pos t.sweep.mode (t.sweep.walk.map (·.kind))))) s

end Sys2Proof.Machine
end

