-- ==== Sys2Proof/Machine/LoopCmds.lean ====
section
/-! DEFINITION. The requests on the loop (04, 05): LOOP GET, CARRIER GET, TRACKING RESET, TRACKING RESUME. -/

namespace Sys2Proof.Machine

/-! ## LOOP GET, CARRIER GET (R79, R80) -/

/-- Whether a carrier is LOADED. -/
def Carrier.isLoaded (c : Carrier) : Bool := c.content.bag?.isSome

/-- The loop as LOOP GET gives it (R79); the points and the arches stand in rising number, the model's choice (log 51). -/
def State.loopView (s : State) : LoopView :=
  ⟨s.carrierCount, s.loop.pos, s.link.stampRef.map (·.toNat), s.loop.track, s.loop.lossCount, s.loop.confirmRun,
    s.loop.mismatchRun, s.loop.homeMark, s.loop.points.map (fun e => (e.1, e.2.offset, e.2.go, e.2.causes)),
    s.loop.arches.map (fun e => (e.1, e.2.offset)), (s.loop.carriers.filter Carrier.isLoaded).length,
    (s.loop.carriers.filter (fun c => c.content == .unknown)).length,
    (s.loop.carriers.filter (fun c => c.armed.isSome)).length⟩

/-- LOOP GET (R79). -/
def execLoopGet (h : Head) (s : State) : Outcome :=
  request 0x30 h 0 (fun t => (t, Answer.done (.loop t.loopView))) s

/-- A carrier as CARRIER GET gives it (R80). -/
def State.carrierAnswer (s : State) (n : Nat) : Answer :=
  match s.carrier? n with
  | some c => Answer.done (.carrier ⟨n, c.content, c.armed.map (·.chute), s.wrap ((s.loop.pos : Int) - (n : Int))⟩)
  | none => Answer.refuse .badField

/-- CARRIER GET (R80). -/
def execCarrierGet (h : Head) (s : State) : Outcome :=
  request 0x31 h 0 (fun t => (t, t.carrierAnswer h.key.number)) s

/-! ## TRACKING RESET, TRACKING RESUME (R91, R92) -/

/-- A carrier's part of TRACKING RESET: it is disarmed, its chute taking the release; its bag becomes MISSING; it is EMPTY
(R92). -/
def State.resetCarrier (s : State) (c : Nat) : State :=
  match s.carrier? c with
  | none => s
  | some e =>
    let s1 := match e.armed with
      | some m => (s.disarm c m.chute).settleCut m.chute
      | none => s
    let s2 := match e.content with
      | .loaded h => s1.makeMissing h
      | _ => s1
    s2.setContent c .empty

/-- Some carriers' parts of TRACKING RESET, in turn. -/
def State.resetCarriers (s : State) : List Nat → State
  | [] => s
  | c :: t => (s.resetCarrier c).resetCarriers t

/-- The effect of TRACKING RESET (R92). -/
def State.trackingReset (s : State) : State :=
  let s1 := s.resetCarriers (List.range s.carrierCount)
  let s2 := s1.setLoop { s1.loop.anchor with lossCount := 0 }
  if s.loop.track = .tracking then s2.putCauseAll .tracking true else s2

/-- TRACKING RESET (R92). -/
def execTrackingReset (h : Head) (s : State) : Outcome :=
  request 0x32 h 0 (fun t =>
    guarded [(t.opState != .setup, .wrongState)] t
      (t.trackingReset, Answer.done (.trackingReset (t.loop.carriers.filter Carrier.isLoaded).length
        (t.loop.carriers.filter (fun c => c.armed.isSome)).length))) s

/-- TRACKING RESUME (R91). -/
def execTrackingResume (h : Head) (s : State) : Outcome :=
  request 0x33 h 0 (fun t =>
    guarded [(t.opState != .setup, .wrongState), (t.loop.track == .failed, .wrongState)] t
      (t.setLoop { t.loop.anchor with lossCount := 0 }, Answer.done .empty)) s

end Sys2Proof.Machine
end

