-- ==== Sys2Proof/Machine/Chutes.lean ====
section
/-! DEFINITION. The requests on chutes and carts (07): CHUTE ASSIGN, OPEN, CLOSE, GET, CART CUT, GET, CLEAR UNIDENTIFIED and
JAM CLEAR, with the completion of a cut. -/

namespace Sys2Proof.Machine

/-- A request on a configured chute: an unconfigured one is BAD_FIELD, then its own tests. -/
def onChute (h : Head) (s : State) (own : Chute → List (Bool × Result)) (act : Chute → State × Answer) :
    State × Answer :=
  match s.chute? h.key.number with
  | none => (s, Answer.refuse .badField)
  | some c => guarded (own c) s (act c)

/-- The serials of the carts standing at a chute. -/
def Chute.serials (c : Chute) : List Nat := c.posX.serial?.toList ++ c.posY.serial?.toList

/-! ## CHUTE ASSIGN (R110) -/

/-- A chute number put in its place in a rising chute list. -/
def insertChute (k : Nat) (l : List Nat) : List Nat := insertSubject k l

/-- The chute list of a route. -/
def State.routeChutes (s : State) (k : RouteKey) : List Nat :=
  match s.route? k with
  | some r => r.chutes
  | none => []

/-- Each of some carts takes a route. -/
def State.giveRoute (s : State) (k : RouteKey) : List Nat → State
  | [] => s
  | n :: t => (s.modifyCart n (fun c => { c with route := some k })).giveRoute k t

/-- The effect of CHUTE ASSIGN (R110). -/
def State.assignChute (s : State) (n : Nat) (c : Chute) (k : RouteKey) : State :=
  if c.assigned = some k then s
  else
    (((s.modifyChute n (fun c => { c with assigned := some k })).modifyRoute k
      (fun r => { r with chutes := insertChute n r.chutes })).giveRoute k c.serials)

/-- The tests of CHUTE ASSIGN after R3 (R110). -/
def assignTests (s : State) (n : Nat) (c : Chute) (k : RouteKey) : List (Bool × Result) :=
  [(c.kind == .deck, .wrongState), (c.assigned.all (· == k), .inUse),
   ((s.routeChutes k).contains n || decide ((s.routeChutes k).length < 4), .full)]

/-- CHUTE ASSIGN (R110). DESIGN CHOICE: a chute number of 40 or more fails R110's own first test, after those of R3, as a chute that
is not configured does; unsafe (log 54). -/
def execChuteAssign (h : Head) (slot route : Byte) (s : State) : Outcome :=
  request 0x38 h 2 (fun t =>
    match SlotId.ofNat? slot.toNat with
    | none => (t, Answer.refuse .badField)
    | some b =>
      guarded ((decide (route.toNat < 12), .badField) :: sailingTests t b) t
        (onChute h t (fun c => assignTests t h.key.number c ⟨b, route.toNat⟩)
          (fun c => (t.assignChute h.key.number c ⟨b, route.toNat⟩, Answer.done .empty)))) s

/-! ## CHUTE OPEN, CHUTE CLOSE (R111, R112) -/

/-- Whether a node is DOWN. -/
def State.nodeDown? (s : State) (n : Nat) : Bool :=
  match s.node? n with
  | some x => x.state == .down
  | none => false

/-- Whether a chute state is CLOSED or FAULT. -/
def shut : ChuteState → Bool
  | .closed => true
  | .fault _ => true
  | _ => false

/-- The effect of CHUTE OPEN (R109, R111). -/
def State.openChute (s : State) (n : Nat) (c : Chute) : State :=
  let s1 := s.modifyChute n (fun c => { c with failures := 0 })
  if shut c.state then
    if c.kind = .deck ∧ c.active = none then
      (s1.modifyChute n (fun c => { c with state := .blocked })).raise .chuteBlocked n
    else s1.modifyChute n (fun c => { c with state := .opened })
  else s1

/-- CHUTE OPEN (R111). -/
def execChuteOpen (h : Head) (s : State) : Outcome :=
  request 0x39 h 0 (fun t =>
    onChute h t (fun c => [(t.opState != .setup, .wrongState), (!t.nodeDown? c.node, .wrongState)])
      (fun c => (t.openChute h.key.number c, Answer.done .empty))) s

/-- CHUTE CLOSE (R112). -/
def execChuteClose (h : Head) (s : State) : Outcome :=
  request 0x3A h 0 (fun t =>
    onChute h t (fun _ => [(t.opState != .setup, .wrongState)])
      (fun _ => (t.modifyChute h.key.number (fun c => { c with state := .closed }), Answer.done .empty))) s

/-! ## CHUTE GET (R125) -/

/-- A chute as CHUTE GET gives it (R125). -/
def State.chuteView (s : State) (c : Chute) : ChuteView :=
  ⟨c.kind, c.assigned, c.state, c.offset, c.lead, c.window, c.capacity, c.node, c.reserved, c.landing.length,
    c.jams.length, c.failures, s.credit c, c.posX, c.posY, c.active, c.jams.take 8⟩

/-- CHUTE GET (R125). -/
def execChuteGet (h : Head) (s : State) : Outcome :=
  request 0x3B h 0 (fun t => onChute h t (fun _ => []) (fun c => (t, Answer.done (.chute (t.chuteView c))))) s

/-! ## CART CUT and its completion (R119) -/

/-- A chute's active cart that is not empty can be cut. -/
def State.cuttable (s : State) (c : Chute) : Bool :=
  match s.activeCart c with
  | some (_, x) => !x.isEmpty
  | none => false

/-- The effect of CART CUT on an active cart (R119). -/
def State.cutCart (s : State) (k n : Nat) (notify : Bool) : State :=
  let s1 := s.modifyCart n (fun x => { x with state := .closing, notify := x.notify || notify })
  s1.settleCut k

/-- CART CUT (R119). -/
def execCartCut (h : Head) (s : State) : Outcome :=
  request 0x3C h 0 (fun t =>
    onChute h t (fun c => [(t.opState != .setup, .wrongState), (c.kind == .deck, .wrongState),
        (t.cuttable c, .wrongState)])
      (fun c => (match t.activeCart c with
        | some (n, _) => t.cutCart h.key.number n (Head.notify h)
        | none => t, Answer.done .empty))) s

/-- CUT_COMPLETE: the claims of a chute with a CLOSING active cart are 0 (R119, log 2). -/
def execCutComplete (chute : Nat) (s : State) : Outcome := .next (s.settleCut chute)

/-! ## CART GET (R125) -/

/-- The greatest number of entries CART GET gives. -/
def cartGetEntries : Nat := 10

/-- A cart as CART GET gives it from a first entry (R125). -/
def Cart.view (c : Cart) (serial first : Nat) : CartView :=
  ⟨serial, c.origin, c.route, c.capacity, c.state, c.notify, c.unidentified, c.entries.length, first,
    (c.entries.drop first).take cartGetEntries⟩

/-- The answer that carries a cart as it stands. -/
def State.cartAnswer (s : State) (n first : Nat) : Answer :=
  match s.cart? n with
  | some c => Answer.done (.cart (c.view n first))
  | none => Answer.refuse .notFound

/-- CART GET (R125). DESIGN CHOICE: a first entry number of 48 or more, out of the range R125 gives, is refused BAD_FIELD, which
R125 does not name; unsafe (log 53). DEDUCED: the order of its refusals; unsafe (log 6). -/
def execCartGet (h : Head) (first : Byte) (s : State) : Outcome :=
  request 0x3D h 1 (fun t =>
    guarded [(inRange 0 first.toNat 47, .badField), (t.opState != .setup, .wrongState)] t
      (t, t.cartAnswer h.key.number first.toNat)) s

/-! ## CART CLEAR UNIDENTIFIED (R124, R137) -/

/-- The effect of CART CLEAR UNIDENTIFIED (R124, R127, R137). -/
def State.clearUnidentified (s : State) (n : Nat) : State :=
  match s.cart? n with
  | none => s
  | some c =>
    if c.unidentified = 0 then s
    else
      let s1 := s.modifyCart n (fun c => { c with unidentified := 0 })
      match s1.doorOfCart n with
      | some d => (s1.modifyDoor d (fun x => { x with halts := x.halts.put .unidentified false })).settleDoor d
      | none => s1.testCart n

/-- CART CLEAR UNIDENTIFIED (R124). -/
def execCartClearUnidentified (h : Head) (s : State) : Outcome :=
  request 0x3E h 0 (fun t =>
    guarded [(t.opState != .setup, .wrongState), ((t.cart? h.key.number).isSome, .notFound)] t
      (t.clearUnidentified h.key.number, Answer.done .empty)) s

/-! ## JAM CLEAR (R123) -/

/-- Whether a bag is JAMMED in a chute's jam list (R123). -/
def State.jammedIn (s : State) (h : Handle) (k : Nat) : Bool :=
  s.bagIn h [.jammed] && (s.chute? k).any (fun c => c.jams.contains h)

/-- A bag's entry leaves a chute's jam list. -/
def State.unjam (s : State) (h : Handle) (k : Nat) : State :=
  s.modifyChute k (fun c => { c with jams := c.jams.filter (· != h) })

/-- The effect of JAM CLEAR with LANDED (R123). -/
def State.jamLanded (s : State) (h : Handle) (k : Nat) : State :=
  match s.chute? k with
  | none => s
  | some c => (((s.unjam h k).landBag k c h).settleFull k).settleCut k

/-- The reason a bag taken out of a jam list enters the pen with (R123). -/
def State.jamReason (s : State) (b : Bag) : StrayReason :=
  match b.reason with
  | some r => r
  | none => if b.pull.isSome || s.store.governedStandsVoid b then .pulled else .held

/-- The effect of JAM CLEAR with REMOVED (R123). -/
def State.jamRemoved (s : State) (h : Handle) (k position : Nat) : State :=
  match s.bag? h with
  | none => s
  | some b => (((s.unjam h k).intake h position).setReason h (s.jamReason b)).settleCut k

/-- JAM CLEAR with LANDED, `known` telling whether the outcome byte is in its table (R123, R182). DESIGN CHOICE: a chute of 40
or more fails the rule's own first test, after those of R35, as one that is not configured does; unsafe (log 48). -/
def execJamClearLanded (h : Head) (known : Bool) (chute _position : Byte) (s : State) : Outcome :=
  request 0x3F h 3 (fun t =>
    onBag h known t
      [((t.chute? chute.toNat).isSome, .badField), (t.jammedIn h.key.handle chute.toNat, .wrongState)]
      (t.jamLanded h.key.handle chute.toNat)) s

/-- Whether a configured chute is a STRAY chute. -/
def State.strayChute (s : State) (k : Nat) : Bool := (s.chute? k).any (fun c => c.kind == .stray)

/-- JAM CLEAR with REMOVED (R123). DESIGN CHOICE: a chute of 40 or more and a position of 128 or more fail the rule's own first
test, after those of R35; unsafe (log 48). -/
def execJamClearRemoved (h : Head) (chute position : Byte) (s : State) : Outcome :=
  request 0x3F h 3 (fun t =>
    onBag h true t
      [((t.chute? chute.toNat).isSome && t.isPosition position.toNat, .badField),
       (t.jammedIn h.key.handle chute.toNat, .wrongState), (t.positionFree position.toNat, .inUse),
       (t.strayChute chute.toNat || decide (1 ≤ t.penRoom), .full)]
      (t.jamRemoved h.key.handle chute.toNat position.toNat)) s

end Sys2Proof.Machine
end

