-- ==== Sys2Proof/Machine/Doors.lean ====
section
/-! DEFINITION. The requests on routes and doors (08): ROUTE START, PAUSE, CONTINUE, GET, DOOR GET, DOOR RELEASE. -/

namespace Sys2Proof.Machine

/-- A request on a route: range, the tests of R3, its own tests, then its effect (R128). -/
def onRoute (h : Head) (fields : Bool) (s : State) (own : RouteKey → List (Bool × Result))
    (act : RouteKey → State × Answer) : State × Answer :=
  onSailing h (Head.routeInRange h && fields) s (fun b => own (Head.routeOf h b)) (fun b => act (Head.routeOf h b))

/-- The UNSET test of R128. -/
def setTest (s : State) (k : RouteKey) : Bool × Result := (s.routeState k != .unset, .wrongState)

/-! ## ROUTE START, ROUTE PAUSE, ROUTE CONTINUE (R129 to R131) -/

/-- Whether a route's queue is empty. -/
def State.queueEmpty (s : State) (k : RouteKey) : Bool :=
  match s.route? k with
  | some r => r.queue.isEmpty
  | none => true

/-- The effect of ROUTE START (R129). -/
def State.startRoute (s : State) (k : RouteKey) (stay : Bool) : State :=
  (s.modifyRoute k (fun r => { r with state := .loading, stay := stay })).settleRoute k

/-- ROUTE START (R129). -/
def execRouteStart (h : Head) (stay : Option Bool) (s : State) : Outcome :=
  request 0x40 h 1 (fun t =>
    onRoute h stay.isSome t
      (fun k => [setTest t k, (t.routeState k == .idle, .wrongState), ((t.routeCart k).isNone, .atDoor),
        (!t.queueEmpty k || stay.getD false, .emptyQueue)])
      (fun k => (t.startRoute k (stay.getD false), Answer.done .empty))) s

/-- Every LOADING route bound to a door becomes IDLE (R130). -/
def State.pauseDoor (s : State) (d : Nat) : State :=
  (s.setRoutes (s.routes.map (fun r =>
    if r.door = some d ∧ r.state = .loading then { r with state := .idle } else r))).setBelt d

/-- The effect of ROUTE PAUSE (R130). -/
def State.pauseRoute (s : State) (k : RouteKey) : State :=
  match s.routeDoor k with
  | some d => s.pauseDoor d
  | none => s

/-- ROUTE PAUSE (R130). -/
def execRoutePause (h : Head) (s : State) : Outcome :=
  request 0x41 h 0 (fun t =>
    onRoute h true t (fun k => [setTest t k]) (fun k => (t.pauseRoute k, Answer.done .empty))) s

/-- The effect of ROUTE CONTINUE (R131). -/
def State.continueRoute (s : State) (k : RouteKey) : State :=
  let s1 := s.modifyRoute k (fun r => { r with state := .loading })
  match s1.routeDoor k with
  | some d => s1.setBelt d
  | none => s1

/-- ROUTE CONTINUE (R131). -/
def execRouteContinue (h : Head) (s : State) : Outcome :=
  request 0x42 h 0 (fun t =>
    onRoute h true t
      (fun k => [setTest t k, (t.routeState k != .loading, .wrongState), ((t.routeCart k).isSome, .notAtDoor)])
      (fun k => (t.continueRoute k, Answer.done .empty))) s

/-! ## ROUTE GET (R141) -/

/-- A route as ROUTE GET gives it (R141). -/
def State.routeView (s : State) (k : RouteKey) (r : Route) : RouteView :=
  ⟨r.state, r.door, r.stay, r.notifyAll, r.loaded, r.chutes, r.queue.length, r.queue.take 8, s.routeCart k⟩

/-- The answer that carries a route as it stands. -/
def State.routeAnswer (s : State) (k : RouteKey) : Answer :=
  match s.route? k with
  | some r => Answer.done (.route (s.routeView k r))
  | none => Answer.refuse .badField

/-- ROUTE GET (R141). -/
def execRouteGet (h : Head) (s : State) : Outcome :=
  request 0x43 h 0 (fun t => onRoute h true t (fun _ => []) (fun k => (t, t.routeAnswer k))) s

/-! ## DOOR GET, DOOR RELEASE, arbitration and completion (R133, R138, R140, R141) -/

/-- A request on a configured door: an unconfigured one is BAD_FIELD, then its own tests. -/
def onDoor (h : Head) (s : State) (own : List (Bool × Result)) (act : Door → State × Answer) : State × Answer :=
  match s.door? h.key.number with
  | none => (s, Answer.refuse .badField)
  | some x => guarded own s (act x)

/-- The controller's view of a node, UNHEARD where there is none. -/
def State.nodeStateOf (s : State) (n : Nat) : NodeState :=
  match s.node? n with
  | some x => x.state
  | none => .unheard

/-- The routes a door serves, with their states (R132). DESIGN CHOICE: in rising route number, of which R141 says nothing,
unsafe (log 51); each named by its route number alone, unsafe (log 59). -/
def State.servedRoutes (s : State) (d : Nat) (x : Door) : List (Nat × RouteState) :=
  ((slotRoutes x.berth).filter (s.doorServes d)).map (fun k => (k.route, s.routeState k))

/-- A door as DOOR GET gives it (R141). -/
def State.doorView (s : State) (d : Nat) (x : Door) : DoorView :=
  ⟨x.berth, x.node, s.nodeStateOf x.node, x.running, x.halts, x.cart, x.lastServed, s.servedRoutes d x⟩

/-- DOOR GET (R141). -/
def execDoorGet (h : Head) (s : State) : Outcome :=
  request 0x44 h 0 (fun t =>
    onDoor h t [] (fun x => (t, Answer.done (.door (t.doorView h.key.number x))))) s

/-- The halt set without every reason other than NODE (R138). -/
def HaltSet.release (h : HaltSet) : HaltSet := { HaltSet.empty with node := h.node }

/-- Whether the cart at a door holds unidentified items. -/
def State.doorUnidentified (s : State) (x : Door) : Bool :=
  (x.cart.bind s.cart?).any (fun c => decide (c.unidentified ≠ 0))

/-- The effect of DOOR RELEASE (R138). -/
def State.releaseDoor (s : State) (d : Nat) (x : Door) : State :=
  let s1 := s.modifyDoor d (fun x => { x with halts := x.halts.release })
  if s.doorUnidentified x then s1.addHalt d .unidentified else s1.setBelt d

/-- The halt set of a door. -/
def State.haltsOf (s : State) (d : Nat) : HaltSet :=
  match s.door? d with
  | some x => x.halts
  | none => HaltSet.empty

/-- DOOR RELEASE (R138). -/
def execDoorRelease (h : Head) (s : State) : Outcome :=
  request 0x45 h 0 (fun t =>
    onDoor h t [(t.opState != .setup, .wrongState)]
      (fun x =>
        let u := t.releaseDoor h.key.number x
        (u, Answer.done (.halts (u.haltsOf h.key.number))))) s

/-- Whether a door is configured and holds no cart. -/
def State.doorFree (s : State) (d : Nat) : Bool := (s.door? d).any (fun x => x.cart.isNone)

/-- Whether the cart at a door is complete (R140). -/
def State.doorDone (s : State) (d : Nat) : Bool := (((s.door? d).bind (·.cart)).bind s.cart?).any Cart.done

/-- DOOR_ARBITRATE: a free door takes the next cart (R133, log 2). -/
def execDoorArbitrate (door : Nat) (s : State) : Outcome := .next (if s.doorFree door then s.settleDoor door else s)

/-- CART_COMPLETE: a cart at the door with every entry marked and nothing unidentified retires (R140, log 2). -/
def execCartComplete (door : Nat) (s : State) : Outcome := .next (if s.doorDone door then s.settleDoor door else s)

end Sys2Proof.Machine
end

