-- ==== Sys2Proof/Machine/Strays.lean ====
section
/-! DEFINITION. The requests on strays (10): STRAY NEXT, STRAY GET, STRAY RESOLVE. -/

namespace Sys2Proof.Machine

/-- The pen position a bag's location names. -/
def Bag.penPosition (b : Bag) : Nat :=
  match b.location with
  | some (.pen p) => p
  | _ => 0

/-- A stray as STRAY GET gives it (R163). -/
def State.strayView (s : State) (h : Handle) (b : Bag) : StrayView :=
  ⟨b.penPosition, h, b.tag, b.home, b.reason, b.entered, b.aged, b.reinduct, b.hold, b.pull, b.laps, s.routable b⟩

/-- The view of the stray a handle names. -/
def State.strayViewOf (s : State) (h : Handle) : Option StrayView := (s.bag? h).map (s.strayView h)

/-- STRAY NEXT (R163). DESIGN CHOICE: a place of 128 or more, out of the range R163 gives, is refused BAD_FIELD, which R163 does not
name; unsafe (log 53). -/
def execStrayNext (h : Head) (place : Byte) (s : State) : Outcome :=
  request 0x48 h 1 (fun t =>
    guarded [(inRange 0 place.toNat 127, .badField), (t.opState != .setup, .wrongState)] t
      (t, Answer.done (.strayList t.pen.strays.length (t.pen.strays[place.toNat]?.bind t.strayViewOf)))) s

/-- The answer that carries the stray at a position as it stands. -/
def State.strayAnswer (s : State) (position : Nat) : Answer :=
  match (s.pen.positions.get? position).bind s.strayViewOf with
  | some v => Answer.done (.stray v)
  | none => Answer.refuse .notFound

/-- STRAY GET (R163). -/
def execStrayGet (h : Head) (s : State) : Outcome :=
  request 0x49 h 0 (fun t =>
    guarded [(t.isPosition h.key.number, .badField), (t.opState != .setup, .wrongState)] t
      (t, t.strayAnswer h.key.number)) s

/-- The tests of STRAY RESOLVE after R35 (R164). -/
def strayTest (s : State) (h : Handle) : Bool × Result := (s.bagIn h [.stray], .wrongState)

/-- Whether the stray a handle names is routable (R158). -/
def State.routableBag (s : State) (h : Handle) : Bool := (s.bag? h).any (fun b => (s.routable b).isSome)

/-- STRAY RESOLVE with REINDUCT (R164). -/
def execStrayResolveReinduct (h : Head) (s : State) : Outcome :=
  request 0x4A h 1 (fun t =>
    onBag h true t [strayTest t h.key.handle, (t.routableBag h.key.handle, .notRoutable)]
      (t.modifyBag h.key.handle (fun b => { b with reinduct := true }))) s

/-- STRAY RESOLVE with RETURN (R164). -/
def execStrayResolveReturn (h : Head) (s : State) : Outcome :=
  request 0x4A h 1 (fun t => retiring h true t [strayTest t h.key.handle]) s

/-- STRAY RESOLVE with HOLD, `known` telling whether the action byte is in its table (R164, R182). -/
def execStrayResolveHold (h : Head) (known : Bool) (s : State) : Outcome :=
  request 0x4A h 1 (fun t =>
    onBag h known t [strayTest t h.key.handle]
      (t.modifyBag h.key.handle (fun b => { b with reason := some .held, reinduct := false }))) s

end Sys2Proof.Machine
end

