-- ==== Sys2Proof/Machine/Notices.lean ====
section
/-! DEFINITION. The requests on notices (12): NOTICE READ, NOTICE MASK, NOTICE CLEAR. -/

namespace Sys2Proof.Machine

/-- The number of notice sources. -/
def noticeSources : Nat := 15

/-- LOOP_FAILED and CAPACITY are sticky (R179). -/
def sticky (i : Nat) : Bool := i == Source.number .loopFailed || i == Source.number .capacity

/-- A source without subjects holds a single pending mark (R179). -/
def withoutSubjects (i : Nat) : Bool := decide (i < 3)

/-- The number of the first enabled pending source of a list, counted from `i`, that meets a condition. -/
def firstPending (p : Nat → Notice → Bool) : List Notice → Nat → Option Nat
  | [], _ => none
  | n :: t, i => if n.enabled && !n.subjects.isEmpty && p i n then some i else firstPending p t (i + 1)

/-- The source NOTICE READ chooses: not sticky before sticky, HIGH before LOW, lowest number first (R180). -/
def NoticeUnit.choose (u : NoticeUnit) : Option Nat :=
  firstPending (fun i n => !sticky i && n.priority == .high) u.sources 0 <|>
  firstPending (fun i n => !sticky i && n.priority == .low) u.sources 0 <|>
  firstPending (fun i n => sticky i && n.priority == .high) u.sources 0 <|>
  firstPending (fun i n => sticky i && n.priority == .low) u.sources 0

/-- A source's set is changed, and NOTICE_N driven afresh. -/
def NoticeUnit.onNumber (u : NoticeUnit) (i : Nat) (f : List Nat → List Nat) : NoticeUnit :=
  NoticeUnit.drive { u with sources := u.sources.modify i (fun n => { n with subjects := f n.subjects }) }

/-- The lowest subject of a source, none for a source without subjects. -/
def NoticeUnit.lowest (u : NoticeUnit) (i : Nat) : Option Nat :=
  if withoutSubjects i then none
  else match u.sources[i]? with
    | some n => n.subjects.head?
    | none => none

/-- The notice unit after the chosen source is read: a sticky source keeps its subject (R180). -/
def NoticeUnit.read (u : NoticeUnit) (i : Nat) : NoticeUnit := if sticky i then u else u.onNumber i List.tail

/-- NOTICE READ (R180). -/
def execNoticeRead (h : Head) (s : State) : Outcome :=
  request 0x50 h 0 (fun t =>
    match t.notices.choose with
    | none => (t, Answer.done (.notice none))
    | some i => (t.setNotices (t.notices.read i), Answer.done (.notice (some (i, t.notices.lowest i))))) s

/-- Every byte of NOTICE MASK is in its table, for each of the fifteen sources and the global enable. -/
def maskOk (sources : List (Option Bool × Option Priority)) (global : Option Bool) : Bool :=
  decide (sources.length = noticeSources) && sources.all (fun e => e.1.isSome && e.2.isSome) && global.isSome

/-- The notice unit with every enable and priority replaced, NOTICE_N driven afresh (R181). -/
def NoticeUnit.mask (u : NoticeUnit) (sources : List (Option Bool × Option Priority)) (global : Bool) : NoticeUnit :=
  NoticeUnit.drive
    { u with
      sources := u.sources.zipWith (fun n e =>
        { n with enabled := e.1.getD n.enabled, priority := e.2.getD n.priority }) sources
      global := global }

/-- NOTICE MASK (R181). -/
def execNoticeMask (h : Head) (sources : List (Option Bool × Option Priority)) (global : Option Bool) (s : State) :
    Outcome :=
  request 0x51 h 31 (fun t =>
    guarded [(maskOk sources global, .badField)] t
      (t.setNotices (t.notices.mask sources (global.getD false)), Answer.done .empty)) s

/-- Whether some position of some chute is marked present and unregistered (R115). -/
def State.poolShort (s : State) : Bool := s.chutes.any (fun e => e.2.posX == .marked || e.2.posY == .marked)

/-- The conditions of the sticky sources (R179). -/
def State.stillActive (s : State) (i : Nat) : Bool :=
  if i = Source.number .loopFailed then s.loop.track == .failed
  else if i = Source.number .capacity then s.store.low || s.pen.hold || s.poolShort
  else false

/-- NOTICE CLEAR (R181). DESIGN CHOICE: a source of 15 or more, which R181 does not speak of, is refused BAD_FIELD; unsafe (log
36). -/
def execNoticeClear (h : Head) (s : State) : Outcome :=
  request 0x52 h 0 (fun t =>
    guarded [(Key.below h.key noticeSources, .badField), (!t.stillActive h.key.number, .stillActive)] t
      (t.setNotices (t.notices.onNumber h.key.number (fun _ => [])), Answer.done .empty)) s

end Sys2Proof.Machine
end

