-- ==== Sys2Proof/Machine/Frames.lean ====
section
/-! DEFINITION. Taking a frame (03): admission, the sequence check, silence, stamps, and frames sent. -/

namespace Sys2Proof.Machine

/-! ## The receiver (R44) -/

/-- The bytes the receiver has taken since the SYNC it hunts from. -/
def State.setRx (s : State) (l : List Byte) : State := s.setLink { s.link with rx := l }

/-! ## The sequence check (R47 to R49, R52) -/

/-- A hold cause is put on, or taken from, each point a node serves. -/
def State.holdServed (s : State) (x : Node) (v : Bool) : State := s.putCauses .node v x.objects

/-- The halt reason NODE is added to each of some doors in turn. DEDUCED: with DOOR_STOPPED also where the reason already stands;
unsafe (log 25). -/
def State.haltNode (s : State) : List Nat → State
  | [] => s
  | d :: t => (s.addHalt d .node).haltNode t

/-- The halt reason NODE is removed from each of some doors in turn. -/
def State.unhaltNode (s : State) : List Nat → State
  | [] => s
  | d :: t => (s.dropHalt d .node).unhaltNode t

/-- The effect of a gap, by the role of the node (R48). -/
def State.gap (s : State) (x : Node) : State :=
  match x.role with
  | some .loop | some .induct | some .arch | some .chute => s.causeOfLoss
  | some .door => s.haltNode x.objects
  | _ => s

/-- The effect of a node heard again, by its role (R52). -/
def State.nodeReturns (s : State) (x : Node) : State :=
  match x.role with
  | some .induct => s.holdServed x false
  | some .door => s.unhaltNode x.objects
  | _ => s

/-- A LIVE node's frame carries the expected sequence: a DOOR node's door loses the reason NODE (R49). -/
def State.inSequence (s : State) (x : Node) : State :=
  match x.role with
  | some .door => s.unhaltNode x.objects
  | _ => s

/-- A node's record after a frame is taken from it (R47). -/
def Node.hear (x : Node) (seq : Byte) (now : Nat) : Node :=
  { x with state := .live, expected := some (seq + 1), lastHeard := some now }

/-- The sequence check of an admitted frame (R47). -/
def State.heard (s : State) (n : Nat) (x : Node) (seq : Byte) : State :=
  if x.state = .live then
    if x.expected = some seq then (s.modifyNode n (fun y => y.hear seq s.hallSecond)).inSequence x
    else (s.gap x).modifyNode n (fun y => y.hear seq s.hallSecond)
  else (s.modifyNode n (fun y => y.hear seq s.hallSecond)).nodeReturns x

/-! ## Admission (R44 to R46, R183) -/

/-- A frame as its kind makes it: the kind's role, the object it names if it names one, and whether its payload bytes are
within their tables (R183). -/
structure Report where
  role : Role
  object : Option Nat
  valid : Bool
  deriving DecidableEq, Repr

/-- Whether an object of a role is configured (R43). -/
def State.configured (s : State) (r : Role) (object : Nat) : Bool :=
  match r with
  | .induct => s.loop.points.has object
  | .arch => s.loop.arches.has object
  | .chute => s.chutes.has object
  | .door => s.doors.has object
  | _ => true

/-- Whether a node's frame passes the role test: the kind is the role's, the object is served and configured, and the payload
is within its tables (R46, R183). -/
def State.passesRole (s : State) (x : Node) (r : Report) : Bool :=
  x.role == some r.role && r.valid && r.object.all (fun o => x.objects.contains o && s.configured r.role o)

/-- The state in which a frame from a node of a role is admitted, if it is: a LOOP node's frame wakes a part in REST (R45). -/
def State.admission (s : State) (role : Role) : Option State :=
  match s.opState with
  | .setup => none
  | .run => some s
  | .rest =>
    match role with
    | .encode => some s
    | .loop => some s.wake
    | _ => none

/-- A good frame is taken from a configured node, the receiver's bytes used up: admission, sequence check, role test, and what
its block does with it (R44 to R50). -/
def State.takeFrame (s : State) (f : FrameHead) (r : Report) (act : State → State) : State :=
  let n := f.node.toNat
  match (s.node? n).bind (·.role) with
  | none => s
  | some role =>
    match (s.setRx []).admission role with
    | none => s.setRx []
    | some s1 =>
      match s1.node? n with
      | none => s1
      | some x =>
        let s2 := s1.heard n x f.seq
        if s1.passesRole x r then act s2 else s2

/-! ## Stamps (R53 to R55) -/

/-- What a stamp resolves to: nothing while S is absent, STALE, or a carrier with the signed difference (R53, R54). -/
inductive Resolved where
  | absent
  | stale
  | carrier (number : Nat) (d : Int)
  deriving DecidableEq, Repr

/-- A stamp is resolved at an offset (R54). -/
def State.resolve (s : State) (stamp : Byte) (offset : Nat) : Resolved :=
  match s.link.stampRef with
  | none => .absent
  | some c =>
    let d := (stamp - c).toInt
    if -63 ≤ d ∧ d ≤ 8 then .carrier (s.wrap ((s.loop.pos : Int) + d - (offset : Int))) d else .stale

/-- A frame about a carrier: discarded while S is absent, a cause of loss when STALE, else its block's act (R53, R55). -/
def State.atStamp (s : State) (stamp : Byte) (offset : Nat) (act : Nat → Int → State) : State :=
  match s.resolve stamp offset with
  | .absent => s
  | .stale => s.causeOfLoss
  | .carrier c d => act c d

/-! ## Silence (R51) -/

/-- Whether a node is due to become DOWN (R51). -/
def State.silent (s : State) (x : Node) : Bool :=
  s.opState == .run && x.state == .live &&
    (match x.lastHeard with
     | some t => decide (t + s.limits.silence ≤ s.hallSecond)
     | none => false)

/-- Each of some chutes goes to FAULT with cause NODE in turn, where its state allows it. -/
def State.faultNode (s : State) : List Nat → State
  | [] => s
  | k :: t => (s.faultChute k .node).faultNode t

/-- The effect of DOWN, by the node's role (R51). -/
def State.nodeLost (s : State) (x : Node) : State :=
  match x.role with
  | some .loop | some .arch => s.causeOfLoss
  | some .induct => s.holdServed x true
  | some .chute => s.faultNode x.objects
  | some .door => s.haltNode x.objects
  | _ => s

/-- NODE_DOWN: a node whose silence reached the timeout becomes DOWN (R51). -/
def execNodeDown (node : Nat) (s : State) : Outcome :=
  .next (match s.node? node with
    | none => s
    | some x =>
      if s.silent x then
        ((s.modifyNode node (fun y => { y with state := .down })).raise .nodeDown node).nodeLost x
      else s)

/-! ## Frames sent (R56, R58) -/

/-- A level frame is made for each of some induction points. -/
def State.refreshPoints (s : State) : List (Nat × Induction) → State
  | [] => s
  | (i, p) :: t => (s.sendInduct i p.go).refreshPoints t

/-- A level frame is made for each of some doors. -/
def State.refreshDoors (s : State) : List (Nat × Door) → State
  | [] => s
  | (d, x) :: t => (s.sendDoor d x.running).refreshDoors t

/-- LEVEL_REFRESH: a level frame for every configured point and door that a node serves (R58). -/
def execLevelRefresh (s : State) : Outcome := .next ((s.refreshPoints s.loop.points).refreshDoors s.doors)

/-- The stamp byte of an outbound frame: S when it is sent, or when it was made (free value, log 10). -/
def State.outStamp (s : State) (f : OutFrame) : Byte :=
  if Config.stampAtSending then s.link.stampRef.getD 0 else f.stamp

/-- FRAME_TRANSMIT: the oldest frame of the transmit queue is sent (R56). -/
def execFrameTransmit (s : State) : Outcome :=
  .next (match s.link.txQueue with
    | [] => s
    | f :: t => s.setLink { s.link with txQueue := t, lineTx := f.bytes (s.outStamp f) })

end Sys2Proof.Machine
end

