-- ==== Sys2Proof/Machine/LoopFrames.lean ====
section
/-! DEFINITION. Frames about the loop (04, 05, 06): PITCH with its deadlines, HOME, LAUNCH, ARCH, CHECK. -/

namespace Sys2Proof.Machine

/-! ## Decision points (R94 to R99) -/

/-- The carrier at a chute's decision point (R94). -/
def State.decisionCarrier (s : State) (c : Chute) : Nat :=
  s.wrap ((s.loop.pos : Int) - (c.offset : Int) + (c.lead : Int))

/-- The reason of a destination a chute takes: none where the destination does not match the chute (R98). -/
def Chute.takes (c : Chute) : Destination → Option (Option StrayReason)
  | .stray r => if c.kind = .stray then some (some r) else none
  | .route k => if c.kind = .deck ∧ c.assigned = some k then some none else none
  | .nowhere => none

/-- A carrier is armed for a chute, its reservation made and its DIVERT sent (R99, R57). -/
def State.arm (s : State) (i k : Nat) (c : Chute) (pitch : Byte) (reason : Option StrayReason) : State :=
  let mark : Mark := ⟨k, c.lead + 3, reason⟩
  ((s.modifyCarrier i (fun e => { e with armed := some mark })).modifyChute k
    (fun x => { x with reserved := x.reserved + 1 })).send .chute k (.divert k (pitch + BitVec.ofNat 8 c.lead))

/-- A chute with credit takes a bag whose destination matches it (R98). -/
def State.tryArm (s : State) (i k : Nat) (c : Chute) (pitch : Byte) (h : Handle) : State :=
  match s.bag? h with
  | none => s
  | some b =>
    match c.takes (s.destination b c.kind) with
    | none => s
    | some reason => if 1 ≤ s.credit c then s.arm i k c pitch reason else s

/-- The decision point of a chute is served (R94 to R98). -/
def State.serveChute (s : State) (pitch : Byte) (k : Nat) : State :=
  match s.chute? k with
  | none => s
  | some c =>
    let i := s.decisionCarrier c
    match s.carrier? i with
    | none => s
    | some e =>
      match e.content, e.armed with
      | .loaded h, none => if s.loop.track = .tracking then (s.demandCheck h).tryArm i k c pitch h else s
      | _, _ => s

/-- The decision points of some chutes are served in turn. -/
def State.serveChutes (s : State) (pitch : Byte) : List Nat → State
  | [] => s
  | k :: t => (s.serveChute pitch k).serveChutes pitch t

/-! ## Check deadlines (R104) -/

/-- The pitches remaining in every armed mark fall by 1 (R104). -/
def State.lowerMarks (s : State) : State :=
  s.setLoop { s.loop with carriers := s.loop.carriers.map (fun e =>
    match e.armed with
    | some m => { e with armed := some { m with remaining := m.remaining - 1 } }
    | none => e) }

/-- The landing window of a chute. -/
def State.windowOf (s : State) (k : Nat) : Byte :=
  match s.chute? k with
  | some c => BitVec.ofNat 8 c.window
  | none => 0

/-- A divert met its check deadline at a pitch: it ends as a success of unknown outcome (R104). -/
def State.expire (s : State) (pitch : Byte) (i : Nat) (m : Mark) (x : Content) : State :=
  let s1 := s.disarm i m.chute
  let s2 := match x with
    | .loaded h => s1.toLanding h m.chute (pitch + s.windowOf m.chute) m.reason
    | _ => s1
  (s2.setContent i .unknown).settleCut m.chute

/-- A carrier's mark is tested for its check deadline. -/
def State.testMark (s : State) (pitch : Byte) (i : Nat) : State :=
  match s.carrier? i with
  | none => s
  | some e =>
    match e.armed with
    | none => s
    | some m => if m.remaining = 0 then s.expire pitch i m e.content else s

/-- The marks of some carriers are tested in turn. -/
def State.testMarks (s : State) (pitch : Byte) : List Nat → State
  | [] => s
  | i :: t => (s.testMark pitch i).testMarks pitch t

/-! ## Pitches (R64, R65) -/

/-- The carrier now at home makes a lap (R65). -/
def State.countLap (s : State) : State :=
  match s.carrier? s.loop.pos with
  | some ⟨.loaded h, _⟩ => s.modifyBag h (fun b => { b with laps := min (b.laps + 1) s.limits.recirc })
  | _ => s

/-- L advances by 1 modulo N (R65). -/
def State.advance (s : State) : State := s.setLoop { s.loop with pos := (s.loop.pos + 1) % s.carrierCount }

/-- The divert unit's and the chute controller's part of a pitch (R65, log 11). -/
def State.servePitch (s : State) (pitch : Byte) : State :=
  let s1 := s.lowerMarks.serveChutes pitch (s.chutes.map (·.1))
  let s2 := s1.testMarks pitch (List.range s1.carrierCount)
  s2.jamDueAll pitch (s2.chutes.map (·.1))

/-- One pitch is processed (R65). -/
def State.processPitch (s : State) (pitch : Byte) : State :=
  let s1 := s.advance.countLap
  (s1.setLink { s1.link with lastPitch := some pitch }).servePitch pitch

/-- Some pitches are processed one after another, the first with count `c` plus 1 (R65). -/
def State.processPitches (s : State) (c : Byte) : Nat → State
  | 0 => s
  | k + 1 => (s.processPitch (c + 1)).processPitches (c + 1) k

/-- The loop tracker takes a PITCH of count `c` (R64). -/
def State.trackPitch (s : State) (c : Byte) : State :=
  match s.link.stampRef with
  | none => s.setLink { s.link with lastPitch := none }
  | some r =>
    let k := (c - r).toNat
    if k = 1 then s.processPitches r 1
    else if 2 ≤ k ∧ k ≤ 8 then s.causeOfLoss.processPitches r k
    else
      let s1 := s.causeOfLoss
      s1.setLink { s1.link with lastPitch := none }

/-- A PITCH is taken, and S becomes its count (R53, R64). -/
def State.takePitch (s : State) (c : Byte) : State :=
  let s1 := s.trackPitch c
  s1.setLink { s1.link with stampRef := some c }

/-- PITCH (R64). -/
def State.pitchFrame (s : State) (f : FrameHead) : State :=
  s.takeFrame f ⟨.loop, none, true⟩ (fun t => t.takePitch f.stamp)

/-- CHECK_DEADLINE: a mark with no pitches remaining at the last processed pitch ends its divert (R104, logs 2 and 3). -/
def execCheckDeadline (carrier : Nat) (s : State) : Outcome :=
  .next (match s.link.lastPitch with
    | some p => s.testMark p carrier
    | none => s)

/-- LANDING_DEADLINE: the pending landings of a chute whose deadline the last processed pitch reached become JAMMED (R122,
logs 2 and 3). -/
def execLandingDeadline (chute : Nat) (s : State) : Outcome :=
  .next (match s.link.lastPitch with
    | some p => s.jamDue p chute
    | none => s)

/-! ## HOME (R66, R67) -/

/-- L is re-anchored by a HOME's difference (R66). -/
def State.reAnchor (s : State) (d : Int) : State := s.setLoop { s.loop with pos := s.wrap (-d) }

/-- A correct HOME in TRACKING: the loss count is reset by the second of a lap (R67). -/
def State.cleanHome (s : State) : State :=
  s.setLoop { s.loop with lossCount := if s.loop.homeMark then 0 else s.loop.lossCount, homeMark := true }

/-- A resolved HOME acts by the tracking state (R66). -/
def State.takeHome (s : State) (c : Nat) (d : Int) : State :=
  match s.loop.track with
  | .anchoring =>
    let s1 := s.reAnchor d
    s1.setLoop { s1.loop with track := .confirming, confirmRun := 0 }
  | .confirming => if c = 0 then s else (s.reAnchor d).causeOfLoss
  | .tracking => if c = 0 then s.cleanHome else (s.reAnchor d).causeOfLoss
  | .failed => s.reAnchor d

/-- HOME (R66). -/
def State.homeFrame (s : State) (f : FrameHead) : State :=
  s.takeFrame f ⟨.loop, none, true⟩ (fun t => t.atStamp f.stamp 0 t.takeHome)

/-! ## What a read brings (R69, R73, R160) -/

/-- The bag a read names, or the record a new bag is made with. -/
inductive Found where
  | bag (h : Handle) (b : Bag)
  | fresh (tag : Option Nat) (reason : StrayReason)
  deriving DecidableEq, Repr

/-- A read and its tag lookup (R69). -/
def State.find (s : State) : ReadResult → Found
  | .noTag => .fresh none .noRead
  | .several => .fresh none .multiRead
  | .one t =>
    match s.store.lookup t with
    | .unknown => .fresh (some t) .unknownTag
    | .closedTag => .fresh none .wrongSailing
    | .found h b => .bag h b

/-- A found bag that cannot be the one seen gives a new anonymous record with reason DUPLICATE_TAG. -/
def Found.orDuplicate (f : Found) (ok : Bag → Bool) : Found :=
  match f with
  | .bag _ b => if ok b then f else .fresh none .duplicateTag
  | .fresh _ _ => f

/-- A new bag on a carrier. -/
def loopBag (tag : Option Nat) (reason : StrayReason) (c : Nat) : Bag :=
  { Bag.blank .onLoop (some (.carrier c)) with tag := tag, reason := some reason }

/-- A stray's position is freed, once its record has left STRAY. -/
def State.leavePen (s : State) (h : Handle) (b : Bag) : State :=
  match b.state, b.location with
  | .stray, some (.pen p) => s.freePosition h p
  | _, _ => s

/-! ## LAUNCH (R68 to R70) -/

/-- A found bag may be launched: REGISTERED, MISSING, STRAY, or ON_LOOP on the carrier itself (R69). -/
def launchable (c : Nat) (b : Bag) : Bool :=
  b.state == .registered || b.state == .missing || b.state == .stray ||
    (b.state == .onLoop && b.location == some (.carrier c))

/-- Whether a carrier is believed to hold a bag other than the launched one, and which (R70). -/
def doubleLoad (x : Content) (f : Found) : Option Handle :=
  match x, f with
  | .loaded old, .bag h _ => if old = h then none else some old
  | .loaded old, .fresh _ _ => some old
  | _, _ => none

/-- A launched bag's fields: laps 0, RECHECK clear; a stray's reason is removed; a double load gives DOUBLE_LOAD (R68 to
R70). -/
def Bag.launched (b : Bag) (wasStray double : Bool) : Bag :=
  { b with
    laps := 0
    recheck := false
    reason := if double then some .doubleLoad else if wasStray then none else b.reason }

/-- A found bag goes onto the carrier (R68, R69). -/
def State.launchFound (s : State) (c : Nat) (h : Handle) (b : Bag) (double : Bool) : State :=
  (((((s.moveBag h .onLoop (some (.carrier c))).modifyBag h (fun x => x.launched (b.state == .stray) double)).leavePen
    h b).setContent c (.loaded h)).demandCheck h)

/-- A new bag goes onto the carrier, or the carrier becomes UNKNOWN (R68, R69). -/
def State.placeFresh (s : State) (c : Nat) (tag : Option Nat) (reason : StrayReason) : State :=
  match s.createBag (loopBag tag reason c) with
  | some (h, t) => t.setContent c (.loaded h)
  | none => s.setContent c .unknown

/-- A resolved LAUNCH onto a carrier (R68 to R70). -/
def State.launch (s : State) (c : Nat) (read : ReadResult) : State :=
  match s.carrier? c with
  | none => s
  | some e =>
    let f := (s.find read).orDuplicate (launchable c)
    match doubleLoad e.content f with
    | none =>
      match f with
      | .bag h b => s.launchFound c h b false
      | .fresh tag reason => s.placeFresh c tag reason
    | some old =>
      match f with
      | .bag h b => (s.makeMissing old).launchFound c h b true
      | .fresh tag _ => (s.makeMissing old).placeFresh c tag .doubleLoad

/-- The offset of an induction point. -/
def State.pointOffset (s : State) (i : Nat) : Nat :=
  match s.loop.points.get? i with
  | some p => p.offset
  | none => 0

/-- The four bytes of a tag field. -/
def tagBytes (tag : BitVec 32) : List Byte := field 4 tag.toNat

/-- LAUNCH (R68). -/
def State.launchFrame (s : State) (f : FrameHead) (point read : Byte) (tag : BitVec 32) : State :=
  s.takeFrame f ⟨.induct, some point.toNat, (ReadResult.ofBytes read tag).isSome⟩
    (fun t => t.atStamp f.stamp (t.pointOffset point.toNat)
      (fun c _ => t.launch c ((ReadResult.ofBytes read tag).getD .noTag)))

/-! ## ARCH (R71 to R76) -/

/-- A carrier found occupied is placed by lookup (R73). -/
def State.placeByLookup (s : State) (c : Nat) (read : ReadResult) : State :=
  match s.find read with
  | .fresh tag reason => s.placeFresh c tag reason
  | .bag h b =>
    match b.state, b.location with
    | .registered, _ | .missing, _ => (s.moveBag h .onLoop (some (.carrier c))).setContent c (.loaded h)
    | .onLoop, some (.carrier c') =>
      ((s.setContent c' .unknown).modifyBag h (fun b => { b with location := some (.carrier c) })).setContent c (.loaded h)
    | .stray, _ =>
      (((s.moveBag h .onLoop (some (.carrier c))).modifyBag h (fun x => { x with laps := 0, reason := none })).leavePen
        h b).setContent c (.loaded h)
    | _, _ => s.placeFresh c none .duplicateTag

/-- A reason other than DOUBLE_LOAD becomes the one given (R75). -/
def keepDouble (old : Option StrayReason) (r : StrayReason) : Option StrayReason :=
  if old = some .doubleLoad then old else some r

/-- A merge at an arch: the found bag takes the carrier and the laps, and the anonymous bag retires (R75). -/
def State.archMerge (s : State) (c : Nat) (h : Handle) (b : Bag) (found : Handle) : State :=
  (((s.moveBag found .onLoop (some (.carrier c))).modifyBag found
    (fun x => { x with laps := b.laps, reason := if b.reason = some .doubleLoad then b.reason else x.reason })).setContent
      c (.loaded found)).retireRecord h

/-- An arch identifies an anonymous bag on a carrier by a tag (R75). -/
def State.identify (s : State) (c : Nat) (h : Handle) (b : Bag) (tag : Nat) : State × Classification :=
  match s.store.lookup tag with
  | .unknown =>
    ((s.setStore (s.store.giveTag h tag)).modifyBag h (fun x => { x with reason := keepDouble x.reason .unknownTag }),
      .confirm)
  | .closedTag => (s.modifyBag h (fun x => { x with reason := keepDouble x.reason .wrongSailing }), .neutral)
  | .found g x =>
    if x.state = .registered ∨ x.state = .missing then (s.archMerge c h b g, .confirm) else (s, .neutral)

/-- An arch reads another bag's tag on a tagged bag's carrier (R76). -/
def State.disagree (s : State) (c : Nat) (h : Handle) (b : Bag) (tag : Nat) : State :=
  if b.recheck then (s.makeMissing h).placeByLookup c (.one tag)
  else s.modifyBag h (fun x => { x with recheck := true })

/-- An observation of a carrier believed LOADED (R74). -/
def State.seeLoaded (s : State) (c : Nat) (h : Handle) (occupied : Bool) (read : ReadResult) : State × Classification :=
  match s.bag? h with
  | none => (s, .neutral)
  | some b =>
    if occupied then
      match read with
      | .one t =>
        match b.tag with
        | none => s.identify c h b t
        | some own =>
          if own = t then (s.modifyBag h (fun x => { x with recheck := false }), .confirm)
          else (s.disagree c h b t, .mismatch)
      | _ => (s, .neutral)
    else ((s.makeMissing h).setContent c .empty, .mismatch)

/-- An observation of a carrier, with its classification (R72 to R76). -/
def State.observe (s : State) (c : Nat) (occupied : Bool) (read : ReadResult) : State × Classification :=
  match s.carrier? c with
  | none => (s, .neutral)
  | some e =>
    match e.content with
    | .empty => if occupied then (s.placeByLookup c read, .mismatch) else (s, .confirm)
    | .unknown => if occupied then (s.placeByLookup c read, .neutral) else (s.setContent c .empty, .neutral)
    | .loaded h => s.seeLoaded c h occupied read

/-- A resolved ARCH: applied in CONFIRMING and TRACKING, then classified (R71). -/
def State.archSees (s : State) (c : Nat) (occupied : Bool) (read : ReadResult) : State :=
  if s.loop.track = .confirming ∨ s.loop.track = .tracking then
    (s.observe c (occupied || read != .noTag) read).1.classify (s.observe c (occupied || read != .noTag) read).2
  else s

/-- The offset of an arch. -/
def State.archOffset (s : State) (i : Nat) : Nat :=
  match s.loop.arches.get? i with
  | some a => a.offset
  | none => 0

/-- ARCH (R71). -/
def State.archFrame (s : State) (f : FrameHead) (arch occupied read : Byte) (tag : BitVec 32) : State :=
  s.takeFrame f ⟨.arch, some arch.toNat,
      (bitOfByte occupied).isSome && (ReadResult.ofBytes read tag).isSome⟩
    (fun t => t.atStamp f.stamp (t.archOffset arch.toNat)
      (fun c _ => t.archSees c ((bitOfByte occupied).getD false) ((ReadResult.ofBytes read tag).getD .noTag)))

/-! ## CHECK (R101 to R103, R106) -/

/-- A chute's failure count rises by 1, to FAULT at the limit (R106). DESIGN CHOICE: where CONFIG LIMITS has raised the limit, a
failure raises the count also of a chute in FAULT(FAILURES) at the old limit, of which R106 says that it stays there until CHUTE OPEN;
unsafe (log 57). -/
def State.countFailure (s : State) (k : Nat) : State :=
  match s.chute? k with
  | none => s
  | some c =>
    if s.limits.failure ≤ c.failures then s
    else
      let s1 := s.modifyChute k (fun c => { c with failures := c.failures + 1 })
      if c.failures + 1 = s.limits.failure then s1.faultChute k .failures else s1

/-- A CHECK reports the armed tray empty: the divert succeeded (R102). DEDUCED: the count becomes 0 also at a chute in
FAULT(FAILURES), of which R106 says that it stays at the limit; unsafe (log 42). -/
def State.divertSucceeds (s : State) (i : Nat) (m : Mark) (x : Content) : State :=
  let s1 := (s.disarm i m.chute).modifyChute m.chute (fun c => { c with failures := 0 })
  let s2 := match x with
    | .loaded h => s1.toLanding h m.chute (s.link.stampRef.getD 0 + s.windowOf m.chute) m.reason
    | _ => s1
  (s2.setContent i .empty).settleCut m.chute

/-- A CHECK reports the armed tray occupied: the divert failed (R103). -/
def State.divertFails (s : State) (i : Nat) (m : Mark) (x : Content) : State :=
  let s1 := (s.disarm i m.chute).setContent i (if x = .empty then .unknown else x)
  (s1.countFailure m.chute).settleCut m.chute

/-- A resolved CHECK of a chute: it ends the divert of a carrier armed for the chute, else it is ignored (R101). -/
def State.check (s : State) (k i : Nat) (occupied : Bool) : State :=
  match s.carrier? i with
  | none => s
  | some e =>
    match e.armed with
    | none => s
    | some m =>
      if m.chute = k then
        if occupied then s.divertFails i m e.content else s.divertSucceeds i m e.content
      else s

/-- The offset of a chute's check eye (R60). -/
def State.eyeOffset (s : State) (k : Nat) : Nat :=
  match s.chute? k with
  | some c => c.offset + 1
  | none => 0

/-- CHECK (R101). -/
def State.checkFrame (s : State) (f : FrameHead) (chute occupied : Byte) : State :=
  s.takeFrame f ⟨.chute, some chute.toNat, (bitOfByte occupied).isSome⟩
    (fun t => t.atStamp f.stamp (t.eyeOffset chute.toNat)
      (fun c _ => t.check chute.toNat c ((bitOfByte occupied).getD false)))

end Sys2Proof.Machine
end

