-- ==== Sys2Proof/Machine/FloorFrames.lean ====
section
/-! DEFINITION. Frames from the hall floor (07, 08, 10): LAND, CART, DOORSCAN, ENCODE. -/

namespace Sys2Proof.Machine

/-! ## LAND (R120, R121) -/

/-- LAND (R120, R121). -/
def State.landFrame (s : State) (f : FrameHead) (chute : Byte) : State :=
  s.takeFrame f ⟨.chute, some chute.toNat, true⟩ (fun t => t.takeLanding chute.toNat)

/-! ## CART PRESENT (R114, R115) -/

/-- The serial after a serial, wrapping from 65,535 to 1 (R114). -/
def nextSerialAfter (n : Nat) : Nat := if n < 65535 then n + 1 else 1

/-- The first serial from `n` on that no live cart holds, of `fuel` serials (R114). -/
def freeSerialFrom (carts : Table Cart) (n : Nat) : Nat → Nat
  | 0 => n
  | fuel + 1 => if carts.has n then freeSerialFrom carts (nextSerialAfter n) fuel else n

/-- The serial a new cart takes; at most 256 are held. -/
def State.newSerial (s : State) : Nat := freeSerialFrom s.carts s.nextSerial cartRecords

/-- A cart as it is registered at a chute (R114, R115). -/
def Cart.fresh (origin : Nat) (c : Chute) (state : CartState) : Cart :=
  ⟨origin, c.assigned, c.capacity, [], 0, false, state⟩

/-- A cart is taken from the pool for a position of a chute: FILLING and active, or STANDBY (R115). -/
def State.registerCart (s : State) (k : Nat) (c : Chute) (p : PosName) : State :=
  let n := s.newSerial
  let first := c.active.isNone
  let s1 := (s.setCarts (s.carts.put n (Cart.fresh k c (if first then .filling else .standby)))).setNextSerial
    (nextSerialAfter n)
  s1.modifyChute k (fun c =>
    let c1 := c.putPosition p (.cart n)
    if first then { c1 with active := some p, state := if c.state = .blocked then .opened else c.state } else c1)

/-- A CART PRESENT is taken (R115). -/
def State.cartPresent (s : State) (k : Nat) (p : PosName) : State :=
  match s.chute? k with
  | none => s
  | some c =>
    match c.kind, c.position p with
    | .deck, .empty =>
      if s.carts.length < cartRecords then s.registerCart k c p
      else (s.modifyChute k (fun c => c.putPosition p .marked)).raise .capacity 2
    | _, _ => s

/-- CART PRESENT (R115). -/
def State.cartPresentFrame (s : State) (f : FrameHead) (chute position : Byte) : State :=
  s.takeFrame f ⟨.chute, some chute.toNat, (PosName.ofByte position).isSome⟩
    (fun t => t.cartPresent chute.toNat ((PosName.ofByte position).getD .x))

/-! ## CART REMOVED (R116, R117) -/

/-- A removed cart leaves its chute by its state (R116). -/
def State.cartLeaves (s : State) (n : Nat) : State :=
  match s.cart? n with
  | none => s
  | some x =>
    match x.state with
    | .standby => s.retireCart n
    | .filling | .closing =>
      if x.isEmpty then s.retireCart n else (s.modifyCart n (fun x => { x with state := .cut })).departCart n
    | .full | .cut => s.departCart n
    | .queued | .atDoor => s

/-- A CART REMOVED for a position holding a cart (R116). -/
def State.removeCart (s : State) (k : Nat) (c : Chute) (p : PosName) (n : Nat) : State :=
  let s1 := (s.modifyChute k (fun c => c.putPosition p .empty)).cartLeaves n
  if c.active = some p then (s1.settleClaims k p.other).swap k else s1

/-- A CART REMOVED is taken (R115, R116). -/
def State.cartRemoved (s : State) (k : Nat) (p : PosName) : State :=
  match s.chute? k with
  | none => s
  | some c =>
    match c.kind, c.position p with
    | .deck, .marked => s.modifyChute k (fun c => c.putPosition p .empty)
    | .deck, .cart n => s.removeCart k c p n
    | _, _ => s

/-- CART REMOVED; its report byte is 0 (R116, R183). -/
def State.cartRemovedFrame (s : State) (f : FrameHead) (chute position report : Byte) : State :=
  s.takeFrame f ⟨.chute, some chute.toNat,
      (PosName.ofByte position).isSome && decide (report.toNat = 0)⟩
    (fun t => t.cartRemoved chute.toNat ((PosName.ofByte position).getD .x))

/-! ## DOORSCAN (R135, R136) -/

/-- A bag goes aboard from a cart (R136). -/
def State.board (s : State) (d : Nat) (x : Door) (h : Handle) (n : Nat) (route : RouteKey) : State :=
  let s1 := s.modifyRoute route (fun r => { r with loaded := r.loaded + 1 })
  if x.cart = some n then
    ((s1.moveBag h .aboard (some (.cart n))).modifyCart n (fun c =>
      { c with entries := c.entries.map (fun e => if e.bag = h then { e with aboard := true } else e) })).settleDoor d
  else ((((s1.moveBag h .aboard none).dropEntry n h).testCart n).settleDoor d)

/-- Whether a slot's board-first policy stops a bag: the policy is on and the governing cabin is PENDING (R5, R136). -/
def State.boardFirstStops (s : State) (b : Bag) : Bool :=
  (b.home.any (fun k => (s.store.slot k.slot).boardFirst)) &&
    (match s.store.governing b with
     | some c => c.status == .pending
     | none => false)

/-- The demand check and boarding test at the door (R136). -/
def State.boardingTest (s : State) (d : Nat) (x : Door) (h : Handle) (n : Nat) (route : RouteKey) : State :=
  let s1 := s.demandCheck h
  match s1.bag? h with
  | none => s1
  | some b =>
    if b.pull.isSome || s1.store.governedVoid b then s1.addHalt d .pulledBag
    else if s1.boardFirstStops b then s1.addHalt d .notBoarded
    else s1.board d x h n route

/-- The live cart a bag is in and its route, where the door serves that route (R135 line 5). -/
def State.servedCart (s : State) (d : Nat) (b : Bag) : Option (Nat × RouteKey) := do
  let n ← b.cart?
  let c ← s.cart? n
  let k ← c.route
  if s.doorServes d k then some (n, k) else none

/-- Whether a found bag is of another door: no slot, another slot, or a route the door does not serve (R135 line 3). -/
def State.wrongDoor (s : State) (d : Nat) (b : Bag) : Bool :=
  match s.store.bagRoute b with
  | some k => !s.doorServes d k
  | none => true

/-- A scan that reads one tag (R135). -/
def State.scanTag (s : State) (d : Nat) (x : Door) (tag : Nat) : State :=
  match s.store.lookup tag with
  | .unknown => s.addHalt d .unknownTag
  | .closedTag => s.addHalt d .wrongDoor
  | .found h b =>
    if s.wrongDoor d b then s.addHalt d .wrongDoor
    else if b.state = .aboard then s
    else if b.state = .inCart then
      match s.servedCart d b with
      | some (n, k) => s.boardingTest d x h n k
      | none => s.addHalt d .misplaced
    else s.addHalt d .misplaced

/-- A DOORSCAN is taken (R135). -/
def State.scan (s : State) (d : Nat) (read : ReadResult) : State :=
  match s.door? d with
  | none => s
  | some x =>
    match read with
    | .one t => s.scanTag d x t
    | _ => s.addHalt d .noRead

/-- DOORSCAN (R135). -/
def State.doorscanFrame (s : State) (f : FrameHead) (door read : Byte) (tag : BitVec 32) : State :=
  s.takeFrame f ⟨.door, some door.toNat, (ReadResult.ofBytes read tag).isSome⟩
    (fun t => t.scan door.toNat ((ReadResult.ofBytes read tag).getD .noTag))

/-! ## ENCODE (R159 to R162) -/

/-- A bag's stray reason as an answer gives it; every STRAY bag has one (R29, log 28). -/
def reasonAnswer (b : Option Bag) : EncodeAnswer := .reason ((b.bind (·.reason)).getD .noRead)

/-- The answer for a bag read by its own tag: its route where it is routable, else its reason (R162). -/
def State.routeOrReason (s : State) (h : Handle) : EncodeAnswer :=
  match (s.bag? h).bind s.routable with
  | some k => .route k
  | none => reasonAnswer (s.bag? h)

/-- The reason of the bag now at a position (R162). -/
def State.reasonOf (s : State) (h : Handle) : EncodeAnswer := reasonAnswer (s.bag? h)

/-- A bag's reason becomes a given one. -/
def State.giveReason (s : State) (h : Handle) (r : StrayReason) : State :=
  s.modifyBag h (fun b => { b with reason := some r })

/-- The demand check at encode and what follows: under a VOID governing cabin the reason becomes PULLED, otherwise it is
re-evaluated (R148, R158, log 31). -/
def State.encodeCheck (s : State) (h : Handle) (named : Option StrayReason) : State :=
  let s1 := s.demandCheck h
  if (s1.bag? h).any s1.store.governedVoid then s1.giveReason h .pulled else s1.reEvaluate h named

/-- A merge: a found bag takes the anonymous stray's position, place, entered time and AGED flag, and the anonymous record
retires without freeing the position (R159). -/
def State.encodeMerge (s : State) (p : Nat) (h : Handle) (a : Bag) (found : Handle) : State :=
  let s1 := (s.moveBag found .stray (some (.pen p))).modifyBag found
    (fun b => { b with entered := a.entered, aged := a.aged })
  let s2 := s1.setPen { s1.pen with
    positions := s1.pen.positions.put p found
    strays := s1.pen.strays.map (fun x => if x = h then found else x) }
  (s2.retireRecord h).encodeCheck found a.reason

/-- A report at a position holding an anonymous bag (R159). -/
def State.encodeAnonymous (s : State) (p : Nat) (h : Handle) (a : Bag) (read : ReadResult) : State × EncodeAnswer :=
  match read with
  | .one t =>
    match s.store.lookup t with
    | .unknown =>
      let s1 := (s.setStore (s.store.giveTag h t)).giveReason h .unknownTag
      (s1, s1.reasonOf h)
    | .closedTag =>
      let s1 := s.giveReason h .wrongSailing
      (s1, s1.reasonOf h)
    | .found g b =>
      if b.state = .registered ∨ b.state = .missing then
        let s1 := s.encodeMerge p h a g
        (s1, s1.routeOrReason g)
      else
        let s1 := s.giveReason h .duplicateTag
        (s1, s1.reasonOf h)
  | _ => (s, s.reasonOf h)

/-- A report at a position holding a tagged bag (R161). -/
def State.encodeTagged (s : State) (h : Handle) (own : Nat) (read : ReadResult) : State × EncodeAnswer :=
  match read with
  | .one t =>
    if t = own then
      let s1 := s.encodeCheck h none
      (s1, s1.routeOrReason h)
    else
      let s1 := s.giveReason h .mismatch
      (s1, s1.reasonOf h)
  | _ => (s, s.reasonOf h)

/-- A new bag in the pen. -/
def State.penBag (s : State) (p : Nat) (tag : Option Nat) (reason : StrayReason) : Bag :=
  { Bag.blank .stray (some (.pen p)) with tag := tag, reason := some reason, entered := some s.hallSecond }

/-- A report at a free position places a new bag, or nothing where no record is free (R160). -/
def State.encodeFresh (s : State) (p : Nat) (tag : Option Nat) (reason : StrayReason) : State × EncodeAnswer :=
  match s.createBag (s.penBag p tag reason) with
  | some (h, t) => (t.occupy h p, .reason reason)
  | none => (s, .notTaken .table)

/-- A found bag may be placed in the pen: REGISTERED or MISSING (R160). -/
def placeable (b : Bag) : Bool := b.state == .registered || b.state == .missing

/-- A report at a free position (R160). DESIGN CHOICE: the credit is tested before the need of a record, so that PEN is answered
where both fail; unsafe (log 43). -/
def State.encodeFree (s : State) (p : Nat) (read : ReadResult) : State × EncodeAnswer :=
  if s.penRoom < 1 then (s, .notTaken .pen)
  else
    match (s.find read).orDuplicate placeable with
    | .bag h _ =>
      let s1 := (s.intake h p).encodeCheck h (some .noRead)
      (s1, s1.routeOrReason h)
    | .fresh tag reason => s.encodeFresh p tag reason

/-- What a report does, by what the position holds (R159 to R161). -/
def State.judge (s : State) (p : Nat) (read : ReadResult) : State × EncodeAnswer :=
  match s.pen.positions.get? p with
  | none => s.encodeFree p read
  | some h =>
    match s.bag? h with
    | none => (s, .reason .noRead)
    | some b =>
      match b.tag with
      | none => s.encodeAnonymous p h b read
      | some own => s.encodeTagged h own read

/-- An ENCODE is taken, and answered; a position of P or more is discarded (R162). -/
def State.encode (s : State) (p : Nat) (read : ReadResult) : State :=
  if s.isPosition p then
    let r := s.judge p read
    r.1.send .encode 0 (.answer p r.2)
  else s

/-- ENCODE (R159 to R162). -/
def State.encodeFrame (s : State) (f : FrameHead) (position read : Byte) (tag : BitVec 32) : State :=
  s.takeFrame f ⟨.encode, none, (ReadResult.ofBytes read tag).isSome⟩
    (fun t => t.encode position.toNat ((ReadResult.ofBytes read tag).getD .noTag))

end Sys2Proof.Machine
end

