-- ==== Sys2Proof/WellFormed.lean ====
section
/-! DEFINITION. Which terms of Instr spell a command that can be sent: the ranges that a row's operands have by the form of its
transaction, frame or event. The meanings are total on ill-formed terms as well. -/

namespace Sys2Proof

/-- The request codes that name a request (13 The request port). -/
def knownRequest (code : Nat) : Bool :=
  (decide (0x01 ≤ code) && decide (code ≤ 0x0C)) || (decide (0x10 ≤ code) && decide (code ≤ 0x13)) ||
  (decide (0x18 ≤ code) && decide (code ≤ 0x1C)) || (decide (0x20 ≤ code) && decide (code ≤ 0x28)) ||
  (decide (0x30 ≤ code) && decide (code ≤ 0x33)) || (decide (0x38 ≤ code) && decide (code ≤ 0x3F)) ||
  (decide (0x40 ≤ code) && decide (code ≤ 0x45)) || (decide (0x48 ≤ code) && decide (code ≤ 0x4A)) ||
  (decide (0x50 ≤ code) && decide (code ≤ 0x52))

/-- Whether a term spells a command. -/
def Instr.wellFormed : Instr → Bool
  | .statusOnly first => decide (first.toNat = 0) || decide (0x81 ≤ first.toNat)
  | .fetch clocked => decide (1 ≤ clocked)
  | .unknownRequest code _ => decide (1 ≤ code.toNat) && decide (code.toNat ≤ 0x7F) && !knownRequest code.toNat
  | .configNode _ _ objects => decide (objects.length < 256)
  | .cabinPut _ _ _ guests => decide (guests.length < 256)
  | .noticeMask _ sources _ => decide (sources.length = 15)
  | .cutComplete chute | .landingDeadline chute => decide (chute < 40)
  | .checkDeadline carrier => decide (carrier < 512)
  | .cartRemoved _ _ _ report => decide (report.toNat ≠ 1)
  | .doorArbitrate door | .cartComplete door => decide (door < 6)
  | .nodeDown node => decide (1 ≤ node) && decide (node ≤ 32)
  | _ => true

end Sys2Proof
end

