-- ==== Sys2Proof/Machine/Wire.lean ====
section
/-! DEFINITION. How bytes spell commands (R44, R172, R182, R183): the command of a field frame and of a port transaction. The
block is given commands; these readings say which command the bytes on its pins are. -/

namespace Sys2Proof.Machine

/-! ## Field frames (R44, R183) -/

/-- Four bytes as a number of 32 bits, most significant first. -/
def word32 (a b c d : Byte) : BitVec 32 := BitVec.ofNat 32 (be32 a b c d)

/-- Two bytes as a number of 16 bits, most significant first. -/
def word16 (a b : Byte) : BitVec 16 := BitVec.ofNat 16 (be16 a b)

/-- The command of an inbound kind code and a payload of that kind's length (13 The field frame). -/
def frameOfKind (f : FrameHead) (kind : Nat) (payload : List Byte) : Option Instr :=
  match kind, payload with
  | 0x01, [] => some (.pitch f)
  | 0x02, [] => some (.home f)
  | 0x03, [p, r, a, b, c, d] => some (.launch f p r (word32 a b c d))
  | 0x04, [p, o, r, a, b, c, d] => some (.arch f p o r (word32 a b c d))
  | 0x05, [k, o] => some (.check f k o)
  | 0x06, [k] => some (.land f k)
  | 0x07, [k, p, r] => some (if r.toNat = 1 then .cartPresent f k p else .cartRemoved f k p r)
  | 0x08, [d, r, w, x, y, z] => some (.doorscan f d r (word32 w x y z))
  | 0x09, [p, r, a, b, c, d] => some (.encode f p r (word32 a b c d))
  | _, _ => none

/-- The frame that bytes make: SYNC, a length of at most 8 that fits, the CRC, and an inbound kind with its length (R183). -/
def readFrame : List Byte → Option Instr
  | sync :: len :: node :: seq :: kind :: stamp :: rest =>
    let payload := rest.take len.toNat
    let crc := rest.drop len.toNat
    if sync = syncByte ∧ len.toNat ≤ 8 ∧ rest.length = len.toNat + 2 ∧
        crc = [(crc16 (len :: node :: seq :: kind :: stamp :: payload) >>> 8).setWidth 8,
          (crc16 (len :: node :: seq :: kind :: stamp :: payload)).setWidth 8] then
      frameOfKind ⟨node, seq, stamp⟩ kind.toNat payload
    else none
  | _ => none

/-- The head of a field frame. -/
def frameHead : Instr → Option FrameHead
  | .pitch f | .home f | .launch f _ _ _ | .arch f _ _ _ _ | .check f _ _ | .land f _ | .cartPresent f _ _
  | .cartRemoved f _ _ _ | .doorscan f _ _ _ | .encode f _ _ _ => some f
  | _ => none

/-- The command of some bytes that the receiver takes for a frame: bytes outside the format are discarded (R44). -/
def commandOfFrame (l : List Byte) : Instr := (readFrame l).getD (.frameDiscard l)

/-! ## Transactions (R172, R182) -/

/-- A byte of a body, 0 where the body has none there (a body that is short is answered BAD_LENGTH whatever it reads as). DESIGN
CHOICE: a BAG GET without its key-form byte so has the handle form, which its echo shows; safe (log 45). -/
def bodyByte (body : List Byte) (i : Nat) : Byte := body.getD i 0

/-- Two bytes of a body. -/
def body16 (body : List Byte) (i : Nat) : BitVec 16 := word16 (bodyByte body i) (bodyByte body (i + 1))

/-- Four bytes of a body. -/
def body32 (body : List Byte) (i : Nat) : BitVec 32 :=
  word32 (bodyByte body i) (bodyByte body (i + 1)) (bodyByte body (i + 2)) (bodyByte body (i + 3))

/-- The value of a list whose code is a byte, none outside the table (R182). -/
def ofCode {α : Type} (l : List α) (code : α → Byte) (b : Byte) : Option α := l.find? (fun x => code x == b)

/-- A chute kind byte (log 9). -/
def chuteKindOf (b : Byte) : Option ChuteKind := ofCode [.deck, .stray] (fun v => codeByte (.chuteKind v)) b

/-- A berth byte: slot 0 is berth A, slot 1 berth B. -/
def berthOf (b : Byte) : Option SlotId := SlotId.ofNat? b.toNat

/-- A role byte (log 9). -/
def roleOf (b : Byte) : Option Role :=
  ofCode [.loop, .induct, .arch, .chute, .door, .encode] (fun v => codeByte (.role v)) b

/-- A guest state byte (13 CABIN GET). -/
def guestStateOf (b : Byte) : Option GuestState := ofCode [.expected, .boarded, .notSailing] GuestState.code b

/-- BAG GET's byte: 0 for a handle key, 1 for a tag key. -/
def keyFormOf (b : Byte) : Option BagKeyForm := (bitOfByte b).map (fun t => if t then .tag else .handle)

/-- A priority byte (log 9). -/
def priorityOf (b : Byte) : Option Priority := ofCode [.high, .low] (fun v => codeByte (.priority v)) b

/-- The entries of a list whose count byte stands at `i`, each of some bytes. -/
def bodyList {α : Type} (body : List Byte) (i width : Nat) (f : Nat → α) : List α :=
  (List.range (bodyByte body i).toNat).map (fun j => f (i + 1 + j * width))

/-- The request of a code with its header and body, where the code names one (R182). -/
def requestOf (code : Nat) (h : Head) (b : List Byte) : Option Instr :=
  match code with
  | 0x01 => some (.configLoop h (body16 b 0) (bodyByte b 2))
  | 0x02 => some (.configInduction h (body16 b 0) (bodyByte b 2))
  | 0x03 => some (.configArch h (body16 b 0) (bodyByte b 2))
  | 0x04 => some (.configChute h (chuteKindOf (bodyByte b 0)) (body16 b 1) (bodyByte b 3) (bodyByte b 4) (bodyByte b 5)
      (bodyByte b 6))
  | 0x05 => some (.configDoor h (berthOf (bodyByte b 0)) (bodyByte b 1))
  | 0x06 => some (.configNode h (roleOf (bodyByte b 0)) (bodyList b 1 1 (bodyByte b)))
  | 0x07 => some (.configLimits h ⟨bodyByte b 0, bodyByte b 1, bodyByte b 2, bodyByte b 3, bodyByte b 4, bodyByte b 5,
      bodyByte b 6, bodyByte b 7, body16 b 8⟩)
  | 0x08 => some (.run h)
  | 0x09 => some (.hallClear h)
  | 0x0A => some (.hallRest h)
  | 0x0B => some (.wake h)
  | 0x0C => some (.hallTime h)
  | 0x10 => some (.openSailing h (body16 b 0) (bitOfByte (bodyByte b 2)))
  | 0x11 => some (.closeSailing h (body16 b 0))
  | 0x12 => some (.sailingGet h)
  | 0x13 => some (.routeSet h (bodyByte b 0) (bitOfByte (bodyByte b 1)))
  | 0x18 => some (.cabinPut h (bodyByte b 0) (bodyByte b 1) (bodyList b 2 5 (fun i => (bodyByte b i, body32 b (i + 1)))))
  | 0x19 => some (.cabinGet h)
  | 0x1A => some (.cabinDrop h)
  | 0x1B => some (.cabinForward h (body16 b 0))
  | 0x1C => some (.guestStatus h (bodyByte b 0) (guestStateOf (bodyByte b 1)))
  | 0x20 => some (.bagRegister h (body32 b 0))
  | 0x21 => some (.bagGet h (keyFormOf (bodyByte b 0)))
  | 0x22 => some (.bagReassign h (bodyByte b 0) (body16 b 1))
  | 0x23 => some (.bagHold h)
  | 0x24 => some (.bagRelease h)
  | 0x25 => some (.bagPull h)
  | 0x26 => some (.bagRetire h)
  | 0x27 => some (match ofCode [true, false] (fun v => codeByte (.offloadOutcome v)) (bodyByte b 0) with
      | some true => .offloadConfirmRetire h true (bodyByte b 1)
      | some false => .offloadConfirmPen h (bodyByte b 1)
      | none => .offloadConfirmRetire h false (bodyByte b 1))
  | 0x28 => some (.bagUnload h (bodyByte b 0))
  | 0x30 => some (.loopGet h)
  | 0x31 => some (.carrierGet h)
  | 0x32 => some (.trackingReset h)
  | 0x33 => some (.trackingResume h)
  | 0x38 => some (.chuteAssign h (bodyByte b 0) (bodyByte b 1))
  | 0x39 => some (.chuteOpen h)
  | 0x3A => some (.chuteClose h)
  | 0x3B => some (.chuteGet h)
  | 0x3C => some (.cartCut h)
  | 0x3D => some (.cartGet h (bodyByte b 0))
  | 0x3E => some (.cartClearUnidentified h)
  | 0x3F => some (match ofCode [true, false] (fun v => codeByte (.jamOutcome v)) (bodyByte b 1) with
      | some true => .jamClearLanded h true (bodyByte b 0) (bodyByte b 2)
      | some false => .jamClearRemoved h (bodyByte b 0) (bodyByte b 2)
      | none => .jamClearLanded h false (bodyByte b 0) (bodyByte b 2))
  | 0x40 => some (.routeStart h (bitOfByte (bodyByte b 0)))
  | 0x41 => some (.routePause h)
  | 0x42 => some (.routeContinue h)
  | 0x43 => some (.routeGet h)
  | 0x44 => some (.doorGet h)
  | 0x45 => some (.doorRelease h)
  | 0x48 => some (.strayNext h (bodyByte b 0))
  | 0x49 => some (.strayGet h)
  | 0x4A => some (match ofCode [(true, false), (false, true), (false, false)] (fun v => codeByte (.action v.1 v.2))
        (bodyByte b 0) with
      | some (true, _) => .strayResolveReinduct h
      | some (false, true) => .strayResolveReturn h
      | some (false, false) => .strayResolveHold h true
      | none => .strayResolveHold h false)
  | 0x50 => some (.noticeRead h)
  | 0x51 => some (.noticeMask h ((List.range 15).map (fun i =>
      (bitOfByte (bodyByte b (2 * i)), priorityOf (bodyByte b (2 * i + 1))))) (bitOfByte (bodyByte b 30)))
  | 0x52 => some (.noticeClear h)
  | _ => none

/-- The header of a request transaction's bytes. -/
def headOf (l : List Byte) : Head :=
  ⟨bodyByte l 1, ⟨bodyByte l 2, bodyByte l 3, bodyByte l 4, bodyByte l 5⟩, l.length⟩

/-- The command that a port transaction's bytes spell, by its first byte; a request's body is the bytes that its header gives
it, and those beyond are ignored (R172). -/
def commandOfTransaction (l : List Byte) : Option Instr :=
  match l with
  | [] => none
  | first :: _ =>
    if first.toNat = 0 ∨ 0x81 ≤ first.toNat then some (.statusOnly first)
    else if first.toNat = 0x80 then some (.fetch l.length)
    else
      let h := headOf l
      some ((requestOf first.toNat h ((l.drop 6).take h.bodyLen)).getD (.unknownRequest first h))

end Sys2Proof.Machine
end

