-- ==== Sys2Proof/Machine/Receiver.lean ====
section
/-! DEFINITION. The receiver (03): the bytes of the field link, the frames found in them, and the meanings of the frame rows. -/

namespace Sys2Proof.Machine

/-! ## Frames found in the bytes (R44) -/

/-- Whether a frame's node byte names a configured node (R44). -/
def State.knows (s : State) (f : FrameHead) : Bool := ((s.node? f.node.toNat).bind (·.role)).isSome

/-- A good frame from a configured node is taken by its kind. -/
def State.takeKind (s : State) : Instr → State
  | .pitch f => s.pitchFrame f
  | .home f => s.homeFrame f
  | .launch f point read tag => s.launchFrame f point read tag
  | .arch f arch occupied read tag => s.archFrame f arch occupied read tag
  | .check f chute occupied => s.checkFrame f chute occupied
  | .land f chute => s.landFrame f chute
  | .cartPresent f chute position => s.cartPresentFrame f chute position
  | .cartRemoved f chute position report => s.cartRemovedFrame f chute position report
  | .doorscan f door read tag => s.doorscanFrame f door read tag
  | .encode f position read tag => s.encodeFrame f position read tag
  | _ => s

/-- What the bytes from a SYNC byte on are: too few yet, no frame, or a frame with the bytes after it. -/
inductive Candidate where
  | waits
  | bad
  | frame (i : Instr) (rest : List Byte)
  deriving DecidableEq, Repr

/-- The bytes from a SYNC byte on are judged: the length byte as it comes, the rest when the frame is whole (R44, R183, log
21). -/
def candidate (l : List Byte) : Candidate :=
  match l[1]? with
  | none => .waits
  | some len =>
    if 8 < len.toNat then .bad
    else if l.length < 8 + len.toNat then .waits
    else match readFrame (l.take (8 + len.toNat)) with
      | none => .bad
      | some i => .frame i (l.drop (8 + len.toNat))

/-- The receiver reads some bytes, of which `fuel` bounds the number: it hunts the SYNC byte; a frame is taken; what is no frame,
and a frame of a node that is not configured, is discarded, and the hunt goes on from the byte after its SYNC byte; what is
not whole yet is kept, or, when its next byte is `late`, discarded too (R44). -/
def State.readBytes (s : State) (late : Bool) : Nat → List Byte → State
  | 0, l => s.setRx l
  | fuel + 1, l =>
    match hunt l with
    | [] => s.setRx []
    | sync :: t =>
      match candidate (sync :: t) with
      | .waits => if late then s.readBytes late fuel t else s.setRx (sync :: t)
      | .bad => s.readBytes late fuel t
      | .frame i rest =>
        if (frameHead i).any s.knows then (s.takeKind i).readBytes late fuel rest else s.readBytes late fuel t

/-- Some bytes come after those the receiver holds. -/
def State.hears (s : State) (late : Bool) (l : List Byte) : State :=
  s.readBytes late ((s.link.rx ++ l).length + 1) (s.link.rx ++ l)

/-- FRAME_DISCARD: the bytes of a frame whose length, CRC or node byte is bad (R44). -/
def execFrameDiscard (bytes : List Byte) (s : State) : Outcome := .next (s.hears false bytes)

/-- FRAME_BYTE_TIMEOUT: some bytes of a frame, and then a gap; more than 1 ms discards what is not whole (R44). -/
def execFrameByteTimeout (bytes : List Byte) (gapMicros : Nat) (s : State) : Outcome :=
  .next (s.hears (decide (1000 < gapMicros)) bytes)

/-! ## The frame rows -/

/-- The bytes that the receiver holds are read to their end: a candidate that is not whole is discarded, and the hunt goes on
within it, so that each whole frame it holds is taken (R44). -/
def State.settleRx (s : State) : State := s.hears true []

/-- A good frame comes, of a kind code and a payload. It is read on its own, so a candidate held until then is discarded before it,
the hunt going on in its bytes (log 21). Its node takes it, or, not configured, its bytes after the SYNC byte are hunted again
(R44). -/
def State.receive (s : State) (f : FrameHead) (kind : Byte) (payload : List Byte) (act : State → State) : State :=
  let s1 := s.settleRx
  if s1.knows f then act s1
  else s1.hears false (frameBytes f.node f.seq kind f.stamp payload).tail

/-- PITCH (R64). -/
def execPitch (f : FrameHead) (s : State) : Outcome := .next (s.receive f 0x01 [] (fun t => t.pitchFrame f))

/-- HOME (R66). -/
def execHome (f : FrameHead) (s : State) : Outcome := .next (s.receive f 0x02 [] (fun t => t.homeFrame f))

/-- LAUNCH (R68). -/
def execLaunch (f : FrameHead) (point read : Byte) (tag : BitVec 32) (s : State) : Outcome :=
  .next (s.receive f 0x03 ([point, read] ++ tagBytes tag) (fun t => t.launchFrame f point read tag))

/-- ARCH (R71). -/
def execArch (f : FrameHead) (arch occupied read : Byte) (tag : BitVec 32) (s : State) : Outcome :=
  .next (s.receive f 0x04 ([arch, occupied, read] ++ tagBytes tag) (fun t => t.archFrame f arch occupied read tag))

/-- CHECK (R101). -/
def execCheck (f : FrameHead) (chute occupied : Byte) (s : State) : Outcome :=
  .next (s.receive f 0x05 [chute, occupied] (fun t => t.checkFrame f chute occupied))

/-- LAND (R120, R121). -/
def execLand (f : FrameHead) (chute : Byte) (s : State) : Outcome :=
  .next (s.receive f 0x06 [chute] (fun t => t.landFrame f chute))

/-- CART PRESENT (R115). -/
def execCartPresent (f : FrameHead) (chute position : Byte) (s : State) : Outcome :=
  .next (s.receive f 0x07 [chute, position, 1] (fun t => t.cartPresentFrame f chute position))

/-- CART REMOVED; its report byte is 0 (R116, R183). -/
def execCartRemoved (f : FrameHead) (chute position report : Byte) (s : State) : Outcome :=
  .next (s.receive f 0x07 [chute, position, report] (fun t => t.cartRemovedFrame f chute position report))

/-- DOORSCAN (R135). -/
def execDoorscan (f : FrameHead) (door read : Byte) (tag : BitVec 32) (s : State) : Outcome :=
  .next (s.receive f 0x08 ([door, read] ++ tagBytes tag) (fun t => t.doorscanFrame f door read tag))

/-- ENCODE (R159 to R162). -/
def execEncode (f : FrameHead) (position read : Byte) (tag : BitVec 32) (s : State) : Outcome :=
  .next (s.receive f 0x09 ([position, read] ++ tagBytes tag) (fun t => t.encodeFrame f position read tag))

end Sys2Proof.Machine
end

