-- ==== Sys2Proof/Machine/Walks.lean ====
section
/-! DEFINITION. The sweep unit (11): the patrol visit, the close walk and the clear walk. -/

namespace Sys2Proof.Machine

/-! ## The patrol (R144, R165 to R168) -/

/-- The position the walker comes to next (R166). -/
def WalkerPos.next (p : WalkerPos) : WalkerPos :=
  if p.index < bagRecords - 1 then ⟨p.index + 1, p.pass⟩
  else ⟨0, if p.pass = 4294967295 then Config.passAfterLast 0 else p.pass + 1⟩

/-- The handle of a live record at an index. -/
def Store.liveAt (t : Store) (i : Nat) : Option Handle := if t.bags.has i then some ⟨i, t.gen i⟩ else none

/-- Whether a bag is due to be aged: a stray with AGED and REINDUCT clear that entered at least the age limit ago (R165). -/
def State.ageDue (s : State) (b : Bag) : Bool :=
  b.state == .stray && !b.aged && !b.reinduct &&
    (match b.entered with
     | some t => decide (t + s.limits.strayAge * 60 ≤ s.hallSecond)
     | none => false)

/-- The sweep ages a bag (R165). -/
def State.age (s : State) (h : Handle) : State :=
  match s.bag? h with
  | none => s
  | some b =>
    if s.ageDue b then (s.modifyBag h (fun b => { b with aged := true })).raise .strayAged b.penPosition else s

/-- Whether a cabin's pull completes as the walker leaves a position (R144). -/
def Cabin.pullDone (c : Cabin) (p : WalkerPos) : Bool :=
  c.pulling && (match c.pullStart with
    | some q => q.index == p.index && decide (q.pass.toNat < p.pass.toNat)
    | none => false)

/-- A cabin whose pull completes is PULLED (R144). -/
def Cabin.finishPull (c : Cabin) (p : WalkerPos) : Cabin :=
  if c.pullDone p then { c with pull := .pulled, pullStart := none } else c

/-- PULL_DONE is raised for each of some slots in turn. -/
def State.tellPulls (s : State) : List SlotId → State
  | [] => s
  | b :: t => (s.raise .pullDone b.toNat).tellPulls t

/-- The pull completion test at the position the walker has left (R144, R167). -/
def State.testPulls (s : State) (p : WalkerPos) : State :=
  let done := (s.store.cabins.filter (fun e => e.2.pullDone p)).map (fun e => slotOfCabinCode e.1)
  let s1 := s.setStore { s.store with cabins := s.store.cabins.mapValues (fun c => c.finishPull p) }
  (s1.tellPulls done).setMode

/-- The visit of a live bag: reconcile, then age (R168). -/
def State.visitBag (s : State) (i : Nat) : State :=
  match s.store.liveAt i with
  | some h => (s.reconcile h).age h
  | none => s

/-- A visit of the next index (R168). -/
def State.visit (s : State) : State :=
  let p := s.sweep.pos.next
  let s1 := s.visitBag p.index
  (s1.setSweep { s1.sweep with pos := p }).testPulls p

/-- Whether the patrol may visit: RUN, and no walk runs (R167). -/
def State.patrolling (s : State) : Bool := s.opState == .run && s.sweep.walk.isNone

/-- PATROL_VISIT (R168). -/
def execPatrolVisit (s : State) : Outcome := .next (if s.patrolling then s.visit else s)

/-! ## Walks (R169, R171) -/

/-- The records a walk visits: bag records, then cabin records (R169). -/
def walkRecords : Nat := bagRecords + cabinRecords

/-- Whether a walk retires the records of a slot: the close walk its own slot's, the clear walk every record. -/
def walkClears (w : WalkKind) (home : Option SlotId) : Bool :=
  match w with
  | .close b => home == some b
  | .clear => true

/-- The cabin held by a record of the pool. -/
def Store.cabinAt (t : Store) (place : Nat) : Option (Nat × Cabin) := t.cabins.find? (fun e => e.2.place == place)

/-- A walk's visit of a bag record (R169, R171). -/
def State.walkBag (s : State) (w : WalkKind) (i : Nat) : State :=
  match s.store.liveAt i with
  | none => s
  | some h =>
    match s.bag? h with
    | none => s
    | some b => if walkClears w (b.home.map (·.slot)) then s.retireBag h else s

/-- A cabin's record returns to the pool, and the cabin it forwards to loses 1 from its forwarded-in count (R17). -/
def State.eraseCabin (s : State) (key : Nat) (forward : Option Nat) : State :=
  let s1 := match forward with
    | some n => s.loseForward ⟨slotOfCabinCode key, n⟩
    | none => s
  s1.setStore { s1.store with cabins := s1.store.cabins.erase key }

/-- A walk's visit of a cabin record; a PULLING cabin retired leaves the pulling cabins (R169, R171). -/
def State.walkCabin (s : State) (w : WalkKind) (place : Nat) : State :=
  match s.store.cabinAt place with
  | none => s
  | some (key, c) =>
    if walkClears w (some (slotOfCabinCode key)) then (s.eraseCabin key c.forward).setMode
    else s

/-- A walk's visit of a record. -/
def State.walkRecord (s : State) (w : WalkKind) (n : Nat) : State :=
  if n < bagRecords then s.walkBag w n else s.walkCabin w (n - bagRecords)

/-- The walk running becomes another. -/
def State.setWalk (s : State) (w : Option Walk) : State := s.setSweep { s.sweep with walk := w }

/-! ## The completion of a close walk (R170) -/

/-- A cart standing at a chute of the closed slot: empty it retires, else it keeps its position and its route is absent (R170).
DESIGN CHOICE: so does a cart with entries but no unidentified items, which R170 does not name; unsafe (log 44). -/
def State.leaveCartOf (s : State) (k : Nat) (p : PosName) (n : Nat) : State :=
  match s.cart? n with
  | none => s
  | some x =>
    if x.isEmpty then
      (s.retireCart n).modifyChute k (fun c =>
        { c.putPosition p .empty with active := if c.active = some p then none else c.active })
    else s.modifyCart n (fun x => { x with route := none })

/-- What stands at a position of a chute of the closed slot. -/
def State.leavePosition (s : State) (k : Nat) (p : PosName) : State :=
  match (s.chute? k).bind (fun c => (c.position p).serial?) with
  | none => s
  | some n => s.leaveCartOf k p n

/-- A chute assigned to a route of the closed slot: claims are lost, which completes the cut of a CLOSING cart, carts leave, the
assignment is released and the chute is CLOSED (R119, R170). DEDUCED: R170's "keeps its position and state" is read after that
cut; safe (log 17). -/
def State.releaseChute (s : State) (k : Nat) : State :=
  match s.chute? k with
  | none => s
  | some c =>
    let s1 := if c.claims = 0 then s else (s.loseClaims k).settleCut k
    ((s1.leavePosition k .x).leavePosition k .y).modifyChute k (fun c => { c with assigned := none, state := .closed })

/-- Some chutes are released in turn. -/
def State.releaseChutes (s : State) : List Nat → State
  | [] => s
  | k :: t => (s.releaseChute k).releaseChutes t

/-- The chutes assigned to routes of a slot, in rising order. -/
def State.slotChutes (s : State) (b : SlotId) : List Nat :=
  (s.chutes.filter (fun e => e.2.assigned.any (fun k => k.slot == b))).map (·.1)

/-- Each of some carts retires in turn. -/
def State.retireCarts (s : State) : List Nat → State
  | [] => s
  | n :: t => (s.retireCart n).retireCarts t

/-- The carts QUEUED on routes of a slot: those of the routes' queues, and those that ROUTE SET took out of one (log 13). -/
def State.slotQueued (s : State) (b : SlotId) : List Nat :=
  (slotRoutes b).flatMap (fun k => match s.route? k with
    | some r => r.queue
    | none => []) ++
  (s.carts.filter (fun e => e.2.state == .queued && e.2.route.any (fun k => k.slot == b))).map (·.1)

/-- Each of some routes becomes UNSET. -/
def State.unsetRoutes (s : State) : List RouteKey → State
  | [] => s
  | k :: t => (s.modifyRoute k (fun _ => Route.reset)).unsetRoutes t

/-- Whether a route subject is of a slot. -/
def routeOfSlot (b : SlotId) (n : Nat) : Bool := decide (n / 12 = b.toNat)

/-- The notices of a closed slot go (R170). -/
def State.dropSlotNotices (s : State) (b : SlotId) : State :=
  (((s.dropSubjects .cartDone (routeOfSlot b)).dropSubjects .routeIdle (routeOfSlot b)).dropSubjects .offload
    (· == b.toNat)).dropSubjects .pullDone (· == b.toNat)

/-- The completion of a close walk (R170). -/
def State.completeClose (s : State) (b : SlotId) : State :=
  let s1 := s.releaseChutes (s.slotChutes b)
  let s2 := (s1.retireCarts (s1.slotQueued b)).unsetRoutes (slotRoutes b)
  let s3 := s2.setDoors (s2.doors.mapValues (fun x => if x.berth = b then { x with lastServed := none } else x))
  let s4 := (s3.dropSlotNotices b).putSlot b Sailing.reset
  (s4.setWalk none).raise .walkDone b.toNat

/-! ## The completion of the clear walk (R171) -/

/-- Every source's set is emptied, the enables and priorities kept (R179). -/
def NoticeUnit.empty (u : NoticeUnit) : NoticeUnit :=
  NoticeUnit.drive { u with sources := u.sources.map (fun n => { n with subjects := [] }) }

/-- A chute with both positions empty. -/
def Chute.vacate (c : Chute) : Chute := { c with posX := .empty, posY := .empty, active := none }

/-- The completion of the clear walk (R171, R108, R114, R126, R132). -/
def State.completeClear (s : State) : State :=
  let s1 := s.retireCarts (s.carts.map (·.1))
  let s2 := (s1.setChutes (s1.chutes.mapValues Chute.vacate)).setRoutes (s1.routes.map (fun _ => Route.reset))
  let s3 := s2.setDoors (s2.doors.mapValues (fun x => { x with cart := none }))
  let s4 := s3.setStore { s3.store with slotA := Sailing.reset, slotB := Sailing.reset }
  ((s4.setNotices s4.notices.empty).setWalk none).setBelts.raise .walkDone 2

/-! ## The steps of the walks (log 2) -/

/-- A walk's completion, by its kind. -/
def State.completeWalk (s : State) (w : WalkKind) : State :=
  match w with
  | .close b => s.completeClose b
  | .clear => s.completeClear

/-- The next visit of a walk; the visit of the last cabin record is its completion (R169 to R171). -/
def State.walkStep (s : State) (w : Walk) : State :=
  let s1 := s.walkRecord w.kind w.next
  if w.next + 1 < walkRecords then s1.setWalk (some ⟨w.kind, w.next + 1⟩) else s1.completeWalk w.kind

/-- The walk running, where it is a close walk. -/
def State.closing? (s : State) : Option Walk := s.sweep.walk.filter (fun w => w.kind != .clear)

/-- The walk running, where it is the clear walk. -/
def State.clearing? (s : State) : Option Walk := s.sweep.walk.filter (fun w => w.kind == .clear)

/-- Whether a walk's next visit is its last. -/
def Walk.last (w : Walk) : Bool := decide (walkRecords ≤ w.next + 1)

/-- CLOSE_WALK_VISIT (R169). -/
def execCloseWalkVisit (s : State) : Outcome :=
  .next (match s.closing? with
    | some w => s.walkStep w
    | none => s)

/-- CLOSE_WALK_COMPLETE: the close walk's last visit (R170). -/
def execCloseWalkComplete (s : State) : Outcome :=
  .next (match s.closing? with
    | some w => if w.last then s.walkStep w else s
    | none => s)

/-- CLEAR_WALK_VISIT (R171). -/
def execClearWalkVisit (s : State) : Outcome :=
  .next (match s.clearing? with
    | some w => s.walkStep w
    | none => s)

/-- CLEAR_WALK_COMPLETE: the clear walk's last visit (R171). -/
def execClearWalkComplete (s : State) : Outcome :=
  .next (match s.clearing? with
    | some w => if w.last then s.walkStep w else s
    | none => s)

end Sys2Proof.Machine
end

