-- ==== Sys2Proof/Machine/Tick.lean ====
section
/-! DEFINITION. The block's own time (log 1): one tick is a 4,096th of a hall second, taken when no command waits. A tick
puts the part's own activities that are then due into the queue, as the commands that carry them out. -/

namespace Sys2Proof.Machine

/-- Ticks in a hall second: the fast rate of the walker, one visit a tick (R167, R169). -/
def ticksPerSecond : Nat := 4096

/-- The numbers of the silent nodes of a list, counted from `i`. -/
def State.silentNodes (s : State) : List Node → Nat → List Nat
  | [], _ => []
  | x :: t, i => (if s.silent x then [i] else []) ++ s.silentNodes t (i + 1)

/-- What a new hall second brings: the level refresh and the nodes that fall silent (R51, R58). -/
def State.secondDue (s : State) : List Instr :=
  .levelRefresh :: (s.silentNodes s.link.nodes 1).map Instr.nodeDown

/-- The answer of a request being applied is due (R173). -/
def State.responseDue (s : State) : List Instr :=
  match s.port with
  | .working _ => [.responseReady]
  | _ => []

/-- A frame waiting for the transmit line is due (R56). -/
def State.frameDue (s : State) : List Instr := if s.link.txQueue.isEmpty then [] else [.frameTransmit]

/-- The step a running walk takes next (R169, R171). -/
def Walk.due (w : Walk) : Instr :=
  match w.kind with
  | .close _ => if w.last then .closeWalkComplete else .closeWalkVisit
  | .clear => if w.last then .clearWalkComplete else .clearWalkVisit

/-- Time passes by one tick: the hall second after 4,096 of them. -/
def State.advanceTime (s : State) : State :=
  if s.subTick + 1 < ticksPerSecond then s.setSubTick (s.subTick + 1)
  else (s.setSubTick 0).setHallSecond (s.hallSecond + 1)

/-- The sweep's part of a tick: a walk's next record, or the patrol's visit at its rate (R167, R169). -/
def State.sweepTick (s : State) : State × List Instr :=
  match s.sweep.walk with
  | some w => (s, [w.due])
  | none =>
    if s.opState = .run then
      match s.sweep.mode with
      | .fast => (s, [.patrolVisit])
      | .patrol =>
        if s.patrolPhase + s.limits.patrolRate < ticksPerSecond then
          (s.setPatrolPhase (s.patrolPhase + s.limits.patrolRate), [])
        else (s.setPatrolPhase (s.patrolPhase + s.limits.patrolRate - ticksPerSecond), [.patrolVisit])
    else (s, [])

/-- One tick of the block's own time (log 1). -/
def State.tick (s : State) : State :=
  let s1 := s.advanceTime
  let second := if s1.subTick = 0 then s1.secondDue else []
  let r := s1.sweepTick
  r.1.setPending (second ++ s1.responseDue ++ s1.frameDue ++ r.2)

end Sys2Proof.Machine
end

