-- ==== Sys2Proof/Machine/Dispatch.lean ====
section
/-! DEFINITION. The dispatch: every command to its meaning, one arm each. -/

namespace Sys2Proof.Machine

/-- The effect of a command on everything but the queue. -/
def exec (i : Instr) (s : State) : Host.Outcome State Fault Refusal :=
  match i with
  | .powerOn => Sys2Proof.Machine.execPowerOn s
  | .hallResetN lowMicros => Sys2Proof.Machine.execHallResetN lowMicros s
  | .statusOnly first => Sys2Proof.Machine.execStatusOnly first s
  | .fetch clocked => Sys2Proof.Machine.execFetch clocked s
  | .unknownRequest code h => Sys2Proof.Machine.execUnknownRequest code h s
  | .responseReady => Sys2Proof.Machine.execResponseReady s
  | .configLoop h carriers positions => Sys2Proof.Machine.execConfigLoop h carriers positions s
  | .configInduction h offset node => Sys2Proof.Machine.execConfigInduction h offset node s
  | .configArch h offset node => Sys2Proof.Machine.execConfigArch h offset node s
  | .configChute h kind offset lead window capacity node => Sys2Proof.Machine.execConfigChute h kind offset lead window capacity node s
  | .configDoor h berth node => Sys2Proof.Machine.execConfigDoor h berth node s
  | .configNode h role objects => Sys2Proof.Machine.execConfigNode h role objects s
  | .configLimits h body => Sys2Proof.Machine.execConfigLimits h body s
  | .run h => Sys2Proof.Machine.execRun h s
  | .hallClear h => Sys2Proof.Machine.execHallClear h s
  | .hallRest h => Sys2Proof.Machine.execHallRest h s
  | .wake h => Sys2Proof.Machine.execWake h s
  | .hallTime h => Sys2Proof.Machine.execHallTime h s
  | .openSailing h ship boardFirst => Sys2Proof.Machine.execOpenSailing h ship boardFirst s
  | .closeSailing h ship => Sys2Proof.Machine.execCloseSailing h ship s
  | .sailingGet h => Sys2Proof.Machine.execSailingGet h s
  | .routeSet h door notifyAll => Sys2Proof.Machine.execRouteSet h door notifyAll s
  | .cabinPut h route allowance guests => Sys2Proof.Machine.execCabinPut h route allowance guests s
  | .cabinGet h => Sys2Proof.Machine.execCabinGet h s
  | .cabinDrop h => Sys2Proof.Machine.execCabinDrop h s
  | .cabinForward h target => Sys2Proof.Machine.execCabinForward h target s
  | .guestStatus h guest state => Sys2Proof.Machine.execGuestStatus h guest state s
  | .bagRegister h tag => Sys2Proof.Machine.execBagRegister h tag s
  | .bagGet h form => Sys2Proof.Machine.execBagGet h form s
  | .bagReassign h slot cabin => Sys2Proof.Machine.execBagReassign h slot cabin s
  | .bagHold h => Sys2Proof.Machine.execBagHold h s
  | .bagRelease h => Sys2Proof.Machine.execBagRelease h s
  | .bagPull h => Sys2Proof.Machine.execBagPull h s
  | .bagRetire h => Sys2Proof.Machine.execBagRetire h s
  | .offloadConfirmRetire h known position => Sys2Proof.Machine.execOffloadConfirmRetire h known position s
  | .offloadConfirmPen h position => Sys2Proof.Machine.execOffloadConfirmPen h position s
  | .bagUnload h position => Sys2Proof.Machine.execBagUnload h position s
  | .loopGet h => Sys2Proof.Machine.execLoopGet h s
  | .carrierGet h => Sys2Proof.Machine.execCarrierGet h s
  | .trackingReset h => Sys2Proof.Machine.execTrackingReset h s
  | .trackingResume h => Sys2Proof.Machine.execTrackingResume h s
  | .chuteAssign h slot route => Sys2Proof.Machine.execChuteAssign h slot route s
  | .chuteOpen h => Sys2Proof.Machine.execChuteOpen h s
  | .chuteClose h => Sys2Proof.Machine.execChuteClose h s
  | .chuteGet h => Sys2Proof.Machine.execChuteGet h s
  | .cartCut h => Sys2Proof.Machine.execCartCut h s
  | .cutComplete chute => Sys2Proof.Machine.execCutComplete chute s
  | .cartGet h first => Sys2Proof.Machine.execCartGet h first s
  | .cartClearUnidentified h => Sys2Proof.Machine.execCartClearUnidentified h s
  | .jamClearLanded h known chute position => Sys2Proof.Machine.execJamClearLanded h known chute position s
  | .jamClearRemoved h chute position => Sys2Proof.Machine.execJamClearRemoved h chute position s
  | .routeStart h stay => Sys2Proof.Machine.execRouteStart h stay s
  | .routePause h => Sys2Proof.Machine.execRoutePause h s
  | .routeContinue h => Sys2Proof.Machine.execRouteContinue h s
  | .routeGet h => Sys2Proof.Machine.execRouteGet h s
  | .doorGet h => Sys2Proof.Machine.execDoorGet h s
  | .doorRelease h => Sys2Proof.Machine.execDoorRelease h s
  | .strayNext h place => Sys2Proof.Machine.execStrayNext h place s
  | .strayGet h => Sys2Proof.Machine.execStrayGet h s
  | .strayResolveReinduct h => Sys2Proof.Machine.execStrayResolveReinduct h s
  | .strayResolveReturn h => Sys2Proof.Machine.execStrayResolveReturn h s
  | .strayResolveHold h known => Sys2Proof.Machine.execStrayResolveHold h known s
  | .noticeRead h => Sys2Proof.Machine.execNoticeRead h s
  | .noticeMask h sources global => Sys2Proof.Machine.execNoticeMask h sources global s
  | .noticeClear h => Sys2Proof.Machine.execNoticeClear h s
  | .frameDiscard bytes => Sys2Proof.Machine.execFrameDiscard bytes s
  | .frameByteTimeout bytes gapMicros => Sys2Proof.Machine.execFrameByteTimeout bytes gapMicros s
  | .pitch f => Sys2Proof.Machine.execPitch f s
  | .checkDeadline carrier => Sys2Proof.Machine.execCheckDeadline carrier s
  | .landingDeadline chute => Sys2Proof.Machine.execLandingDeadline chute s
  | .home f => Sys2Proof.Machine.execHome f s
  | .launch f point read tag => Sys2Proof.Machine.execLaunch f point read tag s
  | .arch f arch occupied read tag => Sys2Proof.Machine.execArch f arch occupied read tag s
  | .check f chute occupied => Sys2Proof.Machine.execCheck f chute occupied s
  | .land f chute => Sys2Proof.Machine.execLand f chute s
  | .cartPresent f chute position => Sys2Proof.Machine.execCartPresent f chute position s
  | .cartRemoved f chute position report => Sys2Proof.Machine.execCartRemoved f chute position report s
  | .doorArbitrate door => Sys2Proof.Machine.execDoorArbitrate door s
  | .doorscan f door read tag => Sys2Proof.Machine.execDoorscan f door read tag s
  | .cartComplete door => Sys2Proof.Machine.execCartComplete door s
  | .encode f position read tag => Sys2Proof.Machine.execEncode f position read tag s
  | .nodeDown node => Sys2Proof.Machine.execNodeDown node s
  | .levelRefresh => Sys2Proof.Machine.execLevelRefresh s
  | .frameTransmit => Sys2Proof.Machine.execFrameTransmit s
  | .patrolVisit => Sys2Proof.Machine.execPatrolVisit s
  | .closeWalkVisit => Sys2Proof.Machine.execCloseWalkVisit s
  | .closeWalkComplete => Sys2Proof.Machine.execCloseWalkComplete s
  | .clearWalkVisit => Sys2Proof.Machine.execClearWalkVisit s
  | .clearWalkComplete => Sys2Proof.Machine.execClearWalkComplete s

end Sys2Proof.Machine
end

