-- ==== Sys2Proof/Safety.lean ====
section
/-! DEFINITION. What the statements speak of: the parts of the state a command may change, the requests with their codes and
body lengths, the state a request's rule is applied to, and the laws that every step keeps. -/

namespace Sys2Proof.Machine

/-! ## Frames -/

/-- The parts of the state, one for each field. -/
inductive Block where
  | opState | hallSecond | subTick | patrolPhase | limits | port | discarded | spiOut | store | link | loop
  | chutes | carts | nextSerial | routes | doors | pen | sweep | notices | freeCount | pending
  deriving DecidableEq, Repr

/-- Two states agree on a part. -/
def Block.same (b : Block) (s t : State) : Prop :=
  match b with
  | .opState => t.opState = s.opState
  | .hallSecond => t.hallSecond = s.hallSecond
  | .subTick => t.subTick = s.subTick
  | .patrolPhase => t.patrolPhase = s.patrolPhase
  | .limits => t.limits = s.limits
  | .port => t.port = s.port
  | .discarded => t.discarded = s.discarded
  | .spiOut => t.spiOut = s.spiOut
  | .store => t.store = s.store
  | .link => t.link = s.link
  | .loop => t.loop = s.loop
  | .chutes => t.chutes = s.chutes
  | .carts => t.carts = s.carts
  | .nextSerial => t.nextSerial = s.nextSerial
  | .routes => t.routes = s.routes
  | .doors => t.doors = s.doors
  | .pen => t.pen = s.pen
  | .sweep => t.sweep = s.sweep
  | .notices => t.notices = s.notices
  | .freeCount => t.freeCount = s.freeCount
  | .pending => t.pending = s.pending

/-- From one state to another nothing changes outside some parts. -/
def Changes (l : List Block) (s t : State) : Prop := ∀ b, b ∉ l → b.same s t

/-! ## Requests -/

/-- The code, header and body length of a request that the catalogue names (13 The request port, R182, logs 22, 45 and 49). -/
def requestParts : Instr → Option (Byte × Head × Nat)
  | .configLoop h _ _ => some (0x01, h, 3)
  | .configInduction h _ _ => some (0x02, h, 3)
  | .configArch h _ _ => some (0x03, h, 3)
  | .configChute h _ _ _ _ _ _ => some (0x04, h, 7)
  | .configDoor h _ _ => some (0x05, h, 2)
  | .configNode h _ objects => some (0x06, h, (2 + objects.length))
  | .configLimits h _ => some (0x07, h, 10)
  | .run h => some (0x08, h, 0)
  | .hallClear h => some (0x09, h, 0)
  | .hallRest h => some (0x0A, h, 0)
  | .wake h => some (0x0B, h, 0)
  | .hallTime h => some (0x0C, h, 0)
  | .openSailing h _ _ => some (0x10, h, 3)
  | .closeSailing h _ => some (0x11, h, 2)
  | .sailingGet h => some (0x12, h, 0)
  | .routeSet h _ _ => some (0x13, h, 2)
  | .cabinPut h _ _ guests => some (0x18, h, (3 + 5 * guests.length))
  | .cabinGet h => some (0x19, h, 0)
  | .cabinDrop h => some (0x1A, h, 0)
  | .cabinForward h _ => some (0x1B, h, 2)
  | .guestStatus h _ _ => some (0x1C, h, 2)
  | .bagRegister h _ => some (0x20, h, 4)
  | .bagGet h form => some (0x21, h.forBagGet form, 1)
  | .bagReassign h _ _ => some (0x22, h, 3)
  | .bagHold h => some (0x23, h, 0)
  | .bagRelease h => some (0x24, h, 0)
  | .bagPull h => some (0x25, h, 0)
  | .bagRetire h => some (0x26, h, 0)
  | .offloadConfirmRetire h _ _ => some (0x27, h, 2)
  | .offloadConfirmPen h _ => some (0x27, h, 2)
  | .bagUnload h _ => some (0x28, h, 1)
  | .loopGet h => some (0x30, h, 0)
  | .carrierGet h => some (0x31, h, 0)
  | .trackingReset h => some (0x32, h, 0)
  | .trackingResume h => some (0x33, h, 0)
  | .chuteAssign h _ _ => some (0x38, h, 2)
  | .chuteOpen h => some (0x39, h, 0)
  | .chuteClose h => some (0x3A, h, 0)
  | .chuteGet h => some (0x3B, h, 0)
  | .cartCut h => some (0x3C, h, 0)
  | .cartGet h _ => some (0x3D, h, 1)
  | .cartClearUnidentified h => some (0x3E, h, 0)
  | .jamClearLanded h _ _ _ => some (0x3F, h, 3)
  | .jamClearRemoved h _ _ => some (0x3F, h, 3)
  | .routeStart h _ => some (0x40, h, 1)
  | .routePause h => some (0x41, h, 0)
  | .routeContinue h => some (0x42, h, 0)
  | .routeGet h => some (0x43, h, 0)
  | .doorGet h => some (0x44, h, 0)
  | .doorRelease h => some (0x45, h, 0)
  | .strayNext h _ => some (0x48, h, 1)
  | .strayGet h => some (0x49, h, 0)
  | .strayResolveReinduct h => some (0x4A, h, 1)
  | .strayResolveReturn h => some (0x4A, h, 1)
  | .strayResolveHold h _ => some (0x4A, h, 1)
  | .noticeRead h => some (0x50, h, 0)
  | .noticeMask h _ _ => some (0x51, h, 31)
  | .noticeClear h => some (0x52, h, 0)
  | _ => none

/-- A request can be taken and passes the tests of length: the port is not WORKING, enough bytes came, and the body length is
the one the request carries (R172, R173). -/
def Ready (s : State) (h : Head) (len : Nat) : Prop :=
  (∀ r, s.port ≠ .working r) ∧ Head.lengthOk h len = true

/-- The state a taken request's rule is applied to: the port status was shifted out, DISCARDED is clear (R172, R173). That no byte
after the status is recorded is the model's choice (log 38). -/
def State.taken (s : State) : State := (s.setSpiOut [s.status]).setDiscarded false

/-- The outcome of a request: the state its rule leaves, with its answer being applied (R173). -/
def answered (code : Byte) (h : Head) (t : State) (a : Answer) : Outcome := .next (t.setPort (.working ⟨code, h, a⟩))

/-- A bag that a request may name by handle: the part is not in SETUP, the handle names a live record, and its slot is not
CLOSING (R35). -/
def Nameable (s : State) (h : Handle) (b : Bag) : Prop :=
  h.index < bagRecords ∧ s.opState ≠ .setup ∧ s.bag? h = some b ∧ ∀ k, b.home = some k → s.slotState k.slot ≠ .closing

/-- A slot that a request may name: the part is not in SETUP, and the slot is OPEN (R3). -/
def SlotOpen (s : State) (h : Head) (b : SlotId) : Prop :=
  h.key.slot? = some b ∧ s.opState ≠ .setup ∧ s.slotState b = .opened

/-- Whether every field that is tested with the slot is in the range its rule gives, for the requests that make the tests of R3: those
that R3 names, BAG REGISTER, whose tag is tested later (R36), and the requests on routes (R128); CABIN PUT's whole guest list is among
them, which is the model's choice (log 50). -/
def sailingFields : Instr → Option Bool
  | .openSailing _ ship policy => some (inRange 1 ship.toNat 65535 && policy.isSome)
  | .closeSailing _ ship => some (inRange 1 ship.toNat 65535)
  | .sailingGet _ => some true
  | .routeSet h door notifyAll => some (Head.routeInRange h && decide (door.toNat < 6) && notifyAll.isSome)
  | .cabinPut h route allowance guests =>
    some (Head.cabinInRange h && decide (route.toNat < 12) && inRange 1 allowance.toNat 15 && guestsOk guests)
  | .cabinGet h => some (Head.cabinInRange h)
  | .cabinDrop h => some (Head.cabinInRange h)
  | .cabinForward h _ => some (Head.cabinInRange h)
  | .guestStatus h guest state => some (Head.cabinInRange h && inRange 1 guest.toNat 4 && state.isSome)
  | .bagRegister h _ => some (Head.cabinInRange h)
  | .routeStart h stay => some (Head.routeInRange h && stay.isSome)
  | .routePause h => some (Head.routeInRange h)
  | .routeContinue h => some (Head.routeInRange h)
  | .routeGet h => some (Head.routeInRange h)
  | _ => none

/-- Whether every field of a request that configures an object or a node is in its range, a node's role and objects as R43 admits
them, for those requests, and whether the request is refused BUSY while the clear walk runs (R43, R176). -/
def configFields : Instr → Option (Bool × Bool)
  | .configLoop _ n p => some (inRange 64 n.toNat 512 && inRange 16 p.toNat 128, true)
  | .configInduction h _ node => some (decide (h.key.number < 6) && decide (node.toNat ≤ 32), false)
  | .configArch h _ node => some (decide (h.key.number < 4) && decide (node.toNat ≤ 32), false)
  | .configChute h kind _ lead window capacity node =>
    some (decide (h.key.number < 40) && kind.isSome && inRange 2 lead.toNat 16 && inRange 2 window.toNat 32 &&
      inRange 4 capacity.toNat 48 && decide (node.toNat ≤ 32), true)
  | .configDoor h berth node => some (decide (h.key.number < 6) && berth.isSome && decide (node.toNat ≤ 32), true)
  | .configNode h role objects =>
    some (inRange 1 h.key.number 32 && role.any (fun r => Role.admits r objects), false)
  | _ => none

/-- Whether a request of R3 is taken by a FREE slot. -/
def takenByFree : Instr → Bool
  | .openSailing _ _ _ => true
  | .sailingGet _ => true
  | _ => false

/-- Whether every field beside the handle of a request that names a bag by handle is in range, for those requests (R35). -/
def bagFields : Instr → Option Bool
  | .bagGet _ (some .handle) => some true
  | .bagReassign _ slot cabin => some (reassignTarget slot cabin).isSome
  | .bagHold _ => some true
  | .bagRelease _ => some true
  | .bagPull _ => some true
  | .bagRetire _ => some true
  | .offloadConfirmRetire _ known _ => some known
  | .offloadConfirmPen _ _ => some true
  | .bagUnload _ _ => some true
  | .jamClearLanded _ known _ _ => some known
  | .jamClearRemoved _ _ _ => some true
  | .strayResolveReinduct _ => some true
  | .strayResolveReturn _ => some true
  | .strayResolveHold _ known => some known
  | _ => none

/-- The slot of a bag counts its bags by a function of what it counted before, and no other slot's counters change (R2). -/
def Counted (s t : State) (b : Bag) (f : Counters → Counters) : Prop :=
  ∀ v, (t.store.slot v).counts =
    if b.home.any (fun k => k.slot == v) = true then f (s.store.slot v).counts else (s.store.slot v).counts

/-- What a slot counts once a bag that was ON_LOOP has become MISSING (R2). -/
def LostCounts (s : State) (b : Bag) (v : SlotId) : Counters :=
  if b.home.any (fun k => k.slot == v) = true then { (s.store.slot v).counts with
    hall := (s.store.slot v).counts.hall - 1, missing := (s.store.slot v).counts.missing + 1 }
  else (s.store.slot v).counts

/-- A bag has left the holder its state names: its carrier is EMPTY and keeps its armed mark; its entry is gone from its chute's
pending or jam list, the other list and the entries left as they were; its entry is gone from its cart's contents; its pen position
is free and it is out of the stray list (R30, R62, R108). -/
def LeftHolder (s t : State) (h : Handle) (b : Bag) : Prop :=
  (∀ i e, b.state = .onLoop → b.location = some (.carrier i) → s.carrier? i = some e →
    t.carrier? i = some ⟨.empty, e.armed⟩) ∧
  (∀ k c, b.state = .landing → b.location = some (.chute k) → s.chute? k = some c → ∃ d, t.chute? k = some d ∧
    d.landing = c.landing.filter (fun e => e.bag != h) ∧ d.jams = c.jams) ∧
  (∀ k c, b.state = .jammed → b.location = some (.chute k) → s.chute? k = some c → ∃ d, t.chute? k = some d ∧
    d.landing = c.landing ∧ d.jams = c.jams.filter (· != h)) ∧
  (∀ n x, b.state = .inCart ∨ b.state = .aboard → b.location = some (.cart n) → s.cart? n = some x →
    t.cart? n = some { x with entries := x.entries.filter (fun e => e.bag != h) }) ∧
  (∀ p, b.state = .stray → b.location = some (.pen p) → t.pen.positions.get? p = none ∧ h ∉ t.pen.strays)

/-- A bag has retired: its handle is stale, its tag is in no map entry, its index has the next generation, it has left its holder,
its slot and its cabin count it no more, and no other record has changed (R30). -/
def Retired (s t : State) (h : Handle) (b : Bag) : Prop :=
  t.bag? h = none ∧ t.store.bags.get? h.index = none ∧ t.store.gen h.index = h.gen + 1 ∧
  (∀ n, b.tag = some n → t.store.tagMap.get? n = none) ∧
  (∀ i, i ≠ h.index → t.store.bags.get? i = s.store.bags.get? i ∧ t.store.gen i = s.store.gen i) ∧
  Counted s t b (fun n => n.dec b.state) ∧
  (∀ k c, b.home = some k → s.store.cabin? k = some c →
    t.store.cabin? k = some { c with
      liveBags := c.liveBags - 1, aboard := if b.state = .aboard then c.aboard - 1 else c.aboard }) ∧
  LeftHolder s t h b

/-! ## Frames from the link -/

/-- The role whose nodes send a kind of frame (13 The field frame). -/
def frameRole : Instr → Option Role
  | .pitch _ | .home _ => some .loop
  | .launch _ _ _ _ => some .induct
  | .arch _ _ _ _ _ => some .arch
  | .check _ _ _ | .land _ _ | .cartPresent _ _ _ | .cartRemoved _ _ _ _ => some .chute
  | .doorscan _ _ _ _ => some .door
  | .encode _ _ _ _ => some .encode
  | _ => none

/-- No part of the bytes that the receiver holds reads as a frame of a configured node, so that a frame that comes finds nothing to
be taken before it (R44, log 21). -/
def HoldsNoFrame (s : State) : Prop :=
  ∀ (a m b : List Byte) (i : Instr) (f : FrameHead), s.link.rx = a ++ m ++ b → readFrame m = some i →
    frameHead i = some f → ∀ x, s.node? f.node.toNat = some x → x.role = none

/-- A frame comes from the ENCODE node while the part is in RUN or in REST, so that it is admitted, and none is held before it
(R45). -/
def AdmittedEncode (s : State) (f : FrameHead) (x : Node) : Prop :=
  HoldsNoFrame s ∧ (s.opState = .run ∨ s.opState = .rest) ∧ s.node? f.node.toNat = some x ∧ x.role = some .encode

/-- A frame comes from a configured node while the part is in RUN, so that it is admitted, and none is held before it (R44, R45).
-/
def Admitted (s : State) (f : FrameHead) (x : Node) : Prop :=
  HoldsNoFrame s ∧ s.opState = .run ∧ s.node? f.node.toNat = some x ∧ x.role.isSome = true

/-- The state after a frame's sequence check (R47). -/
def State.afterCheck (s : State) (f : FrameHead) (x : Node) : State := (s.setRx []).heard f.node.toNat x f.seq

/-- A node serves a configured object of its role (R43, R46). -/
def Serves (s : State) (x : Node) (r : Role) (object : Nat) : Prop :=
  x.role = some r ∧ object ∈ x.objects ∧ s.configured r object = true

/-- A stamp resolves at an offset to a carrier with a signed difference (R53, R54). -/
def ResolvesTo (s : State) (stamp : Byte) (offset c : Nat) (d : Int) : Prop :=
  ∃ r, s.link.stampRef = some r ∧ d = (stamp - r).toInt ∧ -63 ≤ d ∧ d ≤ 8 ∧
    c = (((s.loop.pos : Int) + d - (offset : Int)) % (s.loop.carriers.length : Int)).toNat

/-- A stamp is STALE: S is present, and the difference is outside -63 to 8 (R54). -/
def StaleStamp (s : State) (stamp : Byte) : Prop :=
  ∃ r, s.link.stampRef = some r ∧ ((stamp - r).toInt < -63 ∨ 8 < (stamp - r).toInt)

/-! ## The conditions that hold the induction points -/

/-- The bag-table low condition: fewer than 64 of the 16,384 records are free (R31). -/
def tableLow (s : State) : Bool := decide (16384 - s.store.bags.length < 64)

/-- The free count of the pen (R154). -/
def penFree (s : State) : Nat := s.pen.size - s.pen.positions.length

/-- The pen hold, where it is `tested` against the free count, and the bag-table low condition follow the free counts; a condition
that comes to stand adds its subject to CAPACITY and its cause to every point, and one that ceases takes the cause away; the
points and CAPACITY change in nothing else (R31, R78, R157). -/
def HoldsFollow (s t : State) (tested : Prop) : Prop :=
  (tested → t.pen.hold =
    if s.pen.hold = true then decide (penFree t < t.limits.penLow + 2) else decide (penFree t < t.limits.penLow)) ∧
  (¬tested → t.pen.hold = s.pen.hold) ∧
  (∀ i, s.loop.points.get? i = none → t.loop.points.get? i = none) ∧
  (∀ i p, s.loop.points.get? i = some p → ∃ q, t.loop.points.get? i = some q ∧ q.offset = p.offset ∧ q.node = p.node ∧
    q.causes = { p.causes with
      pen := if t.pen.hold = s.pen.hold then p.causes.pen else t.pen.hold
      table := if tableLow t = tableLow s then p.causes.table else tableLow t }) ∧
  (s.notices.sources.length = 15 → ∀ m, m ∈ t.subjects .capacity ↔ m ∈ s.subjects .capacity ∨
    m = 0 ∧ tableLow t = true ∧ tableLow s = false ∨ m = 1 ∧ t.pen.hold = true ∧ s.pen.hold = false)

/-- A bag stands in the pen, so that its leaving frees a position (R156). -/
def InPen (b : Bag) : Prop := b.state = .stray ∧ ∃ p, b.location = some (.pen p)

/-! ## Level frames -/

/-- The object that a level frame is for: none for a frame that carries no level (R56, R58). -/
def levelOf : OutPayload → Option (Role × Nat)
  | .induct i _ => some (.induct, i)
  | .door d _ => some (.door, d)
  | .divert _ _ => none
  | .answer _ _ => none

/-- Frames to be made, each the role and the number of its object and what it carries, are made one after another (R56). -/
def State.sendAll (s : State) (l : List (Role × Nat × OutPayload)) : State :=
  l.foldl (fun u e => u.send e.1 e.2.1 e.2.2) s

/-- The level frames of a new hall second: every configured point's and then every configured door's, in rising number, each with
the level as it stands (R58; the order is the model's choice, log 12). -/
def levelsDue (s : State) : List (Role × Nat × OutPayload) :=
  s.loop.points.map (fun e => (.induct, e.1, .induct e.1 e.2.go)) ++
  s.doors.map (fun e => (.door, e.1, .door e.1 e.2.running))

/-- The level frames made where every point comes to HOLD and every door to STOP: those of the points that stood at GO and then of
the doors that ran, in rising number (R58; the order is the model's choice, log 12). -/
def levelsStopped (s : State) : List (Role × Nat × OutPayload) :=
  (s.loop.points.filter (·.2.go)).map (fun e => (.induct, e.1, .induct e.1 false)) ++
  (s.doors.filter (·.2.running)).map (fun e => (.door, e.1, .door e.1 false))

/-- Level frames have been made one after another, each for an object of its own, with a stamp byte: an object that no node serves
makes none; a waiting level frame of an object takes the new level and keeps its place, node and sequence, and the other frames that
waited stay as they were; for each other object, in order and while the queue has room, a frame joins the tail, addressed to the
serving node with that node's outbound sequence, which advances with each (R56, R58). -/
def LevelsMade (s t : State) (stamp : Byte) (l : List (Role × Nat × OutPayload)) : Prop :=
  let q := s.link.txQueue
  let due := l.filter (fun e => (s.servingNode e.1 e.2.1).isSome)
  (∀ (j : Nat) (f : OutFrame), q[j]? = some f → ∃ w, t.link.txQueue[j]? = some { f with payload := w } ∧
    (∀ e ∈ due, levelOf f.payload = some (e.1, e.2.1) → w = e.2.2) ∧
    ((∀ e ∈ due, levelOf f.payload ≠ some (e.1, e.2.1)) → w = f.payload)) ∧
  (t.link.txQueue.drop q.length).map (fun f => (f.node, f.payload)) =
    ((due.filter (fun e => !q.any (fun f => levelOf f.payload == some (e.1, e.2.1)))).take (txCapacity - q.length)).map
      (fun e => ((s.servingNode e.1 e.2.1).getD 0, e.2.2)) ∧
  (∀ (j : Nat) (f : OutFrame) (x : Node), q.length ≤ j → t.link.txQueue[j]? = some f → s.node? f.node = some x →
    f.stamp = stamp ∧ f.seq = x.outSeq + BitVec.ofNat 8
      ((((t.link.txQueue.drop q.length).take (j - q.length)).filter (fun e => e.node == f.node)).length)) ∧
  (∀ n x, s.node? n = some x → ∃ y, t.node? n = some y ∧ y.role = x.role ∧ y.objects = x.objects ∧
    y.outSeq = x.outSeq + BitVec.ofNat 8 (((t.link.txQueue.drop q.length).filter (fun e => e.node == n)).length))

/-! ## The active cart of a chute -/

/-- The state of a chute that a cause other than NODE puts into FAULT: one in FAULT keeps its first cause (R109). -/
def faulted : ChuteState → FaultCause → ChuteState
  | .fault v, _ => .fault v
  | _, cause => .fault cause

/-- The swap of chute `k`, whose record was `c` and is `d`, as its active cart `n` has become FULL or CUT, `st` being the chute's
state until then: a STANDBY cart at the other position becomes FILLING and active; without one the chute has no active cart, and an
OPEN chute is BLOCKED, with its number in CHUTE_BLOCKED (R118, R119). -/
def Swaps (s t : State) (k n : Nat) (c d : Chute) (st : ChuteState) : Prop :=
  ∀ p, c.active = some p →
    let standing := fun (m : Nat) (z : Cart) =>
      c.position p.other = .cart m ∧ m ≠ n ∧ s.cart? m = some z ∧ z.state = .standby
    (∀ m z, standing m z → t.cart? m = some { z with state := .filling } ∧ d.active = some p.other ∧ d.state = st) ∧
    ((∀ m z, ¬standing m z) → d.active = none ∧ (st ≠ .opened → d.state = st) ∧
      (st = .opened → d.state = .blocked ∧ (s.notices.sources.length = 15 → k ∈ t.subjects .chuteBlocked)))

/-- Where `left` holds of the active cart `n` of chute `k` the chute swaps, and otherwise it keeps its active cart and its state
`st`; the cart that becomes active and the one that leaves apart, no cart changes, and the swap's subject apart, CHUTE_BLOCKED does
not (R118, R119). -/
def SwapsIf (left : Prop) (s t : State) (k n : Nat) (c d : Chute) (st : ChuteState) : Prop :=
  (left → Swaps s t k n c d st) ∧ (¬left → d.active = c.active ∧ d.state = st) ∧
  (∀ m, m ≠ n → (left → ∀ p z, c.active = some p → c.position p.other = .cart m → s.cart? m = some z → z.state ≠ .standby) →
    t.cart? m = s.cart? m) ∧
  (s.notices.sources.length = 15 → ∀ m, m ∈ t.subjects .chuteBlocked ↔ m ∈ s.subjects .chuteBlocked ∨
    m = k ∧ left ∧ d.active = none ∧ st = .opened)

/-- The completion of a cut, tested as an event ends that has left the claims of chute `k` as `d` holds them: a CLOSING active cart
becomes CUT where they are 0, and the chute swaps; else its carts stand as they did (R119). -/
def CutSettled (s t : State) (k : Nat) (c d : Chute) (st : ChuteState) : Prop :=
  (∀ n x, s.activeCart c = some (n, x) →
    t.cart? n = some { x with
      state := if x.state = .closing ∧ d.reserved + d.landing.length + d.jams.length = 0 then .cut else x.state } ∧
    SwapsIf (x.state = .closing ∧ d.reserved + d.landing.length + d.jams.length = 0) s t k n c d st) ∧
  (s.activeCart c = none → d.active = c.active ∧ d.state = st ∧ t.carts = s.carts ∧
    t.subjects .chuteBlocked = s.subjects .chuteBlocked)

/-- No other chute has a cart that stands at chute `k` (R108, R114). -/
def OwnCarts (s : State) (k : Nat) (c : Chute) : Prop :=
  ∀ p m, c.position p = .cart m → ∀ j o, j ≠ k → s.chute? j = some o → ∀ q, o.position q ≠ .cart m

/-- The claims of chute `k`, whose record was `c`, are lost: each bag of its lists is MISSING, without location, counted in missing
instead of hall; each carrier armed for it is disarmed and keeps its contents; and no other record, tag or loop field changes
(R2, R117). -/
def ClaimsLost (s t : State) (k : Nat) (c : Chute) : Prop :=
  let listed := c.landing.map (·.bag) ++ c.jams
  t.loop = { s.loop with carriers := t.loop.carriers } ∧
  (∀ i, t.carrier? i = (s.carrier? i).map (fun e =>
    if e.armed.any (fun m => m.chute == k) = true then ⟨e.content, none⟩ else e)) ∧
  t.store.tagMap = s.store.tagMap ∧ t.store.gens = s.store.gens ∧
  (∀ g b, g ∈ listed → s.bag? g = some b → t.bag? g = some { b with
    state := .missing, location := none, recheck := b.recheck && b.state != .onLoop,
    reinduct := b.reinduct && b.state != .stray, aged := b.aged && b.state != .stray, entered := none }) ∧
  (∀ i, (∀ g ∈ listed, g.index ≠ i) → t.store.bags.get? i = s.store.bags.get? i) ∧
  (listed.Nodup → (∀ g b, g ∈ listed → s.bag? g = some b → b.state = .landing ∨ b.state = .jammed) → ∀ v,
    let mine := (listed.filter (fun g => (s.bag? g).any (fun b => b.home.any (fun h => h.slot == v)))).length
    (t.store.slot v).counts = { (s.store.slot v).counts with
      hall := (s.store.slot v).counts.hall - mine, missing := (s.store.slot v).counts.missing + mine })

/-- The active cart of chute `k`, whose record is `c`, has left position `p`. The claims pass to a STANDBY cart at the other position
that has room for them, or are lost, with the chute in FAULT and its number in CHUTE_FAULT. A STANDBY cart at the other position
becomes FILLING and active; without one the chute has no active cart, and an OPEN one becomes BLOCKED, with its number in
CHUTE_BLOCKED. No other chute, cart or subject changes (R109, R116, R117). -/
def ActiveLeft (s t : State) (k : Nat) (p : PosName) (c : Chute) : Prop :=
  let standing := fun (m : Nat) (z : Cart) => c.position p.other = .cart m ∧ s.cart? m = some z ∧ z.state = .standby
  let passes := c.claims = 0 ∨ ∃ m z, standing m z ∧ c.claims ≤ z.capacity
  let blocks := passes ∧ (∀ m z, ¬standing m z) ∧ c.state = .opened
  Changes [.store, .loop, .chutes, .carts, .notices] s t ∧
  (∃ q, t.chute? k = some q ∧
    (passes → q = { c with active := q.active, state := q.state } ∧ t.store = s.store ∧ t.loop = s.loop) ∧
    (¬passes → q = { c with
        active := q.active, state := faulted c.state .cartLost, landing := [], jams := [], reserved := 0 } ∧
      ClaimsLost s t k c) ∧
    (∀ m z, standing m z → q.active = some p.other ∧ t.cart? m = some { z with state := .filling }) ∧
    ((∀ m z, ¬standing m z) → q.active = none) ∧ (blocks → q.state = .blocked) ∧
    (passes → ¬blocks → q.state = c.state)) ∧
  (∀ j, j ≠ k → t.chute? j = s.chute? j) ∧ (∀ m, (∀ z, ¬standing m z) → t.cart? m = s.cart? m) ∧
  (s.notices.sources.length = 15 →
    (∀ m, m ∈ t.subjects .chuteBlocked ↔ m ∈ s.subjects .chuteBlocked ∨ m = k ∧ blocks) ∧
    ∀ m, m ∈ t.subjects .chuteFault ↔ m ∈ s.subjects .chuteFault ∨ m = k ∧ ¬passes ∧ ∀ v, c.state ≠ .fault v) ∧
  ∀ w, w ≠ .chuteBlocked → w ≠ .chuteFault → t.subjects w = s.subjects w

/-! ## The turns of a door -/

/-- A route is offered to a door: it is LOADING, the door serves it, and carts wait in its queue (R132, R133). -/
def Offering (s : State) (d : Nat) (k : RouteKey) : Prop :=
  ∃ x r, s.door? d = some x ∧ s.route? k = some r ∧ k.slot = x.berth ∧ r.door = some d ∧ r.state = .loading ∧ r.queue ≠ []

/-- Route `k` wins the arbitration of door `d`, whose record is `x`: of the routes offered it is the first in route order from the
one after the last-served route, wrapping from 11 to 0; cart `n`, a live one, is the head of its queue (R133). -/
def Wins (s : State) (d : Nat) (x : Door) (k : RouteKey) (r : Route) (n : Nat) (rest : List Nat) (c : Cart) : Prop :=
  let start := match x.lastServed with
    | none => 0
    | some l => l + 1
  (∃ i, i < 12 ∧ k = ⟨x.berth, (start + i) % 12⟩ ∧ ∀ j, j < i → ¬Offering s d ⟨x.berth, (start + j) % 12⟩) ∧
  s.route? k = some r ∧ r.door = some d ∧ r.state = .loading ∧ r.queue = n :: rest ∧ s.cart? n = some c

/-- The head cart of the winning route has come to the door: it has left the queue and is AT_DOOR, the door's cart and last-served
route are set, an unidentified item in it halts the door, the belt follows, and nothing else changes (R133, R134, R137). -/
def CartComes (s t : State) (d : Nat) (x : Door) (k : RouteKey) (r : Route) (n : Nat) (rest : List Nat) (c : Cart) : Prop :=
  Changes [.carts, .routes, .doors, .link, .notices] s t ∧
  (∃ y, t.door? d = some y ∧ y = { x with
    cart := some n, lastServed := some k.route, running := t.beltRuns y
    halts := if c.unidentified = 0 then x.halts else { x.halts with unidentified := true } }) ∧
  t.cart? n = some { c with state := .atDoor } ∧ t.route? k = some { r with queue := rest } ∧
  (∀ m, m ≠ n → t.cart? m = s.cart? m) ∧ (∀ e, e ≠ d → t.door? e = s.door? e) ∧
  (∀ j, j ≠ k.subject → t.routes[j]? = s.routes[j]?) ∧
  (c.unidentified = 0 → t.notices = s.notices) ∧ (∀ w, w ≠ .doorStopped → t.subjects w = s.subjects w) ∧
  (c.unidentified ≠ 0 → s.notices.sources.length = 15 → d ∈ t.subjects .doorStopped)

/-- A cart at a door has completed and retired, before the door arbitrates: its bags stand as they did but for their location, the
door has no cart, CART_DONE has its route's subject where the cart's or the route's flag asks for it, and its route, LOADING with
an empty queue, no stay option and no cart at another door, is IDLE, with ROUTE_IDLE; nothing else changes (R24, R131, R140). -/
def CartCompletes (s t : State) (d n : Nat) (c : Cart) : Prop :=
  let idles := fun (k : RouteKey) (r : Route) => c.route = some k ∧ s.route? k = some r ∧ r.state = .loading ∧ r.queue = [] ∧
    r.stay = false ∧ ∀ e ∈ s.doors, e.1 ≠ d → ∀ m z, e.2.cart = some m → m ≠ n → s.cart? m = some z → z.route ≠ some k
  Changes [.store, .carts, .routes, .doors, .notices] s t ∧ t.carts = s.carts.erase n ∧
  t.doors = s.doors.modify d (fun x => { x with cart := none }) ∧ t.store = { s.store with bags := t.store.bags } ∧
  (∀ e ∈ c.entries, ∀ b, s.bag? e.bag = some b → t.bag? e.bag = some { b with location := none }) ∧
  (∀ i, (∀ e ∈ c.entries, e.bag.index ≠ i) → t.store.bags.get? i = s.store.bags.get? i) ∧
  (∀ k r, idles k r → t.routes = s.routes.modify k.subject (fun r => { r with state := .idle })) ∧
  ((∀ k r, ¬idles k r) → t.routes = s.routes) ∧
  (s.notices.sources.length = 15 → (∀ m, m ∈ t.subjects .routeIdle ↔ m ∈ s.subjects .routeIdle ∨
      ∃ k r, idles k r ∧ m = k.subject) ∧
    ∀ m, m ∈ t.subjects .cartDone ↔ m ∈ s.subjects .cartDone ∨
      ∃ k r, c.route = some k ∧ s.route? k = some r ∧ (c.notify = true ∨ r.notifyAll = true) ∧ m = k.subject) ∧
  ∀ w, w ≠ .routeIdle → w ≠ .cartDone → t.subjects w = s.subjects w

/-- The state in which the head cart of the winning route stands at the door, before its unidentified items are judged and the belt
is set (R133). -/
def State.broughtUp (s : State) (d : Nat) (k : RouteKey) (n : Nat) (rest : List Nat) : State :=
  ((s.setRoutes (s.routes.modify k.subject (fun r => { r with queue := rest }))).setCarts
    (s.carts.modify n (fun c => { c with state := .atDoor }))).setDoors
    (s.doors.modify d (fun x => { x with cart := some n, lastServed := some k.route }))

/-- A free door, whose record was `x`, has arbitrated. With no route offered its belt stands STOPPED and nothing else changes. The
head cart of the winning route has come to it; one that is done completes at once, and the door arbitrates again (R133, R134,
R140). -/
def Arbitrates (s t : State) (d : Nat) (x : Door) : Prop :=
  ((∀ i, i < 12 → ¬Offering s d ⟨x.berth, i⟩) →
    Changes [.doors, .link] s t ∧ t.door? d = some { x with running := false } ∧ (∀ e, e ≠ d → t.door? e = s.door? e) ∧
    (x.running = false → t = s)) ∧
  ∀ k r n rest c, Wins s d x k r n rest c →
    (c.done = false → CartComes s t d x k r n rest c) ∧
    (c.done = true → ∃ v, CartCompletes (s.broughtUp d k n rest) v d n { c with state := .atDoor } ∧
      exec (.doorArbitrate d) v = .next t)

/-! ## Laws that every step keeps -/

/-- NOTICE_N is driven low exactly while the global enable is on and an enabled source is pending (R179). -/
def NoticeLaw (s : State) : Prop := s.notices.pinLow = (s.notices.global && s.notices.anyPending)

/-- Every induction point's level is GO exactly while its set of hold causes is empty (R77). -/
def LevelLaw (s : State) : Prop := ∀ e ∈ s.loop.points, e.2.go = e.2.causes.isEmpty

/-- The transmit queue holds at most 64 frames (R56). -/
def QueueLaw (s : State) : Prop := s.link.txQueue.length ≤ txCapacity

/-- The bag table is in its canonical form, every index below 16,384 (R20). -/
def BagTableLaw (s : State) : Prop := Table.wf s.store.bags = true ∧ ∀ e ∈ s.store.bags, e.1 < bagRecords

/-- The walker's mode is FAST exactly while some cabin is PULLING (R167). -/
def ModeLaw (s : State) : Prop := s.sweep.mode = .fast ↔ s.store.cabins.any (fun e => e.2.pulling) = true

/-- Each notice source's subjects rise strictly, and there are fifteen sources (R179). -/
def SubjectLaw (s : State) : Prop :=
  s.notices.sources.length = 15 ∧ ∀ n ∈ s.notices.sources, n.subjects.Pairwise (· < ·)

/-- The route table holds twenty-four routes and the node table thirty-two nodes, and every other table is in its canonical form
(R42, R126). -/
def ShapeLaw (s : State) : Prop :=
  s.routes.length = 24 ∧ s.link.nodes.length = 32 ∧ Table.wf s.store.cabins = true ∧ Table.wf s.store.tagMap = true ∧
  Table.wf s.loop.points = true ∧ Table.wf s.loop.arches = true ∧ Table.wf s.chutes = true ∧
  Table.wf s.carts = true ∧ Table.wf s.doors = true ∧ Table.wf s.pen.positions = true

/-! ## The cabin that a walk visits -/

/-- No entry of a pending or jam list, and no unmarked entry of a cart, is of an ABOARD bag (R102, R120, R122, R136). -/
def ListedInHall (s : State) : Prop :=
  (∀ k c, s.chute? k = some c →
    (∀ e ∈ c.landing, ∀ b, s.bag? e.bag = some b → b.state ≠ .aboard) ∧
    (∀ g ∈ c.jams, ∀ b, s.bag? g = some b → b.state ≠ .aboard)) ∧
  (∀ n x, s.cart? n = some x → ∀ e ∈ x.entries, e.aboard = false → ∀ b, s.bag? e.bag = some b → b.state ≠ .aboard)

/-- A walk has visited its record `n`, one of the cabins', and may have completed: the cabin there retires where the walk `takes` its
slot, the cabin it forwards to loses 1 from its forwarded-in count, and the walker's mode follows the cabins left; every other cabin
stays, its aboard count as it was while lists and carts hold ABOARD bags by marked entries alone; with no cabin there, or one of
another slot, all of them stay (R17, R167, R169, R171). -/
def CabinVisited (s t : State) (n : Nat) (takes : SlotId → Prop) : Prop :=
  let berth := fun key : Nat => if key < 65536 then SlotId.berthA else SlotId.berthB
  let held := fun (key : Nat) (c : Cabin) => s.store.cabins.find? (fun e => e.2.place + 16384 == n) = some (key, c)
  let stays := fun (j : Nat) (o : Option Cabin) =>
    (o = none → t.store.cabins.get? j = none) ∧
    (∀ y, o = some y → ∃ a, t.store.cabins.get? j = some { y with aboard := a } ∧ (ListedInHall s → a = y.aboard))
  (∀ key c, held key c → takes (berth key) → ModeLaw t ∧ t.store.cabins.get? key = none ∧ ∀ j, j ≠ key →
    stays j (if c.forward.any (fun m => CabinKey.code ⟨berth key, m⟩ == j) = true then
      (s.store.cabins.get? j).map (fun y => { y with forwardedIn := y.forwardedIn - 1 })
    else s.store.cabins.get? j)) ∧
  ((∀ key c, held key c → ¬takes (berth key)) →
    t.sweep.mode = s.sweep.mode ∧ ∀ j, stays j (s.store.cabins.get? j))

/-! ## Bags that a read brings -/

/-- A read names a live bag, whose slot is not CLOSING (R33). -/
def FoundBag (s : State) (read : Byte) (tag : BitVec 32) (g : Handle) (b : Bag) : Prop :=
  read.toNat = 1 ∧ 1 ≤ tag.toNat ∧ tag.toNat ≤ 999999999 ∧ s.store.tagMap.get? tag.toNat = some g ∧ s.bag? g = some b ∧
    ∀ k, b.home = some k → s.slotState k.slot ≠ .closing

/-- A read brings a new bag, with the tag and the reason it is made with: nothing read, several read, an unknown tag, the tag of a
CLOSING slot's bag, or the tag of a bag that may not be the one seen (R69, R73, R160). -/
def NewBag (s : State) (read : Byte) (tag : BitVec 32) (may : Bag → Prop) (tagged : Option Nat) (why : StrayReason) :
    Prop :=
  read.toNat = 0 ∧ tagged = none ∧ why = .noRead ∨
  read.toNat = 2 ∧ tagged = none ∧ why = .multiRead ∨
  read.toNat = 1 ∧ 1 ≤ tag.toNat ∧ tag.toNat ≤ 999999999 ∧
    (s.store.tagMap.get? tag.toNat = none ∧ tagged = some tag.toNat ∧ why = .unknownTag ∨
      tagged = none ∧ ∃ g b, s.store.tagMap.get? tag.toNat = some g ∧ s.bag? g = some b ∧
        ((∃ k, b.home = some k ∧ s.slotState k.slot = .closing) ∧ why = .wrongSailing ∨
          (∀ k, b.home = some k → s.slotState k.slot ≠ .closing) ∧ ¬may b ∧ why = .duplicateTag))

/-- A bag has been created: its record stands, its tag, if it has one, is in the map, and no other record has changed but one that
is named; in a bag table in canonical form its index is the lowest that was free (R20, R21, R32). -/
def Created (s t : State) (g : Handle) (but : Option Nat) (b : Bag) : Prop :=
  t.bag? g = some b ∧ g.gen = s.store.gen g.index ∧
  (∀ i, i ≠ g.index → but ≠ some i → t.store.bags.get? i = s.store.bags.get? i) ∧
  (b.tag = none → t.store.tagMap = s.store.tagMap) ∧
  (∀ n, b.tag = some n → t.store.tagMap = s.store.tagMap.put n g) ∧
  (BagTableLaw s → g.index < bagRecords ∧ s.store.bags.get? g.index = none ∧
    ∀ j, j < g.index → s.store.bags.has j = true)

/-- The PULL flag that a demand check leaves a bag (R148). -/
def demanded (s : State) (b : Bag) : Option PullOrigin :=
  match s.store.governing b with
  | none => b.pull
  | some c => if c.status = .void then some (b.pull.getD .cabin) else if b.pull = some .cabin then none else b.pull

/-- The reason that re-evaluating gives a stray: that of the first line of the destination rule, lines 1, 2 and 6 passed over, that
gives STRAY; else its own, or, where it has none, the one named (R158). -/
def reEvaluated (s : State) (b : Bag) (named : Option StrayReason) : Option StrayReason :=
  if b.hold = true then some .held
  else if b.home.any (fun k => s.slotState k.slot == .closing) = true then some .wrongSailing
  else if b.pull ≠ none ∨ (s.store.governing b).any (fun c => c.standsVoid) = true then some .pulled
  else if s.store.governing b = none then some (if b.tag = none then .noRead else .unknownTag)
  else b.reason.or named

/-- The reason that an ENCODE leaves a bag read by its tag, its PULL flag as the demand check leaves it: PULLED under a VOID
governing cabin, else re-evaluated (R148, R158, log 31). -/
def encodeReason (s : State) (b : Bag) (named : Option StrayReason) : Option StrayReason :=
  if (s.store.governing b).any (fun c => c.status == .void) = true then some .pulled
  else reEvaluated s { b with pull := demanded s b } named

end Sys2Proof.Machine
end

