-- ==== Sys2Proof/Certificates/Slice0/Obligations.lean ====
section
/-! DEFINITION. The statements for the provers. `answered code h t a` is the outcome of a request: a next state, `t` with the
answer `a` being applied at the port; `s.taken` is `s` with the port status shifted out (and nothing else recorded of SPI_SO: the
model's choice, log 38) and DISCARDED clear; `Changes l s t` says that every part of the state outside the list `l` is as
before. -/

open Sys2Proof Sys2Proof.Machine

/-! ## Steps, reset and the request port -/

/-- A step runs the command at the front of the queue on the state with the rest of the queue. -/
def Obligations.StepRunsFront : Prop :=
  ∀ (c : Instr) (rest : List Instr) (s : State),
    step (s.setPending (c :: rest)) = exec c (s.setPending rest)

/-- With no command waiting, a step is one tick of the block's own time (the model's choice, log 1). It puts into the queue what is
then due, in this order, and nothing else: at a new second the level refresh and, in RUN, NODE_DOWN for each LIVE node whose silence
has then reached the timeout, in rising number; the response of a request being applied; the oldest frame that waits; and the sweep's
part: the running walk's next visit, or, in RUN, a patrol visit, 4,096 a second in FAST and as many as the patrol rate in PATROL (R51,
R56, R58, R167, R169, R171, R173). -/
def Obligations.EmptyQueueTicks : Prop :=
  ∀ s : State, s.pending = [] → ∃ (t : State) (down : List Nat), step s = .next t ∧
    Changes [.hallSecond, .subTick, .patrolPhase, .pending] s t ∧
    (s.subTick + 1 < 4096 → t.subTick = s.subTick + 1 ∧ t.hallSecond = s.hallSecond) ∧
    (4096 ≤ s.subTick + 1 → t.subTick = 0 ∧ t.hallSecond = s.hallSecond + 1) ∧
    down.Pairwise (· < ·) ∧
    (∀ m, m ∈ down ↔ s.opState = .run ∧ ∃ n x l, m = n + 1 ∧ s.link.nodes[n]? = some x ∧ x.state = .live ∧
      x.lastHeard = some l ∧ l + s.limits.silence ≤ s.hallSecond + 1) ∧
    t.pending =
      (if 4096 ≤ s.subTick + 1 then .levelRefresh :: down.map Instr.nodeDown else []) ++
      (match s.port with
        | .working _ => [.responseReady]
        | _ => []) ++
      (if s.link.txQueue = [] then [] else [.frameTransmit]) ++
      (match s.sweep.walk with
        | some w =>
          if w.kind = .clear then [if w.next + 1 < 22528 then Instr.clearWalkVisit else .clearWalkComplete]
          else [if w.next + 1 < 22528 then .closeWalkVisit else .closeWalkComplete]
        | none =>
          if s.opState = .run ∧ (s.sweep.mode = .fast ∨ 4096 ≤ s.patrolPhase + s.limits.patrolRate) then [.patrolVisit]
          else []) ∧
    t.patrolPhase =
      (if s.sweep.walk = none ∧ s.opState = .run ∧ s.sweep.mode = .patrol then
        if s.patrolPhase + s.limits.patrolRate < 4096 then s.patrolPhase + s.limits.patrolRate
        else s.patrolPhase + s.limits.patrolRate - 4096
      else s.patrolPhase)

/-- What power-on and a reset pulse of at least 1 ms leave (R175 and the rules of each chapter); a shorter pulse is ignored. That
the queue of commands stays is the model's choice (log 30). -/
def Obligations.ResetLeaves : Prop :=
  ∀ (n : Nat) (s : State),
    (n < 1000 → exec (.hallResetN n) s = .next s) ∧
    (1000 ≤ n → exec (.hallResetN n) s = exec .powerOn s) ∧
    ∃ t, exec .powerOn s = .next t ∧ t.opState = .setup ∧ t.hallSecond = 0 ∧ t.port = .idle ∧ t.discarded = false ∧
      (∀ b, t.store.slot b = ⟨.free, none, false, ⟨0, 0, 0, 0, 0, 0⟩⟩) ∧ t.store.cabins = [] ∧ t.store.bags = [] ∧
      (∀ i, t.store.gen i = 0) ∧ t.store.tagMap = [] ∧
      (∀ m, 1 ≤ m → m ≤ 32 → t.node? m = some ⟨none, [], .unheard, none, none, 0⟩) ∧ t.link.stampRef = none ∧
      t.link.txQueue = [] ∧ t.loop.carriers = List.replicate 64 ⟨.empty, none⟩ ∧ t.loop.pos = 0 ∧
      t.loop.track = .anchoring ∧ t.loop.lossCount = 0 ∧ t.loop.confirmRun = 0 ∧ t.loop.mismatchRun = 0 ∧
      t.loop.homeMark = false ∧ t.loop.points = [] ∧ t.loop.arches = [] ∧ t.chutes = [] ∧ t.carts = [] ∧
      t.nextSerial = 1 ∧ (∀ k, k < 24 → t.routes[k]? = some ⟨none, [], [], .unset, false, false, 0⟩) ∧ t.doors = [] ∧
      t.pen = ⟨96, [], [], false⟩ ∧ t.sweep = ⟨⟨16383, 0⟩, .patrol, none⟩ ∧ t.notices.sources.length = 15 ∧
      (∀ x ∈ t.notices.sources, x.subjects = [] ∧ x.enabled = false) ∧
      t.notices.sources.map (·.priority) =
        [.high, .low, .low, .high, .high, .high, .high] ++ List.replicate 8 .low ∧
      t.notices.global = false ∧ t.notices.pinLow = false ∧ t.limits = ⟨3, 16, 4, 3, 3, 5, 4, 30, 128⟩ ∧ t.pending = s.pending

/-- STATUS_ONLY shifts out the port status and changes nothing else (R172). -/
def Sys2Proof.Claim.StatusByte : Prop :=
  ∀ (first : Byte) (s : State), ∃ t b, exec (.statusOnly first) s = .next t ∧ Changes [.spiOut] s t ∧ t.spiOut = [b] ∧
    (b.getLsbD 0 = true ↔ ∃ r, s.port = .waiting r) ∧ (b.getLsbD 1 = true ↔ ∃ r, s.port = .working r) ∧
    (b.getLsbD 2 = true ↔ ∃ n ∈ s.notices.sources, n.enabled = true ∧ n.subjects ≠ []) ∧
    (b.getLsbD 3 = true ↔ s.discarded = true) ∧ b.toNat / 16 = s.opState.code

/-- FETCH takes the waiting response, and answers NO_RESPONSE while none waits (R174); a short FETCH ends the answer early. The
echo's bytes that the host never sent, and numbers too wide for their fields, are free values (log 9); that nothing is recorded
of what is shifted out past the answer's end is the model's choice (log 38). -/
def Obligations.FetchAnswers : Prop :=
  ∀ (clocked : Nat) (s : State),
    (∀ r, s.port = .waiting r →
      exec (.fetch clocked) s = .next ((s.setSpiOut ((s.status :: (r.echo ++ [r.answer.result.code] ++
        field 1 r.answer.body.bytes.length ++ r.answer.body.bytes)).take clocked)).setPort .idle)) ∧
    ((∀ r, s.port ≠ .waiting r) →
      exec (.fetch clocked) s =
        .next (s.setSpiOut ([s.status, 0, 0, 0, 0, 0, 0, Result.noResponse.code, 0].take clocked)))

/-- RESPONSE_READY places the response of the request being applied in the response slot (R173; that it changes nothing while no
request is being applied is the model's choice, log 2). -/
def Sys2Proof.Claim.ResponsePlaced : Prop :=
  ∀ s : State,
    (∀ r, s.port = .working r → exec .responseReady s = .next (s.setPort (.waiting r))) ∧
    ((∀ r, s.port ≠ .working r) → exec .responseReady s = .next s)

/-- STATUS_ONLY and RESPONSE_READY. -/
def Obligations.StatusAndResponse : Prop :=
  Claim.StatusByte ∧ Claim.ResponsePlaced

/-- A request taken while the port is WORKING is discarded: it changes no record, makes no response, and sets DISCARDED (R173),
for every request of the catalogue and for a code that names none (that of the bytes shifted out the status alone is recorded is
the model's choice, log 38). -/
def Sys2Proof.Claim.WorkingDiscards : Prop :=
  ∀ (i : Instr) (s : State) (r : Response), s.port = .working r →
    ((requestParts i).isSome = true ∨ ∃ code h, i = .unknownRequest code h) →
    exec i s = .next ((s.setSpiOut [s.status]).setDiscarded true)

/-- A request whose bytes or body length are not those it carries is answered BAD_LENGTH and changes no record (R172; that OFFLOAD
CONFIRM carries 2 bytes and JAM CLEAR 3 with every outcome is the model's reading, log 22, and so are CONFIG INDUCTION's and CONFIG
ARCH's 3, log 49; the echo of a BAG GET without its key-form byte is the model's choice, log 45). -/
def Sys2Proof.Claim.BadLengthRefused : Prop :=
  ∀ (i : Instr) (s : State) (code : Byte) (h : Head) (len : Nat), requestParts i = some (code, h, len) →
    (∀ r, s.port ≠ .working r) → (h.came < 6 + h.bodyLen ∨ 56 < h.bodyLen ∨ h.bodyLen ≠ len) →
    exec i s = answered code h s.taken (Answer.refuse .badLength)

/-- A code that names no request is answered UNKNOWN_REQUEST once its length is whole, and BAD_LENGTH where too few bytes came or
its body length is above 56 (R172; that BAD_LENGTH comes first is the model's choice, log 37). -/
def Sys2Proof.Claim.UnknownRequestRefused : Prop :=
  ∀ (code : Byte) (h : Head) (s : State), (∀ r, s.port ≠ .working r) →
    (6 + h.bodyLen ≤ h.came → h.bodyLen ≤ 56 →
      exec (.unknownRequest code h) s = answered code h s.taken (Answer.refuse .unknownRequest)) ∧
    ((h.came < 6 + h.bodyLen ∨ 56 < h.bodyLen) →
      exec (.unknownRequest code h) s = answered code h s.taken (Answer.refuse .badLength))

/-- What the port itself discards and refuses. -/
def Obligations.PortRefuses : Prop :=
  Claim.WorkingDiscards ∧ Claim.BadLengthRefused ∧ Claim.UnknownRequestRefused

/-- A refused request changes no record: whatever the request, an answer other than DONE and ACCEPTED comes with the state it
was taken in, but for the port (R3, R35). -/
def Obligations.RefusedChangesNothing : Prop :=
  ∀ (i : Instr) (s t : State) (code : Byte) (h : Head) (len : Nat) (a : Answer), requestParts i = some (code, h, len) →
    (∀ r, s.port ≠ .working r) → exec i s = .next t → t.port = .working ⟨code, h, a⟩ → a.result ≠ .done →
    a.result ≠ .accepted → exec i s = answered code h s.taken a

/-- The tests of R3, in order, for each request that R3 names, BAG REGISTER and the requests on routes (R3, R36, R128; that CLOSE
SAILING with ship code 0 is refused BAD_FIELD is the model's choice, log 33, and so is that CABIN PUT's whole guest list is tested
among the fields, log 50). -/
def Sys2Proof.Claim.SailingTestsInOrder : Prop :=
  ∀ (i : Instr) (s : State) (code : Byte) (h : Head) (len : Nat) (fields : Bool),
    requestParts i = some (code, h, len) → sailingFields i = some fields → Ready s h len →
    ((h.key.slot? = none ∨ fields = false) → exec i s = answered code h s.taken (Answer.refuse .badField)) ∧
    (∀ b, h.key.slot? = some b → fields = true →
      (s.opState = .setup → exec i s = answered code h s.taken (Answer.refuse .wrongState)) ∧
      (s.opState ≠ .setup → s.slotState b = .closing →
        exec i s = answered code h s.taken (Answer.refuse .sailingBusy)) ∧
      (s.opState ≠ .setup → s.slotState b = .free → takenByFree i = false →
        exec i s = answered code h s.taken (Answer.refuse .wrongState)))

/-- The tests of R35, in order, for each request that names a bag by its handle (R35; that a JAM CLEAR's chute and a pen position
are tested after them, whatever their value, is the model's choice, log 48). -/
def Sys2Proof.Claim.BagTestsInOrder : Prop :=
  ∀ (i : Instr) (s : State) (code : Byte) (h : Head) (len : Nat) (fields : Bool),
    requestParts i = some (code, h, len) → bagFields i = some fields → Ready s h len →
    ((bagRecords ≤ h.key.handle.index ∨ fields = false) →
      exec i s = answered code h s.taken (Answer.refuse .badField)) ∧
    (h.key.handle.index < bagRecords → fields = true →
      (s.opState = .setup → exec i s = answered code h s.taken (Answer.refuse .wrongState)) ∧
      (s.opState ≠ .setup → s.store.gen h.key.handle.index ≠ h.key.handle.gen →
        exec i s = answered code h s.taken (Answer.refuse .staleHandle)) ∧
      (s.opState ≠ .setup → s.store.gen h.key.handle.index = h.key.handle.gen →
        s.store.bags.get? h.key.handle.index = none →
        exec i s = answered code h s.taken (Answer.refuse .notFound)) ∧
      (∀ b k, s.opState ≠ .setup → s.bag? h.key.handle = some b → b.home = some k → s.slotState k.slot = .closing →
        exec i s = answered code h s.taken (Answer.refuse .sailingBusy)))

/-- The ordered tests of R3 and R35. -/
def Obligations.TestsInOrder : Prop :=
  Claim.SailingTestsInOrder ∧ Claim.BagTestsInOrder

/-! ## Setup -/

/-- CONFIG LOOP: N empty, unarmed carriers, the position at 0, and P pen positions; tracking, the loss count, the runs, the home mark
and the arches stay; a change of P releases the pen hold (R61, R154, R157; that the same P keeps the hold is the model's choice, log
19). -/
def Sys2Proof.Claim.ConfigLoopSets : Prop :=
  ∀ (h : Head) (n : BitVec 16) (p : Byte) (s : State), Ready s h 3 → 64 ≤ n.toNat → n.toNat ≤ 512 → 16 ≤ p.toNat →
    p.toNat ≤ 128 → s.opState = .setup → s.clearWalk = false →
    ∃ t, exec (.configLoop h n p) s = answered 0x01 h t (Answer.done .empty) ∧
      Changes [.pen, .link, .loop, .discarded, .spiOut] s t ∧
      t.loop = { s.loop with
        carriers := List.replicate n.toNat ⟨.empty, none⟩, pos := 0, points := t.loop.points } ∧
      t.pen = { s.pen with
        size := p.toNat
        hold := if p.toNat = s.pen.size then s.pen.hold else false } ∧
      ((p.toNat = s.pen.size ∨ s.pen.hold = false) → t.loop.points = s.loop.points ∧ t.link = s.link) ∧
      (p.toNat ≠ s.pen.size → s.pen.hold = true → ∀ i, t.loop.points.get? i = (s.loop.points.get? i).map (fun q =>
        ⟨q.offset, q.node, { q.causes with pen := false }, { q.causes with pen := false }.isEmpty⟩))

/-- CONFIG INDUCTION, ARCH, CHUTE and DOOR create or replace their object, or, with node 0, remove it (R60, R77, R108, R132,
R176; that the key of CONFIG INDUCTION and CONFIG ARCH holds the number is the model's reading, log 49, and so is it that node 0
for an object that is not configured is answered DONE and removes nothing, log 58). -/
def Sys2Proof.Claim.ConfigObjectsSet : Prop :=
  ∀ (h : Head) (s : State), (∀ r, s.port ≠ .working r) → s.opState = .setup →
    (∀ (offset : BitVec 16) (node : Byte), Head.lengthOk h 3 = true → h.key.number < 6 → node.toNat ≤ 32 →
      exec (.configInduction h offset node) s = answered 0x02 h (s.taken.setLoop { s.loop with
        points := if node.toNat = 0 then s.loop.points.erase h.key.number
          else s.loop.points.put h.key.number
            ⟨offset.toNat, node.toNat, ⟨true, s.pen.hold, s.store.low, true, true⟩, false⟩ }) (Answer.done .empty)) ∧
    (∀ (offset : BitVec 16) (node : Byte), Head.lengthOk h 3 = true → h.key.number < 4 → node.toNat ≤ 32 →
      exec (.configArch h offset node) s = answered 0x03 h (s.taken.setLoop { s.loop with
        arches := if node.toNat = 0 then s.loop.arches.erase h.key.number
          else s.loop.arches.put h.key.number ⟨offset.toNat, node.toNat⟩ }) (Answer.done .empty)) ∧
    (∀ (kind : ChuteKind) (offset : BitVec 16) (lead window capacity node : Byte), Head.lengthOk h 7 = true →
      h.key.number < 40 → 2 ≤ lead.toNat → lead.toNat ≤ 16 → 2 ≤ window.toNat → window.toNat ≤ 32 →
      4 ≤ capacity.toNat → capacity.toNat ≤ 48 → node.toNat ≤ 32 → s.clearWalk = false →
      exec (.configChute h (some kind) offset lead window capacity node) s = answered 0x04 h (s.taken.setChutes
        (if node.toNat = 0 then s.chutes.erase h.key.number
          else s.chutes.put h.key.number
            ⟨kind, offset.toNat, lead.toNat, window.toNat, capacity.toNat, node.toNat, none, .closed, 0, [], [], .empty,
              .empty, none, 0⟩)) (Answer.done .empty)) ∧
    (∀ (berth : SlotId) (node : Byte), Head.lengthOk h 2 = true → h.key.number < 6 → node.toNat ≤ 32 →
      s.clearWalk = false →
      exec (.configDoor h (some berth) node) s = answered 0x05 h (s.taken.setDoors
        (if node.toNat = 0 then s.doors.erase h.key.number
          else s.doors.put h.key.number ⟨berth, node.toNat, false, HaltSet.empty, none, none⟩)) (Answer.done .empty))

/-- CONFIG NODE gives a node its role and objects and makes it UNHEARD (R42, R43); that its outbound sequence stays is the
model's choice (log 18). -/
def Sys2Proof.Claim.ConfigNodeSets : Prop :=
  ∀ (h : Head) (r : Role) (objects : List Byte) (x : Node) (s : State), Ready s h (2 + objects.length) →
    1 ≤ h.key.number → h.key.number ≤ 32 → Role.admits r objects = true → s.opState = .setup →
    s.node? h.key.number = some x → othersServe r (objects.map (·.toNat)) h.key.number 1 s.link.nodes = false →
    ∃ t, exec (.configNode h (some r) objects) s = answered 0x06 h t (Answer.done .empty) ∧
      Changes [.link, .discarded, .spiOut] s t ∧
      t.node? h.key.number = some ⟨some r, objects.map (·.toNat), .unheard, none, none, x.outSeq⟩ ∧
      (∀ m, m ≠ h.key.number → t.node? m = s.node? m) ∧ t.link.txQueue = s.link.txQueue ∧
      t.link.stampRef = s.link.stampRef

/-- A request that configures an object or a node is refused BAD_FIELD with a field out of its range or more objects than its role
admits, WRONG_STATE in RUN and REST, and, for the loop, a chute and a door, BUSY while the clear walk runs, each where no other of these
tests fails; a CONFIG NODE that names an object another node serves, or the LOOP or ENCODE role that another node has, is refused IN_USE
(R43, R61, R108, R176). -/
def Sys2Proof.Claim.ConfigurationsRefused : Prop :=
  (∀ (i : Instr) (s : State) (code : Byte) (h : Head) (len : Nat) (ok busy : Bool), requestParts i = some (code, h, len) →
    configFields i = some (ok, busy) → Ready s h len →
    let refused := fun a => exec i s = answered code h s.taken (Answer.refuse a)
    (s.opState = .setup → (busy = true → s.clearWalk = false) → ok = false → refused .badField) ∧
    (s.opState ≠ .setup → (busy = true → s.clearWalk = false) → ok = true → refused .wrongState) ∧
    (s.opState = .setup → busy = true → s.clearWalk = true → ok = true → refused .busy)) ∧
  ∀ (h : Head) (r : Role) (objects : List Byte) (s : State) (m : Nat) (y : Node), Ready s h (2 + objects.length) →
    1 ≤ h.key.number → h.key.number ≤ 32 → Role.admits r objects = true → s.opState = .setup → m ≠ h.key.number →
    s.node? m = some y → y.role = some r → (r = .loop ∨ r = .encode ∨ ∃ o ∈ objects, o.toNat ∈ y.objects) →
    exec (.configNode h (some r) objects) s = answered 0x06 h s.taken (Answer.refuse .inUse)

/-- The requests that configure objects and nodes. -/
def Obligations.ConfigurationSets : Prop :=
  Claim.ConfigLoopSets ∧ Claim.ConfigObjectsSet ∧ Claim.ConfigNodeSets ∧ Claim.ConfigurationsRefused

/-- CONFIG LIMITS replaces every limit; a run or count at or above its new limit becomes the limit less 1, and no bag has more
laps than the recirc limit; a low mark that changes is tested. A limit out of its range is refused BAD_FIELD, and the request
WRONG_STATE in REST (R25, R84 to R86, R106, R157, R176; that the loss count is lowered in FAILED tracking too, and the failure count of a
chute in FAULT(FAILURES), which R106 also says stays at its limit, is the model's reading, log 26; that a raised failure limit leaves
such a count as it stands is its choice, log 57). -/
def Obligations.ConfigLimitsSets : Prop :=
  ∀ (h : Head) (body : LimitsBody) (s : State), Ready s h 10 →
    ((limitsOf body).inRange = false → s.opState ≠ .rest →
      exec (.configLimits h body) s = answered 0x07 h s.taken (Answer.refuse .badField)) ∧
    ((limitsOf body).inRange = true → s.opState = .rest →
      exec (.configLimits h body) s = answered 0x07 h s.taken (Answer.refuse .wrongState)) ∧
    ((limitsOf body).inRange = true → s.opState ≠ .rest →
    ∃ t, exec (.configLimits h body) s = answered 0x07 h t (Answer.done (.limits (limitsOf body))) ∧
      Changes [.limits, .loop, .chutes, .store, .pen, .link, .notices, .discarded, .spiOut] s t ∧
      t.limits = limitsOf body ∧
      t.loop.lossCount = (if body.loss.toNat ≤ s.loop.lossCount then body.loss.toNat - 1 else s.loop.lossCount) ∧
      t.loop.confirmRun =
        (if body.confirm.toNat ≤ s.loop.confirmRun then body.confirm.toNat - 1 else s.loop.confirmRun) ∧
      t.loop.mismatchRun =
        (if body.drift.toNat ≤ s.loop.mismatchRun then body.drift.toNat - 1 else s.loop.mismatchRun) ∧
      t.loop.carriers = s.loop.carriers ∧ t.loop.track = s.loop.track ∧
      (∀ k c, s.chutes.get? k = some c → t.chutes.get? k = some { c with
        failures := if body.failure.toNat ≤ c.failures then body.failure.toNat - 1 else c.failures }) ∧
      (∀ i b, s.store.bags.get? i = some b →
        t.store.bags.get? i = some { b with laps := min b.laps body.recirc.toNat }) ∧
      t.pen.positions = s.pen.positions ∧
      (body.penLow.toNat = s.limits.penLow → t.pen = s.pen ∧ t.link = s.link ∧ t.loop.points = s.loop.points) ∧
      (body.penLow.toNat ≠ s.limits.penLow → HoldsFollow s t True))

/-- RUN in SETUP makes the five tests of R177 in their order and is refused BAD_CONFIG at the first that fails, with the test and a
faulty object; when every test passes the part enters RUN, tracking ANCHORING, every point without STATE and otherwise with its
causes, every belt by R134 (R177; that tests 3 and 4 name no object is the model's choice, log 24). -/
def Obligations.RunEnters : Prop :=
  ∀ (h : Head) (s : State), Ready s h 0 → s.opState = .setup → s.clearWalk = false →
    let n := s.loop.carriers.length
    let bad1 := fun (o : ObjectKind) (i : Nat) =>
      o = .induction ∧ (∃ p, (i, p) ∈ s.loop.points ∧ s.servingNode .induct i ≠ some p.node) ∨
      o = .arch ∧ (∃ a, (i, a) ∈ s.loop.arches ∧ s.servingNode .arch i ≠ some a.node) ∨
      o = .chute ∧ ∃ c, (i, c) ∈ s.chutes ∧ s.servingNode .chute i ≠ some c.node
    let bad2 := fun (o : ObjectKind) (i : Nat) =>
      o = .induction ∧ (∃ p, (i, p) ∈ s.loop.points ∧ n ≤ p.offset) ∨
      o = .arch ∧ (∃ a, (i, a) ∈ s.loop.arches ∧ n ≤ a.offset) ∨ o = .chute ∧ ∃ c, (i, c) ∈ s.chutes ∧ n ≤ c.offset + 1
    let strays := (s.chutes.filter (fun e => e.2.kind == .stray)).length
    let bad5 := fun (i : Nat) => ∃ x, (i, x) ∈ s.doors ∧ s.servingNode .door i ≠ some x.node
    let refused := fun (test : Nat) (o : Option (ObjectKind × Nat)) =>
      exec (.run h) s = answered 0x08 h s.taken ⟨.badConfig, .badConfig test o⟩
    ((∃ o i, bad1 o i) → ∃ o i, bad1 o i ∧ refused 1 (some (o, i))) ∧
    ((∀ o i, ¬bad1 o i) →
      ((∃ o i, bad2 o i) → ∃ o i, bad2 o i ∧ refused 2 (some (o, i))) ∧
      ((∀ o i, ¬bad2 o i) →
        (s.loop.arches = [] → refused 3 none) ∧
        (s.loop.arches ≠ [] →
          ((strays = 0 ∨ 2 < strays) → refused 4 none) ∧
          (1 ≤ strays → strays ≤ 2 →
            ((∃ i, bad5 i) → ∃ i, bad5 i ∧ refused 5 (some (.door, i))) ∧
            ((∀ i, ¬bad5 i) → ∃ t, exec (.run h) s = answered 0x08 h t (Answer.done .empty) ∧
              Changes [.opState, .loop, .link, .doors, .discarded, .spiOut] s t ∧ t.opState = .run ∧
              t.loop.track = .anchoring ∧ t.loop.confirmRun = 0 ∧ t.loop.mismatchRun = 0 ∧ t.loop.homeMark = false ∧
              t.loop.lossCount = s.loop.lossCount ∧ t.loop.carriers = s.loop.carriers ∧ t.loop.pos = s.loop.pos ∧
              t.loop.arches = s.loop.arches ∧
              (∀ i p, t.loop.points.get? i = some p → p.causes.state = false) ∧
              (∀ i p, s.loop.points.get? i = some p → ∃ q, t.loop.points.get? i = some q ∧ q.offset = p.offset ∧
                q.node = p.node ∧ q.causes = { p.causes with state := false }) ∧
              (∀ d x, s.door? d = some x → t.door? d = some { x with running := t.beltRuns x }) ∧
              t.link.nodes.length = s.link.nodes.length)))))

/-- HALL CLEAR is refused BUSY while a walk runs. Otherwise the part enters SETUP, the clear walk starts, slots that are not
FREE become CLOSING, and carriers, chutes, routes, doors and nodes take the effects their chapters give: UNKNOWN carriers EMPTY
and none armed; tracking ANCHORING with every count 0; every chute CLOSED, unassigned, with nothing reserved and no failures, a
CLOSING cart whose claims that leaves at 0 being CUT, and its chute's carts swapped; every route without chutes; every door without
reasons, STOPPED; every configured node UNHEARD, its outbound sequence advanced by the frames made for it alone. Of each point that
stood at GO and each door that ran the level HOLD or STOP goes into the frame that waits for it, or, while the queue has room, into
a new one; frames that waited keep their places, and their levels but for that (R42, R53, R56, R58, R62, R63, R77, R81, R106, R108,
R118, R119, R132, R134, R171; the causes it adds to the points are the model's reading, log 16; the order of the new frames is its
choice, log 12, and so is that a waiting frame keeps its node, log 34). -/
def Obligations.HallClearStarts : Prop :=
  ∀ (h : Head) (s : State), Ready s h 0 →
    (s.sweep.walk ≠ none → exec (.hallClear h) s = answered 0x09 h s.taken (Answer.refuse .busy)) ∧
    (s.sweep.walk = none → ∃ t, exec (.hallClear h) s = answered 0x09 h t ⟨.accepted, .empty⟩ ∧
      Changes [.opState, .store, .loop, .link, .chutes, .routes, .doors, .sweep, .carts, .discarded, .spiOut] s t ∧
      t.opState = .setup ∧ t.sweep = { s.sweep with walk := some ⟨.clear, 0⟩ } ∧
      (∀ b, t.store.slot b = { s.store.slot b with state := if s.slotState b = .free then .free else .closing }) ∧
      t.store.bags = s.store.bags ∧ t.store.cabins = s.store.cabins ∧ t.store.tagMap = s.store.tagMap ∧
      t.link.stampRef = none ∧
      (∀ n x, s.node? n = some x → x.role ≠ none → t.node? n = some { x with
        state := .unheard, expected := none, lastHeard := none,
        outSeq := x.outSeq + BitVec.ofNat 8 ((t.link.txQueue.filter (fun f => f.node == n)).length -
          (s.link.txQueue.filter (fun f => f.node == n)).length) }) ∧
      (∀ n x, s.node? n = some x → x.role = none → t.node? n = some x) ∧
      (∀ (j : Nat) (f : OutFrame), s.link.txQueue[j]? = some f → ∃ w, t.link.txQueue[j]? = some { f with payload := w } ∧
        (w = f.payload ∨ (∃ i go p, f.payload = .induct i go ∧ s.loop.points.get? i = some p ∧ w = .induct i false) ∨
          ∃ d run x, f.payload = .door d run ∧ s.door? d = some x ∧ w = .door d false)) ∧
      (Table.wf s.loop.points = true → Table.wf s.doors = true → LevelsMade s t 0 (levelsStopped s)) ∧
      t.loop.track = .anchoring ∧ t.loop.lossCount = 0 ∧ t.loop.confirmRun = 0 ∧ t.loop.mismatchRun = 0 ∧
      t.loop.homeMark = false ∧ t.loop.pos = s.loop.pos ∧ t.loop.arches = s.loop.arches ∧
      t.loop.carriers =
        s.loop.carriers.map (fun c => ⟨if c.content = .unknown then .empty else c.content, none⟩) ∧
      (∀ k c, s.chute? k = some c → ∃ a, t.chute? k = some { c with
          state := .closed, assigned := none, reserved := 0, failures := 0, active := a } ∧
        (a ≠ c.active → c.landing = [] ∧ c.jams = [] ∧ ∃ n x, s.activeCart c = some (n, x) ∧ x.state = .closing) ∧
        (∀ n x, s.activeCart c = some (n, x) → x.state = .closing → c.landing = [] → c.jams = [] →
          t.cart? n = some { x with state := .cut } ∧
            (OwnCarts s k c → ∀ q, t.chute? k = some q → Swaps s t k n c q .closed))) ∧
      (∀ k, s.chute? k = none → t.chute? k = none) ∧
      (∀ m, s.cart? m = none → t.cart? m = none) ∧
      (∀ m x, s.cart? m = some x → ∃ v, t.cart? m = some { x with state := v } ∧
        (v = x.state ∨ x.state = .closing ∧ v = .cut ∨ x.state = .standby ∧ v = .filling)) ∧
      t.routes = s.routes.map (fun r => { r with chutes := [] }) ∧
      (∀ d, t.door? d = (s.door? d).map (fun x => { x with
        halts := HaltSet.empty, lastServed := none, running := false })) ∧
      ∀ i, t.loop.points.get? i = (s.loop.points.get? i).map (fun p =>
        ⟨p.offset, p.node, { p.causes with state := true, tracking := true, node := true }, false⟩))

/-- HALL REST: the part enters REST, tracking ANCHORING, every point with the causes STATE and TRACKING (R81, R178); while a
route is LOADING or a carrier is armed it is refused IN_USE. -/
def Sys2Proof.Claim.HallRestEnters : Prop :=
  ∀ (h : Head) (s : State), Ready s h 0 → s.opState = .run → s.closeWalk = false →
    (((∃ r ∈ s.routes, r.state = .loading) ∨ ∃ c ∈ s.loop.carriers, c.armed ≠ none) →
      exec (.hallRest h) s = answered 0x0A h s.taken (Answer.refuse .inUse)) ∧
    ((∀ r ∈ s.routes, r.state ≠ .loading) → (∀ c ∈ s.loop.carriers, c.armed = none) →
      ∃ t, exec (.hallRest h) s = answered 0x0A h t (Answer.done .empty) ∧
        Changes [.opState, .loop, .link, .doors, .discarded, .spiOut] s t ∧ t.opState = .rest ∧
        t.loop.track = .anchoring ∧ t.loop.confirmRun = 0 ∧ t.loop.mismatchRun = 0 ∧ t.loop.homeMark = false ∧
        t.loop.lossCount = s.loop.lossCount ∧ t.loop.carriers = s.loop.carriers ∧ t.loop.pos = s.loop.pos ∧
        (∀ i p, t.loop.points.get? i = some p → p.causes.state = true ∧ p.causes.tracking = true) ∧
        t.link.stampRef = s.link.stampRef ∧ (∀ d x, t.doors.get? d = some x → x.running = false))

/-- WAKE: the part enters RUN, every configured node UNHEARD, S absent, tracking ANCHORING with both runs 0 and the home mark
clear, the loss count kept; every point takes TRACKING and loses STATE, and takes NODE where its node has become UNHEARD, PEN and
TABLE staying; every belt by R134 (R53, R63, R78, R81, R178). -/
def Sys2Proof.Claim.WakeEnters : Prop :=
  ∀ (h : Head) (s : State), Ready s h 0 →
    (s.opState ≠ .rest → exec (.wake h) s = answered 0x0B h s.taken (Answer.refuse .wrongState)) ∧
    (s.opState = .rest → ∃ t, exec (.wake h) s = answered 0x0B h t (Answer.done .empty) ∧
      Changes [.opState, .link, .loop, .doors, .discarded, .spiOut] s t ∧ t.opState = .run ∧ t.link.stampRef = none ∧
      (∀ n x, s.node? n = some x → x.role ≠ none → ∃ y, t.node? n = some y ∧ y.role = x.role ∧ y.objects = x.objects ∧
        y.state = .unheard ∧ y.expected = none) ∧
      t.loop.track = .anchoring ∧ t.loop.confirmRun = 0 ∧ t.loop.mismatchRun = 0 ∧ t.loop.homeMark = false ∧
      t.loop.lossCount = s.loop.lossCount ∧ t.loop.carriers = s.loop.carriers ∧ t.loop.pos = s.loop.pos ∧
      t.loop.arches = s.loop.arches ∧
      (∀ i p, t.loop.points.get? i = some p → p.causes.tracking = true ∧ p.causes.state = false) ∧
      (∀ i p, s.loop.points.get? i = some p → ∃ q, t.loop.points.get? i = some q ∧ q.offset = p.offset ∧ q.node = p.node ∧
        q.causes.pen = p.causes.pen ∧ q.causes.table = p.causes.table ∧
        ∀ x, s.node? p.node = some x → x.role ≠ none → q.causes.node = true) ∧
      (∀ d x, s.door? d = some x → t.door? d = some { x with running := t.beltRuns x }))

/-- A frame from the LOOP node in REST, with none held before it, wakes the part as WAKE does, and is then admitted as in RUN (R45,
R178). -/
def Sys2Proof.Claim.WakingFrameWakes : Prop :=
  ∀ (i : Instr) (f : FrameHead) (x : Node) (h : Head) (s : State), frameHead i = some f → s.opState = .rest →
    s.node? f.node.toNat = some x → x.role = some .loop → HoldsNoFrame s → Ready s h 0 →
    exec (.wake h) s = answered 0x0B h s.taken.wake (Answer.done .empty) ∧ s.wake.opState = .run ∧
    exec i s = exec i s.wake

/-- HALL REST, WAKE and the waking frame. -/
def Obligations.RestAndWake : Prop :=
  Claim.HallRestEnters ∧ Claim.WakeEnters ∧ Claim.WakingFrameWakes

/-! ## Sailings and cabins -/

/-- OPEN SAILING, by the state of the slot and the ship codes the slots hold (R4). -/
def Sys2Proof.Claim.OpenSailingOpens : Prop :=
  ∀ (h : Head) (ship : BitVec 16) (policy : Bool) (b : SlotId) (s : State), Ready s h 3 → h.key.slot? = some b →
    1 ≤ ship.toNat → s.opState ≠ .setup →
    (s.slotState b = .free → ¬(s.slotState b.other ≠ .free ∧ (s.store.slot b.other).ship = some ship.toNat) →
      exec (.openSailing h ship (some policy)) s = answered 0x10 h (s.taken.setStore (s.store.putSlot b
        ⟨.opened, some ship.toNat, policy, (s.store.slot b).counts⟩)) (Answer.done .empty)) ∧
    (s.slotState b = .free → s.slotState b.other ≠ .free → (s.store.slot b.other).ship = some ship.toNat →
      exec (.openSailing h ship (some policy)) s = answered 0x10 h s.taken (Answer.refuse .exists_)) ∧
    (s.slotState b = .opened → (s.store.slot b).ship = some ship.toNat →
      exec (.openSailing h ship (some policy)) s = answered 0x10 h (s.taken.setStore (s.store.putSlot b
        { s.store.slot b with boardFirst := policy })) (Answer.done .empty)) ∧
    (s.slotState b = .opened → (s.store.slot b).ship ≠ some ship.toNat →
      exec (.openSailing h ship (some policy)) s = answered 0x10 h s.taken (Answer.refuse .exists_))

/-- CLOSE SAILING makes the tests of R8 in their order, the first that fails refusing it: WRONG_STATE outside RUN, NOT_FOUND for
another ship code than the slot's, BUSY while a walk runs, OPEN_BAGS with bags in the hall, astray, missing or to be offloaded, IN_USE
with a route of the slot LOADING or with carts queued, and IN_USE with a cart at a door of its berth. Otherwise the slot becomes
CLOSING, its close walk starts, and the answer is ACCEPTED (R8). -/
def Sys2Proof.Claim.CloseSailingStarts : Prop :=
  ∀ (h : Head) (ship : BitVec 16) (b : SlotId) (s : State), Ready s h 2 → h.key.slot? = some b → 1 ≤ ship.toNat →
    s.opState ≠ .setup → s.slotState b = .opened →
    let c := (s.store.slot b).counts
    let refused := fun a => exec (.closeSailing h ship) s = answered 0x11 h s.taken (Answer.refuse a)
    let quiet := fun r : Route => r.state = .unset ∨ r.state = .idle ∧ r.queue = []
    (s.opState ≠ .run → refused .wrongState) ∧
    (s.opState = .run →
      ((s.store.slot b).ship ≠ some ship.toNat → refused .notFound) ∧
      ((s.store.slot b).ship = some ship.toNat →
        (s.sweep.walk ≠ none → refused .busy) ∧
        (s.sweep.walk = none →
          ((c.hall ≠ 0 ∨ c.stray ≠ 0 ∨ c.missing ≠ 0 ∨ c.offload ≠ 0) → refused .openBags) ∧
          (c.hall = 0 → c.stray = 0 → c.missing = 0 → c.offload = 0 →
            (∀ i r, i < 12 → s.route? ⟨b, i⟩ = some r → ¬quiet r → refused .inUse) ∧
            ((∀ i r, i < 12 → s.route? ⟨b, i⟩ = some r → quiet r) →
              (∀ e ∈ s.doors, e.2.berth = b → e.2.cart ≠ none → refused .inUse) ∧
              ((∀ e ∈ s.doors, e.2.berth = b → e.2.cart = none) →
                exec (.closeSailing h ship) s = answered 0x11 h ((s.taken.setStore (s.store.putSlot b
                  { s.store.slot b with state := .closing })).setSweep { s.sweep with walk := some ⟨.close b, 0⟩ })
                  ⟨.accepted, .empty⟩))))))

/-- SAILING GET answers the slot's record as it stands and changes nothing (R6). -/
def Sys2Proof.Claim.SailingGetReads : Prop :=
  ∀ (h : Head) (b : SlotId) (s : State), Ready s h 0 → h.key.slot? = some b → s.opState ≠ .setup →
    s.slotState b ≠ .closing →
    exec (.sailingGet h) s = answered 0x12 h s.taken (Answer.done (.sailing (s.store.slot b)))

/-- ROUTE SET binds a route to a door of its berth, and an UNSET route becomes IDLE; a door that is not configured, or is of the other
berth, is refused BAD_FIELD, and then a route that is LOADING or has a cart at a door IN_USE (R7; the empty queue an UNSET route then
has is the model's reading, log 13). -/
def Sys2Proof.Claim.RouteSetBinds : Prop :=
  ∀ (h : Head) (door : Byte) (all : Bool) (b : SlotId) (s : State), Ready s h 2 → SlotOpen s h b →
    h.key.route < 12 → door.toNat < 6 →
    ((∀ x, s.door? door.toNat = some x → x.berth ≠ b) →
      exec (.routeSet h door (some all)) s = answered 0x13 h s.taken (Answer.refuse .badField)) ∧
    ∀ x, s.door? door.toNat = some x → x.berth = b →
    ((s.routeState ⟨b, h.key.route⟩ = .loading ∨ s.routeCart ⟨b, h.key.route⟩ ≠ none) →
      exec (.routeSet h door (some all)) s = answered 0x13 h s.taken (Answer.refuse .inUse)) ∧
    (s.routeState ⟨b, h.key.route⟩ ≠ .loading → s.routeCart ⟨b, h.key.route⟩ = none →
      exec (.routeSet h door (some all)) s = answered 0x13 h (s.taken.setRoutes
        (s.routes.modify (RouteKey.subject ⟨b, h.key.route⟩) (fun r =>
          if r.state = .unset then ⟨some door.toNat, r.chutes, [], .idle, false, all, 0⟩
          else { r with door := some door.toNat, notifyAll := all }))) (Answer.done .empty))

/-- The requests on sailings. -/
def Obligations.SailingsOpenAndClose : Prop :=
  Claim.OpenSailingOpens ∧ Claim.CloseSailingStarts ∧ Claim.RouteSetBinds

/-- CABIN PUT of a key with no cabin creates it with the guests given, all EXPECTED, while a record of the pool is free (R10,
R14). -/
def Sys2Proof.Claim.CabinPutCreates : Prop :=
  ∀ (h : Head) (route allowance : Byte) (guests : List (Byte × BitVec 32)) (b : SlotId) (s : State),
    Ready s h (3 + 5 * guests.length) → SlotOpen s h b → h.key.cabin ≠ 0 → route.toNat < 12 → 1 ≤ allowance.toNat →
    allowance.toNat ≤ 15 → guestsOk guests = true → s.store.cabin? ⟨b, h.key.cabin⟩ = none →
    (cabinRecords ≤ s.store.cabins.length →
      exec (.cabinPut h route allowance guests) s = answered 0x18 h s.taken (Answer.refuse .full)) ∧
    (s.store.cabins.length < cabinRecords →
      ∃ t c, exec (.cabinPut h route allowance guests) s =
          answered 0x18 h t (Answer.done (.cabin (c.view ⟨b, h.key.cabin⟩))) ∧
        Changes [.store, .freeCount, .discarded, .spiOut] s t ∧ t.store = { s.store with cabins := t.store.cabins } ∧
        t.store.cabin? ⟨b, h.key.cabin⟩ = some c ∧
        (∀ n, n ≠ CabinKey.code ⟨b, h.key.cabin⟩ → t.store.cabins.get? n = s.store.cabins.get? n) ∧
        c.route = route.toNat ∧ c.allowance = allowance.toNat ∧
        (∀ g, g ∈ c.guests ↔ ∃ e ∈ guests, g = ⟨e.1.toNat, e.2, .expected⟩) ∧ c.forward = none ∧
        c.forwardedIn = 0 ∧ c.liveBags = 0 ∧ c.aboard = 0 ∧ c.pull = .noPull ∧ c.pullStart = none)

/-- CABIN PUT of a key with a cabin replaces it in place, refused ALLOWANCE below its live-bag count; a guest that matches by slot
and number keeps its state; a cabin that starts or ceases to stand void takes its pull state (R12, R14, R143, R145, R167). -/
def Sys2Proof.Claim.CabinPutReplaces : Prop :=
  ∀ (h : Head) (route allowance : Byte) (guests : List (Byte × BitVec 32)) (b : SlotId) (c : Cabin) (s : State),
    Ready s h (3 + 5 * guests.length) → SlotOpen s h b → h.key.cabin ≠ 0 → route.toNat < 12 → 1 ≤ allowance.toNat →
    allowance.toNat ≤ 15 → guestsOk guests = true → s.store.cabin? ⟨b, h.key.cabin⟩ = some c →
    (allowance.toNat < c.liveBags →
      exec (.cabinPut h route allowance guests) s = answered 0x18 h s.taken (Answer.refuse .allowance)) ∧
    (c.liveBags ≤ allowance.toNat →
      ∃ t x, exec (.cabinPut h route allowance guests) s =
          answered 0x18 h t (Answer.done (.cabin (x.view ⟨b, h.key.cabin⟩))) ∧
        Changes [.store, .sweep, .discarded, .spiOut] s t ∧ t.store = { s.store with cabins := t.store.cabins } ∧
        t.sweep = { s.sweep with mode := t.sweep.mode } ∧ ModeLaw t ∧
        t.store.cabin? ⟨b, h.key.cabin⟩ = some x ∧
        (∀ n, n ≠ CabinKey.code ⟨b, h.key.cabin⟩ → t.store.cabins.get? n = s.store.cabins.get? n) ∧
        x.route = route.toNat ∧ x.allowance = allowance.toNat ∧
        (∀ g, g ∈ x.guests ↔ ∃ e ∈ guests, g = ⟨e.1.toNat, e.2,
          ((c.guests.find? (fun o => o.slot == e.1.toNat && o.number == e.2)).map (·.state)).getD .expected⟩) ∧
        x.forward = c.forward ∧ x.forwardedIn = c.forwardedIn ∧ x.liveBags = c.liveBags ∧ x.aboard = c.aboard ∧
        x.place = c.place ∧
        (c.standsVoid = x.standsVoid → x.pull = c.pull ∧ x.pullStart = c.pullStart) ∧
        (c.standsVoid = false → x.standsVoid = true → x.pull = .pulling ∧ x.pullStart = some s.sweep.pos) ∧
        (c.standsVoid = true → x.standsVoid = false → x.pull = .noPull ∧ x.pullStart = none))

/-- CABIN GET answers the cabin as it stands, or NOT_FOUND, and changes nothing (R15). -/
def Sys2Proof.Claim.CabinGetReads : Prop :=
  ∀ (h : Head) (b : SlotId) (s : State), Ready s h 0 → SlotOpen s h b → h.key.cabin ≠ 0 →
    (∀ c, s.store.cabin? ⟨b, h.key.cabin⟩ = some c →
      exec (.cabinGet h) s = answered 0x19 h s.taken (Answer.done (.cabin (c.view ⟨b, h.key.cabin⟩)))) ∧
    (s.store.cabin? ⟨b, h.key.cabin⟩ = none →
      exec (.cabinGet h) s = answered 0x19 h s.taken (Answer.refuse .notFound))

/-- CABIN DROP retires a cabin with no bags and no forwarding, and is refused OPEN_BAGS otherwise; the mode of the walker follows
the cabins left, and no notice is raised (R16, R167). -/
def Sys2Proof.Claim.CabinDropRetires : Prop :=
  ∀ (h : Head) (b : SlotId) (c : Cabin) (s : State), Ready s h 0 → SlotOpen s h b → h.key.cabin ≠ 0 →
    s.store.cabin? ⟨b, h.key.cabin⟩ = some c →
    ((c.liveBags ≠ 0 ∨ c.forward ≠ none ∨ c.forwardedIn ≠ 0) →
      exec (.cabinDrop h) s = answered 0x1A h s.taken (Answer.refuse .openBags)) ∧
    (c.liveBags = 0 → c.forward = none → c.forwardedIn = 0 →
      ∃ t, exec (.cabinDrop h) s = answered 0x1A h t (Answer.done .empty) ∧
        Changes [.store, .sweep, .discarded, .spiOut] s t ∧ t.store = { s.store with cabins := t.store.cabins } ∧
        t.sweep = { s.sweep with mode := t.sweep.mode } ∧ ModeLaw t ∧ t.store.cabin? ⟨b, h.key.cabin⟩ = none ∧
        (∀ n, n ≠ CabinKey.code ⟨b, h.key.cabin⟩ → t.store.cabins.get? n = s.store.cabins.get? n))

/-- A cabin comes and goes. -/
def Obligations.CabinsCreatedAndDropped : Prop :=
  Claim.CabinPutCreates ∧ Claim.CabinDropRetires

/-- CABIN FORWARD to a target that stands for it: the source's target and the forwarded-in counts of the new and the old target
change, and a source that ceases to stand void has no pull, the walker's mode following (R12, R18, R145, R167). -/
def Sys2Proof.Claim.CabinForwardSets : Prop :=
  ∀ (h : Head) (target : BitVec 16) (b : SlotId) (c x : Cabin) (s : State), Ready s h 2 → SlotOpen s h b →
    h.key.cabin ≠ 0 → target.toNat ≠ 0 → s.store.cabin? ⟨b, h.key.cabin⟩ = some c →
    s.store.cabin? ⟨b, target.toNat⟩ = some x → target.toNat ≠ h.key.cabin → x.forward = none → c.forwardedIn = 0 →
    x.status ≠ .void → c.forward ≠ some target.toNat →
    ∃ t y, exec (.cabinForward h target) s = answered 0x1B h t (Answer.done .empty) ∧
      Changes [.store, .sweep, .discarded, .spiOut] s t ∧ t.store = { s.store with cabins := t.store.cabins } ∧
      t.store.cabin? ⟨b, h.key.cabin⟩ = some y ∧ y.forward = some target.toNat ∧ y.guests = c.guests ∧
      t.sweep = { s.sweep with mode := t.sweep.mode } ∧ ModeLaw t ∧
      y.pull = (if c.standsVoid = true then .noPull else c.pull) ∧
      y.pullStart = (if c.standsVoid = true then none else c.pullStart) ∧
      y = { c with forward := y.forward, pull := y.pull, pullStart := y.pullStart } ∧
      t.store.cabin? ⟨b, target.toNat⟩ = some { x with forwardedIn := x.forwardedIn + 1 } ∧
      (∀ n z, c.forward = some n → n ≠ h.key.cabin → s.store.cabin? ⟨b, n⟩ = some z →
        t.store.cabin? ⟨b, n⟩ = some { z with forwardedIn := z.forwardedIn - 1 }) ∧
      (∀ m, m ≠ CabinKey.code ⟨b, h.key.cabin⟩ → m ≠ CabinKey.code ⟨b, target.toNat⟩ →
        (∀ n, c.forward = some n → m ≠ CabinKey.code ⟨b, n⟩) → t.store.cabins.get? m = s.store.cabins.get? m)

/-- CABIN FORWARD with no target removes the target: the old target's forwarded-in count falls, a source that starts to stand void
is PULLING from the walker's position, the walker's mode following, and no other cabin changes (R12, R18, R143, R167). -/
def Sys2Proof.Claim.CabinForwardRemoves : Prop :=
  ∀ (h : Head) (target : BitVec 16) (b : SlotId) (c : Cabin) (n : Nat) (s : State), Ready s h 2 → SlotOpen s h b →
    h.key.cabin ≠ 0 → target.toNat = 0 → s.store.cabin? ⟨b, h.key.cabin⟩ = some c → c.forward = some n →
    n ≠ h.key.cabin →
    ∃ t y, exec (.cabinForward h target) s = answered 0x1B h t (Answer.done .empty) ∧
      Changes [.store, .sweep, .discarded, .spiOut] s t ∧ t.store = { s.store with cabins := t.store.cabins } ∧
      t.sweep = { s.sweep with mode := t.sweep.mode } ∧ ModeLaw t ∧ t.store.cabin? ⟨b, h.key.cabin⟩ = some y ∧
      y.forward = none ∧ y.guests = c.guests ∧ y = { c with forward := y.forward, pull := y.pull, pullStart := y.pullStart } ∧
      (c.status = .void → y.pull = .pulling ∧ y.pullStart = some s.sweep.pos) ∧
      (c.status ≠ .void → y.pull = c.pull ∧ y.pullStart = c.pullStart) ∧
      (∀ z, s.store.cabin? ⟨b, n⟩ = some z →
        t.store.cabin? ⟨b, n⟩ = some { z with forwardedIn := z.forwardedIn - 1 }) ∧
      (∀ m, m ≠ CabinKey.code ⟨b, h.key.cabin⟩ → m ≠ CabinKey.code ⟨b, n⟩ →
        t.store.cabins.get? m = s.store.cabins.get? m)

/-- CABIN FORWARD makes the six tests of R18 in their order, the first that fails refusing it; a forward that is already made, and a
removal from a source without a target, are answered DONE with no change (R18; that a source that is not there is refused NOT_FOUND
also where no target is named is the model's choice, log 46). -/
def Sys2Proof.Claim.CabinForwardRefused : Prop :=
  ∀ (h : Head) (target : BitVec 16) (b : SlotId) (s : State), Ready s h 2 → SlotOpen s h b → h.key.cabin ≠ 0 →
    let answers := fun a : Answer => exec (.cabinForward h target) s = answered 0x1B h s.taken a
    (s.store.cabin? ⟨b, h.key.cabin⟩ = none → answers (Answer.refuse .notFound)) ∧
    (∀ c, s.store.cabin? ⟨b, h.key.cabin⟩ = some c →
      (target.toNat = 0 → c.forward = none → answers (Answer.done .empty)) ∧
      (target.toNat ≠ 0 → s.store.cabin? ⟨b, target.toNat⟩ = none → answers (Answer.refuse .notFound)) ∧
      (∀ x, target.toNat ≠ 0 → s.store.cabin? ⟨b, target.toNat⟩ = some x →
        (target.toNat = h.key.cabin → answers (Answer.refuse .chain)) ∧
        (target.toNat ≠ h.key.cabin →
          (x.forward ≠ none → answers (Answer.refuse .chain)) ∧
          (x.forward = none → c.forwardedIn ≠ 0 → answers (Answer.refuse .chain)) ∧
          (x.forward = none → c.forwardedIn = 0 → x.status = .void → answers (Answer.refuse .voidTarget)) ∧
          (x.forward = none → c.forwardedIn = 0 → x.status ≠ .void → c.forward = some target.toNat →
            answers (Answer.done .empty)))))

/-- A forward is made, removed and refused. -/
def Obligations.CabinsForward : Prop :=
  Claim.CabinForwardSets ∧ Claim.CabinForwardRemoves ∧ Claim.CabinForwardRefused

/-- GUEST STATUS sets the guest's state; a cabin that starts to stand void is PULLING from the walker's position, and one that
ceases to has no pull (R12, R19, R143, R145, R167). -/
def Sys2Proof.Claim.GuestStatusSets : Prop :=
  ∀ (h : Head) (guest : Byte) (v : GuestState) (b : SlotId) (c : Cabin) (s : State), Ready s h 2 → SlotOpen s h b →
    h.key.cabin ≠ 0 → 1 ≤ guest.toNat → guest.toNat ≤ 4 → s.store.cabin? ⟨b, h.key.cabin⟩ = some c →
    ((∀ g ∈ c.guests, g.slot ≠ guest.toNat) →
      exec (.guestStatus h guest (some v)) s = answered 0x1C h s.taken (Answer.refuse .notFound)) ∧
    ((∃ g ∈ c.guests, g.slot = guest.toNat) →
      ∃ t x, exec (.guestStatus h guest (some v)) s = answered 0x1C h t (Answer.done .empty) ∧
        Changes [.store, .sweep, .discarded, .spiOut] s t ∧ t.store = { s.store with cabins := t.store.cabins } ∧
        t.sweep = { s.sweep with mode := t.sweep.mode } ∧ ModeLaw t ∧
        t.store.cabin? ⟨b, h.key.cabin⟩ = some x ∧
        (∀ n, n ≠ CabinKey.code ⟨b, h.key.cabin⟩ → t.store.cabins.get? n = s.store.cabins.get? n) ∧
        x.guests = c.guests.map (fun g => if g.slot = guest.toNat then { g with state := v } else g) ∧
        x.route = c.route ∧ x.allowance = c.allowance ∧ x.forward = c.forward ∧ x.forwardedIn = c.forwardedIn ∧
        x.liveBags = c.liveBags ∧ x.aboard = c.aboard ∧
        (c.standsVoid = x.standsVoid → x.pull = c.pull ∧ x.pullStart = c.pullStart) ∧
        (c.standsVoid = false → x.standsVoid = true → x.pull = .pulling ∧ x.pullStart = some s.sweep.pos) ∧
        (c.standsVoid = true → x.standsVoid = false → x.pull = .noPull ∧ x.pullStart = none))

/-- A cabin changes in place. -/
def Obligations.CabinsChange : Prop :=
  Claim.CabinPutReplaces ∧ Claim.GuestStatusSets

/-! ## Bags -/

/-- BAG REGISTER makes the tests of R36 in their order, the first that fails refusing it: BAD_FIELD for a tag that is 0 or above
999,999,999, NOT_FOUND for a cabin that is not there, EXISTS for a tag in the map, ALLOWANCE for a cabin without room, FULL with no
record free. Otherwise it creates a REGISTERED bag at the lowest free index, with its tag in the map and its counters raised; under a
VOID governing cabin it has PULL of origin CABIN. With 64 records free before it, subject 0 joins CAPACITY and every point takes TABLE
(R2, R13, R20, R21, R31, R32, R36, R78). -/
def Obligations.BagRegisterCreates : Prop :=
  ∀ (h : Head) (tag : BitVec 32) (b : SlotId) (s : State), Ready s h 4 → SlotOpen s h b → h.key.cabin ≠ 0 →
    let refused := fun a => exec (.bagRegister h tag) s = answered 0x20 h s.taken (Answer.refuse a)
    ((tag.toNat = 0 ∨ 999999999 < tag.toNat) → refused .badField) ∧
    (1 ≤ tag.toNat → tag.toNat ≤ 999999999 →
      (s.store.cabin? ⟨b, h.key.cabin⟩ = none → refused .notFound) ∧
      ∀ c, s.store.cabin? ⟨b, h.key.cabin⟩ = some c →
        (s.store.tagMap.get? tag.toNat ≠ none → refused .exists_) ∧
        (s.store.tagMap.get? tag.toNat = none →
          (c.allowance ≤ c.liveBags → refused .allowance) ∧
          (c.liveBags < c.allowance →
            (bagRecords ≤ s.store.bags.length → refused .full) ∧
            (s.store.bags.length < bagRecords → BagTableLaw s →
    ∃ t i, exec (.bagRegister h tag) s = answered 0x20 h t (Answer.done (.handle ⟨i, s.store.gen i⟩)) ∧
      Changes [.store, .link, .loop, .notices, .discarded, .spiOut] s t ∧ i < bagRecords ∧
      s.store.bags.get? i = none ∧ (∀ j, j < i → s.store.bags.has j = true) ∧
      t.bag? ⟨i, s.store.gen i⟩ = some ⟨some tag.toNat, some ⟨b, h.key.cabin⟩, .registered, none, 0,
        if (s.store.governing (registeredBag tag.toNat ⟨b, h.key.cabin⟩)).any (fun g => g.status == .void)
          then some .cabin else none, false, false, false, false, none, none⟩ ∧
      (∀ j, j ≠ i → t.store.bags.get? j = s.store.bags.get? j) ∧
      t.store.tagMap.get? tag.toNat = some ⟨i, s.store.gen i⟩ ∧
      (t.store.slot b).counts = { (s.store.slot b).counts with
        registered := (s.store.slot b).counts.registered + 1 } ∧
      t.store.cabin? ⟨b, h.key.cabin⟩ = some { c with liveBags := c.liveBags + 1 } ∧
      t.loop = { s.loop with points := t.loop.points } ∧ HoldsFollow s t False ∧
      (16384 - s.store.bags.length = 64 → ∀ i p, t.loop.points.get? i = some p → p.causes.table = true) ∧
      (16384 - s.store.bags.length ≠ 64 → t.loop = s.loop ∧ t.link = s.link ∧ t.notices = s.notices)))))

/-- BAG GET by handle and by tag answers the bag as it stands, and changes nothing; a tag of a CLOSING slot's bag is refused
SAILING_BUSY, and a tag that no live bag carries NOT_FOUND; a handle key's last byte is unused (R33, R35, R37, R182). -/
def Sys2Proof.Claim.BagGetReads : Prop :=
  ∀ (h : Head) (b : Bag) (s : State), Ready s h 1 →
    (Nameable s h.key.handle b →
      exec (.bagGet h (some .handle)) s =
        answered 0x21 (h.forBagGet (some .handle)) s.taken (Answer.done (.bag (s.bagView h.key.handle b)))) ∧
    (1 ≤ h.key.tag → h.key.tag ≤ 999999999 → s.opState ≠ .setup →
      (∀ g, s.store.tagMap.get? h.key.tag = some g → s.bag? g = some b →
        (∀ k, b.home = some k → s.slotState k.slot ≠ .closing) →
        exec (.bagGet h (some .tag)) s = answered 0x21 h s.taken (Answer.done (.bag (s.bagView g b)))) ∧
      (∀ g k, s.store.tagMap.get? h.key.tag = some g → s.bag? g = some b → b.home = some k →
        s.slotState k.slot = .closing →
        exec (.bagGet h (some .tag)) s = answered 0x21 h s.taken (Answer.refuse .sailingBusy)) ∧
      (s.store.tagMap.get? h.key.tag = none →
        exec (.bagGet h (some .tag)) s = answered 0x21 h s.taken (Answer.refuse .notFound)))

/-- BAG REASSIGN is refused WRONG_STATE for a bag in another state than REGISTERED, ON_LOOP, STRAY and MISSING, NOT_FOUND for a
cabin that is not there and ALLOWANCE for one without room; to the bag's present cabin it changes nothing. Otherwise it gives the
bag the cabin, with the cabins' counts, the counter of its state in the old slot and in the new where the slot changes, and its
PULL flag follows the new governing cabin (R2, R13, R26, R38, R146, R147; for an ON_LOOP bag the flag is the model's reading, log
15). -/
def Obligations.BagReassignMoves : Prop :=
  ∀ (h : Head) (slot : Byte) (cabin : BitVec 16) (k : CabinKey) (b : Bag) (s : State), Ready s h 3 →
    Nameable s h.key.handle b → reassignTarget slot cabin = some k → s.slotState k.slot = .opened →
    let movable : Prop := b.state = .registered ∨ b.state = .onLoop ∨ b.state = .stray ∨ b.state = .missing
    let answers := fun a : Answer => exec (.bagReassign h slot cabin) s = answered 0x22 h s.taken a
    (¬movable → answers (Answer.refuse .wrongState)) ∧
    (movable → s.store.cabin? k = none → answers (Answer.refuse .notFound)) ∧
    (movable → s.store.cabin? k ≠ none → b.home = some k →
      answers (Answer.done (.bag (s.bagView h.key.handle b)))) ∧
    (∀ c, movable → s.store.cabin? k = some c → b.home ≠ some k → c.allowance ≤ c.liveBags →
      answers (Answer.refuse .allowance)) ∧
    (∀ c g, movable → s.store.cabin? k = some c → b.home ≠ some k → (∀ o, b.home = some o → o.number < 65536) →
      s.store.governing { b with home := some k } = some g → c.liveBags < c.allowance →
      let x : Bag := { b with
        home := some k
        pull := if g.status = .void then some (b.pull.getD .cabin) else if b.pull = some .cabin then none else b.pull
        reason := if g.status = .void ∧ b.state = .stray then some .pulled else b.reason }
      ∃ t, exec (.bagReassign h slot cabin) s = answered 0x22 h t (Answer.done (.bag (t.bagView h.key.handle x))) ∧
        Changes [.store, .discarded, .spiOut] s t ∧ t.bag? h.key.handle = some x ∧
        (∀ i, i ≠ h.key.handle.index → t.store.bags.get? i = s.store.bags.get? i) ∧
        t.store.tagMap = s.store.tagMap ∧
        t.store.cabin? k = some { c with liveBags := c.liveBags + 1 } ∧
        (∀ o d, b.home = some o → s.store.cabin? o = some d →
          t.store.cabin? o = some { d with liveBags := d.liveBags - 1 }) ∧
        (∀ m, m ≠ k.code → (∀ o, b.home = some o → m ≠ o.code) →
          t.store.cabins.get? m = s.store.cabins.get? m) ∧
        ((b.home = none ∨ ∃ o, b.home = some o ∧ o.slot ≠ k.slot) →
          (t.store.slot k.slot).counts = (s.store.slot k.slot).counts.inc b.state) ∧
        (∀ o, b.home = some o → o.slot ≠ k.slot →
          (t.store.slot o.slot).counts = (s.store.slot o.slot).counts.dec b.state) ∧
        (∀ o, b.home = some o → o.slot = k.slot → ∀ e, (t.store.slot e).counts = (s.store.slot e).counts))

/-- BAG HOLD sets the HOLD flag of a REGISTERED, ON_LOOP, STRAY or MISSING bag and nothing else, and is refused WRONG_STATE in the
other states (R39). -/
def Sys2Proof.Claim.BagHoldSets : Prop :=
  ∀ (h : Head) (b : Bag) (s : State), Ready s h 0 → Nameable s h.key.handle b →
    ((b.state = .registered ∨ b.state = .onLoop ∨ b.state = .stray ∨ b.state = .missing) →
      exec (.bagHold h) s = answered 0x23 h (s.taken.setStore { s.store with
        bags := s.store.bags.put h.key.handle.index { b with hold := true } })
        (Answer.done (.bag (s.bagView h.key.handle { b with hold := true })))) ∧
    (¬(b.state = .registered ∨ b.state = .onLoop ∨ b.state = .stray ∨ b.state = .missing) →
      exec (.bagHold h) s = answered 0x23 h s.taken (Answer.refuse .wrongState))

/-- BAG RELEASE clears HOLD and a PULL of origin REQUEST, which under a VOID governing cabin becomes origin CABIN instead; in every
bag state (R40). -/
def Sys2Proof.Claim.BagReleaseClears : Prop :=
  ∀ (h : Head) (b : Bag) (s : State), Ready s h 0 → Nameable s h.key.handle b →
    let x : Bag := { b with
      hold := false
      pull := if b.pull = some .request then
          (if (s.store.governing b).any (fun g => g.status == .void) then some .cabin else none)
        else b.pull }
    exec (.bagRelease h) s = answered 0x24 h (s.taken.setStore { s.store with
      bags := s.store.bags.put h.key.handle.index x }) (Answer.done (.bag (s.bagView h.key.handle x)))

/-- BAG HOLD and BAG RELEASE. -/
def Obligations.HoldAndRelease : Prop :=
  Claim.BagHoldSets ∧ Claim.BagReleaseClears

/-- BAG PULL sets PULL of origin REQUEST; a bag that has it is answered with no change; an ABOARD bag also becomes OFFLOAD, with
its counters, its cart's entry and the notice (R2, R13, R149, R150). -/
def Obligations.BagPullSets : Prop :=
  ∀ (h : Head) (b : Bag) (s : State), Ready s h 0 → Nameable s h.key.handle b →
    (b.pull = some .request →
      exec (.bagPull h) s = answered 0x25 h s.taken (Answer.done (.bag (s.bagView h.key.handle b)))) ∧
    (b.pull ≠ some .request → b.state ≠ .aboard →
      exec (.bagPull h) s = answered 0x25 h (s.taken.setStore { s.store with
        bags := s.store.bags.put h.key.handle.index { b with pull := some .request } })
        (Answer.done (.bag (s.bagView h.key.handle { b with pull := some .request })))) ∧
    (b.pull ≠ some .request → b.state = .aboard →
      let x : Bag := { b with pull := some .request, state := .offload, location := none, entered := none }
      ∃ t, exec (.bagPull h) s = answered 0x25 h t (Answer.done (.bag (t.bagView h.key.handle x))) ∧
        Changes [.store, .carts, .routes, .doors, .link, .notices, .discarded, .spiOut] s t ∧
        t.bag? h.key.handle = some x ∧
        (∀ k, b.home = some k → (t.store.slot k.slot).counts = { (s.store.slot k.slot).counts with
          aboard := (s.store.slot k.slot).counts.aboard - 1
          offload := (s.store.slot k.slot).counts.offload + 1 }) ∧
        (∀ k c, b.home = some k → s.store.cabin? k = some c →
          t.store.cabin? k = some { c with aboard := c.aboard - 1 }) ∧
        (∀ n c, b.location = some (.cart n) → t.cart? n = some c → ∀ e ∈ c.entries, e.bag ≠ h.key.handle) ∧
        (∀ k, s.notices.sources.length = 15 → b.home = some k → k.slot.toNat ∈ t.subjects .offload))

/-- BAG RETIRE (in REGISTERED, MISSING, STRAY and OFFLOAD), OFFLOAD CONFIRM with RETIRE (in OFFLOAD) and STRAY RESOLVE with RETURN
(in STRAY) retire the bag and answer its handle; in another state each is refused WRONG_STATE. With 63 records free before it,
every point loses TABLE; a position freed is tested for the pen hold (R20, R30, R31, R41, R78, R151, R156, R157, R164). -/
def Obligations.BagsRetire : Prop :=
  ∀ (h : Head) (position : Byte) (b : Bag) (s : State), Nameable s h.key.handle b →
    (Ready s h 0 →
      ((b.state = .registered ∨ b.state = .missing ∨ b.state = .stray ∨ b.state = .offload) →
        ∃ t, exec (.bagRetire h) s = answered 0x26 h t (Answer.done (.handle h.key.handle)) ∧
          Changes [.store, .pen, .link, .loop, .notices, .discarded, .spiOut] s t ∧ Retired s t h.key.handle b ∧
          t.loop = { s.loop with points := t.loop.points } ∧ (BagTableLaw s → HoldsFollow s t (InPen b))) ∧
      (¬(b.state = .registered ∨ b.state = .missing ∨ b.state = .stray ∨ b.state = .offload) →
        exec (.bagRetire h) s = answered 0x26 h s.taken (Answer.refuse .wrongState))) ∧
    (Ready s h 2 →
      (b.state = .offload →
        ∃ t, exec (.offloadConfirmRetire h true position) s = answered 0x27 h t (Answer.done (.handle h.key.handle)) ∧
          Changes [.store, .link, .loop, .discarded, .spiOut] s t ∧ Retired s t h.key.handle b ∧
          t.loop = { s.loop with points := t.loop.points } ∧ (BagTableLaw s → HoldsFollow s t False)) ∧
      (b.state ≠ .offload →
        exec (.offloadConfirmRetire h true position) s = answered 0x27 h s.taken (Answer.refuse .wrongState))) ∧
    (Ready s h 1 →
      (b.state = .stray →
        ∃ t, exec (.strayResolveReturn h) s = answered 0x4A h t (Answer.done (.handle h.key.handle)) ∧
          Changes [.store, .pen, .link, .loop, .notices, .discarded, .spiOut] s t ∧ Retired s t h.key.handle b ∧
          t.loop = { s.loop with points := t.loop.points } ∧ (BagTableLaw s → HoldsFollow s t (InPen b))) ∧
      (b.state ≠ .stray →
        exec (.strayResolveReturn h) s = answered 0x4A h s.taken (Answer.refuse .wrongState)))

/-- OFFLOAD CONFIRM with PEN and BAG UNLOAD take an OFFLOAD or an IN_CART bag into a free pen position with reason PULLED, at the
tail of the stray list, its slot's counters with it, which tests the pen hold: where it is declared every point takes PEN and
subject 1 joins CAPACITY, and where it is released the points lose PEN. The cart that BAG UNLOAD takes the entry from goes on
without it: at its chute; QUEUED while it holds anything, and retired with CART_DONE where it is left empty; at the door until the
entries left are all marked with nothing unidentified, and then it completes (R2, R78, R127, R139, R140, R151, R155, R157). -/
def Obligations.BagsEnterPen : Prop :=
  ∀ (h : Head) (position : Byte) (b : Bag) (s : State), Nameable s h.key.handle b → position.toNat < s.pen.size →
    s.pen.positions.has position.toNat = false → 1 ≤ s.penRoom →
    (Ready s h 2 → b.state = .offload →
      ∃ t, exec (.offloadConfirmPen h position) s = answered 0x27 h t (t.bagAnswer h.key.handle) ∧
        Changes [.store, .pen, .link, .loop, .notices, .discarded, .spiOut] s t ∧
        t.bag? h.key.handle = some { b with
          state := .stray, location := some (.pen position.toNat), reason := some .pulled, aged := false,
          reinduct := false, entered := some s.hallSecond } ∧
        (∀ i, i ≠ h.key.handle.index → t.store.bags.get? i = s.store.bags.get? i) ∧
        t.pen.positions.get? position.toNat = some h.key.handle ∧ t.pen.strays = s.pen.strays ++ [h.key.handle] ∧
        Counted s t b (fun c => { c with offload := c.offload - 1, stray := c.stray + 1 }) ∧
        t.loop = { s.loop with points := t.loop.points } ∧ (BagTableLaw s → HoldsFollow s t True)) ∧
    (∀ n, Ready s h 1 → b.state = .inCart → b.location = some (.cart n) →
      ∃ t x, exec (.bagUnload h position) s = answered 0x28 h t (t.bagAnswer h.key.handle) ∧
        Changes [.store, .carts, .routes, .doors, .pen, .link, .loop, .notices, .discarded, .spiOut] s t ∧
        t.bag? h.key.handle = some x ∧ x = { b with
          state := .stray, location := x.location, reason := some .pulled, aged := false, reinduct := false,
          entered := some s.hallSecond } ∧
        t.pen.positions.get? position.toNat = some h.key.handle ∧ t.pen.strays = s.pen.strays ++ [h.key.handle] ∧
        ((∀ m c, s.cart? m = some c → m ≠ n → ∀ e ∈ c.entries, e.bag ≠ h.key.handle) →
          x.location = some (.pen position.toNat)) ∧
        (∀ c, t.cart? n = some c → ∀ e ∈ c.entries, e.bag ≠ h.key.handle) ∧
        Counted s t b (fun c => { c with hall := c.hall - 1, stray := c.stray + 1 }) ∧
        (∀ i o, i ≠ h.key.handle.index → s.store.bags.get? i = some o →
          ∃ l, t.store.bags.get? i = some { o with location := l } ∧ (l = o.location ∨ l = none)) ∧
        (∀ c, s.cart? n = some c →
          let left := c.entries.filter (fun e => e.bag != h.key.handle)
          let others := ∀ i, i ≠ h.key.handle.index → t.store.bags.get? i = s.store.bags.get? i
          let told := ∀ k r, s.notices.sources.length = 15 → c.route = some k → s.route? k = some r →
            (c.notify = true ∨ r.notifyAll = true) → k.subject ∈ t.subjects .cartDone
          ((c.state ≠ .queued ∨ left ≠ [] ∨ c.unidentified ≠ 0) → c.state ≠ .atDoor →
            t.cart? n = some { c with entries := left } ∧ t.routes = s.routes ∧ t.doors = s.doors ∧ others) ∧
          (c.state = .queued → left = [] → c.unidentified = 0 → t.cart? n = none ∧ t.doors = s.doors ∧ others ∧ told ∧
            ∀ k r, c.route = some k → t.route? k = some r → n ∉ r.queue) ∧
          (c.state = .atDoor → ((∃ e ∈ left, e.aboard = false) ∨ c.unidentified ≠ 0) →
            (∀ d, s.doorOfCart n = some d → ∃ y, s.door? d = some y ∧ y.cart = some n) →
            t.cart? n = some { c with entries := left } ∧ t.routes = s.routes ∧ others) ∧
          (∀ d y, c.state = .atDoor → s.doorOfCart n = some d → s.door? d = some y → y.cart = some n →
            (∀ e ∈ left, e.aboard = true) → c.unidentified = 0 → t.cart? n = none ∧ told ∧
            ∀ e ∈ left, ∀ o, s.bag? e.bag = some o → t.bag? e.bag = some { o with location := none })) ∧
        t.loop = { s.loop with points := t.loop.points } ∧ (BagTableLaw s → HoldsFollow s t True))

/-! ## The loop -/

/-- LOOP GET answers the loop's fields and the counts of its carriers as they stand, in every operating state, and changes nothing
(R79; that the points and the arches stand in rising number is the model's choice, log 51). -/
def Sys2Proof.Claim.LoopGetReads : Prop :=
  ∀ (h : Head) (s : State), Ready s h 0 → ∃ v, exec (.loopGet h) s = answered 0x30 h s.taken (Answer.done (.loop v)) ∧
    v.carriers = s.loop.carriers.length ∧ v.pos = s.loop.pos ∧ v.stampRef = s.link.stampRef.map (·.toNat) ∧
    v.track = s.loop.track ∧ v.lossCount = s.loop.lossCount ∧ v.confirmRun = s.loop.confirmRun ∧
    v.mismatchRun = s.loop.mismatchRun ∧ v.homeMark = s.loop.homeMark ∧
    v.points = s.loop.points.map (fun e => (e.1, e.2.offset, e.2.go, e.2.causes)) ∧
    v.arches = s.loop.arches.map (fun e => (e.1, e.2.offset)) ∧
    v.loaded = (s.loop.carriers.filter (fun c => c.content.bag?.isSome)).length ∧
    v.unknown = (s.loop.carriers.filter (fun c => c.content == .unknown)).length ∧
    v.armed = (s.loop.carriers.filter (fun c => c.armed.isSome)).length

/-- CARRIER GET is refused BAD_FIELD for a number of N or more; otherwise, in every operating state, it answers the carrier's
number, state, bag, armed chute and the checkpoint it stands at (R80). -/
def Obligations.CarrierGetReads : Prop :=
  ∀ (h : Head) (s : State), Ready s h 0 →
    (s.loop.carriers.length ≤ h.key.number →
      exec (.carrierGet h) s = answered 0x31 h s.taken (Answer.refuse .badField)) ∧
    (∀ c, s.loop.carriers[h.key.number]? = some c →
      exec (.carrierGet h) s = answered 0x31 h s.taken (Answer.done (.carrier
        ⟨h.key.number, c.content, c.armed.map (·.chute),
          (((s.loop.pos : Int) - (h.key.number : Int)) % (s.loop.carriers.length : Int)).toNat⟩)))

/-- TRACKING RESET, refused WRONG_STATE in SETUP: every carrier EMPTY and unarmed; every bag of a LOADED carrier MISSING, its
RECHECK clear and its laps kept, counted in missing instead of hall; every chute's reserved count less the carriers armed for it,
a CLOSING cart whose claims that brings to 0 being CUT and its chute's carts swapped; tracking ANCHORING with loss count 0, the
position and S kept; no other bag record, list or cart changes, and no notice but CHUTE_BLOCKED; the answer counts the bags and the carriers disarmed (R2, R28,
R92, R118, R119). -/
def Sys2Proof.Claim.TrackingResetClears : Prop :=
  ∀ (h : Head) (s : State), Ready s h 0 →
    (s.opState = .setup → exec (.trackingReset h) s = answered 0x32 h s.taken (Answer.refuse .wrongState)) ∧
    (s.opState ≠ .setup → ∃ t, exec (.trackingReset h) s = answered 0x32 h t (Answer.done (.trackingReset
        (s.loop.carriers.filter (fun c => c.content.bag?.isSome)).length
        (s.loop.carriers.filter (fun c => c.armed.isSome)).length)) ∧
      Changes [.store, .loop, .chutes, .carts, .notices, .link, .discarded, .spiOut] s t ∧
      t.loop.carriers = List.replicate s.loop.carriers.length ⟨.empty, none⟩ ∧ t.loop.track = .anchoring ∧
      t.loop.lossCount = 0 ∧ t.loop.confirmRun = 0 ∧ t.loop.mismatchRun = 0 ∧ t.loop.homeMark = false ∧
      t.loop.pos = s.loop.pos ∧ t.loop.arches = s.loop.arches ∧ t.link.stampRef = s.link.stampRef ∧
      t.link.nodes.length = s.link.nodes.length ∧
      (∀ i c g b, s.carrier? i = some c → c.content = .loaded g → s.bag? g = some b →
        t.bag? g = some { b with
          state := .missing, location := none, recheck := b.recheck && b.state != .onLoop,
          reinduct := b.reinduct && b.state != .stray, aged := b.aged && b.state != .stray, entered := none }) ∧
      (∀ i, (∀ c ∈ s.loop.carriers, c.content ≠ .loaded ⟨i, s.store.gen i⟩) →
        t.store.bags.get? i = s.store.bags.get? i) ∧
      t.store.tagMap = s.store.tagMap ∧ t.store.gens = s.store.gens ∧
      (BagTableLaw s → ∀ v,
        let held := fun (p : BagState → Bool) => (s.store.bags.filter (fun e => p e.2.state &&
          e.2.home.any (fun k => k.slot == v) &&
          s.loop.carriers.any (fun c => c.content == .loaded ⟨e.1, s.store.gen e.1⟩))).length
        (t.store.slot v).counts.hall = (s.store.slot v).counts.hall - held BagState.inHall ∧
        (t.store.slot v).counts.missing = (s.store.slot v).counts.missing + held (fun st => st != .missing)) ∧
      (∀ k c, s.chute? k = some c → ∃ q, t.chute? k = some q ∧
        q.reserved = c.reserved - (s.loop.carriers.filter (fun e => e.armed.any (fun m => m.chute == k))).length ∧
        q = { c with reserved := q.reserved, state := q.state, active := q.active } ∧
        ((∀ n x, s.activeCart c = some (n, x) → x.state ≠ .closing) → q.state = c.state ∧ q.active = c.active) ∧
        (∀ n x, s.activeCart c = some (n, x) → x.state = .closing → (∃ e ∈ s.loop.carriers, ∃ m, e.armed = some m ∧
          m.chute = k) → q.reserved + c.landing.length + c.jams.length = 0 → t.cart? n = some { x with state := .cut } ∧
            (OwnCarts s k c → Swaps s t k n c q c.state))) ∧
      (∀ n x, s.cart? n = some x → ∃ v, t.cart? n = some { x with state := v } ∧
        (v = x.state ∨ x.state = .closing ∧ v = .cut ∨ x.state = .standby ∧ v = .filling)) ∧
      (∀ w, w ≠ .chuteBlocked → t.subjects w = s.subjects w) ∧
      (s.loop.track = .tracking → ∀ i p, t.loop.points.get? i = some p → p.causes.tracking = true) ∧
      (s.loop.track ≠ .tracking → t.loop.points = s.loop.points))

/-- TRACKING RESUME takes FAILED tracking to ANCHORING with loss count 0 and changes nothing else; outside FAILED and in SETUP it
is refused WRONG_STATE (R91). -/
def Sys2Proof.Claim.TrackingResumeAnchors : Prop :=
  ∀ (h : Head) (s : State), Ready s h 0 →
    ((s.opState = .setup ∨ s.loop.track ≠ .failed) →
      exec (.trackingResume h) s = answered 0x33 h s.taken (Answer.refuse .wrongState)) ∧
    (s.opState ≠ .setup → s.loop.track = .failed →
      exec (.trackingResume h) s = answered 0x33 h (s.taken.setLoop { s.loop with
        track := .anchoring, lossCount := 0, confirmRun := 0, mismatchRun := 0, homeMark := false })
        (Answer.done .empty))

/-- TRACKING RESET and TRACKING RESUME. -/
def Obligations.TrackingRequests : Prop :=
  Claim.TrackingResetClears ∧ Claim.TrackingResumeAnchors

/-! ## Chutes and carts -/

/-- CHUTE ASSIGN gives a free DECK chute, and the carts standing at it, a route, and the chute joins the route's list; a chute
already on the route is answered with no change, and one on another route is refused IN_USE (R110). A chute that is not configured,
a number of 40 or more among them, is refused BAD_FIELD after the tests of R3; that the number is not tested before them is the
model's choice (log 54). -/
def Obligations.ChuteAssignBinds : Prop :=
  ∀ (h : Head) (slot route : Byte) (b : SlotId) (s : State), Ready s h 2 →
    SlotId.ofNat? slot.toNat = some b → route.toNat < 12 →
    (s.opState = .setup → exec (.chuteAssign h slot route) s = answered 0x38 h s.taken (Answer.refuse .wrongState)) ∧
    (s.opState ≠ .setup → s.slotState b = .closing →
      exec (.chuteAssign h slot route) s = answered 0x38 h s.taken (Answer.refuse .sailingBusy)) ∧
    (s.opState ≠ .setup → s.slotState b = .free →
      exec (.chuteAssign h slot route) s = answered 0x38 h s.taken (Answer.refuse .wrongState)) ∧
    (s.opState ≠ .setup → s.slotState b = .opened → s.chute? h.key.number = none →
      exec (.chuteAssign h slot route) s = answered 0x38 h s.taken (Answer.refuse .badField)) ∧
    ∀ (c : Chute) (r : Route), s.opState ≠ .setup → s.slotState b = .opened →
    s.chute? h.key.number = some c → c.kind = .deck → s.route? ⟨b, route.toNat⟩ = some r →
    (c.assigned = some ⟨b, route.toNat⟩ →
      exec (.chuteAssign h slot route) s =
        (if h.key.number ∈ r.chutes ∨ r.chutes.length < 4 then answered 0x38 h s.taken (Answer.done .empty)
          else answered 0x38 h s.taken (Answer.refuse .full))) ∧
    (∀ k, c.assigned = some k → k ≠ ⟨b, route.toNat⟩ →
      exec (.chuteAssign h slot route) s = answered 0x38 h s.taken (Answer.refuse .inUse)) ∧
    (c.assigned = none → h.key.number ∉ r.chutes → 4 ≤ r.chutes.length →
      exec (.chuteAssign h slot route) s = answered 0x38 h s.taken (Answer.refuse .full)) ∧
    (c.assigned = none → r.chutes.length < 4 →
      ∃ t l, exec (.chuteAssign h slot route) s = answered 0x38 h t (Answer.done .empty) ∧
        Changes [.chutes, .routes, .carts, .discarded, .spiOut] s t ∧
        t.chute? h.key.number = some { c with assigned := some ⟨b, route.toNat⟩ } ∧
        (∀ k, k ≠ h.key.number → t.chute? k = s.chute? k) ∧
        t.route? ⟨b, route.toNat⟩ = some { r with chutes := l } ∧
        (∀ k, k ∈ l ↔ k = h.key.number ∨ k ∈ r.chutes) ∧
        (∀ n x, s.cart? n = some x → t.cart? n = some (if c.posX = .cart n ∨ c.posY = .cart n
          then { x with route := some ⟨b, route.toNat⟩ } else x)))

/-- CHUTE OPEN: a chute that is not configured is refused BAD_FIELD, one in SETUP or whose node is DOWN WRONG_STATE; otherwise the
failure count becomes 0, and a CLOSED or FAULT chute becomes OPEN, or BLOCKED with its notice where it is a DECK chute without an
active cart (R109, R111; that BAD_FIELD comes before WRONG_STATE, for a chute that is not configured in SETUP, is the model's reading,
log 6). -/
def Sys2Proof.Claim.ChuteOpenOpens : Prop :=
  ∀ (h : Head) (s : State), Ready s h 0 →
    (s.chute? h.key.number = none → exec (.chuteOpen h) s = answered 0x39 h s.taken (Answer.refuse .badField)) ∧
    (∀ c, s.chute? h.key.number = some c → (s.opState = .setup ∨ ∃ x, s.node? c.node = some x ∧ x.state = .down) →
      exec (.chuteOpen h) s = answered 0x39 h s.taken (Answer.refuse .wrongState)) ∧
    (∀ c, s.chute? h.key.number = some c → s.opState ≠ .setup →
      (∀ x, s.node? c.node = some x → x.state ≠ .down) →
      ∃ t, exec (.chuteOpen h) s = answered 0x39 h t (Answer.done .empty) ∧
        Changes [.chutes, .notices, .discarded, .spiOut] s t ∧ (∀ k, k ≠ h.key.number → t.chute? k = s.chute? k) ∧
        t.chute? h.key.number = some { c with
          failures := 0
          state := match c.state with
            | .opened => .opened
            | .blocked => .blocked
            | _ => if c.kind = .deck ∧ c.active = none then .blocked else .opened } ∧
        ((c.state = .closed ∨ ∃ f, c.state = .fault f) → c.kind = .deck → c.active = none →
          t.notices = (s.raise .chuteBlocked h.key.number).notices ∧
          (s.notices.sources.length = 15 → h.key.number ∈ t.subjects .chuteBlocked)) ∧
        (¬((c.state = .closed ∨ ∃ f, c.state = .fault f) ∧ c.kind = .deck ∧ c.active = none) →
          t.notices = s.notices))

/-- CHUTE CLOSE: refused BAD_FIELD for a chute that is not configured and WRONG_STATE in SETUP; otherwise the chute becomes
CLOSED, its fault cause with its former state gone, and it has no credit (R112; that BAD_FIELD comes before WRONG_STATE, for a chute
that is not configured in SETUP, is the model's reading, log 6). -/
def Sys2Proof.Claim.ChuteCloseCloses : Prop :=
  ∀ (h : Head) (s : State), Ready s h 0 →
    (s.chute? h.key.number = none → exec (.chuteClose h) s = answered 0x3A h s.taken (Answer.refuse .badField)) ∧
    (∀ c, s.chute? h.key.number = some c →
      (s.opState = .setup → exec (.chuteClose h) s = answered 0x3A h s.taken (Answer.refuse .wrongState)) ∧
      (s.opState ≠ .setup → ∃ t, exec (.chuteClose h) s = answered 0x3A h t (Answer.done .empty) ∧
        Changes [.chutes, .discarded, .spiOut] s t ∧ (∀ k, k ≠ h.key.number → t.chute? k = s.chute? k) ∧
        t.chute? h.key.number = some { c with state := .closed } ∧ t.credit { c with state := .closed } = 0))

/-- CHUTE OPEN and CHUTE CLOSE. -/
def Obligations.ChutesOpenAndClose : Prop :=
  Claim.ChuteOpenOpens ∧ Claim.ChuteCloseCloses

/-- CHUTE GET, in every operating state, and CART GET answer the chute and the cart as they stand and change nothing; a chute that is
not configured is refused BAD_FIELD, a cart WRONG_STATE in SETUP and NOT_FOUND where no live cart holds its serial (R125; that a first
entry number above 47 is refused BAD_FIELD is the model's choice, log 53; that this comes before WRONG_STATE, and WRONG_STATE before
NOT_FOUND, is its reading, log 6). -/
def Sys2Proof.Claim.ChuteAndCartGetRead : Prop :=
  ∀ (h : Head) (s : State),
    (∀ c, Ready s h 0 → s.chute? h.key.number = some c → ∃ v,
      exec (.chuteGet h) s = answered 0x3B h s.taken (Answer.done (.chute v)) ∧ v.kind = c.kind ∧
      v.assigned = c.assigned ∧ v.state = c.state ∧ v.offset = c.offset ∧ v.lead = c.lead ∧ v.window = c.window ∧
      v.capacity = c.capacity ∧ v.node = c.node ∧ v.reserved = c.reserved ∧ v.landing = c.landing.length ∧
      v.jammed = c.jams.length ∧ v.failures = c.failures ∧ v.credit = s.credit c ∧ v.posX = c.posX ∧
      v.posY = c.posY ∧ v.active = c.active ∧ v.jams = c.jams.take 8) ∧
    (∀ (first : Byte) x, Ready s h 1 → first.toNat ≤ 47 → s.opState ≠ .setup → s.cart? h.key.number = some x →
      exec (.cartGet h first) s = answered 0x3D h s.taken (Answer.done (.cart
        ⟨h.key.number, x.origin, x.route, x.capacity, x.state, x.notify, x.unidentified, x.entries.length, first.toNat,
          (x.entries.drop first.toNat).take 10⟩))) ∧
    (Ready s h 0 → s.chute? h.key.number = none →
      exec (.chuteGet h) s = answered 0x3B h s.taken (Answer.refuse .badField)) ∧
    (∀ first : Byte, Ready s h 1 →
      (47 < first.toNat → exec (.cartGet h first) s = answered 0x3D h s.taken (Answer.refuse .badField)) ∧
      (first.toNat ≤ 47 → s.opState = .setup →
        exec (.cartGet h first) s = answered 0x3D h s.taken (Answer.refuse .wrongState)) ∧
      (first.toNat ≤ 47 → s.opState ≠ .setup → s.cart? h.key.number = none →
        exec (.cartGet h first) s = answered 0x3D h s.taken (Answer.refuse .notFound)))

/-- CART CUT of an active cart that is not empty: with claims outstanding the cart becomes CLOSING, and takes the notify flag; with
none it becomes CUT and the chute swaps: a STANDBY cart at the other position becomes FILLING and active, and without one the chute
has no active cart and, OPEN, is BLOCKED, with CHUTE_BLOCKED; CUT_COMPLETE does the same once a CLOSING cart's claims are 0, and
nothing before; no other cart, chute or notice changes (R118, R119; that CUT_COMPLETE acts only when due is the model's choice, log
2). -/
def Sys2Proof.Claim.CartCutCloses : Prop :=
  ∀ (h : Head) (c : Chute) (p : PosName) (n : Nat) (x : Cart) (s : State), s.chute? h.key.number = some c →
    c.kind = .deck → c.active = some p → c.position p = .cart n → s.cart? n = some x →
    let swapped := fun t : State => ∃ d, t.chute? h.key.number = some d ∧
      d = { c with active := d.active, state := d.state } ∧ (∀ j, j ≠ h.key.number → t.chute? j = s.chute? j) ∧
      SwapsIf True s t h.key.number n c d c.state ∧ ∀ w, w ≠ .chuteBlocked → t.subjects w = s.subjects w
    (Ready s h 0 → s.opState ≠ .setup →
      (x.entries = [] ∧ x.unidentified = 0 →
        exec (.cartCut h) s = answered 0x3C h s.taken (Answer.refuse .wrongState)) ∧
      (¬(x.entries = [] ∧ x.unidentified = 0) → c.claims ≠ 0 →
        exec (.cartCut h) s = answered 0x3C h (s.taken.setCarts (s.carts.modify n (fun y =>
          { y with state := .closing, notify := y.notify || h.notify }))) (Answer.done .empty)) ∧
      (¬(x.entries = [] ∧ x.unidentified = 0) → c.claims = 0 →
        ∃ t, exec (.cartCut h) s = answered 0x3C h t (Answer.done .empty) ∧
          Changes [.carts, .chutes, .notices, .discarded, .spiOut] s t ∧
          t.cart? n = some { x with state := .cut, notify := x.notify || h.notify } ∧ swapped t)) ∧
    (x.state = .closing → c.claims = 0 →
      ∃ t, exec (.cutComplete h.key.number) s = .next t ∧ Changes [.carts, .chutes, .notices] s t ∧
        t.cart? n = some { x with state := .cut } ∧ swapped t) ∧
    (¬(x.state = .closing ∧ c.claims = 0) → exec (.cutComplete h.key.number) s = .next s)

/-- CART CLEAR UNIDENTIFIED: no live cart is NOT_FOUND; a count of 0 is answered with no change; otherwise the cart, where it
stays live, has none left. A cart that is at no door changes in nothing else, but that a QUEUED cart left empty retires, with
CART_DONE where it is asked for. The door of a cart that stands at one loses UNIDENTIFIED and its belt is set, and a cart whose
entries are all marked completes: it retires, with CART_DONE likewise, its bags without location (R124, R127, R137, R140). -/
def Sys2Proof.Claim.UnidentifiedCleared : Prop :=
  ∀ (h : Head) (s : State), Ready s h 0 → s.opState ≠ .setup →
    (s.cart? h.key.number = none →
      exec (.cartClearUnidentified h) s = answered 0x3E h s.taken (Answer.refuse .notFound)) ∧
    (∀ c, s.cart? h.key.number = some c → c.unidentified = 0 →
      exec (.cartClearUnidentified h) s = answered 0x3E h s.taken (Answer.done .empty)) ∧
    (∀ c, s.cart? h.key.number = some c → c.unidentified ≠ 0 →
      let told := fun t : State => ∀ k r, s.notices.sources.length = 15 → c.route = some k → s.route? k = some r →
        (c.notify = true ∨ r.notifyAll = true) → k.subject ∈ t.subjects .cartDone
      ∃ t, exec (.cartClearUnidentified h) s = answered 0x3E h t (Answer.done .empty) ∧
        Changes [.store, .carts, .routes, .doors, .link, .notices, .discarded, .spiOut] s t ∧
        (∀ x, t.cart? h.key.number = some x → x.unidentified = 0) ∧
        ((c.state ≠ .queued ∨ c.entries ≠ []) → s.doorOfCart h.key.number = none →
          t = s.taken.setCarts (s.carts.modify h.key.number (fun x => { x with unidentified := 0 }))) ∧
        (c.state = .queued → c.entries = [] → s.doorOfCart h.key.number = none → t.cart? h.key.number = none ∧ told t) ∧
        (∀ d x, s.doorOfCart h.key.number = some d → s.door? d = some x → x.cart = some h.key.number →
          ((∃ e ∈ c.entries, e.aboard = false) → ∃ y, t.cart? h.key.number = some { c with unidentified := 0 } ∧
            t.store = s.store ∧ t.door? d = some y ∧
            y = { x with halts := { x.halts with unidentified := false }, running := t.beltRuns y }) ∧
          ((∀ e ∈ c.entries, e.aboard = true) → t.cart? h.key.number = none ∧ told t ∧
            ∀ e ∈ c.entries, ∀ b, s.bag? e.bag = some b → t.bag? e.bag = some { b with location := none })))

/-- CART CUT with its completion, and CART CLEAR UNIDENTIFIED. -/
def Obligations.CartsCutAndCleared : Prop :=
  Claim.CartCutCloses ∧ Claim.UnidentifiedCleared

/-- JAM CLEAR with LANDED: the jammed bag lands as by a LAND, in the active cart of a DECK chute, with the demand check, its
slot's counters as they were, or in the lowest free pen position, counted in stray instead of hall, which tests the pen hold; it
leaves the jam list; a cart that is full becomes FULL, and else a CLOSING cart whose chute has no claims left CUT, and the chute then
swaps: a STANDBY cart at the other position becomes FILLING and active, and without one the chute has no active cart and, OPEN, is
BLOCKED, with CHUTE_BLOCKED (R2, R118 to R121, R123, R148, R157). -/
def Sys2Proof.Claim.JamClearLands : Prop :=
  ∀ (h : Head) (chute position : Byte) (b : Bag) (c : Chute) (s : State), Ready s h 3 → Nameable s h.key.handle b →
    s.chute? chute.toNat = some c → b.state = .jammed → h.key.handle ∈ c.jams →
    (c.kind = .stray →
      ∃ t, exec (.jamClearLanded h true chute position) s = answered 0x3F h t (t.bagAnswer h.key.handle) ∧
        Changes [.store, .pen, .link, .loop, .notices, .carts, .chutes, .discarded, .spiOut] s t ∧
        t.bag? h.key.handle = some { b with
          state := .stray, location := some (.pen s.lowestPosition), aged := false, reinduct := false,
          entered := some s.hallSecond } ∧
        (∀ i, i ≠ h.key.handle.index → t.store.bags.get? i = s.store.bags.get? i) ∧
        Counted s t b (fun n => { n with hall := n.hall - 1, stray := n.stray + 1 }) ∧
        t.pen.positions.get? s.lowestPosition = some h.key.handle ∧ t.pen.strays = s.pen.strays ++ [h.key.handle] ∧
        (∃ d, t.chute? chute.toNat = some d ∧ d.jams = c.jams.filter (· != h.key.handle) ∧ d.landing = c.landing) ∧
        (c.active = none → t.chutes =
          s.chutes.modify chute.toNat (fun c => { c with jams := c.jams.filter (· != h.key.handle) }) ∧ t.carts = s.carts) ∧
        t.loop = { s.loop with points := t.loop.points } ∧ (BagTableLaw s → HoldsFollow s t True)) ∧
    (∀ n x, c.kind = .deck → s.activeCart c = some (n, x) →
      ∃ t y d z, exec (.jamClearLanded h true chute position) s = answered 0x3F h t (t.bagAnswer h.key.handle) ∧
        Changes [.store, .notices, .carts, .chutes, .discarded, .spiOut] s t ∧
        t.bag? h.key.handle = some y ∧ y.state = .inCart ∧ y.location = some (.cart n) ∧ y.reason = b.reason ∧
        y.pull = demanded s b ∧ Counted s t b id ∧
        (∀ i, i ≠ h.key.handle.index → t.store.bags.get? i = s.store.bags.get? i) ∧
        t.chute? chute.toNat = some d ∧
        d = { c with jams := c.jams.filter (· != h.key.handle), active := d.active, state := d.state } ∧
        (∀ j, j ≠ chute.toNat → t.chute? j = s.chute? j) ∧
        t.cart? n = some z ∧ z = { x with entries := x.entries ++ [⟨h.key.handle, false⟩], state := z.state } ∧
        z.state = (if x.capacity ≤ x.entries.length + 1 + x.unidentified then .full
          else if x.state = .closing ∧ d.reserved + d.landing.length + d.jams.length = 0 then .cut else x.state) ∧
        SwapsIf (x.capacity ≤ x.entries.length + 1 + x.unidentified ∨
          x.state = .closing ∧ d.reserved + d.landing.length + d.jams.length = 0) s t chute.toNat n c d c.state ∧
        ∀ w, w ≠ .chuteBlocked → t.subjects w = s.subjects w)

/-- JAM CLEAR with REMOVED: the jammed bag enters the pen at the position named, keeping its reason, or, having none, with reason
PULLED where it is flagged or its governing cabin stands void, else HELD; it is counted in stray instead of hall, and the pen hold
is tested; a CLOSING cart of the chute that then has no claims left is CUT, and the chute swaps (R2, R118, R119, R123, R155, R157).
-/
def Sys2Proof.Claim.JamClearRemoves : Prop :=
  ∀ (h : Head) (chute position : Byte) (b : Bag) (c : Chute) (s : State), Ready s h 3 → Nameable s h.key.handle b →
    s.chute? chute.toNat = some c → position.toNat < s.pen.size → b.state = .jammed → h.key.handle ∈ c.jams →
    (s.pen.positions.has position.toNat = true →
      exec (.jamClearRemoved h chute position) s = answered 0x3F h s.taken (Answer.refuse .inUse)) ∧
    (s.pen.positions.has position.toNat = false → c.kind = .deck → s.penRoom = 0 →
      exec (.jamClearRemoved h chute position) s = answered 0x3F h s.taken (Answer.refuse .full)) ∧
    (s.pen.positions.has position.toNat = false → (c.kind = .stray ∨ 1 ≤ s.penRoom) →
      ∃ t d, exec (.jamClearRemoved h chute position) s = answered 0x3F h t (t.bagAnswer h.key.handle) ∧
        Changes [.store, .pen, .link, .loop, .notices, .carts, .chutes, .discarded, .spiOut] s t ∧
        t.bag? h.key.handle = some { b with
          state := .stray, location := some (.pen position.toNat), aged := false, reinduct := false,
          entered := some s.hallSecond
          reason := some (b.reason.getD
            (if b.pull.isSome || s.store.governedStandsVoid b then .pulled else .held)) } ∧
        (∀ i, i ≠ h.key.handle.index → t.store.bags.get? i = s.store.bags.get? i) ∧
        Counted s t b (fun n => { n with hall := n.hall - 1, stray := n.stray + 1 }) ∧
        t.pen.positions.get? position.toNat = some h.key.handle ∧ t.pen.strays = s.pen.strays ++ [h.key.handle] ∧
        t.chute? chute.toNat = some d ∧
        d = { c with jams := c.jams.filter (· != h.key.handle), active := d.active, state := d.state } ∧
        (∀ j, j ≠ chute.toNat → t.chute? j = s.chute? j) ∧ CutSettled s t chute.toNat c d c.state ∧
        t.loop = { s.loop with points := t.loop.points } ∧ (BagTableLaw s → HoldsFollow s t True))

/-- The position that an intake of a landing takes, `lowestPosition`, holds no bag, and every lower position holds one; while a
position is free it is one of the pen's (R154, R155). -/
def Sys2Proof.Claim.LowestPosition : Prop :=
  ∀ s : State, Table.wf s.pen.positions = true →
    s.pen.positions.get? s.lowestPosition = none ∧
    (∀ p, p < s.lowestPosition → ∃ g, s.pen.positions.get? p = some g) ∧
    (s.pen.positions.length < s.pen.size → s.lowestPosition < s.pen.size)

/-- The two outcomes of JAM CLEAR, and the position that a landing in the pen takes. -/
def Obligations.JamsClear : Prop :=
  Claim.JamClearLands ∧ Claim.JamClearRemoves ∧ Claim.LowestPosition

/-! ## Routes and doors -/

/-- ROUTE START is refused WRONG_STATE for a route that is not IDLE, AT_DOOR with a cart of it at a door, and EMPTY_QUEUE with neither
carts queued nor the stay option. Otherwise the route takes the stay option and is LOADING, and nothing else changes where its door
holds another cart that is not done. A free door arbitrates: the winner's head cart, where it is not done, leaves its queue and is
AT_DOOR, the door's cart and last-served route are set, an unidentified item halts the door, the belt follows, and the route stays
LOADING; with nothing offered the route stays LOADING and the door without a cart. Only a head cart that is done, and completes at
once, can bring the route back to IDLE, and not under the stay option (R128, R129, R131, R133, R134, R140). -/
def Sys2Proof.Claim.RouteStartLoads : Prop :=
  ∀ (h : Head) (stay : Bool) (b : SlotId) (r : Route) (s : State), Ready s h 1 → SlotOpen s h b → h.key.route < 12 →
    s.route? ⟨b, h.key.route⟩ = some r →
    let k : RouteKey := ⟨b, h.key.route⟩
    let refused := fun a => exec (.routeStart h (some stay)) s = answered 0x40 h s.taken (Answer.refuse a)
    let loading : Route := { r with state := .loading, stay := stay }
    let u := s.taken.setRoutes (s.routes.modify k.subject (fun r => { r with state := .loading, stay := stay }))
    (r.state ≠ .idle → refused .wrongState) ∧
    (r.state = .idle → s.routeCart k ≠ none → refused .atDoor) ∧
    (r.state = .idle → s.routeCart k = none → r.queue = [] → stay = false → refused .emptyQueue) ∧
    (r.state = .idle → s.routeCart k = none → (r.queue ≠ [] ∨ stay = true) →
      ∃ t x, exec (.routeStart h (some stay)) s = answered 0x40 h t (Answer.done .empty) ∧
        Changes [.store, .carts, .routes, .doors, .link, .notices, .discarded, .spiOut] s t ∧
        t.route? k = some x ∧ x.stay = stay ∧ x.door = r.door ∧ x.chutes = r.chutes ∧
        x.loaded = r.loaded ∧ (x.state = .loading ∨ x.state = .idle ∧ stay = false) ∧
        ((∀ d, r.door = some d → s.door? d = none) → t = u) ∧
        (∀ d y m c, r.door = some d → s.door? d = some y → y.cart = some m → s.cart? m = some c → c.done = false →
          Changes [.doors, .link] u t ∧ x = loading ∧ t.door? d = some { y with running := t.beltRuns y } ∧
          ∀ e, e ≠ d → t.door? e = s.door? e) ∧
        (∀ d y, r.door = some d → s.door? d = some y → y.cart = none → Arbitrates u t d y ∧
          ((∀ i, i < 12 → ¬Offering u d ⟨y.berth, i⟩) → x = loading ∧ ∃ z, t.door? d = some z ∧ z.cart = none) ∧
          (∀ w v n rest c, Wins u d y w v n rest c → c.done = false → CartComes u t d y w v n rest c ∧
            x = { loading with queue := if w = k then rest else r.queue })))

/-- ROUTE PAUSE makes every LOADING route of the named route's door IDLE, each keeping its queue, stay option and loaded count, sets
the door's belt, and raises no notice; an UNSET route is refused WRONG_STATE (R128, R130, R134). -/
def Sys2Proof.Claim.RoutePausePauses : Prop :=
  ∀ (h : Head) (b : SlotId) (s : State), Ready s h 0 → SlotOpen s h b → h.key.route < 12 →
    (s.routeState ⟨b, h.key.route⟩ = .unset →
      exec (.routePause h) s = answered 0x41 h s.taken (Answer.refuse .wrongState)) ∧
    ∀ d, s.routeState ⟨b, h.key.route⟩ ≠ .unset → s.routeDoor ⟨b, h.key.route⟩ = some d →
    ∃ t, exec (.routePause h) s = answered 0x41 h t (Answer.done .empty) ∧
      Changes [.routes, .doors, .link, .discarded, .spiOut] s t ∧
      t.routes = s.routes.map (fun r => if r.door = some d ∧ r.state = .loading then { r with state := .idle } else r) ∧
      (∀ x, s.door? d = some x → t.door? d = some { x with running := t.beltRuns x }) ∧
      (∀ e, e ≠ d → t.door? e = s.door? e)

/-- ROUTE CONTINUE makes an IDLE route with a cart at the door LOADING, with its stay option as it stood, and sets the door's belt;
an UNSET and a LOADING route are refused WRONG_STATE and a route without a cart at the door NOT_AT_DOOR (R128, R131, R134). -/
def Sys2Proof.Claim.RouteContinueLoads : Prop :=
  ∀ (h : Head) (b : SlotId) (r : Route) (s : State), Ready s h 0 → SlotOpen s h b → h.key.route < 12 →
    s.route? ⟨b, h.key.route⟩ = some r →
    (r.state = .unset ∨ r.state = .loading →
      exec (.routeContinue h) s = answered 0x42 h s.taken (Answer.refuse .wrongState)) ∧
    (r.state = .idle → s.routeCart ⟨b, h.key.route⟩ = none →
      exec (.routeContinue h) s = answered 0x42 h s.taken (Answer.refuse .notAtDoor)) ∧
    (∀ d, r.state = .idle → s.routeCart ⟨b, h.key.route⟩ ≠ none → r.door = some d →
      ∃ t, exec (.routeContinue h) s = answered 0x42 h t (Answer.done .empty) ∧
        Changes [.routes, .doors, .link, .discarded, .spiOut] s t ∧
        t.route? ⟨b, h.key.route⟩ = some { r with state := .loading } ∧
        (∀ i, i ≠ RouteKey.subject ⟨b, h.key.route⟩ → t.routes[i]? = s.routes[i]?) ∧
        (∀ x, s.door? d = some x → t.door? d = some { x with running := t.beltRuns x }) ∧
        (∀ e, e ≠ d → t.door? e = s.door? e))

/-- ROUTE START, PAUSE and CONTINUE. -/
def Obligations.RoutesLoad : Prop :=
  Claim.RouteStartLoads ∧ Claim.RoutePausePauses ∧ Claim.RouteContinueLoads

/-- ROUTE GET, an UNSET route's too, and DOOR GET, in every operating state, answer the route and the door as they stand and change
nothing; a door that is not configured is refused BAD_FIELD (R141; that an entry of the door's served routes has the route number
and no slot is the model's choice, log 59; the tests of R3 that ROUTE GET makes are stated in SailingTestsInOrder). -/
def Sys2Proof.Claim.RouteAndDoorGetRead : Prop :=
  ∀ (h : Head) (s : State), Ready s h 0 →
    (∀ b r, SlotOpen s h b → h.key.route < 12 → s.route? ⟨b, h.key.route⟩ = some r →
      exec (.routeGet h) s = answered 0x43 h s.taken (Answer.done (.route
        ⟨r.state, r.door, r.stay, r.notifyAll, r.loaded, r.chutes, r.queue.length, r.queue.take 8,
          s.routeCart ⟨b, h.key.route⟩⟩))) ∧
    (s.door? h.key.number = none → exec (.doorGet h) s = answered 0x44 h s.taken (Answer.refuse .badField)) ∧
    (∀ x, s.door? h.key.number = some x → ∃ v,
      exec (.doorGet h) s = answered 0x44 h s.taken (Answer.done (.door v)) ∧ v.berth = x.berth ∧ v.node = x.node ∧
      (∀ y, s.node? x.node = some y → v.nodeState = y.state) ∧ v.running = x.running ∧ v.halts = x.halts ∧
      v.cart = x.cart ∧ v.lastServed = x.lastServed ∧
      ∀ i q, (i, q) ∈ v.routes ↔ i < 12 ∧ s.doorServes h.key.number ⟨x.berth, i⟩ = true ∧
        q = s.routeState ⟨x.berth, i⟩)

/-- DOOR RELEASE removes every halt reason but NODE, adds UNIDENTIFIED again with its notice where the cart at the door has an
unidentified count, sets the belt, and answers the halt set it leaves (R137, R138). -/
def Sys2Proof.Claim.DoorReleaseReleases : Prop :=
  ∀ (h : Head) (x : Door) (s : State), Ready s h 0 → s.opState ≠ .setup → s.door? h.key.number = some x →
    ∃ t y, exec (.doorRelease h) s = answered 0x45 h t (Answer.done (.halts y.halts)) ∧
      Changes [.doors, .link, .notices, .discarded, .spiOut] s t ∧ t.door? h.key.number = some y ∧
      y.halts = ⟨false, false, false, false, false, false,
        (x.cart.bind s.cart?).any (fun c => decide (c.unidentified ≠ 0)), x.halts.node⟩ ∧
      y = { x with halts := y.halts, running := t.beltRuns y } ∧
      ((x.cart.bind s.cart?).any (fun c => decide (c.unidentified ≠ 0)) = false → t.notices = s.notices) ∧
      ((x.cart.bind s.cart?).any (fun c => decide (c.unidentified ≠ 0)) = true →
        t.notices = (s.raise .doorStopped h.key.number).notices ∧
        (s.notices.sources.length = 15 → h.key.number ∈ t.subjects .doorStopped)) ∧
      (∀ e, e ≠ h.key.number → t.door? e = s.door? e)

/-- A belt is to run while the door has a cart whose route is LOADING, an empty halt set and a LIVE node and the part is in RUN, and
not otherwise (R134). -/
def Sys2Proof.Claim.BeltConditions : Prop :=
  ∀ (s : State) (x : Door), s.beltRuns x = true ↔
    (∃ n c k, x.cart = some n ∧ s.cart? n = some c ∧ c.route = some k ∧ s.routeState k = .loading) ∧
    x.halts = ⟨false, false, false, false, false, false, false, false⟩ ∧
    (∃ y, s.node? x.node = some y ∧ y.state = .live) ∧ s.opState = .run

/-- DOOR RELEASE, and the conditions of a running belt. -/
def Obligations.DoorReleaseReleases : Prop :=
  Claim.DoorReleaseReleases ∧ Claim.BeltConditions

/-- Arbitration: a free door takes the head cart of the first LOADING route it serves with a queue, in route order from the one
after the last-served route, wrapping from 11 to 0; a cart that is done as it comes completes at once, and the door arbitrates again;
with nothing offered its belt stands STOPPED. A door that is not configured or holds a cart arbitrates not, and nothing changes
(R133, R134, R137, R140; that DOOR_ARBITRATE acts only when due is the model's choice, log 2). -/
def Sys2Proof.Claim.ArbitrationTakesTurns : Prop :=
  ∀ (d : Nat) (s : State),
    ((∀ x, s.door? d = some x → x.cart ≠ none) → exec (.doorArbitrate d) s = .next s) ∧
    ∀ x, s.door? d = some x → x.cart = none → ∃ t, exec (.doorArbitrate d) s = .next t ∧ Arbitrates s t d x

/-- CART_COMPLETE: a cart at the door whose entries are all marked aboard, with nothing unidentified, retires; its bags keep their
state and lose their location; CART_DONE has its route's subject where it is asked for; its route, LOADING with nothing left to load,
no stay option and no cart at a door, is IDLE, with ROUTE_IDLE; then the door, which has no cart, arbitrates as DOOR_ARBITRATE does.
Where no cart at the door is complete, nothing changes (R131, R133, R134, R140; that CART_COMPLETE acts only when due is the model's
choice, log 2). -/
def Sys2Proof.Claim.CompleteCartRetires : Prop :=
  ∀ (d : Nat) (s : State),
    let complete := fun (x : Door) (n : Nat) (c : Cart) => s.door? d = some x ∧ x.cart = some n ∧ s.cart? n = some c ∧
      (∀ e ∈ c.entries, e.aboard = true) ∧ c.unidentified = 0
    ((∀ x n c, ¬complete x n c) → exec (.cartComplete d) s = .next s) ∧
    ∀ x n c, complete x n c →
      ∃ v t, exec (.cartComplete d) s = .next t ∧ Changes [.store, .carts, .routes, .doors, .link, .notices] s t ∧
        CartCompletes s v d n c ∧ exec (.doorArbitrate d) v = .next t ∧ Arbitrates v t d { x with cart := none } ∧
        t.cart? n = none ∧
        (∀ e ∈ c.entries, ∀ b, s.bag? e.bag = some b → t.bag? e.bag = some { b with location := none }) ∧
        (∀ k r, s.notices.sources.length = 15 → c.route = some k → s.route? k = some r →
          (c.notify = true ∨ r.notifyAll = true) → k.subject ∈ t.subjects .cartDone)

/-- What a door does in its turn. -/
def Obligations.DoorTurns : Prop :=
  Claim.ArbitrationTakesTurns ∧ Claim.CompleteCartRetires

/-! ## Strays and notices -/

/-- STRAY NEXT and STRAY GET answer the stray list's length and the stray at a place or position as it stands, and change nothing
(R163; that a place above 127 is refused BAD_FIELD is the model's choice, log 53). -/
def Sys2Proof.Claim.StrayGetReads : Prop :=
  ∀ (h : Head) (s : State), s.opState ≠ .setup →
    (∀ place : Byte, Ready s h 1 → 127 < place.toNat →
      exec (.strayNext h place) s = answered 0x48 h s.taken (Answer.refuse .badField)) ∧
    (∀ place : Byte, Ready s h 1 → place.toNat ≤ 127 →
      (s.pen.strays.length ≤ place.toNat →
        exec (.strayNext h place) s = answered 0x48 h s.taken (Answer.done (.strayList s.pen.strays.length none))) ∧
      (∀ g b, s.pen.strays[place.toNat]? = some g → s.bag? g = some b →
        exec (.strayNext h place) s =
          answered 0x48 h s.taken (Answer.done (.strayList s.pen.strays.length (some (s.strayView g b)))))) ∧
    (Ready s h 0 →
      (s.pen.size ≤ h.key.number →
        exec (.strayGet h) s = answered 0x49 h s.taken (Answer.refuse .badField)) ∧
      (h.key.number < s.pen.size → s.pen.positions.get? h.key.number = none →
        exec (.strayGet h) s = answered 0x49 h s.taken (Answer.refuse .notFound)) ∧
      (∀ g b, h.key.number < s.pen.size → s.pen.positions.get? h.key.number = some g → s.bag? g = some b →
        exec (.strayGet h) s = answered 0x49 h s.taken (Answer.done (.stray (s.strayView g b)))))

/-- What the answers on bags, cabins and strays hold: the bag's fields, with the number and the status of its governing cabin,
which is its cabin's forward target where it has one; the cabin's fields, with its status, SAILING where a guest is BOARDED,
PENDING where none is and one is EXPECTED, else VOID; the stray's fields, with its position and, where it is routable, its route
(R12, R15, R17, R37, R163). -/
def Sys2Proof.Claim.ViewsGiveFields : Prop :=
  (∀ (s : State) (h : Handle) (b : Bag), ∃ g, s.bagView h b = ⟨h, b.tag, b.home, g, b.state, b.location, b.laps, b.pull,
      b.hold, b.recheck, b.reinduct, b.aged, b.reason, b.entered⟩ ∧
    (b.home = none → g = none) ∧
    ∀ k c, b.home = some k → s.store.cabin? k = some c →
      (c.forward = none → g = some (k.number, c.status)) ∧
      ∀ n z, c.forward = some n → s.store.cabin? ⟨k.slot, n⟩ = some z → g = some (n, z.status)) ∧
  (∀ (c : Cabin) (k : CabinKey), c.view k = ⟨k, c.route, c.allowance, c.status, c.forward, c.forwardedIn, c.liveBags,
      c.aboard, c.pull, c.pullStart, c.guests⟩ ∧
    ((∃ g ∈ c.guests, g.state = .boarded) → c.status = .sailing) ∧
    ((∀ g ∈ c.guests, g.state ≠ .boarded) → (∃ g ∈ c.guests, g.state = .expected) → c.status = .pending) ∧
    ((∀ g ∈ c.guests, g.state = .notSailing) → c.status = .void)) ∧
  ∀ (s : State) (h : Handle) (b : Bag), ∃ n, s.strayView h b = ⟨n, h, b.tag, b.home, b.reason, b.entered, b.aged,
      b.reinduct, b.hold, b.pull, b.laps, s.routable b⟩ ∧ ∀ p, b.location = some (.pen p) → n = p

/-- A stray is routable where it has no HOLD flag, its slot is not CLOSING, it carries no PULL flag, its governing cabin does
not stand VOID, and it has a cabin; the route is its slot's, of its governing cabin's deck route (R158). -/
def Sys2Proof.Claim.RoutableConditions : Prop :=
  ∀ (s : State) (b : Bag) (r : RouteKey), s.routable b = some r ↔
    b.hold = false ∧ b.pull = none ∧ ∃ k c, b.home = some k ∧ s.slotState k.slot ≠ .closing ∧
      s.store.governing b = some c ∧ ¬(c.status = .void ∧ c.forward = none) ∧ r = ⟨k.slot, c.route⟩

/-- The requests that read sailings, cabins, bags and strays. -/
def Obligations.RecordsRead : Prop :=
  Claim.SailingGetReads ∧ Claim.CabinGetReads ∧ Claim.BagGetReads ∧ Claim.StrayGetReads ∧ Claim.ViewsGiveFields ∧
  Claim.RoutableConditions

/-- STRAY RESOLVE with REINDUCT sets REINDUCT of a routable stray and refuses another NOT_ROUTABLE; with HOLD it gives the reason
HELD and clears REINDUCT; a bag that is not STRAY is refused WRONG_STATE (R158, R164). -/
def Obligations.StrayResolveActs : Prop :=
  ∀ (h : Head) (b : Bag) (s : State), Ready s h 1 → Nameable s h.key.handle b →
    (b.state ≠ .stray →
      exec (.strayResolveReinduct h) s = answered 0x4A h s.taken (Answer.refuse .wrongState) ∧
      exec (.strayResolveHold h true) s = answered 0x4A h s.taken (Answer.refuse .wrongState)) ∧
    (b.state = .stray →
      (s.routable b = none →
        exec (.strayResolveReinduct h) s = answered 0x4A h s.taken (Answer.refuse .notRoutable)) ∧
      (s.routable b ≠ none →
        exec (.strayResolveReinduct h) s = answered 0x4A h (s.taken.setStore { s.store with
          bags := s.store.bags.put h.key.handle.index { b with reinduct := true } })
          (Answer.done (.bag (s.bagView h.key.handle { b with reinduct := true })))) ∧
      exec (.strayResolveHold h true) s = answered 0x4A h (s.taken.setStore { s.store with
        bags := s.store.bags.put h.key.handle.index { b with reason := some .held, reinduct := false } })
        (Answer.done (.bag (s.bagView h.key.handle { b with reason := some .held, reinduct := false }))))

/-- NOTICE READ: with no enabled source pending it answers none; otherwise it chooses an enabled pending source, one that is not
sticky before a sticky one, HIGH before LOW, the lowest number first, answers its lowest subject, and takes that subject from a
source that is not sticky (R180). -/
def Sys2Proof.Claim.NoticeReadChooses : Prop :=
  ∀ (h : Head) (s : State), Ready s h 0 →
    let rank (i : Nat) (n : Notice) : Nat := (if sticky i then 2 else 0) + (if n.priority = .low then 1 else 0)
    ((∀ n ∈ s.notices.sources, n.enabled = true → n.subjects = []) →
      exec (.noticeRead h) s = answered 0x50 h s.taken (Answer.done (.notice none))) ∧
    (∀ i n, s.notices.sources[i]? = some n → n.enabled = true → n.subjects ≠ [] →
      (∀ j m, s.notices.sources[j]? = some m → m.enabled = true → m.subjects ≠ [] →
        rank i n < rank j m ∨ rank i n = rank j m ∧ i ≤ j) →
      ∃ t, exec (.noticeRead h) s = answered 0x50 h t (Answer.done (.notice (some (i,
          if i < 3 then none else n.subjects.head?)))) ∧
        Changes [.notices, .discarded, .spiOut] s t ∧
        (sticky i = true → t.notices = s.notices) ∧
        (sticky i = false → t.notices.global = s.notices.global ∧
          t.notices.sources = s.notices.sources.set i { n with subjects := n.subjects.tail } ∧ NoticeLaw t))

/-- NOTICE MASK replaces every enable and priority and the global enable; NOTICE CLEAR empties a source's set, unless it is sticky
and its condition holds, which is refused STILL_ACTIVE; both drive NOTICE_N afresh (R179, R181). -/
def Sys2Proof.Claim.NoticeMaskAndClear : Prop :=
  ∀ (h : Head) (s : State),
    (∀ (l : List (Bool × Priority)) (g : Bool), Ready s h 31 → l.length = 15 →
      ∃ t, exec (.noticeMask h (l.map (fun e => (some e.1, some e.2))) (some g)) s =
          answered 0x51 h t (Answer.done .empty) ∧
        Changes [.notices, .discarded, .spiOut] s t ∧ t.notices.global = g ∧ NoticeLaw t ∧
        t.notices.sources = s.notices.sources.zipWith (fun n e => ⟨n.subjects, e.1, e.2⟩) l) ∧
    (Ready s h 0 → h.key.number < 15 →
      (s.stillActive h.key.number = true →
        exec (.noticeClear h) s = answered 0x52 h s.taken (Answer.refuse .stillActive)) ∧
      (s.stillActive h.key.number = false →
        ∃ t, exec (.noticeClear h) s = answered 0x52 h t (Answer.done .empty) ∧
          Changes [.notices, .discarded, .spiOut] s t ∧ t.notices.global = s.notices.global ∧ NoticeLaw t ∧
          t.notices.sources = s.notices.sources.modify h.key.number (fun n => { n with subjects := [] })))

/-- The conditions of the sticky sources: tracking FAILED for LOOP_FAILED; the bag table low, the pen hold, or a cart position
marked present and unregistered for CAPACITY; no other source has one (R31, R90, R115, R157, R179). -/
def Sys2Proof.Claim.StickyConditions : Prop :=
  ∀ (s : State) (i : Nat), s.stillActive i = true ↔
    i = 0 ∧ s.loop.track = .failed ∨
    i = 3 ∧ (16384 - s.store.bags.length < 64 ∨ s.pen.hold = true ∨
      ∃ k c, (k, c) ∈ s.chutes ∧ (c.posX = .marked ∨ c.posY = .marked))

/-- The notice requests, and the conditions of the sticky sources. -/
def Obligations.NoticesReadAndSet : Prop :=
  Claim.NoticeReadChooses ∧ Claim.NoticeMaskAndClear ∧ Claim.StickyConditions

/-! ## Frames: admission, sequence, silence, what is sent -/

/-- A frame that comes finds the bytes held until then read to their end, as after a gap of more than 1 ms, so that each whole
frame in them is taken before it (the model's choice, log 21). One taken in SETUP, or in REST from a configured node that is
neither the LOOP nor the ENCODE node, changes nothing but the receiver's bytes; one from a node that is not configured is
discarded, the receiver hunting again from the byte after its SYNC byte; an admitted frame of a kind that is not its node's role
ends with its sequence check (R44, R45, R46). -/
def Sys2Proof.Claim.FramesDiscarded : Prop :=
  ∀ (i : Instr) (f : FrameHead) (s : State), frameHead i = some f →
    (∃ u, exec (.frameByteTimeout [] 1001) s = .next u ∧ u.link.rx = [] ∧ exec i s = exec i u) ∧
    ((s.opState = .setup ∨
        s.opState = .rest ∧ HoldsNoFrame s ∧
          ∃ x r, s.node? f.node.toNat = some x ∧ x.role = some r ∧ r ≠ .loop ∧ r ≠ .encode) →
      ∃ l, exec i s = .next (s.setLink { s.link with rx := l })) ∧
    (HoldsNoFrame s → (∀ x, s.node? f.node.toNat = some x → x.role = none) → i.wellFormed = true →
      ∃ l, readFrame (0xA5 :: l) = some i ∧
        exec i s = exec (.frameDiscard l) (s.setLink { s.link with rx := [] })) ∧
    (∀ x, Admitted s f x → x.role ≠ frameRole i → exec i s = .next (s.afterCheck f x))

/-- An admitted frame ends with its sequence check also where it names an object that its node does not serve or that is not
configured, and where a byte of its payload is outside its table: an occupied indication or a position above 1, a read result
above 2, or one tag read that is 0 or above 999,999,999 (R43, R46, R183). -/
def Sys2Proof.Claim.FramesUnread : Prop :=
  ∀ (f : FrameHead) (x : Node) (s : State),
    let checked := fun i : Instr => exec i s = .next (s.afterCheck f x)
    let unread := fun (read : Byte) (tag : BitVec 32) =>
      2 < read.toNat ∨ read.toNat = 1 ∧ (tag.toNat = 0 ∨ 999999999 < tag.toNat)
    (Admitted s f x → ∀ (n b : Byte),
      ((n.toNat ∉ x.objects ∨ s.loop.points.get? n.toNat = none) → ∀ r w, checked (.launch f n r w)) ∧
      ((n.toNat ∉ x.objects ∨ s.loop.arches.get? n.toNat = none) → ∀ r w, checked (.arch f n b r w)) ∧
      ((n.toNat ∉ x.objects ∨ s.chute? n.toNat = none) → checked (.check f n b) ∧ checked (.land f n) ∧
        checked (.cartPresent f n b) ∧ ∀ r, checked (.cartRemoved f n b r)) ∧
      ((n.toNat ∉ x.objects ∨ s.door? n.toNat = none) → ∀ r w, checked (.doorscan f n r w)) ∧
      (1 < b.toNat → (∀ r w, checked (.arch f n b r w)) ∧ checked (.check f n b) ∧ checked (.cartPresent f n b) ∧
        ∀ r, checked (.cartRemoved f n b r)) ∧
      ∀ r w, unread r w → checked (.launch f n r w) ∧ checked (.arch f n b r w) ∧ checked (.doorscan f n r w)) ∧
    (AdmittedEncode s f x → ∀ n r w, unread r w → checked (.encode f n r w))

/-- The receiver, given bytes by FRAME_DISCARD or by FRAME_BYTE_TIMEOUT, hunts the SYNC byte in what it holds and they make. From
it on: a length above 8, or a whole frame that does not read as one or whose node is not configured, is discarded, and it hunts
on from the byte after the SYNC byte; a frame of a configured node is taken, and it goes on with the bytes after it; what is not
whole is kept, or, after a gap of more than 1 ms, discarded in the same way (R44; when a candidate is judged is the model's
reading, log 21). -/
def Sys2Proof.Claim.ReceiverReads : Prop :=
  ∀ (late : Bool) (bytes : List Byte) (s : State),
    let given := fun (l : List Byte) (u : State) =>
      if late = true then exec (.frameByteTimeout l 1001) u else exec (.frameDiscard l) u
    let cleared := s.setLink { s.link with rx := [] }
    (∀ gap, exec (.frameByteTimeout bytes gap) s =
      if 1000 < gap then exec (.frameByteTimeout bytes 1001) s else exec (.frameDiscard bytes) s) ∧
    ((s.link.rx ++ bytes).dropWhile (· != 0xA5) = [] → given bytes s = .next cleared) ∧
    (∀ t, (s.link.rx ++ bytes).dropWhile (· != 0xA5) = 0xA5 :: t →
      (t = [] ∨ (∃ len r, t = len :: r ∧ len.toNat ≤ 8 ∧ r.length < 6 + len.toNat) →
        (late = true → given bytes s = given t cleared) ∧
        (late = false → given bytes s = .next (s.setLink { s.link with rx := 0xA5 :: t }))) ∧
      (∀ len r, t = len :: r → 8 < len.toNat → given bytes s = given t cleared) ∧
      (∀ len r, t = len :: r → len.toNat ≤ 8 → 6 + len.toNat ≤ r.length →
        (readFrame (0xA5 :: len :: r.take (6 + len.toNat)) = none → given bytes s = given t cleared) ∧
        (∀ i f, readFrame (0xA5 :: len :: r.take (6 + len.toNat)) = some i → frameHead i = some f →
          ((∀ x, s.node? f.node.toNat = some x → x.role = none) → given bytes s = given t cleared) ∧
          (∀ x, s.node? f.node.toNat = some x → x.role ≠ none →
            ∃ u, exec i cleared = .next u ∧ given bytes s = given (r.drop (6 + len.toNat)) u))))

/-- Frames that are discarded, and what the receiver makes of bytes. -/
def Obligations.FramesNotTaken : Prop :=
  Claim.FramesDiscarded ∧ Claim.FramesUnread ∧ Claim.ReceiverReads

/-- The sequence check of a frame that is admitted, from any node in RUN and from the ENCODE node in REST: the node is LIVE, expects
the next sequence, and was heard now; its other fields, and every other node's, stay but for the outbound sequence. A gap of a LOOP,
INDUCT, ARCH or CHUTE node is one cause of loss; one of a DOOR node halts its doors, with DOOR_STOPPED; one of an ENCODE node has no
effect. An INDUCT node that returns frees its points of the cause NODE, and a DOOR node that returns, or is in sequence, its doors of
the reason NODE, their belts following. Nothing else changes: the return of a LOOP, ARCH, CHUTE or ENCODE node does nothing, nor does
a frame in sequence of any but a DOOR node (R45, R47, R48, R49, R52, R83, R134, R137; that a further gap of a DOOR node, where the
reason NODE already stands, puts its doors into DOOR_STOPPED again is the model's reading, log 25; the last processed pitch, which
stays, is the model's own field, log 3). -/
def Obligations.SequenceChecked : Prop :=
  ∀ (f : FrameHead) (x : Node) (s : State), s.node? f.node.toNat = some x →
    (s.opState = .run ∧ x.role.isSome = true ∨ s.opState = .rest ∧ x.role = some .encode) →
    let t := s.afterCheck f x
    let u := (s.setLink { s.link with rx := [] }).causeOfLoss
    let gap := x.state = .live ∧ x.expected ≠ some f.seq
    let heard : Node := { x with state := .live, expected := some (f.seq + 1), lastHeard := some s.hallSecond }
    Changes [.link, .loop, .doors, .notices] s t ∧ t.link.stampRef = s.link.stampRef ∧
    t.link.lastPitch = s.link.lastPitch ∧ t.link.rx = [] ∧ (∃ v, t.node? f.node.toNat = some { heard with outSeq := v }) ∧
    (∀ m y, m ≠ f.node.toNat → s.node? m = some y → ∃ v, t.node? m = some { y with outSeq := v }) ∧
    (gap → (x.role = some .loop ∨ x.role = some .induct ∨ x.role = some .arch ∨ x.role = some .chute) →
      t.loop = u.loop ∧ t.notices = u.notices ∧ t.link.txQueue = u.link.txQueue ∧ t.doors = s.doors ∧
      t.loop.track ≠ .tracking ∧ t.loop.track ≠ .confirming) ∧
    (gap → x.role = some .door → t.loop = s.loop ∧
      (∀ d y, d ∈ x.objects → s.door? d = some y →
        t.door? d = some { y with halts := { y.halts with node := true }, running := false } ∧
        (s.notices.sources.length = 15 → d ∈ t.subjects .doorStopped)) ∧
      (∀ d, d ∉ x.objects → t.door? d = s.door? d) ∧ ∀ w, w ≠ .doorStopped → t.subjects w = s.subjects w) ∧
    (¬gap → x.role = some .door → t.loop = s.loop ∧ t.notices = s.notices ∧
      (∀ d y, d ∈ x.objects → s.door? d = some y → ∃ z, t.door? d = some z ∧
        z = { y with halts := { y.halts with node := false }, running := t.beltRuns z }) ∧
      ∀ d, d ∉ x.objects → t.door? d = s.door? d) ∧
    (x.state ≠ .live → x.role = some .induct → t.loop = { s.loop with points := t.loop.points } ∧
      t.doors = s.doors ∧ t.notices = s.notices ∧
      ∀ i, t.loop.points.get? i = if i ∈ x.objects then (s.loop.points.get? i).map (fun p =>
        ⟨p.offset, p.node, { p.causes with node := false }, { p.causes with node := false }.isEmpty⟩)
      else s.loop.points.get? i) ∧
    ((x.role = some .encode ∨ x.role = some .induct ∧ x.state = .live ∧ x.expected = some f.seq ∨
        ¬gap ∧ (x.role = some .loop ∨ x.role = some .arch ∨ x.role = some .chute)) →
      t = s.setLink { s.link with rx := [], nodes := t.link.nodes } ∧ t.node? f.node.toNat = some heard ∧
      ∀ m, m ≠ f.node.toNat → t.node? m = s.node? m)

/-- A cause of loss: in TRACKING or CONFIRMING the loss count rises, to ANCHORING with LOOP_LOST below the loss limit and to FAILED
with LOOP_FAILED at it; the runs and the home mark are cleared, and every point takes TRACKING. In ANCHORING and FAILED it
changes nothing (R83). -/
def Obligations.LossCounted : Prop :=
  ∀ s : State,
    ((s.loop.track = .anchoring ∨ s.loop.track = .failed) → s.causeOfLoss = s) ∧
    ((s.loop.track = .tracking ∨ s.loop.track = .confirming) →
      let t := s.causeOfLoss
      Changes [.link, .loop, .notices] s t ∧ t.loop.confirmRun = 0 ∧ t.loop.mismatchRun = 0 ∧
      t.loop.homeMark = false ∧ t.loop.pos = s.loop.pos ∧ t.loop.carriers = s.loop.carriers ∧
      (∀ i p, t.loop.points.get? i = some p → p.causes.tracking = true) ∧
      (s.loop.lossCount + 1 < s.limits.loss → t.loop.track = .anchoring ∧ t.loop.lossCount = s.loop.lossCount + 1 ∧
        t.notices = (s.raise .loopLost 0).notices) ∧
      (s.limits.loss ≤ s.loop.lossCount + 1 → t.loop.track = .failed ∧ t.loop.lossCount = s.limits.loss ∧
        t.notices = (s.raise .loopFailed 0).notices))

/-- NODE_DOWN: a LIVE node whose silence reached the timeout in RUN becomes DOWN with its notice, and takes effect by its role: LOOP and
ARCH one cause of loss; INDUCT the cause NODE on its points; CHUTE FAULT(NODE) for each of its chutes that is OPEN or BLOCKED, with its
number in CHUTE_FAULT; DOOR the reason NODE on its doors, with DOOR_STOPPED; ENCODE none. Where it is no cause of loss, tracking stays as
it stands. Otherwise, a node never heard and a number that is no node's among the rest, nothing changes (R51, R83, R109, R137; that
NODE_DOWN acts only when due is the model's choice, log 2; that a DOWN puts a door into DOOR_STOPPED also where the reason NODE already
stands is its reading, log 25). -/
def Obligations.SilentNodeGoesDown : Prop :=
  ∀ (n : Nat) (s : State),
    let due := fun x : Node => s.opState = .run ∧ x.state = .live ∧ ∃ l, x.lastHeard = some l ∧
      l + s.limits.silence ≤ s.hallSecond
    (∀ x, s.node? n = some x → due x →
      ∃ t, exec (.nodeDown n) s = .next t ∧ Changes [.link, .loop, .doors, .chutes, .notices] s t ∧
        let others := fun l : List Source => ∀ w, w ∉ l → w ≠ .nodeDown → t.subjects w = s.subjects w
        (∃ v, t.node? n = some { x with state := .down, outSeq := v }) ∧
        (∀ m y, m ≠ n → s.node? m = some y → ∃ v, t.node? m = some { y with outSeq := v }) ∧
        t.link.stampRef = s.link.stampRef ∧
        (s.notices.sources.length = 15 → ∀ m, m ∈ t.subjects .nodeDown ↔ m ∈ s.subjects .nodeDown ∨ m = n) ∧
        ((x.role = some .loop ∨ x.role = some .arch) → t.loop = s.causeOfLoss.loop ∧ t.doors = s.doors ∧
          t.chutes = s.chutes ∧ t.loop.track ≠ .tracking ∧ t.loop.track ≠ .confirming ∧
          ∀ w, w ≠ .nodeDown → t.subjects w = s.causeOfLoss.subjects w) ∧
        (x.role = some .induct → t.loop = { s.loop with points := t.loop.points } ∧ t.doors = s.doors ∧
          t.chutes = s.chutes ∧ others [] ∧
          ∀ i, t.loop.points.get? i = if i ∈ x.objects then (s.loop.points.get? i).map (fun p =>
            ⟨p.offset, p.node, { p.causes with node := true }, false⟩) else s.loop.points.get? i) ∧
        (x.role = some .chute → t.loop = s.loop ∧ t.doors = s.doors ∧ others [.chuteFault] ∧
          (∀ k c, k ∈ x.objects → s.chute? k = some c → t.chute? k = some { c with
            state := if c.state = .opened ∨ c.state = .blocked then .fault .node else c.state }) ∧
          (∀ k, k ∉ x.objects → t.chute? k = s.chute? k) ∧
          (s.notices.sources.length = 15 → ∀ m, m ∈ t.subjects .chuteFault ↔ m ∈ s.subjects .chuteFault ∨
            m ∈ x.objects ∧ ∃ c, s.chute? m = some c ∧ (c.state = .opened ∨ c.state = .blocked))) ∧
        (x.role = some .door → t.loop = s.loop ∧ t.chutes = s.chutes ∧ others [.doorStopped] ∧
          (∀ d y, d ∈ x.objects → s.door? d = some y →
            t.door? d = some { y with halts := { y.halts with node := true }, running := false } ∧
            (s.notices.sources.length = 15 → d ∈ t.subjects .doorStopped)) ∧
          ∀ d, d ∉ x.objects → t.door? d = s.door? d) ∧
        (x.role = some .encode → t.loop = s.loop ∧ t.doors = s.doors ∧ t.chutes = s.chutes ∧ others [])) ∧
    ((∀ x, s.node? n = some x → ¬due x) → exec (.nodeDown n) s = .next s)

/-- What making a frame does: nothing for an object that no node serves; the frame of the object's level that waits takes the new
payload in its place, and no frame is added; else a frame joins the tail, addressed to the node that serves the object, with that
node's outbound sequence, which advances by 1; with 64 frames waiting it is not sent and the sequence stays (R43, R56; that a
waiting frame keeps its node where CONFIG NODE has since bound the object to another, and its level where no node serves the object,
is the model's choice, log 34; the stamp is S as it is when the frame is made, which of the two stamps is sent being a free choice,
log 10). -/
def Sys2Proof.Claim.FrameMade : Prop :=
  ∀ (s : State) (r : Role) (object : Nat) (p : OutPayload),
    let t := s.send r object p
    let waits := fun f : OutFrame => levelOf p ≠ none ∧ levelOf f.payload = levelOf p
    (s.servingNode r object = none → t = s) ∧
    (∀ n, s.servingNode r object = some n →
      ((∃ f ∈ s.link.txQueue, waits f) → ∃ q, t = s.setLink { s.link with txQueue := q } ∧
        q.length = s.link.txQueue.length ∧ ∀ (j : Nat) (f : OutFrame), s.link.txQueue[j]? = some f →
          (waits f → q[j]? = some { f with payload := p }) ∧ (¬waits f → q[j]? = some f)) ∧
      ((∀ f ∈ s.link.txQueue, ¬waits f) → s.link.txQueue.length < txCapacity → ∃ x, s.node? n = some x ∧
        x.role = some r ∧ (r = .loop ∨ r = .encode ∨ object ∈ x.objects) ∧
        t.node? n = some { x with outSeq := x.outSeq + 1 } ∧ (∀ m, m ≠ n → t.node? m = s.node? m) ∧
        t = s.setLink { s.link with
          nodes := t.link.nodes
          txQueue := s.link.txQueue ++ [⟨n, x.outSeq, s.link.stampRef.getD 0, p⟩] }) ∧
      ((∀ f ∈ s.link.txQueue, ¬waits f) → txCapacity ≤ s.link.txQueue.length → t = s))

/-- LEVEL_REFRESH makes a level frame, with the present level, for every configured point and door that a node serves, and changes
nothing else: a waiting level frame of an object takes that object's level and keeps its place, node and sequence, and no second
frame is added for it; else, while fewer than 64 wait, a frame joins the tail, with the serving node's outbound sequence, which
advances with each (R56, R58; the order, points before doors, is the model's choice, log 12, and that a waiting frame keeps its node
is too, log 34). -/
def Sys2Proof.Claim.LevelRefreshMakes : Prop :=
  ∀ s : State, ∃ t, exec .levelRefresh s = .next t ∧ Changes [.link] s t ∧ t = s.sendAll (levelsDue s) ∧
    t.link = { s.link with txQueue := t.link.txQueue, nodes := t.link.nodes } ∧
    s.link.txQueue.length ≤ t.link.txQueue.length ∧ t.link.txQueue.length ≤ max s.link.txQueue.length txCapacity ∧
    (∀ n x, s.node? n = some x → t.node? n = some { x with
        outSeq := x.outSeq + BitVec.ofNat 8 ((t.link.txQueue.filter (fun f => f.node == n)).length -
          (s.link.txQueue.filter (fun f => f.node == n)).length) }) ∧
    (Table.wf s.loop.points = true → Table.wf s.doors = true →
      LevelsMade s t (s.link.stampRef.getD 0) (levelsDue s))

/-- FRAME_TRANSMIT sends the oldest frame, its stamp byte S as it is sent or as it was when made (a free choice, log 10); with none
waiting it changes nothing (R56). -/
def Sys2Proof.Claim.FrameTransmitSends : Prop :=
  ∀ s : State,
    (s.link.txQueue = [] → exec .frameTransmit s = .next s) ∧
    (∀ f rest, s.link.txQueue = f :: rest →
      ∃ b, (b = s.link.stampRef.getD 0 ∨ b = f.stamp) ∧
        exec .frameTransmit s = .next (s.setLink { s.link with txQueue := rest, lineTx := f.bytes b }))

/-- What making a frame does, LEVEL_REFRESH and FRAME_TRANSMIT. -/
def Obligations.FramesMadeAndSent : Prop :=
  Claim.FrameMade ∧ Claim.LevelRefreshMakes ∧ Claim.FrameTransmitSends

/-! ## Frames about the loop -/

/-- The destination rule, line by line (R95). -/
def Obligations.DestinationByLines : Prop :=
  ∀ (s : State) (b : Bag) (kind : ChuteKind),
    (∀ r, b.reason = some r → s.destination b kind = .stray r) ∧
    (b.reason = none →
      (b.laps = s.limits.recirc → s.destination b kind = .stray .recircLimit) ∧
      (b.laps ≠ s.limits.recirc →
        (b.hold = true → s.destination b kind = .stray .held) ∧
        (b.hold = false →
          ((∃ k, b.home = some k ∧ s.slotState k.slot = .closing) → s.destination b kind = .stray .wrongSailing) ∧
          ((∀ k, b.home = some k → s.slotState k.slot ≠ .closing) →
            ((b.pull ≠ none ∨ ∃ c, s.store.governing b = some c ∧ c.status = .void ∧ c.forward = none) →
              s.destination b kind = .stray .pulled) ∧
            (b.pull = none → (∀ c, s.store.governing b = some c → ¬(c.status = .void ∧ c.forward = none)) →
              (b.recheck = true → kind = .deck → s.destination b kind = .nowhere) ∧
              ((b.recheck = false ∨ kind = .stray) →
                (∀ k c, b.home = some k → s.store.governing b = some c →
                  s.destination b kind = .route ⟨k.slot, c.route⟩) ∧
                (b.home = none → s.destination b kind =
                  .stray (if b.tag = none then .noRead else .unknownTag))))))))

/-- A decision point: the carrier that stands there is armed for the chute where it is LOADED and unarmed, tracking is TRACKING,
the chute has credit, and the destination of its bag, after the demand check, is the chute's; its mark and the reservation are
made, and the DIVERT joins the tail of the transmit queue, addressed to the node that serves the chute with that node's outbound
sequence, which advances, or is not sent where 64 frames wait. Otherwise no carrier is armed. Every other carrier and chute, and the
rest of the loop, stay as they were (R56, R57, R94, R97 to R99, R148; the stamp byte is S as it is when the frame is made or sent, log
10). -/
def Sys2Proof.Claim.CarrierArms : Prop :=
  ∀ (pitch : Byte) (k : Nat) (c : Chute) (s : State), s.chute? k = some c →
    let i := (((s.loop.pos : Int) - (c.offset : Int) + (c.lead : Int)) % (s.loop.carriers.length : Int)).toNat
    let t := s.serveChute pitch k
    (s.loop.track ≠ .tracking → t = s) ∧
    (∀ e, s.carrier? i = some e → (e.armed ≠ none ∨ ∀ g, e.content ≠ .loaded g) → t = s) ∧
    (∀ g b, s.loop.track = .tracking → s.carrier? i = some ⟨.loaded g, none⟩ → s.bag? g = some b →
      let dest := s.destination (s.store.checked b) c.kind;
      let arms := fun w : Option StrayReason =>
        t.carrier? i = some ⟨.loaded g, some ⟨k, c.lead + 3, w⟩⟩ ∧ t.chute? k = some { c with reserved := c.reserved + 1 } ∧
        (∀ j, j ≠ i → t.carrier? j = s.carrier? j) ∧ (∀ j, j ≠ k → t.chute? j = s.chute? j) ∧
        t.loop = { s.loop with carriers := t.loop.carriers } ∧
        (∀ n, s.servingNode .chute k = some n → s.link.txQueue.length < txCapacity → ∃ x, s.node? n = some x ∧
          x.role = some .chute ∧ k ∈ x.objects ∧ t.node? n = some { x with outSeq := x.outSeq + 1 } ∧
          (∀ m, m ≠ n → t.node? m = s.node? m) ∧ t.link = { s.link with
            nodes := t.link.nodes
            txQueue := s.link.txQueue ++
              [⟨n, x.outSeq, s.link.stampRef.getD 0, .divert k (pitch + BitVec.ofNat 8 c.lead)⟩] }) ∧
        (txCapacity ≤ s.link.txQueue.length → t.link = s.link);
      t.bag? g = some (s.store.checked b) ∧ Changes [.store, .loop, .chutes, .link] s t ∧
      (∀ j, j ≠ g.index → t.store.bags.get? j = s.store.bags.get? j) ∧
      (∀ r, 1 ≤ s.credit c → dest = .stray r → c.kind = .stray → arms (some r)) ∧
      (∀ r, 1 ≤ s.credit c → dest = .route r → c.kind = .deck → c.assigned = some r → arms none) ∧
      ((s.credit c = 0 ∨ dest = .nowhere ∨ (∃ r, dest = .stray r) ∧ c.kind = .deck ∨
          ∃ r, dest = .route r ∧ (c.kind = .stray ∨ c.assigned ≠ some r)) →
        t.loop = s.loop ∧ t.chutes = s.chutes ∧ t.link = s.link))

/-- The credit of a chute: 0 where it is not OPEN; of an OPEN DECK chute the free places of its active cart less the chute's
claims, 0 with no active cart or a CLOSING one; of an OPEN STRAY chute the free pen positions less the claims of all STRAY chutes,
which is also the room that a request tests while ignoring chute state (R113, R154). -/
def Sys2Proof.Claim.CreditCounts : Prop :=
  ∀ (s : State) (c : Chute),
    let claims := fun c : Chute => c.reserved + c.landing.length + c.jams.length
    s.penRoom = (s.pen.size - s.pen.positions.length) - (s.chutes.map (fun e => if e.2.kind = .stray then claims e.2 else 0)).sum ∧
    (c.state ≠ .opened → s.credit c = 0) ∧
    (c.state = .opened → c.kind = .stray → s.credit c = s.penRoom) ∧
    (c.state = .opened → c.kind = .deck →
      (c.active = none → s.credit c = 0) ∧
      (∀ p n x, c.active = some p → c.position p = .cart n → s.cart? n = some x → s.credit c =
        if x.state = .closing then 0 else (x.capacity - (x.entries.length + x.unidentified)) - claims c))

/-- A decision point, and the credit it tests. -/
def Obligations.DecisionPointArms : Prop :=
  Claim.CarrierArms ∧ Claim.CreditCounts

/-- A PITCH of count c is taken: S becomes c. With S absent no pitch is processed; at a difference of 1 to 8 from S that many
pitches are, in turn, and at any other none; any difference but 1 is a cause of loss first. A pitch advances the position by 1;
the bag of the carrier that comes home makes a lap, up to the recirc limit; every armed mark's remaining pitches fall by 1; then
the chutes' decision points are served, the marks at 0 end their diverts, and the landing deadlines reached jam (R53, R64, R65,
R94, R104, R122; the order within a pitch is the model's reading, log 11; the last processed pitch, absent after a PITCH that
processes none, is the model's own field, log 3). -/
def Obligations.PitchAdvances : Prop :=
  ∀ (f : FrameHead) (x : Node) (s : State), Admitted s f x → x.role = some .loop →
    let s1 := s.afterCheck f x
    let onePitch := fun (u : State) (c : Byte) =>
      let moved := u.setLoop { u.loop with pos := (u.loop.pos + 1) % u.loop.carriers.length }
      let lapped := match moved.carrier? moved.loop.pos with
        | some ⟨.loaded g, _⟩ => moved.modifyBag g (fun b => { b with laps := min (b.laps + 1) u.limits.recirc })
        | _ => moved
      let lowered := (lapped.setLink { lapped.link with lastPitch := some c }).setLoop { lapped.loop with
        carriers := lapped.loop.carriers.map (fun e =>
          { e with armed := e.armed.map (fun m => { m with remaining := m.remaining - 1 }) }) }
      let served := (s.chutes.map (·.1)).foldl (fun v k => v.serveChute c k) lowered
      let ended := (List.range s.loop.carriers.length).foldl (fun v i => v.testMark c i) served
      (s.chutes.map (·.1)).foldl (fun v k => v.jamDue c k) ended
    (s.link.stampRef = none →
      exec (.pitch f) s = .next (s1.setLink { s1.link with lastPitch := none, stampRef := some f.stamp })) ∧
    (∀ r, s.link.stampRef = some r →
      let k := (f.stamp - r).toNat
      ((k = 0 ∨ 8 < k) → exec (.pitch f) s = .next (s1.causeOfLoss.setLink
        { s1.causeOfLoss.link with lastPitch := none, stampRef := some f.stamp })) ∧
      (1 ≤ k → k ≤ 8 →
        let u := (List.range k).foldl (fun v j => onePitch v (r + BitVec.ofNat 8 (j + 1)))
          (if k = 1 then s1 else s1.causeOfLoss)
        exec (.pitch f) s = .next (u.setLink { u.link with stampRef := some f.stamp })) ∧
      ∃ t, exec (.pitch f) s = .next t ∧
        Changes [.store, .loop, .chutes, .link, .carts, .notices] s1 t ∧
        t.link.stampRef = some f.stamp ∧ t.loop.carriers.length = s.loop.carriers.length ∧
        t.loop.pos = (if 1 ≤ k ∧ k ≤ 8 then (s.loop.pos + k) % s.loop.carriers.length else s.loop.pos) ∧
        (k ≠ 1 → t.loop.track ≠ .tracking ∧ t.loop.track ≠ .confirming) ∧
        (k = 1 → t.loop.track = s1.loop.track ∧
          ∀ c g b, s.carrier? ((s.loop.pos + 1) % s.loop.carriers.length) = some c → c.content = .loaded g →
            s.bag? g = some b → ∃ y, t.bag? g = some y ∧ y.laps = min (b.laps + 1) s.limits.recirc))

/-- CHECK_DEADLINE, where the last processed pitch has taken a mark's remaining pitches to 0: the divert ends, its bag LANDING with
the deadline that pitch plus the landing window, its RECHECK clear, its other fields and its slot's counters as they were, the
reservation released and the carrier UNKNOWN, and a CLOSING cart of the chute that then has no claims left is CUT, and the chute
swaps. Otherwise, without a last processed pitch, at a carrier that is not armed
and at a number that is no carrier's too, nothing changes (R2, R28, R104, R118, R119; logs 2 and 3). -/
def Sys2Proof.Claim.CheckDeadlineEnds : Prop :=
  ∀ (i : Nat) (s : State),
    (s.link.lastPitch = none → exec (.checkDeadline i) s = .next s) ∧
    ((∀ y m, s.carrier? i = some ⟨y, some m⟩ → m.remaining ≠ 0) → exec (.checkDeadline i) s = .next s) ∧
    (∀ (p : Byte) (m : Mark) (y : Content) (c : Chute), s.link.lastPitch = some p →
      s.carrier? i = some ⟨y, some m⟩ → s.chute? m.chute = some c → m.remaining = 0 →
      ∃ t d, exec (.checkDeadline i) s = .next t ∧
        Changes [.store, .loop, .chutes, .carts, .notices] s t ∧ t.carrier? i = some ⟨.unknown, none⟩ ∧
        (∀ j, j ≠ i → t.carrier? j = s.carrier? j) ∧ (∀ j, j ≠ m.chute → t.chute? j = s.chute? j) ∧
        t.chute? m.chute = some d ∧ d.reserved = c.reserved - 1 ∧
        d = { c with reserved := d.reserved, landing := d.landing, active := d.active, state := d.state } ∧
        CutSettled s t m.chute c d c.state ∧
        (∀ g b, y = .loaded g → s.bag? g = some b →
          d.landing = c.landing ++ [⟨g, p + BitVec.ofNat 8 c.window⟩] ∧
          (∀ j, j ≠ g.index → t.store.bags.get? j = s.store.bags.get? j) ∧
          t.bag? g = some { b with
            state := .landing, location := some (.chute m.chute), reason := m.reason.or b.reason,
            recheck := b.recheck && b.state != .onLoop, reinduct := b.reinduct && b.state != .stray,
            aged := b.aged && b.state != .stray, entered := none } ∧
          (b.state = .onLoop → Counted s t b id)) ∧
        ((∀ g, y ≠ .loaded g) → d.landing = c.landing ∧ t.store = s.store))

/-- LANDING_DEADLINE: every pending entry of a chute whose deadline the last processed pitch has reached (their difference, modulo
256, is 0 to 127) becomes JAMMED and joins the tail of the jam list in order, with the JAM notice; with none due, without a last
processed pitch, and at a chute that is not configured, nothing changes (R122; logs 2 and 3). -/
def Sys2Proof.Claim.LandingDeadlineJams : Prop :=
  ∀ (k : Nat) (s : State),
    (s.link.lastPitch = none → exec (.landingDeadline k) s = .next s) ∧
    (s.chute? k = none → exec (.landingDeadline k) s = .next s) ∧
    (∀ (p : Byte) (c : Chute), s.link.lastPitch = some p → s.chute? k = some c →
      let due := c.landing.filter (fun e => decide ((p - e.deadline).toNat ≤ 127))
      (due = [] → exec (.landingDeadline k) s = .next s) ∧
      (due ≠ [] → ∃ t, exec (.landingDeadline k) s = .next t ∧ Changes [.store, .chutes, .notices] s t ∧
        t.chute? k = some { c with
          landing := c.landing.filter (fun e => !decide ((p - e.deadline).toNat ≤ 127))
          jams := c.jams ++ due.map (·.bag) } ∧
        (∀ j, j ≠ k → t.chute? j = s.chute? j) ∧
        (∀ e ∈ due, ∀ b, s.bag? e.bag = some b → t.bag? e.bag = some { b with
          state := .jammed, location := some (.chute k), recheck := b.recheck && b.state != .onLoop,
          reinduct := b.reinduct && b.state != .stray, aged := b.aged && b.state != .stray, entered := none }) ∧
        (s.notices.sources.length = 15 → k ∈ t.subjects .jam)))

/-- The two deadlines of a pitch. -/
def Obligations.DeadlinesAct : Prop :=
  Claim.CheckDeadlineEnds ∧ Claim.LandingDeadlineJams

/-- HOME, resolved to carrier c with difference d: it re-anchors in ANCHORING, which becomes CONFIRMING, and in FAILED; in
CONFIRMING and TRACKING one that is incorrect re-anchors and is a cause of loss; a correct one in TRACKING resets the loss count
where the home mark was set, and sets the mark; with S absent it is discarded, and a STALE one is a cause of loss (R53 to R55,
R66, R67). -/
def Obligations.HomeActs : Prop :=
  ∀ (f : FrameHead) (x : Node) (s : State), Admitted s f x → x.role = some .loop →
    let s1 := s.afterCheck f x;
    (s.link.stampRef = none → exec (.home f) s = .next s1) ∧
    (StaleStamp s f.stamp → exec (.home f) s = .next s1.causeOfLoss) ∧
    (∀ c d, ResolvesTo s f.stamp 0 c d →
      let anchored : Loop := { s1.loop with pos := ((-d) % (s1.loop.carriers.length : Int)).toNat };
      (s1.loop.track = .anchoring →
        exec (.home f) s = .next (s1.setLoop { anchored with track := .confirming, confirmRun := 0 })) ∧
      (s1.loop.track = .failed → exec (.home f) s = .next (s1.setLoop anchored)) ∧
      ((s1.loop.track = .confirming ∨ s1.loop.track = .tracking) → c ≠ 0 →
        exec (.home f) s = .next (s1.setLoop anchored).causeOfLoss) ∧
      (s1.loop.track = .confirming → c = 0 → exec (.home f) s = .next s1) ∧
      (s1.loop.track = .tracking → c = 0 → exec (.home f) s = .next (s1.setLoop { s1.loop with
        lossCount := if s1.loop.homeMark = true then 0 else s1.loop.lossCount, homeMark := true })))

/-- LAUNCH of a tag, resolved to carrier c: the bag it names, REGISTERED, MISSING, STRAY or already on that carrier, goes onto
it with laps 0, RECHECK clear and the demand check; a stray leaves its position and loses its reason; on a carrier that held
another bag, that bag becomes MISSING and the launched one has reason DOUBLE_LOAD; a position freed is tested for the pen hold (R2,
R68 to R70, R78, R148, R156, R157). -/
def Sys2Proof.Claim.LaunchFinds : Prop :=
  ∀ (f : FrameHead) (point read : Byte) (tag : BitVec 32) (x : Node) (p : Induction) (c : Nat) (d : Int) (e : Carrier)
    (g : Handle) (b : Bag) (s : State), Admitted s f x → Serves s x .induct point.toNat →
    s.loop.points.get? point.toNat = some p → ResolvesTo s f.stamp p.offset c d → s.carrier? c = some e →
    FoundBag s read tag g b →
    (b.state = .registered ∨ b.state = .missing ∨ b.state = .stray ∨
      b.state = .onLoop ∧ b.location = some (.carrier c)) →
    let s1 := s.afterCheck f x;
    let launched := fun w : Option StrayReason => { b with
      state := .onLoop, location := some (.carrier c), laps := 0, recheck := false, reason := w, pull := demanded s b,
      reinduct := b.reinduct && b.state != .stray, aged := b.aged && b.state != .stray, entered := none };
    ((∀ o, e.content = .loaded o → o = g) → ∃ t, exec (.launch f point read tag) s = .next t ∧
      Changes [.store, .loop, .pen, .link, .notices] s1 t ∧ (b.state ≠ .stray → Changes [.store, .loop] s1 t) ∧
      t.carrier? c = some ⟨.loaded g, e.armed⟩ ∧ (∀ i, i ≠ c → t.carrier? i = s.carrier? i) ∧
      t.bag? g = some (launched (if b.state = .stray then none else b.reason)) ∧
      (∀ i, i ≠ g.index → t.store.bags.get? i = s.store.bags.get? i) ∧ t.store.tagMap = s.store.tagMap ∧
      (∀ k, b.home = some k → (t.store.slot k.slot).counts = (if b.state = .onLoop then (s.store.slot k.slot).counts
        else ((s.store.slot k.slot).counts.dec b.state).inc .onLoop)) ∧
      (∀ q, b.state = .stray → b.location = some (.pen q) → t.pen.positions.get? q = none ∧ g ∉ t.pen.strays ∧
        q ∉ t.subjects .strayAged ∧ ∀ j, j ≠ q → t.pen.positions.get? j = s.pen.positions.get? j) ∧
      t.loop = { s1.loop with points := t.loop.points, carriers := t.loop.carriers } ∧
      (BagTableLaw s → HoldsFollow s1 t (InPen b))) ∧
    (∀ o ob, e.content = .loaded o → o ≠ g → s.bag? o = some ob → ∃ t z,
      exec (.launch f point read tag) s = .next t ∧ Changes [.store, .loop, .pen, .link, .notices] s1 t ∧
      t.carrier? c = some ⟨.loaded g, e.armed⟩ ∧ t.bag? g = some (launched (some .doubleLoad)) ∧
      t.bag? o = some z ∧ z.state = .missing ∧ z.location = none ∧ z.tag = ob.tag ∧ z.home = ob.home ∧
      (∀ i, i ≠ g.index → i ≠ o.index → t.store.bags.get? i = s.store.bags.get? i) ∧
      (ob.state = .onLoop → ∀ v, let lost := LostCounts s ob v
        (t.store.slot v).counts = if b.home.any (fun k => k.slot == v) = true ∧ b.state ≠ .onLoop
          then (lost.dec b.state).inc .onLoop else lost) ∧
      t.loop = { s1.loop with points := t.loop.points, carriers := t.loop.carriers } ∧
      (BagTableLaw s → HoldsFollow s1 t (InPen b)))

/-- LAUNCH of a read that brings a new bag, resolved to carrier c: the bag goes onto the carrier with the read's reason, an
unknown tag kept and in the map, a tag of another bag or of a CLOSING slot's bag not; with no record free the carrier becomes
UNKNOWN; on a carrier that held a bag, that bag becomes MISSING and the new one has reason DOUBLE_LOAD; a creation is tested for
the bag-table low condition (R21, R31, R68 to R70, R78). -/
def Sys2Proof.Claim.LaunchCreates : Prop :=
  ∀ (f : FrameHead) (point read : Byte) (tag : BitVec 32) (x : Node) (p : Induction) (c : Nat) (d : Int) (e : Carrier)
    (tagged : Option Nat) (why : StrayReason) (s : State), Admitted s f x → Serves s x .induct point.toNat →
    s.loop.points.get? point.toNat = some p → ResolvesTo s f.stamp p.offset c d → s.carrier? c = some e →
    NewBag s read tag (fun b => b.state = .registered ∨ b.state = .missing ∨ b.state = .stray ∨
      b.state = .onLoop ∧ b.location = some (.carrier c)) tagged why →
    let s1 := s.afterCheck f x;
    let fresh := fun w : StrayReason =>
      (⟨tagged, none, .onLoop, some (.carrier c), 0, none, false, false, false, false, some w, none⟩ : Bag);
    ((∀ o, e.content ≠ .loaded o) →
      (bagRecords ≤ s.store.bags.length →
        exec (.launch f point read tag) s = .next (s1.setContent c .unknown)) ∧
      (s.store.bags.length < bagRecords → ∃ t g, exec (.launch f point read tag) s = .next t ∧
        Changes [.store, .link, .loop, .notices] s1 t ∧ t.carrier? c = some ⟨.loaded g, e.armed⟩ ∧
        Created s t g none (fresh why) ∧ (∀ k, (t.store.slot k).counts = (s.store.slot k).counts) ∧
        t.loop = { s1.loop with points := t.loop.points, carriers := t.loop.carriers } ∧
        (BagTableLaw s → HoldsFollow s1 t False))) ∧
    (∀ o ob, e.content = .loaded o → s.bag? o = some ob → BagTableLaw s → ∃ t z,
      exec (.launch f point read tag) s = .next t ∧ Changes [.store, .link, .loop, .notices] s1 t ∧
      t.bag? o = some z ∧ z.state = .missing ∧ z.location = none ∧ z.tag = ob.tag ∧ z.home = ob.home ∧
      (bagRecords ≤ s.store.bags.length → t.carrier? c = some ⟨.unknown, e.armed⟩) ∧
      (s.store.bags.length < bagRecords → ∃ g, t.carrier? c = some ⟨.loaded g, e.armed⟩ ∧
        Created s t g (some o.index) (fresh .doubleLoad)) ∧
      (ob.state = .onLoop → ∀ v, (t.store.slot v).counts = LostCounts s ob v) ∧
      t.loop = { s1.loop with points := t.loop.points, carriers := t.loop.carriers } ∧ HoldsFollow s1 t False)

/-- LAUNCH that is not resolved: while S is absent it ends with its sequence check, and a STALE one is a cause of loss after it
(R53, R55). -/
def Sys2Proof.Claim.LaunchUnresolved : Prop :=
  ∀ (f : FrameHead) (point read : Byte) (tag : BitVec 32) (x : Node) (s : State), Admitted s f x →
    Serves s x .induct point.toNat →
    (read.toNat = 0 ∨ read.toNat = 2 ∨ read.toNat = 1 ∧ 1 ≤ tag.toNat ∧ tag.toNat ≤ 999999999) →
    (s.link.stampRef = none → exec (.launch f point read tag) s = .next (s.afterCheck f x)) ∧
    (StaleStamp s f.stamp → exec (.launch f point read tag) s = .next (s.afterCheck f x).causeOfLoss)

/-- LAUNCH of a bag found and of a new one. -/
def Obligations.LaunchPlaces : Prop :=
  Claim.LaunchFinds ∧ Claim.LaunchCreates ∧ Claim.LaunchUnresolved

/-- ARCH, resolved to carrier c. In ANCHORING and FAILED it changes nothing after the sequence check. In CONFIRMING and TRACKING,
of a carrier believed LOADED with a bag: seen empty, the bag is MISSING, counted so, and the carrier EMPTY, a mismatch; the bag's
own tag clears RECHECK, a confirmation; seen occupied with no read, or with several, nothing changes (R2, R71, R74, R85, R86). -/
def Sys2Proof.Claim.ArchObserves : Prop :=
  ∀ (f : FrameHead) (arch occupied read : Byte) (tag : BitVec 32) (x : Node) (a : Arch) (c : Nat) (d : Int) (e : Carrier)
    (s : State), Admitted s f x → Serves s x .arch arch.toNat → s.loop.arches.get? arch.toNat = some a →
    ResolvesTo s f.stamp a.offset c d → s.carrier? c = some e → occupied.toNat ≤ 1 →
    (read.toNat = 0 ∨ read.toNat = 2 ∨ read.toNat = 1 ∧ 1 ≤ tag.toNat ∧ tag.toNat ≤ 999999999) →
    let s1 := s.afterCheck f x;
    ((s1.loop.track = .anchoring ∨ s1.loop.track = .failed) → exec (.arch f arch occupied read tag) s = .next s1) ∧
    ((s1.loop.track = .confirming ∨ s1.loop.track = .tracking) → ∀ g b, e.content = .loaded g → s.bag? g = some b →
      (occupied.toNat = 0 → read.toNat = 0 → ∃ u, exec (.arch f arch occupied read tag) s = .next (u.classify .mismatch) ∧
        Changes [.store, .loop] s1 u ∧ u.loop = { s1.loop with carriers := u.loop.carriers } ∧
        u.carrier? c = some ⟨.empty, e.armed⟩ ∧ (∀ i, i ≠ c → u.carrier? i = s.carrier? i) ∧
        u.bag? g = some { b with
          state := .missing, location := none, recheck := b.recheck && b.state != .onLoop,
          reinduct := b.reinduct && b.state != .stray, aged := b.aged && b.state != .stray, entered := none } ∧
        (∀ i, i ≠ g.index → u.store.bags.get? i = s.store.bags.get? i) ∧ u.store.tagMap = s.store.tagMap ∧
        (b.state = .onLoop → Counted s u b (fun n => { n with hall := n.hall - 1, missing := n.missing + 1 }))) ∧
      (read.toNat = 1 → b.tag = some tag.toNat → exec (.arch f arch occupied read tag) s = .next ((s1.setStore { s1.store with
        bags := s1.store.bags.put g.index { b with recheck := false } }).classify .confirm)) ∧
      ((occupied.toNat = 1 ∧ read.toNat = 0 ∨ read.toNat = 2) → exec (.arch f arch occupied read tag) s = .next s1))

/-- ARCH that is not resolved: while S is absent it ends with its sequence check, and a STALE one is a cause of loss after it (R53,
R55). -/
def Sys2Proof.Claim.ArchUnresolved : Prop :=
  ∀ (f : FrameHead) (arch occupied read : Byte) (tag : BitVec 32) (x : Node) (s : State), Admitted s f x →
    Serves s x .arch arch.toNat → occupied.toNat ≤ 1 →
    (read.toNat = 0 ∨ read.toNat = 2 ∨ read.toNat = 1 ∧ 1 ≤ tag.toNat ∧ tag.toNat ≤ 999999999) →
    (s.link.stampRef = none → exec (.arch f arch occupied read tag) s = .next (s.afterCheck f x)) ∧
    (StaleStamp s f.stamp → exec (.arch f arch occupied read tag) s = .next (s.afterCheck f x).causeOfLoss)

/-- How an observation's classification acts on the runs: in TRACKING a confirmation clears the mismatch run and a mismatch
raises it, at the drift limit a cause of loss; in CONFIRMING a mismatch clears the confirm run and a confirmation raises it, at
the confirm limit to TRACKING with LOOP_REGAINED, no point with TRACKING; a neutral one, and one in ANCHORING or FAILED, does
nothing (R71, R85, R86). -/
def Sys2Proof.Claim.ClassificationActs : Prop :=
  ∀ s : State,
    ((s.loop.track = .anchoring ∨ s.loop.track = .failed) → ∀ c, s.classify c = s) ∧ s.classify .neutral = s ∧
    (s.loop.track = .tracking → let n := s.loop.mismatchRun + 1;
      s.classify .confirm = s.setLoop { s.loop with mismatchRun := 0 } ∧
      (n < s.limits.drift → s.classify .mismatch = s.setLoop { s.loop with mismatchRun := n }) ∧
      (s.limits.drift ≤ n → s.classify .mismatch = (s.setLoop { s.loop with mismatchRun := n }).causeOfLoss)) ∧
    (s.loop.track = .confirming → let n := s.loop.confirmRun + 1;
      s.classify .mismatch = s.setLoop { s.loop with confirmRun := 0 } ∧
      (n < s.limits.confirm → s.classify .confirm = s.setLoop { s.loop with confirmRun := n }) ∧
      (s.limits.confirm ≤ n → let t := s.classify .confirm;
        Changes [.loop, .link, .notices] s t ∧ t.loop.track = .tracking ∧ t.loop.mismatchRun = 0 ∧
        t.loop.homeMark = false ∧ t.loop.lossCount = s.loop.lossCount ∧ t.loop.carriers = s.loop.carriers ∧
        t.loop.pos = s.loop.pos ∧ t.notices = (s.raise .loopRegained 0).notices ∧
        ∀ i p, s.loop.points.get? i = some p → ∃ q, t.loop.points.get? i = some q ∧
          q.causes = { p.causes with tracking := false }))

/-- ARCH in CONFIRMING and TRACKING of a carrier believed EMPTY or UNKNOWN. Seen empty, it is EMPTY, a confirmation where it was
believed so. Seen occupied, it is placed by lookup, a mismatch where it was believed EMPTY: a bag found REGISTERED, MISSING,
ON_LOOP or STRAY is on it, the carrier that held it UNKNOWN, its pen position freed; any other read brings a new bag, or, with
no record free, the carrier is UNKNOWN; the bag found is counted in hall instead of in its former state's counter, and a new one
nowhere; the pen hold and the bag-table low condition follow (R2, R21, R31, R72, R73, R156, R157). -/
def Sys2Proof.Claim.ArchPlaces : Prop :=
  ∀ (f : FrameHead) (arch occupied read : Byte) (tag : BitVec 32) (x : Node) (a : Arch) (c : Nat) (d : Int) (e : Carrier)
    (s : State), Admitted s f x → Serves s x .arch arch.toNat → s.loop.arches.get? arch.toNat = some a →
    ResolvesTo s f.stamp a.offset c d → s.carrier? c = some e → occupied.toNat ≤ 1 →
    (e.content = .empty ∨ e.content = .unknown) →
    let s1 := s.afterCheck f x;
    let seen : Classification := if e.content = .empty then .mismatch else .neutral;
    (s1.loop.track = .confirming ∨ s1.loop.track = .tracking) →
    (occupied.toNat = 0 → read.toNat = 0 → exec (.arch f arch occupied read tag) s = .next
      (if e.content = .empty then s1.classify .confirm else s1.setContent c .empty)) ∧
    (∀ tagged why, occupied.toNat = 1 ∨ read.toNat ≠ 0 →
      NewBag s read tag (fun b => b.state = .registered ∨ b.state = .missing ∨ b.state = .stray ∨
        b.state = .onLoop ∧ ∃ n, b.location = some (.carrier n)) tagged why →
      (bagRecords ≤ s.store.bags.length →
        exec (.arch f arch occupied read tag) s = .next ((s1.setContent c .unknown).classify seen)) ∧
      (s.store.bags.length < bagRecords → ∃ u g, exec (.arch f arch occupied read tag) s = .next (u.classify seen) ∧
        Changes [.store, .link, .loop, .notices] s1 u ∧ u.carrier? c = some ⟨.loaded g, e.armed⟩ ∧
        Created s u g none
          ⟨tagged, none, .onLoop, some (.carrier c), 0, none, false, false, false, false, some why, none⟩ ∧
        (∀ k, (u.store.slot k).counts = (s.store.slot k).counts) ∧ (BagTableLaw s → HoldsFollow s1 u False))) ∧
    (∀ g b, FoundBag s read tag g b →
      (b.state = .registered ∨ b.state = .missing ∨ b.state = .stray ∨
        b.state = .onLoop ∧ ∃ n, b.location = some (.carrier n)) →
      ∃ u, exec (.arch f arch occupied read tag) s = .next (u.classify seen) ∧
        Changes [.store, .link, .loop, .pen, .notices] s1 u ∧ u.carrier? c = some ⟨.loaded g, e.armed⟩ ∧
        u.bag? g = some { b with
          state := .onLoop, location := some (.carrier c), laps := if b.state = .stray then 0 else b.laps,
          reason := if b.state = .stray then none else b.reason,
          reinduct := b.reinduct && b.state != .stray, aged := b.aged && b.state != .stray,
          entered := if b.state = .onLoop then b.entered else none } ∧
        (∀ i, i ≠ g.index → u.store.bags.get? i = s.store.bags.get? i) ∧
        Counted s u b (fun n => if b.state = .onLoop then n else (n.dec b.state).inc .onLoop) ∧
        (∀ n y, b.state = .onLoop → b.location = some (.carrier n) → n ≠ c → s.carrier? n = some y →
          u.carrier? n = some ⟨.unknown, y.armed⟩) ∧
        (∀ q, b.state = .stray → b.location = some (.pen q) → u.pen.positions.get? q = none ∧ g ∉ u.pen.strays ∧
          q ∉ u.subjects .strayAged) ∧
        (BagTableLaw s → HoldsFollow s1 u (InPen b)))

/-- ARCH in CONFIRMING and TRACKING that reads a tag on a carrier with an anonymous bag: an unknown tag becomes the bag's, with
UNKNOWN_TAG, and confirms; a CLOSING slot's bag's gives WRONG_SAILING; a REGISTERED or MISSING bag's merges the two, the found
bag taking the carrier and the laps, counted in hall instead of in its former state's counter, and confirms; another bag's does
nothing; a reason DOUBLE_LOAD stays (R2, R74, R75). -/
def Sys2Proof.Claim.ArchIdentifies : Prop :=
  ∀ (f : FrameHead) (arch occupied read : Byte) (tag : BitVec 32) (x : Node) (a : Arch) (c : Nat) (d : Int) (e : Carrier)
    (h : Handle) (b : Bag) (s : State), Admitted s f x → Serves s x .arch arch.toNat →
    s.loop.arches.get? arch.toNat = some a → ResolvesTo s f.stamp a.offset c d → s.carrier? c = some e →
    occupied.toNat ≤ 1 → read.toNat = 1 → 1 ≤ tag.toNat → tag.toNat ≤ 999999999 → e.content = .loaded h →
    s.bag? h = some b → b.tag = none →
    let s1 := s.afterCheck f x;
    let keeping := fun w : StrayReason => if b.reason = some .doubleLoad then b.reason else some w;
    (s1.loop.track = .confirming ∨ s1.loop.track = .tracking) →
    (s.store.tagMap.get? tag.toNat = none → exec (.arch f arch occupied read tag) s = .next ((s1.setStore { s1.store with
      tagMap := s1.store.tagMap.put tag.toNat h
      bags := s1.store.bags.put h.index { b with tag := some tag.toNat, reason := keeping .unknownTag } }).classify
        .confirm)) ∧
    (∀ g y, s.store.tagMap.get? tag.toNat = some g → s.bag? g = some y →
      ((∃ k, y.home = some k ∧ s.slotState k.slot = .closing) → exec (.arch f arch occupied read tag) s = .next
        (s1.setStore { s1.store with bags := s1.store.bags.put h.index { b with reason := keeping .wrongSailing } })) ∧
      ((∀ k, y.home = some k → s.slotState k.slot ≠ .closing) →
        (y.state ≠ .registered → y.state ≠ .missing → exec (.arch f arch occupied read tag) s = .next s1) ∧
        ((y.state = .registered ∨ y.state = .missing) → h.index ≠ g.index → ∃ u,
          exec (.arch f arch occupied read tag) s = .next (u.classify .confirm) ∧
          Changes [.store, .link, .loop] s1 u ∧ u.carrier? c = some ⟨.loaded g, e.armed⟩ ∧ u.bag? h = none ∧
          u.bag? g = some { y with
            state := .onLoop, location := some (.carrier c), laps := b.laps, entered := none,
            reason := if b.reason = some .doubleLoad then b.reason else y.reason } ∧
          (∀ i, i ≠ g.index → i ≠ h.index → u.store.bags.get? i = s.store.bags.get? i) ∧
          (∀ v, let moved := if y.home.any (fun k => k.slot == v) = true
              then ((s.store.slot v).counts.dec y.state).inc .onLoop else (s.store.slot v).counts;
            (u.store.slot v).counts = if b.home.any (fun k => k.slot == v) = true then moved.dec b.state else moved) ∧
          (BagTableLaw s → HoldsFollow s1 u False))))

/-- ARCH in CONFIRMING and TRACKING that reads another tag on a carrier with a tagged bag, a mismatch: the first time it sets
RECHECK; the second time the bag becomes MISSING, counted so instead of in hall, and the carrier is placed by the read, a bag found
being counted in hall instead of in its former state's counter (R2, R73, R76). -/
def Sys2Proof.Claim.ArchDisagrees : Prop :=
  ∀ (f : FrameHead) (arch occupied read : Byte) (tag : BitVec 32) (x : Node) (a : Arch) (c : Nat) (d : Int) (e : Carrier)
    (h : Handle) (b : Bag) (n : Nat) (s : State), Admitted s f x → Serves s x .arch arch.toNat →
    s.loop.arches.get? arch.toNat = some a → ResolvesTo s f.stamp a.offset c d → s.carrier? c = some e →
    occupied.toNat ≤ 1 → read.toNat = 1 → 1 ≤ tag.toNat → tag.toNat ≤ 999999999 → e.content = .loaded h →
    s.bag? h = some b → b.tag = some n → n ≠ tag.toNat →
    let s1 := s.afterCheck f x;
    (s1.loop.track = .confirming ∨ s1.loop.track = .tracking) →
    (b.recheck = false → exec (.arch f arch occupied read tag) s = .next ((s1.setStore { s1.store with
      bags := s1.store.bags.put h.index { b with recheck := true } }).classify .mismatch)) ∧
    (b.recheck = true → s.store.tagMap.get? tag.toNat ≠ some h → BagTableLaw s → ∃ u z,
      exec (.arch f arch occupied read tag) s = .next (u.classify .mismatch) ∧
      Changes [.store, .link, .loop, .pen, .notices] s1 u ∧ u.bag? h = some z ∧ z.state = .missing ∧
      z.location = none ∧ z.laps = b.laps ∧ z.tag = b.tag ∧
      (∀ g y, FoundBag s read tag g y →
        (y.state = .registered ∨ y.state = .missing ∨ y.state = .stray ∨
          y.state = .onLoop ∧ ∃ i, y.location = some (.carrier i)) →
        u.carrier? c = some ⟨.loaded g, e.armed⟩ ∧
        (b.state = .onLoop → ∀ v, let lost := LostCounts s b v
          (u.store.slot v).counts = if y.home.any (fun k => k.slot == v) = true ∧ y.state ≠ .onLoop
            then (lost.dec y.state).inc .onLoop else lost) ∧
        ∃ w, u.bag? g = some w ∧ w.state = .onLoop ∧ w.location = some (.carrier c)) ∧
      (∀ tagged why, NewBag s read tag (fun y => y.state = .registered ∨ y.state = .missing ∨ y.state = .stray ∨
          y.state = .onLoop ∧ ∃ i, y.location = some (.carrier i)) tagged why →
        (b.state = .onLoop → ∀ v, (u.store.slot v).counts = LostCounts s b v) ∧
        (bagRecords ≤ s.store.bags.length → u.carrier? c = some ⟨.unknown, e.armed⟩) ∧
        (s.store.bags.length < bagRecords → ∃ g, u.carrier? c = some ⟨.loaded g, e.armed⟩ ∧
          Created s u g (some h.index)
            ⟨tagged, none, .onLoop, some (.carrier c), 0, none, false, false, false, false, some why, none⟩)))

/-- ARCH by what the carrier is believed to hold. -/
def Obligations.ArchObserves : Prop :=
  Claim.ArchObserves ∧ Claim.ArchUnresolved ∧ Claim.ClassificationActs ∧ Claim.ArchPlaces ∧ Claim.ArchIdentifies ∧
  Claim.ArchDisagrees

/-- CHECK, resolved to a carrier: one that is not armed for the chute is ignored; an armed one reported empty is a success, its bag
LANDING with the deadline S plus the landing window, the carrier EMPTY and the failure count 0; one reported occupied is a failure,
which keeps what it holds, an EMPTY carrier becoming UNKNOWN, and at the failure limit puts the chute into FAULT; a CLOSING cart of
the chute that then has no claims left is CUT, and the chute swaps (R100 to R103, R106, R118, R119; that a success resets the count of a chute in
FAULT too is the model's reading, log 42; that a failure raises the count of a chute in FAULT where a changed limit has left it below
the limit is too, logs 26 and 57). -/
def Sys2Proof.Claim.CheckResolved : Prop :=
  ∀ (f : FrameHead) (chute occupied r : Byte) (x : Node) (c : Chute) (i : Nat) (d : Int) (e : Carrier) (s : State),
    Admitted s f x → Serves s x .chute chute.toNat → s.chute? chute.toNat = some c → s.link.stampRef = some r →
    ResolvesTo s f.stamp (c.offset + 1) i d → s.carrier? i = some e → occupied.toNat ≤ 1 →
    let s1 := s.afterCheck f x;
    ((∀ m, e.armed = some m → m.chute ≠ chute.toNat) → exec (.check f chute occupied) s = .next s1) ∧
    (∀ m, e.armed = some m → m.chute = chute.toNat →
      (occupied.toNat = 0 → ∃ t q, exec (.check f chute occupied) s = .next t ∧
        Changes [.store, .loop, .chutes, .carts, .notices] s1 t ∧ t.carrier? i = some ⟨.empty, none⟩ ∧
        (∀ j, j ≠ i → t.carrier? j = s.carrier? j) ∧ (∀ k, k ≠ chute.toNat → t.chute? k = s.chute? k) ∧
        t.chute? chute.toNat = some q ∧ q.reserved = c.reserved - 1 ∧ q.failures = 0 ∧ q = { c with
          reserved := q.reserved, failures := q.failures, landing := q.landing, active := q.active, state := q.state } ∧
        CutSettled s1 t chute.toNat c q c.state ∧
        (∀ g b, e.content = .loaded g → s.bag? g = some b →
          q.landing = c.landing ++ [⟨g, r + BitVec.ofNat 8 c.window⟩] ∧
          (∀ j, j ≠ g.index → t.store.bags.get? j = s.store.bags.get? j) ∧
          t.bag? g = some { b with
            state := .landing, location := some (.chute chute.toNat), reason := m.reason.or b.reason,
            recheck := b.recheck && b.state != .onLoop, reinduct := b.reinduct && b.state != .stray,
            aged := b.aged && b.state != .stray, entered := none } ∧
          (b.state = .onLoop → Counted s t b id)) ∧
        ((∀ g, e.content ≠ .loaded g) → q.landing = c.landing ∧ t.store = s1.store)) ∧
      (occupied.toNat = 1 → ∃ t q, exec (.check f chute occupied) s = .next t ∧
        Changes [.loop, .chutes, .carts, .notices] s1 t ∧
        t.carrier? i = some ⟨if e.content = .empty then .unknown else e.content, none⟩ ∧
        (∀ j, j ≠ i → t.carrier? j = s.carrier? j) ∧ (∀ k, k ≠ chute.toNat → t.chute? k = s.chute? k) ∧
        t.chute? chute.toNat = some q ∧ q.reserved = c.reserved - 1 ∧ q = { c with
          reserved := q.reserved, failures := q.failures, active := q.active, state := q.state } ∧
        CutSettled s1 t chute.toNat c q (if c.failures + 1 = s.limits.failure then faulted c.state .failures else c.state) ∧
        (c.failures + 1 = s.limits.failure → (∀ v, c.state ≠ .fault v) → s.notices.sources.length = 15 →
          chute.toNat ∈ t.subjects .chuteFault) ∧
        (c.failures + 1 < s.limits.failure → q.failures = c.failures + 1) ∧
        (c.failures + 1 = s.limits.failure → q.failures = s.limits.failure ∧
          ∃ w, q.state = .fault w ∧ ((∀ v, c.state ≠ .fault v) → w = .failures)) ∧
        (s.limits.failure ≤ c.failures → q.failures = c.failures)))

/-- CHECK that is not resolved: while S is absent it ends with its sequence check, and a STALE one is a cause of loss after it, the
armed carrier being left to its check deadline (R53, R55). -/
def Sys2Proof.Claim.CheckUnresolved : Prop :=
  ∀ (f : FrameHead) (chute occupied : Byte) (x : Node) (s : State), Admitted s f x → Serves s x .chute chute.toNat →
    occupied.toNat ≤ 1 →
    (s.link.stampRef = none → exec (.check f chute occupied) s = .next (s.afterCheck f x)) ∧
    (StaleStamp s f.stamp → exec (.check f chute occupied) s = .next (s.afterCheck f x).causeOfLoss)

/-- CHECK, resolved and not. -/
def Obligations.CheckEndsDivert : Prop :=
  Claim.CheckResolved ∧ Claim.CheckUnresolved

/-! ## Frames from the hall floor -/

/-- LAND at a DECK chute with an entry waiting: the oldest pending, else the oldest jammed entry becomes IN_CART at the tail of the
active cart, with the demand check; a cart that is full becomes FULL, and else a CLOSING cart whose chute has no claims left
becomes CUT, and the chute then swaps: a STANDBY cart at the other position becomes FILLING and active, and without one the chute has
no active cart and, OPEN, is BLOCKED, with CHUTE_BLOCKED (R118 to R120, R148). -/
def Sys2Proof.Claim.LandFillsCart : Prop :=
  ∀ (f : FrameHead) (chute : Byte) (x : Node) (c : Chute) (n : Nat) (y : Cart) (g : Handle) (b : Bag) (s : State),
    Admitted s f x → Serves s x .chute chute.toNat → s.chute? chute.toNat = some c → c.kind = .deck →
    s.activeCart c = some (n, y) →
    ((∃ e l, c.landing = e :: l ∧ e.bag = g) ∨ c.landing = [] ∧ c.jams.head? = some g) → s.bag? g = some b →
    let s1 := s.afterCheck f x;
    ∃ t q z w, exec (.land f chute) s = .next t ∧ Changes [.store, .carts, .chutes, .notices] s1 t ∧
      t.chute? chute.toNat = some q ∧ q = { c with
        landing := c.landing.tail, jams := if c.landing = [] then c.jams.tail else c.jams
        active := q.active, state := q.state } ∧
      (∀ j, j ≠ chute.toNat → t.chute? j = s.chute? j) ∧
      t.bag? g = some z ∧ z.state = .inCart ∧ z.location = some (.cart n) ∧ z.reason = b.reason ∧ z.laps = b.laps ∧
      (∀ i, i ≠ g.index → t.store.bags.get? i = s.store.bags.get? i) ∧
      (∀ v, s.store.governing b = some v → z.pull = if v.status = .void then some (b.pull.getD .cabin)
        else if b.pull = some .cabin then none else b.pull) ∧
      (s.store.governing b = none → z.pull = b.pull) ∧
      (b.state = .landing ∨ b.state = .jammed → Counted s t b id) ∧
      t.cart? n = some w ∧ w = { y with entries := y.entries ++ [⟨g, false⟩], state := w.state } ∧
      w.state = (if y.capacity ≤ y.entries.length + 1 + y.unidentified then .full
        else if y.state = .closing ∧ q.reserved + q.landing.length + q.jams.length = 0 then .cut else y.state) ∧
      SwapsIf (y.capacity ≤ y.entries.length + 1 + y.unidentified ∨
        y.state = .closing ∧ q.reserved + q.landing.length + q.jams.length = 0) s1 t chute.toNat n c q c.state ∧
      ∀ v, v ≠ .chuteBlocked → t.subjects v = s1.subjects v

/-- LAND at a STRAY chute with an entry waiting: the oldest pending, else the oldest jammed entry enters the lowest free pen
position with its reason kept, at the tail of the stray list, counted in stray instead of hall, which tests the pen hold: where it
is declared every point takes PEN and subject 1 joins CAPACITY, and where it is released the points lose PEN (R2, R78, R121, R155,
R157). -/
def Sys2Proof.Claim.LandEntersPen : Prop :=
  ∀ (f : FrameHead) (chute : Byte) (x : Node) (c : Chute) (g : Handle) (b : Bag) (s : State),
    Admitted s f x → Serves s x .chute chute.toNat → s.chute? chute.toNat = some c → c.kind = .stray → c.active = none →
    ((∃ e l, c.landing = e :: l ∧ e.bag = g) ∨ c.landing = [] ∧ c.jams.head? = some g) → s.bag? g = some b →
    (b.state = .landing ∨ b.state = .jammed) →
    let s1 := s.afterCheck f x;
    ∃ t, exec (.land f chute) s = .next t ∧ Changes [.store, .chutes, .pen, .link, .loop, .notices] s1 t ∧
      t.chute? chute.toNat = some { c with
        landing := c.landing.tail, jams := if c.landing = [] then c.jams.tail else c.jams } ∧
      t.bag? g = some { b with
        state := .stray, location := some (.pen s.lowestPosition), aged := false, reinduct := false,
        entered := some s.hallSecond } ∧
      (∀ i, i ≠ g.index → t.store.bags.get? i = s.store.bags.get? i) ∧
      Counted s t b (fun n => { n with hall := n.hall - 1, stray := n.stray + 1 }) ∧
      t.pen.positions.get? s.lowestPosition = some g ∧ t.pen.strays = s.pen.strays ++ [g] ∧
      t.loop = { s1.loop with points := t.loop.points } ∧ (BagTableLaw s → HoldsFollow s1 t True)

/-- LAND with both lists empty. At a DECK chute the active cart counts one more unidentified item, the reservations being lost
first where they fill its free places: their carriers are disarmed and the chute goes to FAULT with CART_LOST, with its notice. The
cart that is then full becomes FULL, and else a CLOSING cart whose chute has no claims left CUT, and the chute then swaps: a STANDBY
cart at the other position becomes FILLING and active, and without one the chute has no active cart and, OPEN, is BLOCKED, with
CHUTE_BLOCKED. Without an active cart the chute goes to FAULT with CART_LOST. At a STRAY chute a new anonymous bag with NO_READ enters
the pen where there is room and a record, with the tests of the pen hold and of the bag table, else the chute goes to FAULT (R31,
R109, R117 to R121, R157). -/
def Sys2Proof.Claim.UnidentifiedLands : Prop :=
  ∀ (f : FrameHead) (chute : Byte) (x : Node) (c : Chute) (s : State),
    Admitted s f x → Serves s x .chute chute.toNat → s.chute? chute.toNat = some c → c.landing = [] → c.jams = [] →
    let s1 := s.afterCheck f x;
    let told := fun t : State => (∀ v, c.state ≠ .fault v) → s.notices.sources.length = 15 →
      chute.toNat ∈ t.subjects .chuteFault
    let lost := fun t : State => Changes [.chutes, .notices] s1 t ∧ told t ∧
      t.chute? chute.toNat = some { c with state := faulted c.state .cartLost } ∧
      ∀ k, k ≠ chute.toNat → t.chute? k = s.chute? k
    (∀ n y, c.kind = .deck → s.activeCart c = some (n, y) → ∃ t q, exec (.land f chute) s = .next t ∧
      Changes [.loop, .chutes, .carts, .notices] s1 t ∧ t.chute? chute.toNat = some q ∧
      q = { c with reserved := q.reserved, active := q.active, state := q.state } ∧
      q.reserved = (if y.freePlaces ≤ c.reserved then 0 else c.reserved) ∧
      (∀ k, k ≠ chute.toNat → t.chute? k = s.chute? k) ∧
      t.cart? n = some { y with
        unidentified := y.unidentified + 1
        state := if y.capacity ≤ y.entries.length + (y.unidentified + 1) then .full
          else if y.state = .closing ∧ q.reserved = 0 then .cut else y.state } ∧
      SwapsIf (y.capacity ≤ y.entries.length + (y.unidentified + 1) ∨ y.state = .closing ∧ q.reserved = 0)
        s1 t chute.toNat n c q (if y.freePlaces ≤ c.reserved then faulted c.state .cartLost else c.state) ∧
      (c.reserved < y.freePlaces → t.loop = s1.loop ∧ ∀ v, v ≠ .chuteBlocked → t.subjects v = s1.subjects v) ∧
      (y.freePlaces ≤ c.reserved → told t ∧ t.loop = { s1.loop with carriers := t.loop.carriers } ∧
        ∀ i, t.carrier? i = (s.carrier? i).map (fun e =>
          if e.armed.any (fun m => m.chute == chute.toNat) = true then ⟨e.content, none⟩ else e))) ∧
    (c.kind = .deck → c.active = none → ∃ t, exec (.land f chute) s = .next t ∧ lost t) ∧
    (c.kind = .stray → c.active = none → (s.freePen ≤ s.strayClaims ∨ bagRecords ≤ s.store.bags.length) →
      ∃ t, exec (.land f chute) s = .next t ∧ lost t) ∧
    (c.kind = .stray → c.active = none → s.strayClaims < s.freePen → s.store.bags.length < bagRecords →
      ∃ t g, exec (.land f chute) s = .next t ∧ Changes [.store, .pen, .link, .loop, .notices] s1 t ∧
        t.bag? g = some ⟨none, none, .stray, some (.pen s.lowestPosition), 0, none, false, false, false, false,
          some .noRead, some s.hallSecond⟩ ∧
        t.pen.positions.get? s.lowestPosition = some g ∧ t.pen.strays = s.pen.strays ++ [g] ∧
        t.loop = { s1.loop with points := t.loop.points } ∧ (BagTableLaw s → HoldsFollow s1 t True))

/-- LAND in every case, and the position that a landing in the pen takes. -/
def Obligations.LandingsTaken : Prop :=
  Claim.LandFillsCart ∧ Claim.LandEntersPen ∧ Claim.UnidentifiedLands ∧ Claim.LowestPosition

/-- CART PRESENT: at an empty position of a DECK chute a cart takes the next free serial, FILLING and active where the chute has no
active cart (a BLOCKED chute becomes OPEN), else STANDBY; with the pool full the position is marked, with CAPACITY; a position
that is not empty, and a STRAY chute, change nothing (R114, R115). -/
def Sys2Proof.Claim.CartPresentRegisters : Prop :=
  ∀ (f : FrameHead) (chute position : Byte) (p : PosName) (x : Node) (c : Chute) (s : State),
    Admitted s f x → Serves s x .chute chute.toNat → s.chute? chute.toNat = some c →
    (position.toNat = 0 ∧ p = .x ∨ position.toNat = 1 ∧ p = .y) →
    let s1 := s.afterCheck f x;
    ((c.kind = .stray ∨ c.position p ≠ .empty) → exec (.cartPresent f chute position) s = .next s1) ∧
    (c.kind = .deck → c.position p = .empty → cartRecords ≤ s.carts.length →
      exec (.cartPresent f chute position) s = .next ((s1.setChutes (s1.chutes.modify chute.toNat
        (fun c => c.putPosition p .marked))).raise .capacity 2)) ∧
    (c.kind = .deck → c.position p = .empty → s.carts.length < cartRecords → 1 ≤ s.nextSerial → s.nextSerial ≤ 65535 →
      ∃ t n q, exec (.cartPresent f chute position) s = .next t ∧ Changes [.chutes, .carts, .nextSerial] s1 t ∧
        1 ≤ n ∧ n ≤ 65535 ∧ s.cart? n = none ∧ (s.cart? s.nextSerial = none → n = s.nextSerial) ∧
        t.nextSerial = (if n = 65535 then 1 else n + 1) ∧
        t.cart? n = some ⟨chute.toNat, c.assigned, c.capacity, [], 0, false,
          if c.active = none then .filling else .standby⟩ ∧
        (∀ m, m ≠ n → t.cart? m = s.cart? m) ∧ t.chute? chute.toNat = some q ∧ q.position p = .cart n ∧
        q.position p.other = c.position p.other ∧
        q.active = (if c.active = none then some p else c.active) ∧
        q.state = (if c.active = none ∧ c.state = .blocked then .opened else c.state) ∧
        q.assigned = c.assigned ∧ q.reserved = c.reserved ∧ q.landing = c.landing ∧ q.jams = c.jams)

/-- CART REMOVED where no cart departs: at a STRAY chute, and at an empty position, it changes nothing; a marked one loses its
mark; a STANDBY cart, which is empty, retires, as does an empty FILLING or CLOSING cart, and where that was the active cart, the
chute's claims pass or are lost and a STANDBY cart beside it becomes FILLING and active, with the notices of a chute that is BLOCKED or
in FAULT; any other report byte ends with the sequence check (R109, R116, R117, R183). -/
def Sys2Proof.Claim.CartRemovedClears : Prop :=
  ∀ (f : FrameHead) (chute position report : Byte) (p : PosName) (x : Node) (c : Chute) (s : State),
    Admitted s f x → Serves s x .chute chute.toNat → s.chute? chute.toNat = some c →
    (position.toNat = 0 ∧ p = .x ∨ position.toNat = 1 ∧ p = .y) →
    let s1 := s.afterCheck f x;
    let cleared := s1.setChutes (s1.chutes.modify chute.toNat (fun c => c.putPosition p .empty))
    ((report.toNat ≠ 0 ∨ c.kind = .stray) → exec (.cartRemoved f chute position report) s = .next s1) ∧
    (report.toNat = 0 → c.kind = .deck →
      (c.position p = .empty → exec (.cartRemoved f chute position report) s = .next s1) ∧
      (c.position p = .marked → exec (.cartRemoved f chute position report) s = .next cleared) ∧
      (∀ n y, c.position p = .cart n → s.cart? n = some y → y.entries = [] → y.unidentified = 0 →
        (y.state = .standby ∨ y.state = .filling ∨ y.state = .closing) →
        let gone := cleared.setCarts (s1.carts.erase n)
        (c.active ≠ some p → exec (.cartRemoved f chute position report) s = .next gone) ∧
        (c.active = some p → ∃ t, exec (.cartRemoved f chute position report) s = .next t ∧
          ActiveLeft gone t chute.toNat p (c.putPosition p .empty))))

/-- CART REMOVED where a cart departs (FULL, CUT, or FILLING or CLOSING and not empty): its position is empty; with no route, holding
unidentified items alone, it retires; with one it is QUEUED at the tail of its route, and where the route's door is free the door
arbitrates, so that the cart may come to it at once on a LOADING route and waits on an IDLE one. Where it was the active cart, the
claims pass to a standby cart that has room for them or are lost, and the standby cart becomes FILLING and active, or the chute has
none, with the notices of a chute that is BLOCKED or in FAULT (R109, R116, R117, R127, R133, R134; that a FULL or CUT cart that holds
nothing is queued, though R127 retires an empty QUEUED cart at once, is the model's reading, log 32). -/
def Sys2Proof.Claim.CartRemovedDeparts : Prop :=
  ∀ (f : FrameHead) (chute position report : Byte) (p : PosName) (x : Node) (c : Chute) (n : Nat) (y : Cart)
    (s : State),
    Admitted s f x → Serves s x .chute chute.toNat → s.chute? chute.toNat = some c → c.kind = .deck →
    (position.toNat = 0 ∧ p = .x ∨ position.toNat = 1 ∧ p = .y) → report.toNat = 0 → c.position p = .cart n →
    s.cart? n = some y →
    (y.state = .full ∨ y.state = .cut ∨ (y.state = .filling ∨ y.state = .closing) ∧ (y.entries ≠ [] ∨ y.unidentified ≠ 0)) →
    let s1 := s.afterCheck f x;
    let cleared := s1.setChutes (s1.chutes.modify chute.toNat (fun c => c.putPosition p .empty))
    let queued := fun k : RouteKey => (cleared.setCarts (s1.carts.modify n (fun y => { y with state := .queued }))).setRoutes
      (s1.routes.modify k.subject (fun r => { r with queue := r.queue ++ [n] }))
    ∃ w t, exec (.cartRemoved f chute position report) s = .next t ∧
      Changes [.store, .loop, .chutes, .carts, .routes, .doors, .link, .notices] s1 t ∧
      (y.route = none → y.entries = [] → w = cleared.setCarts (s1.carts.erase n)) ∧
      (∀ k r, y.route = some k → s.route? k = some r →
        ((∀ d, r.door = some d → s.door? d = none) → w = queued k) ∧
        (∀ d v m z, r.door = some d → s.door? d = some v → v.cart = some m → m ≠ n → s.cart? m = some z → z.done = false →
          Changes [.doors, .link] (queued k) w ∧ w.door? d = some { v with running := w.beltRuns v } ∧
          ∀ e, e ≠ d → w.door? e = s.door? e) ∧
        (∀ d v, r.door = some d → s.door? d = some v → v.cart = none → Arbitrates (queued k) w d v)) ∧
      w.chutes = cleared.chutes ∧ w.loop = s1.loop ∧
      (∀ m, m ≠ n → (∀ r ∈ s.routes, m ∉ r.queue) → (∀ e ∈ s.doors, e.2.cart ≠ some m) → w.cart? m = s.cart? m) ∧
      (c.active ≠ some p → t = w) ∧
      (c.active = some p → ActiveLeft w t chute.toNat p (c.putPosition p .empty))

/-- CART PRESENT and CART REMOVED. -/
def Obligations.CartsComeAndGo : Prop :=
  Claim.CartPresentRegisters ∧ Claim.CartRemovedClears ∧ Claim.CartRemovedDeparts

/-- A halt reason added to a door stops its belt, and the door's number joins DOOR_STOPPED (R134, R137). -/
def Sys2Proof.Claim.HaltStopsBelt : Prop :=
  ∀ (s : State) (d : Nat) (w : HaltReason) (y : Door), s.door? d = some y →
    let t := s.addHalt d w;
    Changes [.doors, .link, .notices] s t ∧ t.door? d = some { y with halts := y.halts.put w true, running := false } ∧
    (∀ e, e ≠ d → t.door? e = s.door? e) ∧ t.notices = (s.raise .doorStopped d).notices ∧
    (y.running = true → s.servingNode .door d ≠ none → s.link.txQueue.length < txCapacity →
      ∃ o ∈ t.link.txQueue, o.payload = .door d false)

/-- DOORSCAN, up to boarding, by the lines of R135 and R136 in order: each adds its halt reason, and the scan of an ABOARD bag is
ignored. -/
def Sys2Proof.Claim.DoorscanHalts : Prop :=
  ∀ (f : FrameHead) (door read : Byte) (tag : BitVec 32) (x : Node) (y : Door) (s : State),
    Admitted s f x → Serves s x .door door.toNat → s.door? door.toNat = some y →
    let s1 := s.afterCheck f x;
    ((read.toNat = 0 ∨ read.toNat = 2) →
      exec (.doorscan f door read tag) s = .next (s1.addHalt door.toNat .noRead)) ∧
    (read.toNat = 1 → 1 ≤ tag.toNat → tag.toNat ≤ 999999999 →
      (s.store.tagMap.get? tag.toNat = none →
        exec (.doorscan f door read tag) s = .next (s1.addHalt door.toNat .unknownTag)) ∧
      (∀ g b, s.store.tagMap.get? tag.toNat = some g → s.bag? g = some b →
        ((b.home = none ∨ (∃ k, b.home = some k ∧ (s.slotState k.slot = .closing ∨ k.slot ≠ y.berth)) ∨
            ∃ k c, b.home = some k ∧ s.store.governing b = some c ∧ ∀ r, s.route? ⟨k.slot, c.route⟩ = some r →
              r.door ≠ some door.toNat) →
          exec (.doorscan f door read tag) s = .next (s1.addHalt door.toNat .wrongDoor)) ∧
        (∀ k c r, b.home = some k → s.slotState k.slot ≠ .closing → k.slot = y.berth → s.store.governing b = some c →
          s.route? ⟨k.slot, c.route⟩ = some r → r.door = some door.toNat →
          (b.state = .aboard → exec (.doorscan f door read tag) s = .next s1) ∧
          (b.state ≠ .aboard → b.state ≠ .inCart →
            exec (.doorscan f door read tag) s = .next (s1.addHalt door.toNat .misplaced)) ∧
          (∀ n, b.state = .inCart → b.location = some (.cart n) →
            ((∀ z, s.cart? n = some z → z.route = none) →
              exec (.doorscan f door read tag) s = .next (s1.addHalt door.toNat .misplaced)) ∧
            (∀ z j w, s.cart? n = some z → z.route = some j → s.route? j = some w →
              ((j.slot ≠ y.berth ∨ w.door ≠ some door.toNat) →
                exec (.doorscan f door read tag) s = .next (s1.addHalt door.toNat .misplaced)) ∧
              (j.slot = y.berth → w.door = some door.toNat →
                ((c.status = .void ∨ b.pull = some .request) → exec (.doorscan f door read tag) s =
                  .next ((s1.demandCheck g).addHalt door.toNat .pulledBag)) ∧
                (c.status = .pending → b.pull ≠ some .request → (s.store.slot k.slot).boardFirst = true →
                  exec (.doorscan f door read tag) s =
                    .next ((s1.demandCheck g).addHalt door.toNat .notBoarded))))))))

/-- DOORSCAN of a bag that may board: it is ABOARD without a PULL flag, the counters of its slot and cabin and the loaded count of
its cart's route with it. Where its cart stands at the door, its entry is marked, and the cart stays until all are marked; the scan
that marks the last, with nothing unidentified, completes it: it retires with CART_DONE where that is asked for, its bags without
location, and leaves the door. From any other cart the entry goes, and the bag's location: a cart at its chute goes on without it, a
QUEUED cart too while it holds anything, and one left empty leaves its queue and retires with CART_DONE likewise (R2, R13, R127,
R136, R140). -/
def Sys2Proof.Claim.DoorscanBoards : Prop :=
  ∀ (f : FrameHead) (door read : Byte) (tag : BitVec 32) (x : Node) (y : Door) (g : Handle) (b : Bag) (k : CabinKey)
    (c : Cabin) (r w : Route) (n : Nat) (z : Cart) (j : RouteKey) (s : State),
    Admitted s f x → Serves s x .door door.toNat → s.door? door.toNat = some y → read.toNat = 1 → 1 ≤ tag.toNat →
    tag.toNat ≤ 999999999 → s.store.tagMap.get? tag.toNat = some g → s.bag? g = some b → b.home = some k →
    s.slotState k.slot ≠ .closing → k.slot = y.berth → s.store.governing b = some c →
    s.route? ⟨k.slot, c.route⟩ = some r → r.door = some door.toNat → b.state = .inCart → b.location = some (.cart n) →
    s.cart? n = some z → z.route = some j → s.route? j = some w → j.slot = y.berth → w.door = some door.toNat →
    b.pull ≠ some .request → (c.status = .sailing ∨ c.status = .pending ∧ (s.store.slot k.slot).boardFirst = false) →
    let rest := z.entries.filter (fun e => e.bag != g);
    ∃ t v, exec (.doorscan f door read tag) s = .next t ∧
      Changes [.store, .carts, .routes, .doors, .link, .notices] (s.afterCheck f x) t ∧
      t.bag? g = some v ∧ v.state = .aboard ∧ v.pull = none ∧ v.home = b.home ∧
      Counted s t b (fun n => { n with hall := n.hall - 1, aboard := n.aboard + 1 }) ∧
      (∀ o, s.store.cabin? k = some o → t.store.cabin? k = some { o with aboard := o.aboard + 1 }) ∧
      (∃ q, t.route? j = some q ∧ q.loaded = w.loaded + 1) ∧
      let told := s.notices.sources.length = 15 → (z.notify = true ∨ w.notifyAll = true) → j.subject ∈ t.subjects .cartDone
      (y.cart = some n →
        (((∃ e ∈ rest, e.aboard = false) ∨ z.unidentified ≠ 0) → v.location = some (.cart n) ∧
          t.cart? n = some { z with
            entries := z.entries.map (fun e => if e.bag = g then { e with aboard := true } else e) } ∧
          t.route? j = some { w with loaded := w.loaded + 1 }) ∧
        ((∃ e ∈ z.entries, e.bag = g) → (∀ e ∈ rest, e.aboard = true) → z.unidentified = 0 → v.location = none ∧
          t.cart? n = none ∧ told ∧
          (∀ e ∈ rest, ∀ o, s.bag? e.bag = some o → t.bag? e.bag = some { o with location := none }) ∧
          ((∀ q ∈ s.routes, n ∉ q.queue) → ∀ u, t.door? door.toNat = some u → u.cart ≠ some n))) ∧
      (y.cart ≠ some n → v.location = none ∧
        (z.state ≠ .queued → z.state ≠ .atDoor → (∀ q ∈ s.routes, n ∉ q.queue) → t.cart? n = some { z with entries := rest }) ∧
        (z.state = .queued → rest = [] → z.unidentified = 0 → t.cart? n = none ∧ told ∧
          ∀ q, t.route? j = some q → n ∉ q.queue) ∧
        (z.state = .queued → ((∃ e ∈ rest, e.aboard = false) ∨ z.unidentified ≠ 0) → ∃ u,
          t.cart? n = some { z with entries := rest, state := u } ∧ (u = .queued ∨ u = .atDoor))) ∧
      (∀ m o, y.cart = some m → m ≠ n → s.cart? m = some o → o.done = false → z.state ≠ .queued → z.state ≠ .atDoor →
        t.cart? n = some { z with entries := rest } ∧ t.route? j = some { w with loaded := w.loaded + 1 })

/-- DOORSCAN, and the halt it may add. -/
def Obligations.DoorScans : Prop :=
  Claim.HaltStopsBelt ∧ Claim.DoorscanHalts ∧ Claim.DoorscanBoards

/-- ENCODE, in RUN and in REST, at a free position: with the pen's credit used up nothing is placed; a REGISTERED or MISSING bag
enters the pen there, with the demand check and its reason re-evaluated, and is answered by its route or its reason; any other
read places a new bag with its reason, DUPLICATE_TAG for another bag's tag and WRONG_SAILING for a CLOSING slot's bag's, or
nothing where no record is free. An intake tests the pen hold, and a creation the bag table. A position of P or more makes no
answer (R21, R31, R45, R78, R148, R155, R157, R158, R160, R162; the reason under a VOID governing cabin is the model's reading, log
31; that PEN is answered also where no record is free either is its choice, log 43). -/
def Sys2Proof.Claim.EncodePlaces : Prop :=
  ∀ (f : FrameHead) (position read : Byte) (tag : BitVec 32) (x : Node) (s : State), AdmittedEncode s f x →
    let s1 := s.afterCheck f x;
    let p := position.toNat;
    let answers := fun (t : State) (a : EncodeAnswer) =>
      exec (.encode f position read tag) s = .next (t.send .encode 0 (.answer p a));
    ((read.toNat = 0 ∨ read.toNat = 2 ∨ read.toNat = 1 ∧ 1 ≤ tag.toNat ∧ tag.toNat ≤ 999999999) →
      (s.pen.size ≤ p → exec (.encode f position read tag) s = .next s1) ∧
      (p < s.pen.size → s.pen.positions.get? p = none → s.penRoom = 0 → answers s1 (.notTaken .pen))) ∧
    (∀ g b, p < s.pen.size → s.pen.positions.get? p = none → 1 ≤ s.penRoom → FoundBag s read tag g b →
      (b.state = .registered ∨ b.state = .missing) →
      let y : Bag := { b with
        state := .stray, location := some (.pen p), pull := demanded s b, reinduct := false, aged := false,
        entered := some s.hallSecond, reason := encodeReason s b (some .noRead) };
      ∃ t, answers t (match s.routable y with
          | some r => .route r
          | none => .reason (y.reason.getD .noRead)) ∧
        Changes [.store, .pen, .link, .loop, .notices] s1 t ∧ t.bag? g = some y ∧ y.reason ≠ none ∧
        (∀ i, i ≠ g.index → t.store.bags.get? i = s.store.bags.get? i) ∧ t.store.tagMap = s.store.tagMap ∧
        (∀ k, b.home = some k → (t.store.slot k.slot).counts =
          ((s.store.slot k.slot).counts.dec b.state).inc .stray) ∧
        t.pen.positions.get? p = some g ∧ t.pen.strays = s.pen.strays ++ [g] ∧
        t.loop = { s1.loop with points := t.loop.points } ∧ (BagTableLaw s → HoldsFollow s1 t True)) ∧
    (∀ tagged why, p < s.pen.size → s.pen.positions.get? p = none → 1 ≤ s.penRoom →
      NewBag s read tag (fun b => b.state = .registered ∨ b.state = .missing) tagged why →
      (bagRecords ≤ s.store.bags.length → answers s1 (.notTaken .table)) ∧
      (s.store.bags.length < bagRecords → ∃ t g, answers t (.reason why) ∧
        Changes [.store, .pen, .link, .loop, .notices] s1 t ∧
        Created s t g none ⟨tagged, none, .stray, some (.pen p), 0, none, false, false, false, false, some why,
          some s.hallSecond⟩ ∧
        t.pen.positions.get? p = some g ∧ t.pen.strays = s.pen.strays ++ [g] ∧
        t.loop = { s1.loop with points := t.loop.points } ∧ (BagTableLaw s → HoldsFollow s1 t True)))

/-- ENCODE, in RUN and in REST, at a held position: no read changes nothing and gives the reason; a tagged bag's own tag makes
the demand check, re-evaluates its reason and gives its route or its reason; another tag gives MISMATCH; an anonymous bag takes
an unknown tag with UNKNOWN_TAG, takes DUPLICATE_TAG or WRONG_SAILING for a tag that cannot be its own, and is merged into a
REGISTERED or MISSING bag, which takes its position, place, entered time and AGED flag, keeps its other fields but for the demand
check and the reason, re-evaluated with the anonymous bag's for one it lacks, and is counted in stray (R2, R45, R148, R158, R159,
R161, R162; the reason under a VOID governing cabin is the model's reading, log 31). -/
def Sys2Proof.Claim.EncodeJudges : Prop :=
  ∀ (f : FrameHead) (position read : Byte) (tag : BitVec 32) (x : Node) (h : Handle) (a : Bag) (s : State),
    AdmittedEncode s f x → position.toNat < s.pen.size →
    s.pen.positions.get? position.toNat = some h → s.bag? h = some a →
    let s1 := s.afterCheck f x;
    let p := position.toNat;
    let answers := fun (t : State) (w : EncodeAnswer) =>
      exec (.encode f position read tag) s = .next (t.send .encode 0 (.answer p w));
    let reasoned := fun (w : StrayReason) => answers (s1.setStore { s1.store with
      bags := s1.store.bags.put h.index { a with reason := some w } }) (.reason w);
    ((read.toNat = 0 ∨ read.toNat = 2) → answers s1 (.reason (a.reason.getD .noRead))) ∧
    (read.toNat = 1 → 1 ≤ tag.toNat → tag.toNat ≤ 999999999 →
      (a.tag = some tag.toNat →
        let y : Bag := { a with pull := demanded s a, reason := encodeReason s a none };
        answers (s1.setStore { s1.store with bags := s1.store.bags.put h.index y }) (match s.routable y with
          | some r => .route r
          | none => .reason (y.reason.getD .noRead))) ∧
      (∀ n, a.tag = some n → n ≠ tag.toNat → reasoned .mismatch) ∧
      (a.tag = none → s.store.tagMap.get? tag.toNat = none → answers (s1.setStore { s1.store with
          tagMap := s1.store.tagMap.put tag.toNat h
          bags := s1.store.bags.put h.index { a with tag := some tag.toNat, reason := some .unknownTag } })
        (.reason .unknownTag)) ∧
      (∀ g b, a.tag = none → s.store.tagMap.get? tag.toNat = some g → s.bag? g = some b →
        ((∃ k, b.home = some k ∧ s.slotState k.slot = .closing) → reasoned .wrongSailing) ∧
        ((∀ k, b.home = some k → s.slotState k.slot ≠ .closing) →
          (b.state ≠ .registered → b.state ≠ .missing → reasoned .duplicateTag) ∧
          ((b.state = .registered ∨ b.state = .missing) → h.index ≠ g.index →
            let y : Bag := { b with
              state := .stray, location := some (.pen p), entered := a.entered, aged := a.aged, pull := demanded s b,
              reason := encodeReason s b a.reason };
            ∃ t, answers t (match t.routable y with
                | some r => .route r
                | none => .reason (y.reason.getD .noRead)) ∧
              t.bag? h = none ∧ t.bag? g = some y ∧
              (∀ i, i ≠ g.index → i ≠ h.index → t.store.bags.get? i = s.store.bags.get? i) ∧
              t.store.tagMap = s.store.tagMap ∧
              (∀ v, let moved := if b.home.any (fun k => k.slot == v) = true
                  then ((s.store.slot v).counts.dec b.state).inc .stray else (s.store.slot v).counts;
                (t.store.slot v).counts = if a.home.any (fun k => k.slot == v) = true then moved.dec a.state else moved) ∧
              t.pen.positions.get? p = some g ∧ t.pen.size = s.pen.size ∧ t.pen.hold = s.pen.hold ∧
              t.pen.strays = s.pen.strays.map (fun o => if o = h then g else o) ∧
              t.loop = { s1.loop with points := t.loop.points } ∧ (BagTableLaw s → HoldsFollow s1 t False)))))

/-- The answer of an ENCODE joins the tail of the transmit queue, addressed to the ENCODE node with that node's outbound sequence,
which advances; where 64 frames wait, or no node is the ENCODE node, it is not sent and nothing changes (R56, R59, R162; the stamp
byte is S as it is when the frame is made or sent, log 10). -/
def Sys2Proof.Claim.AnswerIsSent : Prop :=
  ∀ (s : State) (p : Nat) (a : EncodeAnswer),
    let t := s.send .encode 0 (.answer p a)
    (∀ n, s.servingNode .encode 0 = some n → s.link.txQueue.length < txCapacity → ∃ x, s.node? n = some x ∧
      x.role = some .encode ∧ t.node? n = some { x with outSeq := x.outSeq + 1 } ∧
      (∀ m, m ≠ n → t.node? m = s.node? m) ∧ t = s.setLink { s.link with
        nodes := t.link.nodes
        txQueue := s.link.txQueue ++ [⟨n, x.outSeq, s.link.stampRef.getD 0, .answer p a⟩] }) ∧
    ((txCapacity ≤ s.link.txQueue.length ∨ s.servingNode .encode 0 = none) → t = s)

/-- ENCODE at free and at held positions, and how its answer is sent. -/
def Obligations.EncodesAnswered : Prop :=
  Claim.EncodePlaces ∧ Claim.EncodeJudges ∧ Claim.AnswerIsSent

/-! ## The sweep -/

/-- PATROL_VISIT: in RUN with no walk the walker's position becomes the next index with its pass; every cabin whose pull began
at that index in a lower pass is PULLED, whether or not the index holds a live bag, with its slot in PULL_DONE, and no other
cabin's pull changes; a bag that is not live at that index is not touched. Otherwise nothing changes (R144, R166 to R168; the
pass after 4,294,967,295 is free, log 8). -/
def Sys2Proof.Claim.PatrolWalks : Prop :=
  ∀ s : State,
    (¬(s.opState = .run ∧ s.sweep.walk = none) → exec .patrolVisit s = .next s) ∧
    (s.opState = .run → s.sweep.walk = none →
      let p := s.sweep.pos;
      ∃ t, exec .patrolVisit s = .next t ∧ Changes [.store, .sweep, .carts, .routes, .doors, .link, .notices] s t ∧
        let completes := fun c : Cabin => c.pull = .pulling ∧ ∃ q, c.pullStart = some q ∧
          q.index = t.sweep.pos.index ∧ q.pass.toNat < t.sweep.pos.pass.toNat;
        t.sweep.walk = none ∧ ModeLaw t ∧ (p.index < 16383 → t.sweep.pos = ⟨p.index + 1, p.pass⟩) ∧
        (16383 ≤ p.index → p.pass.toNat < 4294967295 → t.sweep.pos = ⟨0, p.pass + 1⟩) ∧
        (16383 ≤ p.index → t.sweep.pos.index = 0) ∧
        (∀ k c, s.store.cabins.get? k = some c → ∃ n, t.store.cabins.get? k = some { c with
          aboard := n
          pull := if completes c then .pulled else c.pull
          pullStart := if completes c then none else c.pullStart }) ∧
        (s.notices.sources.length = 15 → ∀ m, m ∈ t.subjects .pullDone ↔ m ∈ s.subjects .pullDone ∨
          ∃ k c, (k, c) ∈ s.store.cabins ∧ completes c ∧ m = if k < 65536 then 0 else 1) ∧
        (s.store.bags.get? t.sweep.pos.index = none → t.store.bags = s.store.bags ∧ t.store.slotA = s.store.slotA ∧
          t.store.slotB = s.store.slotB ∧
          ∀ k c, s.store.cabins.get? k = some c → t.store.cabins.get? k = some
            (if completes c then { c with pull := .pulled, pullStart := none } else c)))

/-- The visit of a live bag: under a VOID governing cabin the flag, a stray's reason PULLED, or OFFLOAD, its cabin's aboard count 1
less; its entry leaves the cart at the door, which stays until the entries left are all marked with nothing unidentified, and then
completes, with CART_DONE where it is asked for. Under another a flag of origin CABIN goes, and OFFLOAD without a flag of origin REQUEST
returns to ABOARD, its cabin's aboard count 1 more; then a stray that entered the age limit ago is AGED, with its notice (R13, R24,
R140, R146, R147, R149, R165, R168). -/
def Sys2Proof.Claim.PatrolReconciles : Prop :=
  ∀ (g : Handle) (b : Bag) (s : State), s.opState = .run → s.sweep.walk = none → g.index = s.sweep.pos.next.index →
    s.bag? g = some b →
    let old : Prop := b.aged = false ∧ b.reinduct = false ∧
      ∃ e, b.entered = some e ∧ e + s.limits.strayAge * 60 ≤ s.hallSecond;
    ∃ t y, exec .patrolVisit s = .next t ∧ t.bag? g = some y ∧
      (b.state = .stray → (old → y.aged = true) ∧ (¬old → y.aged = b.aged) ∧ y.entered = b.entered ∧
        (s.notices.sources.length = 15 → old → ∀ p, b.location = some (.pen p) → p ∈ t.subjects .strayAged)) ∧
      (∀ c, s.store.governing b = some c → c.status = .void →
        ((b.state = .registered ∨ b.state = .landing ∨ b.state = .jammed ∨ b.state = .inCart ∨ b.state = .missing ∨
            b.state = .stray) → y.state = b.state ∧ y.pull = some (b.pull.getD .cabin) ∧
          y.reason = if b.state = .stray then some .pulled else b.reason) ∧
        ((b.state = .onLoop ∨ b.state = .offload) → y = b) ∧
        (b.state = .aboard → y.state = .offload ∧ y.location = none ∧
          ∀ k, b.home = some k → (s.notices.sources.length = 15 → k.slot.toNat ∈ t.subjects .offload) ∧
            (t.store.slot k.slot).counts = { (s.store.slot k.slot).counts with
              aboard := (s.store.slot k.slot).counts.aboard - 1
              offload := (s.store.slot k.slot).counts.offload + 1 } ∧
            (∀ z, s.store.cabin? k = some z → ∃ w, t.store.cabin? k = some w ∧ w.aboard = z.aboard - 1) ∧
            ∀ m z, m ≠ k.code → s.store.cabins.get? m = some z →
              ∃ w, t.store.cabins.get? m = some w ∧ w.aboard = z.aboard) ∧
        (b.state = .aboard → ∀ n z, b.location = some (.cart n) → s.cart? n = some z →
          let left := z.entries.filter (fun e => e.bag != g)
          (z.state ≠ .atDoor → z.state ≠ .queued → t.cart? n = some { z with entries := left }) ∧
          (z.state = .atDoor → ((∃ e ∈ left, e.aboard = false) ∨ z.unidentified ≠ 0) →
            (∀ d, s.doorOfCart n = some d → ∃ x, s.door? d = some x ∧ x.cart = some n) →
            t.cart? n = some { z with entries := left } ∧ t.routes = s.routes) ∧
          (∀ d x, z.state = .atDoor → s.doorOfCart n = some d → s.door? d = some x → x.cart = some n →
            (∀ e ∈ left, e.aboard = true) → z.unidentified = 0 → t.cart? n = none ∧
            (∀ e ∈ left, ∀ o, s.bag? e.bag = some o → ∃ w, t.bag? e.bag = some w ∧ w.location = none ∧ w.state = o.state) ∧
            ∀ k r, s.notices.sources.length = 15 → z.route = some k → s.route? k = some r →
              (z.notify = true ∨ r.notifyAll = true) → k.subject ∈ t.subjects .cartDone))) ∧
      (∀ c, s.store.governing b = some c → c.status ≠ .void →
        y.pull = (if b.pull = some .cabin then none else b.pull) ∧ y.reason = b.reason ∧
        y.state = (if b.state = .offload ∧ b.pull ≠ some .request then .aboard else b.state) ∧
        (∀ k, b.home = some k → b.state = .offload → b.pull ≠ some .request →
          (t.store.slot k.slot).counts = { (s.store.slot k.slot).counts with
            offload := (s.store.slot k.slot).counts.offload - 1
            aboard := (s.store.slot k.slot).counts.aboard + 1 } ∧
          (∀ z, s.store.cabin? k = some z → ∃ w, t.store.cabin? k = some w ∧ w.aboard = z.aboard + 1) ∧
          ∀ m z, m ≠ k.code → s.store.cabins.get? m = some z →
            ∃ w, t.store.cabins.get? m = some w ∧ w.aboard = z.aboard)) ∧
      (s.store.governing b = none → y.pull = b.pull ∧ y.reason = b.reason ∧ y.state = b.state)

/-- PATROL_VISIT: the walker and the bag it visits. -/
def Obligations.PatrolVisits : Prop :=
  Claim.PatrolWalks ∧ Claim.PatrolReconciles

/-- The rows of a walk that does not run, and of a completion before its walk's last record, change nothing (the model's choice,
log 2). -/
def Sys2Proof.Claim.WalksWait : Prop :=
  ∀ s : State,
    ((∀ w, s.sweep.walk = some w → w.kind = .clear) → exec .closeWalkVisit s = .next s) ∧
    ((∀ w, s.sweep.walk = some w → w.kind ≠ .clear) → exec .clearWalkVisit s = .next s) ∧
    ((∀ w, s.sweep.walk = some w → w.kind = .clear ∨ w.next < 22527) → exec .closeWalkComplete s = .next s) ∧
    ((∀ w, s.sweep.walk = some w → w.kind ≠ .clear ∨ w.next < 22527) → exec .clearWalkComplete s = .next s)

/-- A visit of a walk before its last goes on to the next record: the close walk retires a bag or cabin of its slot and leaves
others as they stand, the clear walk retires every one; a cabin that a retired one forwards to loses 1 from its forwarded-in
count; a record or a pen position freed is tested for the conditions that hold the points (R17, R31, R157, R169, R171). -/
def Sys2Proof.Claim.WalksVisit : Prop :=
  ∀ (w : Walk) (i : Instr) (s : State), s.sweep.walk = some w → w.next < 22527 →
    (i = .closeWalkVisit ∧ w.kind ≠ .clear ∨ i = .clearWalkVisit ∧ w.kind = .clear) →
    let takes := fun (o : Option SlotId) => w.kind = .clear ∨ ∃ b, w.kind = .close b ∧ o = some b;
    ∃ t, exec i s = .next t ∧ t.sweep.walk = some ⟨w.kind, w.next + 1⟩ ∧ t.sweep.pos = s.sweep.pos ∧
      (∀ b, w.next < 16384 → s.store.bags.get? w.next = some b → takes (b.home.map (·.slot)) →
        Retired s t ⟨w.next, s.store.gen w.next⟩ b ∧ (BagTableLaw s → HoldsFollow s t (InPen b))) ∧
      (∀ b, w.next < 16384 → s.store.bags.get? w.next = some b → ¬takes (b.home.map (·.slot)) →
        t = s.setSweep { s.sweep with walk := some ⟨w.kind, w.next + 1⟩ }) ∧
      (w.next < 16384 → s.store.bags.get? w.next = none →
        t = s.setSweep { s.sweep with walk := some ⟨w.kind, w.next + 1⟩ }) ∧
      (16384 ≤ w.next → t.store.bags = s.store.bags ∧
        (∀ k c, s.store.cabins.find? (fun e => e.2.place + 16384 == w.next) = some (k, c) →
          (takes (some (if k < 65536 then .berthA else .berthB)) → ModeLaw t ∧ ∀ j, t.store.cabins.get? j =
            if j = k then none
            else if c.forward.any (fun n => CabinKey.code ⟨if k < 65536 then .berthA else .berthB, n⟩ == j) = true then
              (s.store.cabins.get? j).map (fun y => { y with forwardedIn := y.forwardedIn - 1 })
            else s.store.cabins.get? j) ∧
          (¬takes (some (if k < 65536 then .berthA else .berthB)) → t.store.cabins = s.store.cabins)) ∧
        (s.store.cabins.find? (fun e => e.2.place + 16384 == w.next) = none → t.store.cabins = s.store.cabins))

/-- The last visit of a close walk, by either row. The cabin at the last record retires, where it is of the slot, as at every visit:
its key names none, the cabin it forwards to loses 1 from its forwarded-in count, and the mode follows; another's stays. Then the
slot is FREE, its routes are UNSET, its chutes unassigned, CLOSED and without claims, its berth's doors without a last-served route,
its notices gone, its QUEUED carts retired, in a queue or not, WALK_DONE has its subject, and no walk runs. At its chutes an empty
cart retires, its position empty and not active, and a cart with unidentified items keeps its position and its state, without a
route; a CLOSING cart whose chute's claims are lost is CUT (R9, R17, R119, R167, R169, R170; that the cut comes before R170's "keeps
its position and state" is the model's reading, log 17). -/
def Sys2Proof.Claim.CloseWalkCompletes : Prop :=
  ∀ (b : SlotId) (n : Nat) (i : Instr) (s : State), s.sweep.walk = some ⟨.close b, n⟩ → 22527 ≤ n →
    (i = .closeWalkVisit ∨ i = .closeWalkComplete) →
    ∃ t, exec i s = .next t ∧
      Changes [.store, .sweep, .loop, .chutes, .carts, .routes, .doors, .notices] s t ∧
      t.store.slot b = ⟨.free, none, false, ⟨0, 0, 0, 0, 0, 0⟩⟩ ∧ CabinVisited s t n (· = b) ∧
      t.sweep.walk = none ∧ t.sweep.pos = s.sweep.pos ∧ (s.notices.sources.length = 15 → b.toNat ∈ t.subjects .walkDone) ∧
      (∀ k, k < 12 → s.routes.length = 24 → t.route? ⟨b, k⟩ = some ⟨none, [], [], .unset, false, false, 0⟩) ∧
      (∀ k, k < 12 → t.route? ⟨b.other, k⟩ = s.route? ⟨b.other, k⟩) ∧
      (∀ k c v, s.chute? k = some c → c.assigned = some v → v.slot = b → ∃ q, t.chute? k = some q ∧
        q.assigned = none ∧ q.state = .closed ∧ q.landing = [] ∧ q.jams = [] ∧ q.reserved = 0) ∧
      (∀ d x, s.door? d = some x → t.door? d =
        some (if x.berth = b then { x with lastServed := none } else x)) ∧
      (∀ k r m, k < 12 → s.route? ⟨b, k⟩ = some r → m ∈ r.queue → t.cart? m = none) ∧
      (∀ m y v, s.cart? m = some y → y.state = .queued → y.route = some v → v.slot = b →
        (∀ k c, s.chute? k = some c → c.posX ≠ .cart m ∧ c.posY ≠ .cart m) → t.cart? m = none) ∧
      (∀ k c v m y, s.chute? k = some c → c.assigned = some v → v.slot = b → c.claims ≠ 0 →
        s.activeCart c = some (m, y) → y.state = .closing → y.unidentified ≠ 0 →
        (∀ j o, j ≠ k → s.chute? j = some o → o.posX ≠ .cart m ∧ o.posY ≠ .cart m) →
        (∀ r ∈ s.routes, m ∉ r.queue) → t.cart? m = some { y with state := .cut, route := none }) ∧
      (∀ k c v p m y, s.chute? k = some c → c.assigned = some v → v.slot = b → c.position p = .cart m → s.cart? m = some y →
        c.position p.other ≠ .cart m → (∀ j o, j ≠ k → s.chute? j = some o → o.posX ≠ .cart m ∧ o.posY ≠ .cart m) →
        (y.entries = [] → y.unidentified = 0 → t.cart? m = none ∧ ∃ q, t.chute? k = some q ∧ q.position p = .empty ∧
          q.active ≠ some p) ∧
        (y.unidentified ≠ 0 → y.state ≠ .queued → (∀ r ∈ s.routes, m ∉ r.queue) → ∃ q u, t.chute? k = some q ∧
          q.position p = .cart m ∧ t.cart? m = some { y with state := u, route := none } ∧
          (y.state ≠ .closing → y.state ≠ .standby → u = y.state))) ∧
      (∀ m, m ∈ t.subjects .offload ∨ m ∈ t.subjects .pullDone → m ≠ b.toNat) ∧
      (∀ m, m ∈ t.subjects .cartDone ∨ m ∈ t.subjects .routeIdle → m / 12 ≠ b.toNat)

/-- The last visit of the clear walk, by either row. The cabin at the last record retires, whatever its slot: its key names none, the
cabin it forwards to loses 1 from its forwarded-in count, and the mode follows; another's stays. Then no cart is live, every
chute position is empty, every route UNSET, both slots FREE, every notice set empty but WALK_DONE with subject 2, the enables and
priorities kept, and no walk runs (R17, R167, R169, R171). -/
def Sys2Proof.Claim.ClearWalkCompletes : Prop :=
  ∀ (n : Nat) (i : Instr) (s : State), s.sweep.walk = some ⟨.clear, n⟩ → 22527 ≤ n →
    (i = .clearWalkVisit ∨ i = .clearWalkComplete) →
    ∃ t, exec i s = .next t ∧ t.opState = s.opState ∧ t.carts = [] ∧ t.sweep.walk = none ∧
      CabinVisited s t n (fun _ => True) ∧
      t.sweep.pos = s.sweep.pos ∧ (∀ b, t.store.slot b = ⟨.free, none, false, ⟨0, 0, 0, 0, 0, 0⟩⟩) ∧
      (∀ k c, t.chute? k = some c → c.posX = .empty ∧ c.posY = .empty ∧ c.active = none) ∧
      (∀ r ∈ t.routes, r = ⟨none, [], [], .unset, false, false, 0⟩) ∧ t.routes.length = s.routes.length ∧
      (∀ d x, t.door? d = some x → x.cart = none) ∧ t.nextSerial = s.nextSerial ∧
      t.notices.global = s.notices.global ∧ NoticeLaw t ∧
      (∀ (j : Nat) (o : Notice), s.notices.sources[j]? = some o →
        t.notices.sources[j]? = some ⟨if j = 14 then [2] else [], o.enabled, o.priority⟩)

/-- The close walk and the clear walk, visit by visit and at their completions. -/
def Obligations.WalksRetire : Prop :=
  Claim.WalksWait ∧ Claim.WalksVisit ∧ Claim.CloseWalkCompletes ∧ Claim.ClearWalkCompletes

/-- HALL TIME answers the hall second, the operating state, the walker's position and mode and the walk running, in every operating
state, and changes nothing (R178). -/
def Sys2Proof.Claim.HallTimeReads : Prop :=
  ∀ (h : Head) (s : State), Ready s h 0 →
    exec (.hallTime h) s = answered 0x0C h s.taken
      (Answer.done (.time s.hallSecond s.opState s.sweep.pos s.sweep.mode (s.sweep.walk.map (·.kind))))

/-- The requests that read the part, the loop, chutes, carts, routes and doors. -/
def Obligations.HallRead : Prop :=
  Claim.HallTimeReads ∧ Claim.LoopGetReads ∧ Claim.ChuteAndCartGetRead ∧ Claim.RouteAndDoorGetRead

/-! ## Laws that every step keeps -/

/-- NOTICE_N follows the enables, the global enable and the pending sources in every step (R179). -/
def Obligations.NoticePinFollows : Prop := ∀ s t : State, NoticeLaw s → step s = .next t → NoticeLaw t

/-- Every induction point's level is GO exactly while its set of hold causes is empty, in every step (R77). -/
def Obligations.LevelsFollowCauses : Prop := ∀ s t : State, LevelLaw s → step s = .next t → LevelLaw t

/-- The transmit queue never holds more than 64 frames (R56). -/
def Sys2Proof.Claim.TransmitQueueBounded : Prop := ∀ s t : State, QueueLaw s → step s = .next t → QueueLaw t

/-- The bag table keeps its canonical form, every index below 16,384 (R20, R21). -/
def Obligations.BagTableBounded : Prop := ∀ s t : State, BagTableLaw s → step s = .next t → BagTableLaw t

/-- The walker's mode is FAST exactly while some cabin is PULLING, in every step (R167). -/
def Sys2Proof.Claim.ModeFollowsPulls : Prop := ∀ s t : State, ModeLaw s → step s = .next t → ModeLaw t

/-- Each of the fifteen notice sources keeps its subjects strictly rising, so that its first is its lowest, in every step (R179,
R180). -/
def Sys2Proof.Claim.SubjectsRise : Prop := ∀ s t : State, SubjectLaw s → step s = .next t → SubjectLaw t

/-- The tables keep their sizes and their canonical form in every step (R42, R126). -/
def Sys2Proof.Claim.TablesKeepShape : Prop := ∀ s t : State, ShapeLaw s → step s = .next t → ShapeLaw t

/-- The transmit queue is bounded, the mode follows the pulls, subjects rise and tables keep their shape, in every step. -/
def Obligations.QueueAndMode : Prop :=
  Claim.TransmitQueueBounded ∧ Claim.ModeFollowsPulls ∧ Claim.SubjectsRise ∧ Claim.TablesKeepShape

/-- The laws hold after reset. -/
def Obligations.LawsHoldAtReset : Prop :=
  NoticeLaw State.reset ∧ LevelLaw State.reset ∧ QueueLaw State.reset ∧ BagTableLaw State.reset ∧ ModeLaw State.reset ∧
  SubjectLaw State.reset ∧ ShapeLaw State.reset
end

