-- ==== Sys2Proof/Laws/State.lean ====
section
/-! SUPPORT. One lemma for each field after each setter of State. -/

namespace Sys2Proof.Machine

@[simp] theorem State.setOpState_opState (s : State) (v : OpState) : (s.setOpState v).opState = v := rfl
@[simp] theorem State.setOpState_hallSecond (s : State) (v : OpState) : (s.setOpState v).hallSecond = s.hallSecond := rfl
@[simp] theorem State.setOpState_subTick (s : State) (v : OpState) : (s.setOpState v).subTick = s.subTick := rfl
@[simp] theorem State.setOpState_patrolPhase (s : State) (v : OpState) : (s.setOpState v).patrolPhase = s.patrolPhase := rfl
@[simp] theorem State.setOpState_limits (s : State) (v : OpState) : (s.setOpState v).limits = s.limits := rfl
@[simp] theorem State.setOpState_port (s : State) (v : OpState) : (s.setOpState v).port = s.port := rfl
@[simp] theorem State.setOpState_discarded (s : State) (v : OpState) : (s.setOpState v).discarded = s.discarded := rfl
@[simp] theorem State.setOpState_spiOut (s : State) (v : OpState) : (s.setOpState v).spiOut = s.spiOut := rfl
@[simp] theorem State.setOpState_store (s : State) (v : OpState) : (s.setOpState v).store = s.store := rfl
@[simp] theorem State.setOpState_link (s : State) (v : OpState) : (s.setOpState v).link = s.link := rfl
@[simp] theorem State.setOpState_loop (s : State) (v : OpState) : (s.setOpState v).loop = s.loop := rfl
@[simp] theorem State.setOpState_chutes (s : State) (v : OpState) : (s.setOpState v).chutes = s.chutes := rfl
@[simp] theorem State.setOpState_carts (s : State) (v : OpState) : (s.setOpState v).carts = s.carts := rfl
@[simp] theorem State.setOpState_nextSerial (s : State) (v : OpState) : (s.setOpState v).nextSerial = s.nextSerial := rfl
@[simp] theorem State.setOpState_routes (s : State) (v : OpState) : (s.setOpState v).routes = s.routes := rfl
@[simp] theorem State.setOpState_doors (s : State) (v : OpState) : (s.setOpState v).doors = s.doors := rfl
@[simp] theorem State.setOpState_pen (s : State) (v : OpState) : (s.setOpState v).pen = s.pen := rfl
@[simp] theorem State.setOpState_sweep (s : State) (v : OpState) : (s.setOpState v).sweep = s.sweep := rfl
@[simp] theorem State.setOpState_notices (s : State) (v : OpState) : (s.setOpState v).notices = s.notices := rfl
@[simp] theorem State.setOpState_freeCount (s : State) (v : OpState) : (s.setOpState v).freeCount = s.freeCount := rfl
@[simp] theorem State.setOpState_pending (s : State) (v : OpState) : (s.setOpState v).pending = s.pending := rfl

@[simp] theorem State.setHallSecond_opState (s : State) (v : Nat) : (s.setHallSecond v).opState = s.opState := rfl
@[simp] theorem State.setHallSecond_hallSecond (s : State) (v : Nat) : (s.setHallSecond v).hallSecond = v := rfl
@[simp] theorem State.setHallSecond_subTick (s : State) (v : Nat) : (s.setHallSecond v).subTick = s.subTick := rfl
@[simp] theorem State.setHallSecond_patrolPhase (s : State) (v : Nat) : (s.setHallSecond v).patrolPhase = s.patrolPhase := rfl
@[simp] theorem State.setHallSecond_limits (s : State) (v : Nat) : (s.setHallSecond v).limits = s.limits := rfl
@[simp] theorem State.setHallSecond_port (s : State) (v : Nat) : (s.setHallSecond v).port = s.port := rfl
@[simp] theorem State.setHallSecond_discarded (s : State) (v : Nat) : (s.setHallSecond v).discarded = s.discarded := rfl
@[simp] theorem State.setHallSecond_spiOut (s : State) (v : Nat) : (s.setHallSecond v).spiOut = s.spiOut := rfl
@[simp] theorem State.setHallSecond_store (s : State) (v : Nat) : (s.setHallSecond v).store = s.store := rfl
@[simp] theorem State.setHallSecond_link (s : State) (v : Nat) : (s.setHallSecond v).link = s.link := rfl
@[simp] theorem State.setHallSecond_loop (s : State) (v : Nat) : (s.setHallSecond v).loop = s.loop := rfl
@[simp] theorem State.setHallSecond_chutes (s : State) (v : Nat) : (s.setHallSecond v).chutes = s.chutes := rfl
@[simp] theorem State.setHallSecond_carts (s : State) (v : Nat) : (s.setHallSecond v).carts = s.carts := rfl
@[simp] theorem State.setHallSecond_nextSerial (s : State) (v : Nat) : (s.setHallSecond v).nextSerial = s.nextSerial := rfl
@[simp] theorem State.setHallSecond_routes (s : State) (v : Nat) : (s.setHallSecond v).routes = s.routes := rfl
@[simp] theorem State.setHallSecond_doors (s : State) (v : Nat) : (s.setHallSecond v).doors = s.doors := rfl
@[simp] theorem State.setHallSecond_pen (s : State) (v : Nat) : (s.setHallSecond v).pen = s.pen := rfl
@[simp] theorem State.setHallSecond_sweep (s : State) (v : Nat) : (s.setHallSecond v).sweep = s.sweep := rfl
@[simp] theorem State.setHallSecond_notices (s : State) (v : Nat) : (s.setHallSecond v).notices = s.notices := rfl
@[simp] theorem State.setHallSecond_freeCount (s : State) (v : Nat) : (s.setHallSecond v).freeCount = s.freeCount := rfl
@[simp] theorem State.setHallSecond_pending (s : State) (v : Nat) : (s.setHallSecond v).pending = s.pending := rfl

@[simp] theorem State.setSubTick_opState (s : State) (v : Nat) : (s.setSubTick v).opState = s.opState := rfl
@[simp] theorem State.setSubTick_hallSecond (s : State) (v : Nat) : (s.setSubTick v).hallSecond = s.hallSecond := rfl
@[simp] theorem State.setSubTick_subTick (s : State) (v : Nat) : (s.setSubTick v).subTick = v := rfl
@[simp] theorem State.setSubTick_patrolPhase (s : State) (v : Nat) : (s.setSubTick v).patrolPhase = s.patrolPhase := rfl
@[simp] theorem State.setSubTick_limits (s : State) (v : Nat) : (s.setSubTick v).limits = s.limits := rfl
@[simp] theorem State.setSubTick_port (s : State) (v : Nat) : (s.setSubTick v).port = s.port := rfl
@[simp] theorem State.setSubTick_discarded (s : State) (v : Nat) : (s.setSubTick v).discarded = s.discarded := rfl
@[simp] theorem State.setSubTick_spiOut (s : State) (v : Nat) : (s.setSubTick v).spiOut = s.spiOut := rfl
@[simp] theorem State.setSubTick_store (s : State) (v : Nat) : (s.setSubTick v).store = s.store := rfl
@[simp] theorem State.setSubTick_link (s : State) (v : Nat) : (s.setSubTick v).link = s.link := rfl
@[simp] theorem State.setSubTick_loop (s : State) (v : Nat) : (s.setSubTick v).loop = s.loop := rfl
@[simp] theorem State.setSubTick_chutes (s : State) (v : Nat) : (s.setSubTick v).chutes = s.chutes := rfl
@[simp] theorem State.setSubTick_carts (s : State) (v : Nat) : (s.setSubTick v).carts = s.carts := rfl
@[simp] theorem State.setSubTick_nextSerial (s : State) (v : Nat) : (s.setSubTick v).nextSerial = s.nextSerial := rfl
@[simp] theorem State.setSubTick_routes (s : State) (v : Nat) : (s.setSubTick v).routes = s.routes := rfl
@[simp] theorem State.setSubTick_doors (s : State) (v : Nat) : (s.setSubTick v).doors = s.doors := rfl
@[simp] theorem State.setSubTick_pen (s : State) (v : Nat) : (s.setSubTick v).pen = s.pen := rfl
@[simp] theorem State.setSubTick_sweep (s : State) (v : Nat) : (s.setSubTick v).sweep = s.sweep := rfl
@[simp] theorem State.setSubTick_notices (s : State) (v : Nat) : (s.setSubTick v).notices = s.notices := rfl
@[simp] theorem State.setSubTick_freeCount (s : State) (v : Nat) : (s.setSubTick v).freeCount = s.freeCount := rfl
@[simp] theorem State.setSubTick_pending (s : State) (v : Nat) : (s.setSubTick v).pending = s.pending := rfl

@[simp] theorem State.setPatrolPhase_opState (s : State) (v : Nat) : (s.setPatrolPhase v).opState = s.opState := rfl
@[simp] theorem State.setPatrolPhase_hallSecond (s : State) (v : Nat) : (s.setPatrolPhase v).hallSecond = s.hallSecond := rfl
@[simp] theorem State.setPatrolPhase_subTick (s : State) (v : Nat) : (s.setPatrolPhase v).subTick = s.subTick := rfl
@[simp] theorem State.setPatrolPhase_patrolPhase (s : State) (v : Nat) : (s.setPatrolPhase v).patrolPhase = v := rfl
@[simp] theorem State.setPatrolPhase_limits (s : State) (v : Nat) : (s.setPatrolPhase v).limits = s.limits := rfl
@[simp] theorem State.setPatrolPhase_port (s : State) (v : Nat) : (s.setPatrolPhase v).port = s.port := rfl
@[simp] theorem State.setPatrolPhase_discarded (s : State) (v : Nat) : (s.setPatrolPhase v).discarded = s.discarded := rfl
@[simp] theorem State.setPatrolPhase_spiOut (s : State) (v : Nat) : (s.setPatrolPhase v).spiOut = s.spiOut := rfl
@[simp] theorem State.setPatrolPhase_store (s : State) (v : Nat) : (s.setPatrolPhase v).store = s.store := rfl
@[simp] theorem State.setPatrolPhase_link (s : State) (v : Nat) : (s.setPatrolPhase v).link = s.link := rfl
@[simp] theorem State.setPatrolPhase_loop (s : State) (v : Nat) : (s.setPatrolPhase v).loop = s.loop := rfl
@[simp] theorem State.setPatrolPhase_chutes (s : State) (v : Nat) : (s.setPatrolPhase v).chutes = s.chutes := rfl
@[simp] theorem State.setPatrolPhase_carts (s : State) (v : Nat) : (s.setPatrolPhase v).carts = s.carts := rfl
@[simp] theorem State.setPatrolPhase_nextSerial (s : State) (v : Nat) : (s.setPatrolPhase v).nextSerial = s.nextSerial := rfl
@[simp] theorem State.setPatrolPhase_routes (s : State) (v : Nat) : (s.setPatrolPhase v).routes = s.routes := rfl
@[simp] theorem State.setPatrolPhase_doors (s : State) (v : Nat) : (s.setPatrolPhase v).doors = s.doors := rfl
@[simp] theorem State.setPatrolPhase_pen (s : State) (v : Nat) : (s.setPatrolPhase v).pen = s.pen := rfl
@[simp] theorem State.setPatrolPhase_sweep (s : State) (v : Nat) : (s.setPatrolPhase v).sweep = s.sweep := rfl
@[simp] theorem State.setPatrolPhase_notices (s : State) (v : Nat) : (s.setPatrolPhase v).notices = s.notices := rfl
@[simp] theorem State.setPatrolPhase_freeCount (s : State) (v : Nat) : (s.setPatrolPhase v).freeCount = s.freeCount := rfl
@[simp] theorem State.setPatrolPhase_pending (s : State) (v : Nat) : (s.setPatrolPhase v).pending = s.pending := rfl

@[simp] theorem State.setLimits_opState (s : State) (v : Limits) : (s.setLimits v).opState = s.opState := rfl
@[simp] theorem State.setLimits_hallSecond (s : State) (v : Limits) : (s.setLimits v).hallSecond = s.hallSecond := rfl
@[simp] theorem State.setLimits_subTick (s : State) (v : Limits) : (s.setLimits v).subTick = s.subTick := rfl
@[simp] theorem State.setLimits_patrolPhase (s : State) (v : Limits) : (s.setLimits v).patrolPhase = s.patrolPhase := rfl
@[simp] theorem State.setLimits_limits (s : State) (v : Limits) : (s.setLimits v).limits = v := rfl
@[simp] theorem State.setLimits_port (s : State) (v : Limits) : (s.setLimits v).port = s.port := rfl
@[simp] theorem State.setLimits_discarded (s : State) (v : Limits) : (s.setLimits v).discarded = s.discarded := rfl
@[simp] theorem State.setLimits_spiOut (s : State) (v : Limits) : (s.setLimits v).spiOut = s.spiOut := rfl
@[simp] theorem State.setLimits_store (s : State) (v : Limits) : (s.setLimits v).store = s.store := rfl
@[simp] theorem State.setLimits_link (s : State) (v : Limits) : (s.setLimits v).link = s.link := rfl
@[simp] theorem State.setLimits_loop (s : State) (v : Limits) : (s.setLimits v).loop = s.loop := rfl
@[simp] theorem State.setLimits_chutes (s : State) (v : Limits) : (s.setLimits v).chutes = s.chutes := rfl
@[simp] theorem State.setLimits_carts (s : State) (v : Limits) : (s.setLimits v).carts = s.carts := rfl
@[simp] theorem State.setLimits_nextSerial (s : State) (v : Limits) : (s.setLimits v).nextSerial = s.nextSerial := rfl
@[simp] theorem State.setLimits_routes (s : State) (v : Limits) : (s.setLimits v).routes = s.routes := rfl
@[simp] theorem State.setLimits_doors (s : State) (v : Limits) : (s.setLimits v).doors = s.doors := rfl
@[simp] theorem State.setLimits_pen (s : State) (v : Limits) : (s.setLimits v).pen = s.pen := rfl
@[simp] theorem State.setLimits_sweep (s : State) (v : Limits) : (s.setLimits v).sweep = s.sweep := rfl
@[simp] theorem State.setLimits_notices (s : State) (v : Limits) : (s.setLimits v).notices = s.notices := rfl
@[simp] theorem State.setLimits_freeCount (s : State) (v : Limits) : (s.setLimits v).freeCount = s.freeCount := rfl
@[simp] theorem State.setLimits_pending (s : State) (v : Limits) : (s.setLimits v).pending = s.pending := rfl

@[simp] theorem State.setPort_opState (s : State) (v : Port) : (s.setPort v).opState = s.opState := rfl
@[simp] theorem State.setPort_hallSecond (s : State) (v : Port) : (s.setPort v).hallSecond = s.hallSecond := rfl
@[simp] theorem State.setPort_subTick (s : State) (v : Port) : (s.setPort v).subTick = s.subTick := rfl
@[simp] theorem State.setPort_patrolPhase (s : State) (v : Port) : (s.setPort v).patrolPhase = s.patrolPhase := rfl
@[simp] theorem State.setPort_limits (s : State) (v : Port) : (s.setPort v).limits = s.limits := rfl
@[simp] theorem State.setPort_port (s : State) (v : Port) : (s.setPort v).port = v := rfl
@[simp] theorem State.setPort_discarded (s : State) (v : Port) : (s.setPort v).discarded = s.discarded := rfl
@[simp] theorem State.setPort_spiOut (s : State) (v : Port) : (s.setPort v).spiOut = s.spiOut := rfl
@[simp] theorem State.setPort_store (s : State) (v : Port) : (s.setPort v).store = s.store := rfl
@[simp] theorem State.setPort_link (s : State) (v : Port) : (s.setPort v).link = s.link := rfl
@[simp] theorem State.setPort_loop (s : State) (v : Port) : (s.setPort v).loop = s.loop := rfl
@[simp] theorem State.setPort_chutes (s : State) (v : Port) : (s.setPort v).chutes = s.chutes := rfl
@[simp] theorem State.setPort_carts (s : State) (v : Port) : (s.setPort v).carts = s.carts := rfl
@[simp] theorem State.setPort_nextSerial (s : State) (v : Port) : (s.setPort v).nextSerial = s.nextSerial := rfl
@[simp] theorem State.setPort_routes (s : State) (v : Port) : (s.setPort v).routes = s.routes := rfl
@[simp] theorem State.setPort_doors (s : State) (v : Port) : (s.setPort v).doors = s.doors := rfl
@[simp] theorem State.setPort_pen (s : State) (v : Port) : (s.setPort v).pen = s.pen := rfl
@[simp] theorem State.setPort_sweep (s : State) (v : Port) : (s.setPort v).sweep = s.sweep := rfl
@[simp] theorem State.setPort_notices (s : State) (v : Port) : (s.setPort v).notices = s.notices := rfl
@[simp] theorem State.setPort_freeCount (s : State) (v : Port) : (s.setPort v).freeCount = s.freeCount := rfl
@[simp] theorem State.setPort_pending (s : State) (v : Port) : (s.setPort v).pending = s.pending := rfl

@[simp] theorem State.setDiscarded_opState (s : State) (v : Bool) : (s.setDiscarded v).opState = s.opState := rfl
@[simp] theorem State.setDiscarded_hallSecond (s : State) (v : Bool) : (s.setDiscarded v).hallSecond = s.hallSecond := rfl
@[simp] theorem State.setDiscarded_subTick (s : State) (v : Bool) : (s.setDiscarded v).subTick = s.subTick := rfl
@[simp] theorem State.setDiscarded_patrolPhase (s : State) (v : Bool) : (s.setDiscarded v).patrolPhase = s.patrolPhase := rfl
@[simp] theorem State.setDiscarded_limits (s : State) (v : Bool) : (s.setDiscarded v).limits = s.limits := rfl
@[simp] theorem State.setDiscarded_port (s : State) (v : Bool) : (s.setDiscarded v).port = s.port := rfl
@[simp] theorem State.setDiscarded_discarded (s : State) (v : Bool) : (s.setDiscarded v).discarded = v := rfl
@[simp] theorem State.setDiscarded_spiOut (s : State) (v : Bool) : (s.setDiscarded v).spiOut = s.spiOut := rfl
@[simp] theorem State.setDiscarded_store (s : State) (v : Bool) : (s.setDiscarded v).store = s.store := rfl
@[simp] theorem State.setDiscarded_link (s : State) (v : Bool) : (s.setDiscarded v).link = s.link := rfl
@[simp] theorem State.setDiscarded_loop (s : State) (v : Bool) : (s.setDiscarded v).loop = s.loop := rfl
@[simp] theorem State.setDiscarded_chutes (s : State) (v : Bool) : (s.setDiscarded v).chutes = s.chutes := rfl
@[simp] theorem State.setDiscarded_carts (s : State) (v : Bool) : (s.setDiscarded v).carts = s.carts := rfl
@[simp] theorem State.setDiscarded_nextSerial (s : State) (v : Bool) : (s.setDiscarded v).nextSerial = s.nextSerial := rfl
@[simp] theorem State.setDiscarded_routes (s : State) (v : Bool) : (s.setDiscarded v).routes = s.routes := rfl
@[simp] theorem State.setDiscarded_doors (s : State) (v : Bool) : (s.setDiscarded v).doors = s.doors := rfl
@[simp] theorem State.setDiscarded_pen (s : State) (v : Bool) : (s.setDiscarded v).pen = s.pen := rfl
@[simp] theorem State.setDiscarded_sweep (s : State) (v : Bool) : (s.setDiscarded v).sweep = s.sweep := rfl
@[simp] theorem State.setDiscarded_notices (s : State) (v : Bool) : (s.setDiscarded v).notices = s.notices := rfl
@[simp] theorem State.setDiscarded_freeCount (s : State) (v : Bool) : (s.setDiscarded v).freeCount = s.freeCount := rfl
@[simp] theorem State.setDiscarded_pending (s : State) (v : Bool) : (s.setDiscarded v).pending = s.pending := rfl

@[simp] theorem State.setSpiOut_opState (s : State) (v : List Byte) : (s.setSpiOut v).opState = s.opState := rfl
@[simp] theorem State.setSpiOut_hallSecond (s : State) (v : List Byte) : (s.setSpiOut v).hallSecond = s.hallSecond := rfl
@[simp] theorem State.setSpiOut_subTick (s : State) (v : List Byte) : (s.setSpiOut v).subTick = s.subTick := rfl
@[simp] theorem State.setSpiOut_patrolPhase (s : State) (v : List Byte) : (s.setSpiOut v).patrolPhase = s.patrolPhase := rfl
@[simp] theorem State.setSpiOut_limits (s : State) (v : List Byte) : (s.setSpiOut v).limits = s.limits := rfl
@[simp] theorem State.setSpiOut_port (s : State) (v : List Byte) : (s.setSpiOut v).port = s.port := rfl
@[simp] theorem State.setSpiOut_discarded (s : State) (v : List Byte) : (s.setSpiOut v).discarded = s.discarded := rfl
@[simp] theorem State.setSpiOut_spiOut (s : State) (v : List Byte) : (s.setSpiOut v).spiOut = v := rfl
@[simp] theorem State.setSpiOut_store (s : State) (v : List Byte) : (s.setSpiOut v).store = s.store := rfl
@[simp] theorem State.setSpiOut_link (s : State) (v : List Byte) : (s.setSpiOut v).link = s.link := rfl
@[simp] theorem State.setSpiOut_loop (s : State) (v : List Byte) : (s.setSpiOut v).loop = s.loop := rfl
@[simp] theorem State.setSpiOut_chutes (s : State) (v : List Byte) : (s.setSpiOut v).chutes = s.chutes := rfl
@[simp] theorem State.setSpiOut_carts (s : State) (v : List Byte) : (s.setSpiOut v).carts = s.carts := rfl
@[simp] theorem State.setSpiOut_nextSerial (s : State) (v : List Byte) : (s.setSpiOut v).nextSerial = s.nextSerial := rfl
@[simp] theorem State.setSpiOut_routes (s : State) (v : List Byte) : (s.setSpiOut v).routes = s.routes := rfl
@[simp] theorem State.setSpiOut_doors (s : State) (v : List Byte) : (s.setSpiOut v).doors = s.doors := rfl
@[simp] theorem State.setSpiOut_pen (s : State) (v : List Byte) : (s.setSpiOut v).pen = s.pen := rfl
@[simp] theorem State.setSpiOut_sweep (s : State) (v : List Byte) : (s.setSpiOut v).sweep = s.sweep := rfl
@[simp] theorem State.setSpiOut_notices (s : State) (v : List Byte) : (s.setSpiOut v).notices = s.notices := rfl
@[simp] theorem State.setSpiOut_freeCount (s : State) (v : List Byte) : (s.setSpiOut v).freeCount = s.freeCount := rfl
@[simp] theorem State.setSpiOut_pending (s : State) (v : List Byte) : (s.setSpiOut v).pending = s.pending := rfl

@[simp] theorem State.setStore_opState (s : State) (v : Store) : (s.setStore v).opState = s.opState := rfl
@[simp] theorem State.setStore_hallSecond (s : State) (v : Store) : (s.setStore v).hallSecond = s.hallSecond := rfl
@[simp] theorem State.setStore_subTick (s : State) (v : Store) : (s.setStore v).subTick = s.subTick := rfl
@[simp] theorem State.setStore_patrolPhase (s : State) (v : Store) : (s.setStore v).patrolPhase = s.patrolPhase := rfl
@[simp] theorem State.setStore_limits (s : State) (v : Store) : (s.setStore v).limits = s.limits := rfl
@[simp] theorem State.setStore_port (s : State) (v : Store) : (s.setStore v).port = s.port := rfl
@[simp] theorem State.setStore_discarded (s : State) (v : Store) : (s.setStore v).discarded = s.discarded := rfl
@[simp] theorem State.setStore_spiOut (s : State) (v : Store) : (s.setStore v).spiOut = s.spiOut := rfl
@[simp] theorem State.setStore_store (s : State) (v : Store) : (s.setStore v).store = v := rfl
@[simp] theorem State.setStore_link (s : State) (v : Store) : (s.setStore v).link = s.link := rfl
@[simp] theorem State.setStore_loop (s : State) (v : Store) : (s.setStore v).loop = s.loop := rfl
@[simp] theorem State.setStore_chutes (s : State) (v : Store) : (s.setStore v).chutes = s.chutes := rfl
@[simp] theorem State.setStore_carts (s : State) (v : Store) : (s.setStore v).carts = s.carts := rfl
@[simp] theorem State.setStore_nextSerial (s : State) (v : Store) : (s.setStore v).nextSerial = s.nextSerial := rfl
@[simp] theorem State.setStore_routes (s : State) (v : Store) : (s.setStore v).routes = s.routes := rfl
@[simp] theorem State.setStore_doors (s : State) (v : Store) : (s.setStore v).doors = s.doors := rfl
@[simp] theorem State.setStore_pen (s : State) (v : Store) : (s.setStore v).pen = s.pen := rfl
@[simp] theorem State.setStore_sweep (s : State) (v : Store) : (s.setStore v).sweep = s.sweep := rfl
@[simp] theorem State.setStore_notices (s : State) (v : Store) : (s.setStore v).notices = s.notices := rfl
@[simp] theorem State.setStore_freeCount (s : State) (v : Store) : (s.setStore v).freeCount = s.freeCount := rfl
@[simp] theorem State.setStore_pending (s : State) (v : Store) : (s.setStore v).pending = s.pending := rfl

@[simp] theorem State.setLink_opState (s : State) (v : Link) : (s.setLink v).opState = s.opState := rfl
@[simp] theorem State.setLink_hallSecond (s : State) (v : Link) : (s.setLink v).hallSecond = s.hallSecond := rfl
@[simp] theorem State.setLink_subTick (s : State) (v : Link) : (s.setLink v).subTick = s.subTick := rfl
@[simp] theorem State.setLink_patrolPhase (s : State) (v : Link) : (s.setLink v).patrolPhase = s.patrolPhase := rfl
@[simp] theorem State.setLink_limits (s : State) (v : Link) : (s.setLink v).limits = s.limits := rfl
@[simp] theorem State.setLink_port (s : State) (v : Link) : (s.setLink v).port = s.port := rfl
@[simp] theorem State.setLink_discarded (s : State) (v : Link) : (s.setLink v).discarded = s.discarded := rfl
@[simp] theorem State.setLink_spiOut (s : State) (v : Link) : (s.setLink v).spiOut = s.spiOut := rfl
@[simp] theorem State.setLink_store (s : State) (v : Link) : (s.setLink v).store = s.store := rfl
@[simp] theorem State.setLink_link (s : State) (v : Link) : (s.setLink v).link = v := rfl
@[simp] theorem State.setLink_loop (s : State) (v : Link) : (s.setLink v).loop = s.loop := rfl
@[simp] theorem State.setLink_chutes (s : State) (v : Link) : (s.setLink v).chutes = s.chutes := rfl
@[simp] theorem State.setLink_carts (s : State) (v : Link) : (s.setLink v).carts = s.carts := rfl
@[simp] theorem State.setLink_nextSerial (s : State) (v : Link) : (s.setLink v).nextSerial = s.nextSerial := rfl
@[simp] theorem State.setLink_routes (s : State) (v : Link) : (s.setLink v).routes = s.routes := rfl
@[simp] theorem State.setLink_doors (s : State) (v : Link) : (s.setLink v).doors = s.doors := rfl
@[simp] theorem State.setLink_pen (s : State) (v : Link) : (s.setLink v).pen = s.pen := rfl
@[simp] theorem State.setLink_sweep (s : State) (v : Link) : (s.setLink v).sweep = s.sweep := rfl
@[simp] theorem State.setLink_notices (s : State) (v : Link) : (s.setLink v).notices = s.notices := rfl
@[simp] theorem State.setLink_freeCount (s : State) (v : Link) : (s.setLink v).freeCount = s.freeCount := rfl
@[simp] theorem State.setLink_pending (s : State) (v : Link) : (s.setLink v).pending = s.pending := rfl

@[simp] theorem State.setLoop_opState (s : State) (v : Loop) : (s.setLoop v).opState = s.opState := rfl
@[simp] theorem State.setLoop_hallSecond (s : State) (v : Loop) : (s.setLoop v).hallSecond = s.hallSecond := rfl
@[simp] theorem State.setLoop_subTick (s : State) (v : Loop) : (s.setLoop v).subTick = s.subTick := rfl
@[simp] theorem State.setLoop_patrolPhase (s : State) (v : Loop) : (s.setLoop v).patrolPhase = s.patrolPhase := rfl
@[simp] theorem State.setLoop_limits (s : State) (v : Loop) : (s.setLoop v).limits = s.limits := rfl
@[simp] theorem State.setLoop_port (s : State) (v : Loop) : (s.setLoop v).port = s.port := rfl
@[simp] theorem State.setLoop_discarded (s : State) (v : Loop) : (s.setLoop v).discarded = s.discarded := rfl
@[simp] theorem State.setLoop_spiOut (s : State) (v : Loop) : (s.setLoop v).spiOut = s.spiOut := rfl
@[simp] theorem State.setLoop_store (s : State) (v : Loop) : (s.setLoop v).store = s.store := rfl
@[simp] theorem State.setLoop_link (s : State) (v : Loop) : (s.setLoop v).link = s.link := rfl
@[simp] theorem State.setLoop_loop (s : State) (v : Loop) : (s.setLoop v).loop = v := rfl
@[simp] theorem State.setLoop_chutes (s : State) (v : Loop) : (s.setLoop v).chutes = s.chutes := rfl
@[simp] theorem State.setLoop_carts (s : State) (v : Loop) : (s.setLoop v).carts = s.carts := rfl
@[simp] theorem State.setLoop_nextSerial (s : State) (v : Loop) : (s.setLoop v).nextSerial = s.nextSerial := rfl
@[simp] theorem State.setLoop_routes (s : State) (v : Loop) : (s.setLoop v).routes = s.routes := rfl
@[simp] theorem State.setLoop_doors (s : State) (v : Loop) : (s.setLoop v).doors = s.doors := rfl
@[simp] theorem State.setLoop_pen (s : State) (v : Loop) : (s.setLoop v).pen = s.pen := rfl
@[simp] theorem State.setLoop_sweep (s : State) (v : Loop) : (s.setLoop v).sweep = s.sweep := rfl
@[simp] theorem State.setLoop_notices (s : State) (v : Loop) : (s.setLoop v).notices = s.notices := rfl
@[simp] theorem State.setLoop_freeCount (s : State) (v : Loop) : (s.setLoop v).freeCount = s.freeCount := rfl
@[simp] theorem State.setLoop_pending (s : State) (v : Loop) : (s.setLoop v).pending = s.pending := rfl

@[simp] theorem State.setChutes_opState (s : State) (v : Table Chute) : (s.setChutes v).opState = s.opState := rfl
@[simp] theorem State.setChutes_hallSecond (s : State) (v : Table Chute) : (s.setChutes v).hallSecond = s.hallSecond := rfl
@[simp] theorem State.setChutes_subTick (s : State) (v : Table Chute) : (s.setChutes v).subTick = s.subTick := rfl
@[simp] theorem State.setChutes_patrolPhase (s : State) (v : Table Chute) : (s.setChutes v).patrolPhase = s.patrolPhase := rfl
@[simp] theorem State.setChutes_limits (s : State) (v : Table Chute) : (s.setChutes v).limits = s.limits := rfl
@[simp] theorem State.setChutes_port (s : State) (v : Table Chute) : (s.setChutes v).port = s.port := rfl
@[simp] theorem State.setChutes_discarded (s : State) (v : Table Chute) : (s.setChutes v).discarded = s.discarded := rfl
@[simp] theorem State.setChutes_spiOut (s : State) (v : Table Chute) : (s.setChutes v).spiOut = s.spiOut := rfl
@[simp] theorem State.setChutes_store (s : State) (v : Table Chute) : (s.setChutes v).store = s.store := rfl
@[simp] theorem State.setChutes_link (s : State) (v : Table Chute) : (s.setChutes v).link = s.link := rfl
@[simp] theorem State.setChutes_loop (s : State) (v : Table Chute) : (s.setChutes v).loop = s.loop := rfl
@[simp] theorem State.setChutes_chutes (s : State) (v : Table Chute) : (s.setChutes v).chutes = v := rfl
@[simp] theorem State.setChutes_carts (s : State) (v : Table Chute) : (s.setChutes v).carts = s.carts := rfl
@[simp] theorem State.setChutes_nextSerial (s : State) (v : Table Chute) : (s.setChutes v).nextSerial = s.nextSerial := rfl
@[simp] theorem State.setChutes_routes (s : State) (v : Table Chute) : (s.setChutes v).routes = s.routes := rfl
@[simp] theorem State.setChutes_doors (s : State) (v : Table Chute) : (s.setChutes v).doors = s.doors := rfl
@[simp] theorem State.setChutes_pen (s : State) (v : Table Chute) : (s.setChutes v).pen = s.pen := rfl
@[simp] theorem State.setChutes_sweep (s : State) (v : Table Chute) : (s.setChutes v).sweep = s.sweep := rfl
@[simp] theorem State.setChutes_notices (s : State) (v : Table Chute) : (s.setChutes v).notices = s.notices := rfl
@[simp] theorem State.setChutes_freeCount (s : State) (v : Table Chute) : (s.setChutes v).freeCount = s.freeCount := rfl
@[simp] theorem State.setChutes_pending (s : State) (v : Table Chute) : (s.setChutes v).pending = s.pending := rfl

@[simp] theorem State.setCarts_opState (s : State) (v : Table Cart) : (s.setCarts v).opState = s.opState := rfl
@[simp] theorem State.setCarts_hallSecond (s : State) (v : Table Cart) : (s.setCarts v).hallSecond = s.hallSecond := rfl
@[simp] theorem State.setCarts_subTick (s : State) (v : Table Cart) : (s.setCarts v).subTick = s.subTick := rfl
@[simp] theorem State.setCarts_patrolPhase (s : State) (v : Table Cart) : (s.setCarts v).patrolPhase = s.patrolPhase := rfl
@[simp] theorem State.setCarts_limits (s : State) (v : Table Cart) : (s.setCarts v).limits = s.limits := rfl
@[simp] theorem State.setCarts_port (s : State) (v : Table Cart) : (s.setCarts v).port = s.port := rfl
@[simp] theorem State.setCarts_discarded (s : State) (v : Table Cart) : (s.setCarts v).discarded = s.discarded := rfl
@[simp] theorem State.setCarts_spiOut (s : State) (v : Table Cart) : (s.setCarts v).spiOut = s.spiOut := rfl
@[simp] theorem State.setCarts_store (s : State) (v : Table Cart) : (s.setCarts v).store = s.store := rfl
@[simp] theorem State.setCarts_link (s : State) (v : Table Cart) : (s.setCarts v).link = s.link := rfl
@[simp] theorem State.setCarts_loop (s : State) (v : Table Cart) : (s.setCarts v).loop = s.loop := rfl
@[simp] theorem State.setCarts_chutes (s : State) (v : Table Cart) : (s.setCarts v).chutes = s.chutes := rfl
@[simp] theorem State.setCarts_carts (s : State) (v : Table Cart) : (s.setCarts v).carts = v := rfl
@[simp] theorem State.setCarts_nextSerial (s : State) (v : Table Cart) : (s.setCarts v).nextSerial = s.nextSerial := rfl
@[simp] theorem State.setCarts_routes (s : State) (v : Table Cart) : (s.setCarts v).routes = s.routes := rfl
@[simp] theorem State.setCarts_doors (s : State) (v : Table Cart) : (s.setCarts v).doors = s.doors := rfl
@[simp] theorem State.setCarts_pen (s : State) (v : Table Cart) : (s.setCarts v).pen = s.pen := rfl
@[simp] theorem State.setCarts_sweep (s : State) (v : Table Cart) : (s.setCarts v).sweep = s.sweep := rfl
@[simp] theorem State.setCarts_notices (s : State) (v : Table Cart) : (s.setCarts v).notices = s.notices := rfl
@[simp] theorem State.setCarts_freeCount (s : State) (v : Table Cart) : (s.setCarts v).freeCount = s.freeCount := rfl
@[simp] theorem State.setCarts_pending (s : State) (v : Table Cart) : (s.setCarts v).pending = s.pending := rfl

@[simp] theorem State.setNextSerial_opState (s : State) (v : Nat) : (s.setNextSerial v).opState = s.opState := rfl
@[simp] theorem State.setNextSerial_hallSecond (s : State) (v : Nat) : (s.setNextSerial v).hallSecond = s.hallSecond := rfl
@[simp] theorem State.setNextSerial_subTick (s : State) (v : Nat) : (s.setNextSerial v).subTick = s.subTick := rfl
@[simp] theorem State.setNextSerial_patrolPhase (s : State) (v : Nat) : (s.setNextSerial v).patrolPhase = s.patrolPhase := rfl
@[simp] theorem State.setNextSerial_limits (s : State) (v : Nat) : (s.setNextSerial v).limits = s.limits := rfl
@[simp] theorem State.setNextSerial_port (s : State) (v : Nat) : (s.setNextSerial v).port = s.port := rfl
@[simp] theorem State.setNextSerial_discarded (s : State) (v : Nat) : (s.setNextSerial v).discarded = s.discarded := rfl
@[simp] theorem State.setNextSerial_spiOut (s : State) (v : Nat) : (s.setNextSerial v).spiOut = s.spiOut := rfl
@[simp] theorem State.setNextSerial_store (s : State) (v : Nat) : (s.setNextSerial v).store = s.store := rfl
@[simp] theorem State.setNextSerial_link (s : State) (v : Nat) : (s.setNextSerial v).link = s.link := rfl
@[simp] theorem State.setNextSerial_loop (s : State) (v : Nat) : (s.setNextSerial v).loop = s.loop := rfl
@[simp] theorem State.setNextSerial_chutes (s : State) (v : Nat) : (s.setNextSerial v).chutes = s.chutes := rfl
@[simp] theorem State.setNextSerial_carts (s : State) (v : Nat) : (s.setNextSerial v).carts = s.carts := rfl
@[simp] theorem State.setNextSerial_nextSerial (s : State) (v : Nat) : (s.setNextSerial v).nextSerial = v := rfl
@[simp] theorem State.setNextSerial_routes (s : State) (v : Nat) : (s.setNextSerial v).routes = s.routes := rfl
@[simp] theorem State.setNextSerial_doors (s : State) (v : Nat) : (s.setNextSerial v).doors = s.doors := rfl
@[simp] theorem State.setNextSerial_pen (s : State) (v : Nat) : (s.setNextSerial v).pen = s.pen := rfl
@[simp] theorem State.setNextSerial_sweep (s : State) (v : Nat) : (s.setNextSerial v).sweep = s.sweep := rfl
@[simp] theorem State.setNextSerial_notices (s : State) (v : Nat) : (s.setNextSerial v).notices = s.notices := rfl
@[simp] theorem State.setNextSerial_freeCount (s : State) (v : Nat) : (s.setNextSerial v).freeCount = s.freeCount := rfl
@[simp] theorem State.setNextSerial_pending (s : State) (v : Nat) : (s.setNextSerial v).pending = s.pending := rfl

@[simp] theorem State.setRoutes_opState (s : State) (v : List Route) : (s.setRoutes v).opState = s.opState := rfl
@[simp] theorem State.setRoutes_hallSecond (s : State) (v : List Route) : (s.setRoutes v).hallSecond = s.hallSecond := rfl
@[simp] theorem State.setRoutes_subTick (s : State) (v : List Route) : (s.setRoutes v).subTick = s.subTick := rfl
@[simp] theorem State.setRoutes_patrolPhase (s : State) (v : List Route) : (s.setRoutes v).patrolPhase = s.patrolPhase := rfl
@[simp] theorem State.setRoutes_limits (s : State) (v : List Route) : (s.setRoutes v).limits = s.limits := rfl
@[simp] theorem State.setRoutes_port (s : State) (v : List Route) : (s.setRoutes v).port = s.port := rfl
@[simp] theorem State.setRoutes_discarded (s : State) (v : List Route) : (s.setRoutes v).discarded = s.discarded := rfl
@[simp] theorem State.setRoutes_spiOut (s : State) (v : List Route) : (s.setRoutes v).spiOut = s.spiOut := rfl
@[simp] theorem State.setRoutes_store (s : State) (v : List Route) : (s.setRoutes v).store = s.store := rfl
@[simp] theorem State.setRoutes_link (s : State) (v : List Route) : (s.setRoutes v).link = s.link := rfl
@[simp] theorem State.setRoutes_loop (s : State) (v : List Route) : (s.setRoutes v).loop = s.loop := rfl
@[simp] theorem State.setRoutes_chutes (s : State) (v : List Route) : (s.setRoutes v).chutes = s.chutes := rfl
@[simp] theorem State.setRoutes_carts (s : State) (v : List Route) : (s.setRoutes v).carts = s.carts := rfl
@[simp] theorem State.setRoutes_nextSerial (s : State) (v : List Route) : (s.setRoutes v).nextSerial = s.nextSerial := rfl
@[simp] theorem State.setRoutes_routes (s : State) (v : List Route) : (s.setRoutes v).routes = v := rfl
@[simp] theorem State.setRoutes_doors (s : State) (v : List Route) : (s.setRoutes v).doors = s.doors := rfl
@[simp] theorem State.setRoutes_pen (s : State) (v : List Route) : (s.setRoutes v).pen = s.pen := rfl
@[simp] theorem State.setRoutes_sweep (s : State) (v : List Route) : (s.setRoutes v).sweep = s.sweep := rfl
@[simp] theorem State.setRoutes_notices (s : State) (v : List Route) : (s.setRoutes v).notices = s.notices := rfl
@[simp] theorem State.setRoutes_freeCount (s : State) (v : List Route) : (s.setRoutes v).freeCount = s.freeCount := rfl
@[simp] theorem State.setRoutes_pending (s : State) (v : List Route) : (s.setRoutes v).pending = s.pending := rfl

@[simp] theorem State.setDoors_opState (s : State) (v : Table Door) : (s.setDoors v).opState = s.opState := rfl
@[simp] theorem State.setDoors_hallSecond (s : State) (v : Table Door) : (s.setDoors v).hallSecond = s.hallSecond := rfl
@[simp] theorem State.setDoors_subTick (s : State) (v : Table Door) : (s.setDoors v).subTick = s.subTick := rfl
@[simp] theorem State.setDoors_patrolPhase (s : State) (v : Table Door) : (s.setDoors v).patrolPhase = s.patrolPhase := rfl
@[simp] theorem State.setDoors_limits (s : State) (v : Table Door) : (s.setDoors v).limits = s.limits := rfl
@[simp] theorem State.setDoors_port (s : State) (v : Table Door) : (s.setDoors v).port = s.port := rfl
@[simp] theorem State.setDoors_discarded (s : State) (v : Table Door) : (s.setDoors v).discarded = s.discarded := rfl
@[simp] theorem State.setDoors_spiOut (s : State) (v : Table Door) : (s.setDoors v).spiOut = s.spiOut := rfl
@[simp] theorem State.setDoors_store (s : State) (v : Table Door) : (s.setDoors v).store = s.store := rfl
@[simp] theorem State.setDoors_link (s : State) (v : Table Door) : (s.setDoors v).link = s.link := rfl
@[simp] theorem State.setDoors_loop (s : State) (v : Table Door) : (s.setDoors v).loop = s.loop := rfl
@[simp] theorem State.setDoors_chutes (s : State) (v : Table Door) : (s.setDoors v).chutes = s.chutes := rfl
@[simp] theorem State.setDoors_carts (s : State) (v : Table Door) : (s.setDoors v).carts = s.carts := rfl
@[simp] theorem State.setDoors_nextSerial (s : State) (v : Table Door) : (s.setDoors v).nextSerial = s.nextSerial := rfl
@[simp] theorem State.setDoors_routes (s : State) (v : Table Door) : (s.setDoors v).routes = s.routes := rfl
@[simp] theorem State.setDoors_doors (s : State) (v : Table Door) : (s.setDoors v).doors = v := rfl
@[simp] theorem State.setDoors_pen (s : State) (v : Table Door) : (s.setDoors v).pen = s.pen := rfl
@[simp] theorem State.setDoors_sweep (s : State) (v : Table Door) : (s.setDoors v).sweep = s.sweep := rfl
@[simp] theorem State.setDoors_notices (s : State) (v : Table Door) : (s.setDoors v).notices = s.notices := rfl
@[simp] theorem State.setDoors_freeCount (s : State) (v : Table Door) : (s.setDoors v).freeCount = s.freeCount := rfl
@[simp] theorem State.setDoors_pending (s : State) (v : Table Door) : (s.setDoors v).pending = s.pending := rfl

@[simp] theorem State.setPen_opState (s : State) (v : Pen) : (s.setPen v).opState = s.opState := rfl
@[simp] theorem State.setPen_hallSecond (s : State) (v : Pen) : (s.setPen v).hallSecond = s.hallSecond := rfl
@[simp] theorem State.setPen_subTick (s : State) (v : Pen) : (s.setPen v).subTick = s.subTick := rfl
@[simp] theorem State.setPen_patrolPhase (s : State) (v : Pen) : (s.setPen v).patrolPhase = s.patrolPhase := rfl
@[simp] theorem State.setPen_limits (s : State) (v : Pen) : (s.setPen v).limits = s.limits := rfl
@[simp] theorem State.setPen_port (s : State) (v : Pen) : (s.setPen v).port = s.port := rfl
@[simp] theorem State.setPen_discarded (s : State) (v : Pen) : (s.setPen v).discarded = s.discarded := rfl
@[simp] theorem State.setPen_spiOut (s : State) (v : Pen) : (s.setPen v).spiOut = s.spiOut := rfl
@[simp] theorem State.setPen_store (s : State) (v : Pen) : (s.setPen v).store = s.store := rfl
@[simp] theorem State.setPen_link (s : State) (v : Pen) : (s.setPen v).link = s.link := rfl
@[simp] theorem State.setPen_loop (s : State) (v : Pen) : (s.setPen v).loop = s.loop := rfl
@[simp] theorem State.setPen_chutes (s : State) (v : Pen) : (s.setPen v).chutes = s.chutes := rfl
@[simp] theorem State.setPen_carts (s : State) (v : Pen) : (s.setPen v).carts = s.carts := rfl
@[simp] theorem State.setPen_nextSerial (s : State) (v : Pen) : (s.setPen v).nextSerial = s.nextSerial := rfl
@[simp] theorem State.setPen_routes (s : State) (v : Pen) : (s.setPen v).routes = s.routes := rfl
@[simp] theorem State.setPen_doors (s : State) (v : Pen) : (s.setPen v).doors = s.doors := rfl
@[simp] theorem State.setPen_pen (s : State) (v : Pen) : (s.setPen v).pen = v := rfl
@[simp] theorem State.setPen_sweep (s : State) (v : Pen) : (s.setPen v).sweep = s.sweep := rfl
@[simp] theorem State.setPen_notices (s : State) (v : Pen) : (s.setPen v).notices = s.notices := rfl
@[simp] theorem State.setPen_freeCount (s : State) (v : Pen) : (s.setPen v).freeCount = s.freeCount := rfl
@[simp] theorem State.setPen_pending (s : State) (v : Pen) : (s.setPen v).pending = s.pending := rfl

@[simp] theorem State.setSweep_opState (s : State) (v : Sweep) : (s.setSweep v).opState = s.opState := rfl
@[simp] theorem State.setSweep_hallSecond (s : State) (v : Sweep) : (s.setSweep v).hallSecond = s.hallSecond := rfl
@[simp] theorem State.setSweep_subTick (s : State) (v : Sweep) : (s.setSweep v).subTick = s.subTick := rfl
@[simp] theorem State.setSweep_patrolPhase (s : State) (v : Sweep) : (s.setSweep v).patrolPhase = s.patrolPhase := rfl
@[simp] theorem State.setSweep_limits (s : State) (v : Sweep) : (s.setSweep v).limits = s.limits := rfl
@[simp] theorem State.setSweep_port (s : State) (v : Sweep) : (s.setSweep v).port = s.port := rfl
@[simp] theorem State.setSweep_discarded (s : State) (v : Sweep) : (s.setSweep v).discarded = s.discarded := rfl
@[simp] theorem State.setSweep_spiOut (s : State) (v : Sweep) : (s.setSweep v).spiOut = s.spiOut := rfl
@[simp] theorem State.setSweep_store (s : State) (v : Sweep) : (s.setSweep v).store = s.store := rfl
@[simp] theorem State.setSweep_link (s : State) (v : Sweep) : (s.setSweep v).link = s.link := rfl
@[simp] theorem State.setSweep_loop (s : State) (v : Sweep) : (s.setSweep v).loop = s.loop := rfl
@[simp] theorem State.setSweep_chutes (s : State) (v : Sweep) : (s.setSweep v).chutes = s.chutes := rfl
@[simp] theorem State.setSweep_carts (s : State) (v : Sweep) : (s.setSweep v).carts = s.carts := rfl
@[simp] theorem State.setSweep_nextSerial (s : State) (v : Sweep) : (s.setSweep v).nextSerial = s.nextSerial := rfl
@[simp] theorem State.setSweep_routes (s : State) (v : Sweep) : (s.setSweep v).routes = s.routes := rfl
@[simp] theorem State.setSweep_doors (s : State) (v : Sweep) : (s.setSweep v).doors = s.doors := rfl
@[simp] theorem State.setSweep_pen (s : State) (v : Sweep) : (s.setSweep v).pen = s.pen := rfl
@[simp] theorem State.setSweep_sweep (s : State) (v : Sweep) : (s.setSweep v).sweep = v := rfl
@[simp] theorem State.setSweep_notices (s : State) (v : Sweep) : (s.setSweep v).notices = s.notices := rfl
@[simp] theorem State.setSweep_freeCount (s : State) (v : Sweep) : (s.setSweep v).freeCount = s.freeCount := rfl
@[simp] theorem State.setSweep_pending (s : State) (v : Sweep) : (s.setSweep v).pending = s.pending := rfl

@[simp] theorem State.setNotices_opState (s : State) (v : NoticeUnit) : (s.setNotices v).opState = s.opState := rfl
@[simp] theorem State.setNotices_hallSecond (s : State) (v : NoticeUnit) : (s.setNotices v).hallSecond = s.hallSecond := rfl
@[simp] theorem State.setNotices_subTick (s : State) (v : NoticeUnit) : (s.setNotices v).subTick = s.subTick := rfl
@[simp] theorem State.setNotices_patrolPhase (s : State) (v : NoticeUnit) : (s.setNotices v).patrolPhase = s.patrolPhase := rfl
@[simp] theorem State.setNotices_limits (s : State) (v : NoticeUnit) : (s.setNotices v).limits = s.limits := rfl
@[simp] theorem State.setNotices_port (s : State) (v : NoticeUnit) : (s.setNotices v).port = s.port := rfl
@[simp] theorem State.setNotices_discarded (s : State) (v : NoticeUnit) : (s.setNotices v).discarded = s.discarded := rfl
@[simp] theorem State.setNotices_spiOut (s : State) (v : NoticeUnit) : (s.setNotices v).spiOut = s.spiOut := rfl
@[simp] theorem State.setNotices_store (s : State) (v : NoticeUnit) : (s.setNotices v).store = s.store := rfl
@[simp] theorem State.setNotices_link (s : State) (v : NoticeUnit) : (s.setNotices v).link = s.link := rfl
@[simp] theorem State.setNotices_loop (s : State) (v : NoticeUnit) : (s.setNotices v).loop = s.loop := rfl
@[simp] theorem State.setNotices_chutes (s : State) (v : NoticeUnit) : (s.setNotices v).chutes = s.chutes := rfl
@[simp] theorem State.setNotices_carts (s : State) (v : NoticeUnit) : (s.setNotices v).carts = s.carts := rfl
@[simp] theorem State.setNotices_nextSerial (s : State) (v : NoticeUnit) : (s.setNotices v).nextSerial = s.nextSerial := rfl
@[simp] theorem State.setNotices_routes (s : State) (v : NoticeUnit) : (s.setNotices v).routes = s.routes := rfl
@[simp] theorem State.setNotices_doors (s : State) (v : NoticeUnit) : (s.setNotices v).doors = s.doors := rfl
@[simp] theorem State.setNotices_pen (s : State) (v : NoticeUnit) : (s.setNotices v).pen = s.pen := rfl
@[simp] theorem State.setNotices_sweep (s : State) (v : NoticeUnit) : (s.setNotices v).sweep = s.sweep := rfl
@[simp] theorem State.setNotices_notices (s : State) (v : NoticeUnit) : (s.setNotices v).notices = v := rfl
@[simp] theorem State.setNotices_freeCount (s : State) (v : NoticeUnit) : (s.setNotices v).freeCount = s.freeCount := rfl
@[simp] theorem State.setNotices_pending (s : State) (v : NoticeUnit) : (s.setNotices v).pending = s.pending := rfl

@[simp] theorem State.setFreeCount_opState (s : State) (v : Nat) : (s.setFreeCount v).opState = s.opState := rfl
@[simp] theorem State.setFreeCount_hallSecond (s : State) (v : Nat) : (s.setFreeCount v).hallSecond = s.hallSecond := rfl
@[simp] theorem State.setFreeCount_subTick (s : State) (v : Nat) : (s.setFreeCount v).subTick = s.subTick := rfl
@[simp] theorem State.setFreeCount_patrolPhase (s : State) (v : Nat) : (s.setFreeCount v).patrolPhase = s.patrolPhase := rfl
@[simp] theorem State.setFreeCount_limits (s : State) (v : Nat) : (s.setFreeCount v).limits = s.limits := rfl
@[simp] theorem State.setFreeCount_port (s : State) (v : Nat) : (s.setFreeCount v).port = s.port := rfl
@[simp] theorem State.setFreeCount_discarded (s : State) (v : Nat) : (s.setFreeCount v).discarded = s.discarded := rfl
@[simp] theorem State.setFreeCount_spiOut (s : State) (v : Nat) : (s.setFreeCount v).spiOut = s.spiOut := rfl
@[simp] theorem State.setFreeCount_store (s : State) (v : Nat) : (s.setFreeCount v).store = s.store := rfl
@[simp] theorem State.setFreeCount_link (s : State) (v : Nat) : (s.setFreeCount v).link = s.link := rfl
@[simp] theorem State.setFreeCount_loop (s : State) (v : Nat) : (s.setFreeCount v).loop = s.loop := rfl
@[simp] theorem State.setFreeCount_chutes (s : State) (v : Nat) : (s.setFreeCount v).chutes = s.chutes := rfl
@[simp] theorem State.setFreeCount_carts (s : State) (v : Nat) : (s.setFreeCount v).carts = s.carts := rfl
@[simp] theorem State.setFreeCount_nextSerial (s : State) (v : Nat) : (s.setFreeCount v).nextSerial = s.nextSerial := rfl
@[simp] theorem State.setFreeCount_routes (s : State) (v : Nat) : (s.setFreeCount v).routes = s.routes := rfl
@[simp] theorem State.setFreeCount_doors (s : State) (v : Nat) : (s.setFreeCount v).doors = s.doors := rfl
@[simp] theorem State.setFreeCount_pen (s : State) (v : Nat) : (s.setFreeCount v).pen = s.pen := rfl
@[simp] theorem State.setFreeCount_sweep (s : State) (v : Nat) : (s.setFreeCount v).sweep = s.sweep := rfl
@[simp] theorem State.setFreeCount_notices (s : State) (v : Nat) : (s.setFreeCount v).notices = s.notices := rfl
@[simp] theorem State.setFreeCount_freeCount (s : State) (v : Nat) : (s.setFreeCount v).freeCount = v := rfl
@[simp] theorem State.setFreeCount_pending (s : State) (v : Nat) : (s.setFreeCount v).pending = s.pending := rfl

@[simp] theorem State.setPending_opState (s : State) (v : List Instr) : (s.setPending v).opState = s.opState := rfl
@[simp] theorem State.setPending_hallSecond (s : State) (v : List Instr) : (s.setPending v).hallSecond = s.hallSecond := rfl
@[simp] theorem State.setPending_subTick (s : State) (v : List Instr) : (s.setPending v).subTick = s.subTick := rfl
@[simp] theorem State.setPending_patrolPhase (s : State) (v : List Instr) : (s.setPending v).patrolPhase = s.patrolPhase := rfl
@[simp] theorem State.setPending_limits (s : State) (v : List Instr) : (s.setPending v).limits = s.limits := rfl
@[simp] theorem State.setPending_port (s : State) (v : List Instr) : (s.setPending v).port = s.port := rfl
@[simp] theorem State.setPending_discarded (s : State) (v : List Instr) : (s.setPending v).discarded = s.discarded := rfl
@[simp] theorem State.setPending_spiOut (s : State) (v : List Instr) : (s.setPending v).spiOut = s.spiOut := rfl
@[simp] theorem State.setPending_store (s : State) (v : List Instr) : (s.setPending v).store = s.store := rfl
@[simp] theorem State.setPending_link (s : State) (v : List Instr) : (s.setPending v).link = s.link := rfl
@[simp] theorem State.setPending_loop (s : State) (v : List Instr) : (s.setPending v).loop = s.loop := rfl
@[simp] theorem State.setPending_chutes (s : State) (v : List Instr) : (s.setPending v).chutes = s.chutes := rfl
@[simp] theorem State.setPending_carts (s : State) (v : List Instr) : (s.setPending v).carts = s.carts := rfl
@[simp] theorem State.setPending_nextSerial (s : State) (v : List Instr) : (s.setPending v).nextSerial = s.nextSerial := rfl
@[simp] theorem State.setPending_routes (s : State) (v : List Instr) : (s.setPending v).routes = s.routes := rfl
@[simp] theorem State.setPending_doors (s : State) (v : List Instr) : (s.setPending v).doors = s.doors := rfl
@[simp] theorem State.setPending_pen (s : State) (v : List Instr) : (s.setPending v).pen = s.pen := rfl
@[simp] theorem State.setPending_sweep (s : State) (v : List Instr) : (s.setPending v).sweep = s.sweep := rfl
@[simp] theorem State.setPending_notices (s : State) (v : List Instr) : (s.setPending v).notices = s.notices := rfl
@[simp] theorem State.setPending_freeCount (s : State) (v : List Instr) : (s.setPending v).freeCount = s.freeCount := rfl
@[simp] theorem State.setPending_pending (s : State) (v : List Instr) : (s.setPending v).pending = v := rfl

end Sys2Proof.Machine
end

