-- ==== Sys2Proof/Laws/Table.lean ====
section
/-! SUPPORT. The canonical form of sparse tables: what each table operation keeps and gives. -/

namespace Sys2Proof.Machine

variable {α : Type}

/-- The form of a table with a first entry. -/
theorem Table.wf_cons (k : Nat) (v : α) (t : Table α) :
    Table.wf ((k, v) :: t) = true ↔ (∀ e ∈ t, k < e.1) ∧ Table.wf t = true := by
  simp [Table.wf]

/-- The keys of a table after a put. -/
theorem Table.mem_put {t : Table α} {i : Nat} {v : α} {e : Nat × α} (h : e ∈ Table.put t i v) :
    e = (i, v) ∨ e ∈ t := by
  induction t with
  | nil => simpa [Table.put] using h
  | cons a t ih =>
    obtain ⟨k, w⟩ := a
    unfold Table.put at h
    split at h
    · simpa using h
    · split at h
      · rcases List.mem_cons.1 h with h | h
        · exact .inl h
        · exact .inr (List.mem_cons_of_mem _ h)
      · rcases List.mem_cons.1 h with h | h
        · exact .inr (h ▸ List.mem_cons_self ..)
        · rcases ih h with h | h
          · exact .inl h
          · exact .inr (List.mem_cons_of_mem _ h)

/-- A put keeps the canonical form. -/
theorem Table.wf_put {t : Table α} (h : Table.wf t = true) (i : Nat) (v : α) : Table.wf (Table.put t i v) = true := by
  induction t with
  | nil => simp [Table.put, Table.wf]
  | cons a t ih =>
    obtain ⟨k, w⟩ := a
    obtain ⟨hk, ht⟩ := (Table.wf_cons k w t).1 h
    unfold Table.put
    split
    · next hik =>
      refine (Table.wf_cons ..).2 ⟨?_, h⟩
      intro e he
      rcases List.mem_cons.1 he with rfl | he
      · exact hik
      · exact hik.trans (hk e he)
    · split
      · next _ hik => exact (Table.wf_cons ..).2 ⟨hik ▸ hk, ht⟩
      · next hlt hne =>
        refine (Table.wf_cons ..).2 ⟨?_, ih ht⟩
        intro e he
        rcases Table.mem_put he with rfl | he
        · exact lt_of_le_of_ne (not_lt.1 hlt) (Ne.symm hne)
        · exact hk e he

/-- Taking entries away keeps the canonical form. -/
theorem Table.wf_filter {t : Table α} (h : Table.wf t = true) (p : Nat × α → Bool) :
    Table.wf (List.filter p t : Table α) = true := by
  induction t with
  | nil => rfl
  | cons a t ih =>
    obtain ⟨k, w⟩ := a
    obtain ⟨hk, ht⟩ := (Table.wf_cons k w t).1 h
    rw [List.filter_cons]
    split
    · exact (Table.wf_cons ..).2 ⟨fun e he => hk e (List.mem_of_mem_filter he), ih ht⟩
    · exact ih ht

/-- An erase keeps the canonical form. -/
theorem Table.wf_erase {t : Table α} (h : Table.wf t = true) (i : Nat) : Table.wf (Table.erase t i) = true :=
  Table.wf_filter h _

/-- Changing values and no keys keeps the canonical form. -/
theorem Table.wf_map {t : Table α} (h : Table.wf t = true) (f : Nat × α → α) :
    Table.wf (t.map (fun e => (e.1, f e)) : Table α) = true := by
  induction t with
  | nil => rfl
  | cons a t ih =>
    obtain ⟨k, w⟩ := a
    obtain ⟨hk, ht⟩ := (Table.wf_cons k w t).1 h
    refine (Table.wf_cons ..).2 ⟨?_, ih ht⟩
    intro e he
    obtain ⟨a, ha, rfl⟩ := List.mem_map.1 he
    exact hk a ha

/-- Changing every value keeps the canonical form. -/
theorem Table.wf_mapValues {t : Table α} (h : Table.wf t = true) (f : α → α) : Table.wf (Table.mapValues t f) = true :=
  Table.wf_map h (fun e => f e.2)

/-- A modify as a change of values. -/
theorem Table.modify_eq (t : Table α) (i : Nat) (f : α → α) :
    Table.modify t i f = t.map (fun e => (e.1, if e.1 = i then f e.2 else e.2)) := by
  unfold Table.modify
  refine List.map_congr_left fun e _ => ?_
  split <;> rfl

/-- A modify keeps the canonical form. -/
theorem Table.wf_modify {t : Table α} (h : Table.wf t = true) (i : Nat) (f : α → α) :
    Table.wf (Table.modify t i f) = true := by
  rw [Table.modify_eq]
  exact Table.wf_map h _

/-- What a put gives at its key. -/
@[simp] theorem Table.get?_put_same (t : Table α) (i : Nat) (v : α) : Table.get? (Table.put t i v) i = some v := by
  induction t with
  | nil => simp [Table.put, Table.get?]
  | cons a t ih =>
    obtain ⟨k, w⟩ := a
    unfold Table.put
    split
    · simp [Table.get?]
    · split
      · simp [Table.get?]
      · next _ hne => simp [Table.get?, hne, ih]

/-- What a put gives at other keys. -/
theorem Table.get?_put_other (t : Table α) {i j : Nat} (h : j ≠ i) (v : α) :
    Table.get? (Table.put t i v) j = Table.get? t j := by
  induction t with
  | nil => simp [Table.put, Table.get?, h]
  | cons a t ih =>
    obtain ⟨k, w⟩ := a
    unfold Table.put
    split
    · simp [Table.get?, h]
    · split
      · next _ hik => subst hik; simp [Table.get?, h]
      · simp only [Table.get?, ih]

/-- What a modify gives at its key. -/
theorem Table.get?_modify_same (t : Table α) (i : Nat) (f : α → α) :
    Table.get? (Table.modify t i f) i = (Table.get? t i).map f := by
  rw [Table.modify_eq]
  induction t with
  | nil => rfl
  | cons a t ih =>
    obtain ⟨k, w⟩ := a
    by_cases h : i = k
    · subst h; simp [Table.get?]
    · simpa [Table.get?, h] using ih

/-- What a modify gives at other keys. -/
theorem Table.get?_modify_other (t : Table α) {i j : Nat} (h : j ≠ i) (f : α → α) :
    Table.get? (Table.modify t i f) j = Table.get? t j := by
  rw [Table.modify_eq]
  induction t with
  | nil => rfl
  | cons a t ih =>
    obtain ⟨k, w⟩ := a
    by_cases hk : j = k
    · subst hk; simp [Table.get?, h]
    · simpa [Table.get?, hk] using ih

/-- What an erase gives at its key. -/
theorem Table.get?_erase_same (t : Table α) (i : Nat) : Table.get? (Table.erase t i) i = none := by
  unfold Table.erase
  induction t with
  | nil => rfl
  | cons a t ih =>
    obtain ⟨k, w⟩ := a
    rw [List.filter_cons]
    split
    · next h => simp at h; simp [Table.get?, Ne.symm h, ih]
    · exact ih

/-- What an erase gives at other keys. -/
theorem Table.get?_erase_other (t : Table α) {i j : Nat} (h : j ≠ i) :
    Table.get? (Table.erase t i) j = Table.get? t j := by
  unfold Table.erase
  induction t with
  | nil => rfl
  | cons a t ih =>
    obtain ⟨k, w⟩ := a
    rw [List.filter_cons]
    by_cases hk : k = i
    · subst hk; simp [Table.get?, h, ih]
    · by_cases hj : j = k
      · subst hj; simp [Table.get?, hk]
      · simp [Table.get?, hk, hj, ih]

/-- An erase at a key that no record holds changes nothing. -/
theorem Table.erase_absent {t : Table α} {i : Nat} (h : Table.get? t i = none) : Table.erase t i = t := by
  unfold Table.erase
  induction t with
  | nil => rfl
  | cons a t ih =>
    obtain ⟨k, w⟩ := a
    unfold Table.get? at h
    split at h
    · cases h
    · next hk => rw [List.filter_cons_of_pos (by simpa using Ne.symm hk), ih h]

/-- The lowest free number of a table in canonical form is at most its starting number plus the number of records. -/
theorem Table.lowestFree_le (t : Table α) (n : Nat) : Table.lowestFree t n ≤ n + t.length := by
  induction t generalizing n with
  | nil => simp [Table.lowestFree]
  | cons a t ih =>
    obtain ⟨k, w⟩ := a
    unfold Table.lowestFree
    split
    · have := ih (n + 1); simp only [List.length_cons]; omega
    · omega

end Sys2Proof.Machine
end

