-- ==== Sys2Proof/Laws/Keeps.lean ====
section
/-! SUPPORT. What an operation may do, said once: the parts it may change, and the laws it keeps; and how two operations in a
row combine. -/

namespace Sys2Proof.Machine

/-- From one state to another: nothing outside some parts changes, and each law that held still holds. -/
structure Keeps (l : List Block) (s t : State) : Prop where
  changes : Changes l s t
  notice : NoticeLaw s → NoticeLaw t
  level : LevelLaw s → LevelLaw t
  queue : QueueLaw s → QueueLaw t
  bags : BagTableLaw s → BagTableLaw t
  mode : ModeLaw s → ModeLaw t
  subjects : SubjectLaw s → SubjectLaw t
  shape : ShapeLaw s → ShapeLaw t

/-- Nothing at all changes. -/
theorem Changes.refl (l : List Block) (s : State) : Changes l s s := by
  intro b _
  cases b <;> rfl

/-- Agreement on a part passes along. -/
theorem Block.same_trans {b : Block} {s t u : State} (h : b.same s t) (k : b.same t u) : b.same s u := by
  cases b <;> exact Eq.trans k h

/-- Two operations in a row change only what each may change. -/
theorem Changes.comp {l m n : List Block} {s t u : State} (h : Changes l s t) (k : Changes m t u) (hl : l ⊆ n)
    (hm : m ⊆ n) : Changes n s u := by
  intro b hb
  exact Block.same_trans (h b fun hx => hb (hl hx)) (k b fun hx => hb (hm hx))

/-- More parts may be allowed. -/
theorem Changes.mono {l n : List Block} {s t : State} (h : Changes l s t) (hl : l ⊆ n) : Changes n s t :=
  fun b hb => h b fun hx => hb (hl hx)

/-- Nothing at all is done. -/
theorem Keeps.refl (l : List Block) (s : State) : Keeps l s s := ⟨Changes.refl l s, id, id, id, id, id, id, id⟩

/-- Two operations in a row. -/
theorem Keeps.comp {l m n : List Block} {s t u : State} (h : Keeps l s t) (k : Keeps m t u) (hl : l ⊆ n) (hm : m ⊆ n) :
    Keeps n s u :=
  ⟨h.changes.comp k.changes hl hm, k.notice ∘ h.notice, k.level ∘ h.level, k.queue ∘ h.queue, k.bags ∘ h.bags,
    k.mode ∘ h.mode, k.subjects ∘ h.subjects, k.shape ∘ h.shape⟩

/-- Two operations in a row that may change the same parts. -/
theorem Keeps.trans {l : List Block} {s t u : State} (h : Keeps l s t) (k : Keeps l t u) : Keeps l s u :=
  h.comp k (List.Subset.refl _) (List.Subset.refl _)

/-- More parts may be allowed. -/
theorem Keeps.mono {l n : List Block} {s t : State} (h : Keeps l s t) (hl : l ⊆ n) : Keeps n s t :=
  ⟨h.changes.mono hl, h.notice, h.level, h.queue, h.bags, h.mode, h.subjects, h.shape⟩

/-- What each table keeps, the law of their form keeps. -/
theorem ShapeLaw.imp {s t : State} (hr : t.routes.length = s.routes.length)
    (hn : t.link.nodes.length = s.link.nodes.length)
    (hc : Table.wf s.store.cabins = true → Table.wf t.store.cabins = true)
    (hm : Table.wf s.store.tagMap = true → Table.wf t.store.tagMap = true)
    (hp : Table.wf s.loop.points = true → Table.wf t.loop.points = true)
    (ha : Table.wf s.loop.arches = true → Table.wf t.loop.arches = true)
    (hk : Table.wf s.chutes = true → Table.wf t.chutes = true) (hx : Table.wf s.carts = true → Table.wf t.carts = true)
    (hd : Table.wf s.doors = true → Table.wf t.doors = true)
    (hq : Table.wf s.pen.positions = true → Table.wf t.pen.positions = true) (h : ShapeLaw s) : ShapeLaw t :=
  ⟨hr.trans h.1, hn.trans h.2.1, hc h.2.2.1, hm h.2.2.2.1, hp h.2.2.2.2.1, ha h.2.2.2.2.2.1, hk h.2.2.2.2.2.2.1,
    hx h.2.2.2.2.2.2.2.1, hd h.2.2.2.2.2.2.2.2.1, hq h.2.2.2.2.2.2.2.2.2⟩

/-- A part is set of which no law speaks but that of the tables' form. -/
theorem Keeps.plain {l : List Block} {s t : State} (h : Changes l s t) (hn : t.notices = s.notices)
    (hp : t.loop.points = s.loop.points) (hq : t.link.txQueue = s.link.txQueue) (hb : t.store.bags = s.store.bags)
    (hc : t.store.cabins = s.store.cabins) (hm : t.sweep.mode = s.sweep.mode)
    (hw : ShapeLaw s → ShapeLaw t) : Keeps l s t := by
  refine ⟨h, ?_, ?_, ?_, ?_, ?_, ?_, hw⟩
  · simp only [NoticeLaw, hn]; exact id
  · simp only [LevelLaw, hp]; exact id
  · simp only [QueueLaw, hq]; exact id
  · simp only [BagTableLaw, hb]; exact id
  · simp only [ModeLaw, hc, hm]; exact id
  · simp only [SubjectLaw, hn]; exact id

end Sys2Proof.Machine
end

