-- ==== Sys2Proof/Laws/Ops.lean ====
section
/-! SUPPORT. What each shared operation of Machine/Store.lean and Machine/Ops.lean may do: the parts it may change, and the
laws it keeps. -/

namespace Sys2Proof.Machine

/-! ## Claims on the record store -/

/-- From one store to another the tables keep their form, and whether a cabin is PULLING stays. -/
structure Store.Keeps (t u : Store) : Prop where
  bags : (Table.wf t.bags = true ∧ ∀ e ∈ t.bags, e.1 < bagRecords) → Table.wf u.bags = true ∧ ∀ e ∈ u.bags, e.1 < bagRecords
  pulling : u.cabins.any (fun e => e.2.pulling) = t.cabins.any (fun e => e.2.pulling)
  cabins : Table.wf t.cabins = true → Table.wf u.cabins = true
  tagMap : Table.wf t.tagMap = true → Table.wf u.tagMap = true

/-- Nothing is done. -/
theorem Store.Keeps.refl (t : Store) : Store.Keeps t t := ⟨id, rfl, id, id⟩

/-- Two claims in a row. -/
theorem Store.Keeps.trans {t u v : Store} (h : Store.Keeps t u) (k : Store.Keeps u v) : Store.Keeps t v :=
  ⟨k.bags ∘ h.bags, k.pulling.trans h.pulling, k.cabins ∘ h.cabins, k.tagMap ∘ h.tagMap⟩

/-- A claim that touches neither bags nor cabins, and keeps the tag map's form. -/
theorem Store.Keeps.plain {t u : Store} (hb : u.bags = t.bags) (hc : u.cabins = t.cabins)
    (hm : Table.wf t.tagMap = true → Table.wf u.tagMap = true) : Store.Keeps t u := by
  refine ⟨?_, ?_, ?_, hm⟩
  · rw [hb]; exact id
  · rw [hc]
  · rw [hc]; exact id

/-- The key of a record that is found is in the table. -/
theorem Table.mem_of_get? {α : Type} {t : Table α} {i : Nat} {v : α} (h : Table.get? t i = some v) : (i, v) ∈ t := by
  induction t with
  | nil => simp [Table.get?] at h
  | cons a t ih =>
    obtain ⟨k, w⟩ := a
    unfold Table.get? at h
    split at h
    · next hk => subst hk; cases h; exact List.mem_cons_self ..
    · exact List.mem_cons_of_mem _ (ih h)

/-- A change of records that keeps which of them meet a condition keeps whether one of them does. -/
theorem Table.any_modify {α : Type} (t : Table α) (i : Nat) (f : α → α) (p : α → Bool) (h : ∀ v, p (f v) = p v) :
    (Table.modify t i f).any (fun e => p e.2) = t.any (fun e => p e.2) := by
  induction t with
  | nil => rfl
  | cons a t ih =>
    simp only [Table.modify, List.map_cons, List.any_cons] at ih ⊢
    rw [ih]
    split <;> simp [h]

/-- A cabin's record changes and its pull state does not. -/
theorem Store.Keeps.modifyCabin (t : Store) (k : CabinKey) (f : Cabin → Cabin) (h : ∀ c, (f c).pull = c.pull) :
    Store.Keeps t (t.modifyCabin k f) :=
  ⟨id, Table.any_modify _ _ _ _ fun c => by simp only [Cabin.pulling, h], fun hw => Table.wf_modify hw _ _, id⟩

/-- A slot's record is replaced. -/
theorem Store.Keeps.putSlot (t : Store) (b : SlotId) (v : Sailing) : Store.Keeps t (t.putSlot b v) := by
  cases b <;> exact Store.Keeps.plain rfl rfl id

/-- A slot's counters change. -/
theorem Store.Keeps.count (t : Store) (b : SlotId) (f : Counters → Counters) : Store.Keeps t (t.count b f) :=
  Store.Keeps.putSlot t b _

/-- A bag record is put at an index of the table. -/
theorem Store.Keeps.putBag (t : Store) (i : Nat) (b : Bag) (h : (Table.wf t.bags = true ∧ ∀ e ∈ t.bags, e.1 < bagRecords) →
    i < bagRecords) : Store.Keeps t { t with bags := t.bags.put i b } := by
  refine ⟨fun hb => ⟨Table.wf_put hb.1 _ _, fun e he => ?_⟩, rfl, id, id⟩
  rcases Table.mem_put he with rfl | he
  · exact h hb
  · exact hb.2 e he

/-- The index of a live record is below the table's size. -/
theorem Store.bag?_index {t : Store} {h : Handle} {b : Bag} (hb : t.bag? h = some b)
    (hl : Table.wf t.bags = true ∧ ∀ e ∈ t.bags, e.1 < bagRecords) : h.index < bagRecords := by
  unfold Store.bag? at hb
  split at hb
  · exact hl.2 _ (Table.mem_of_get? hb)
  · cases hb

/-- A bag's record changes (R34). -/
theorem Store.Keeps.modifyBag (t : Store) (h : Handle) (f : Bag → Bag) : Store.Keeps t (t.modifyBag h f) := by
  unfold Store.modifyBag
  split
  · exact Store.Keeps.refl t
  · next hb => exact Store.Keeps.putBag t _ _ (Store.bag?_index hb)

/-- The aboard count moves and the pull state does not. -/
theorem Cabin.aboardMove_pull (c : Cabin) (p q : BagState) : (c.aboardMove p q).pull = c.pull := by
  unfold Cabin.aboardMove
  split
  · rfl
  · split
    · rfl
    · split <;> rfl

/-- The counters of slot and cabin move (R2, R13). -/
theorem Store.Keeps.countMove (t : Store) (home : Option CabinKey) (p q : BagState) :
    Store.Keeps t (t.countMove home p q) := by
  unfold Store.countMove
  split
  · exact Store.Keeps.refl t
  · exact (Store.Keeps.count t _ _).trans (Store.Keeps.modifyCabin _ _ _ fun c => c.aboardMove_pull _ _)

/-- A bag enters a state (R24). -/
theorem Store.Keeps.moveBag (t : Store) (h : Handle) (st : BagState) (loc : Option Location) (now : Nat) :
    Store.Keeps t (t.moveBag h st loc now) := by
  unfold Store.moveBag
  split
  · exact Store.Keeps.refl t
  · next hb => exact (Store.Keeps.putBag t _ _ (Store.bag?_index hb)).trans (Store.Keeps.countMove _ _ _ _)

/-- The counters rise for a bag that enters them. -/
theorem Store.Keeps.countIn (t : Store) (home : Option CabinKey) (st : BagState) : Store.Keeps t (t.countIn home st) := by
  unfold Store.countIn
  split
  · exact Store.Keeps.refl t
  · exact (Store.Keeps.count t _ _).trans (Store.Keeps.modifyCabin _ _ _ fun _ => rfl)

/-- The counters fall for a bag that leaves them. -/
theorem Store.Keeps.countOut (t : Store) (home : Option CabinKey) (st : BagState) :
    Store.Keeps t (t.countOut home st) := by
  unfold Store.countOut
  split
  · exact Store.Keeps.refl t
  · exact (Store.Keeps.count t _ _).trans (Store.Keeps.modifyCabin _ _ _ fun _ => rfl)

/-- A tag enters the tag map. -/
theorem Store.Keeps.mapTag (t : Store) (tag : Option Nat) (h : Handle) : Store.Keeps t (t.mapTag tag h) := by
  unfold Store.mapTag
  split
  · exact Store.Keeps.refl t
  · exact Store.Keeps.plain rfl rfl fun hw => Table.wf_put hw _ _

/-- A record is created (R21). -/
theorem Store.Keeps.create {t u : Store} {b : Bag} {h : Handle} (hc : t.create b = some (h, u)) : Store.Keeps t u := by
  unfold Store.create at hc
  split at hc
  · next hlt =>
    simp only [Option.some.injEq, Prod.mk.injEq] at hc
    obtain ⟨_, rfl⟩ := hc
    refine ((Store.Keeps.putBag t _ b fun _ => ?_).trans (Store.Keeps.mapTag _ _ _)).trans (Store.Keeps.countIn _ _ _)
    have := Table.lowestFree_le t.bags 0
    omega
  · cases hc

/-- A record takes a tag (R32). -/
theorem Store.Keeps.giveTag (t : Store) (h : Handle) (tag : Nat) : Store.Keeps t (t.giveTag h tag) :=
  (Store.Keeps.modifyBag t _ _).trans (Store.Keeps.mapTag _ _ _)

/-- The counters move as a bag is assigned. -/
theorem Store.Keeps.countAssign (t : Store) (old : Option CabinKey) (b : SlotId) (st : BagState) :
    Store.Keeps t (t.countAssign old b st) := by
  unfold Store.countAssign
  split
  · exact Store.Keeps.count t _ _
  · split
    · exact Store.Keeps.refl t
    · exact (Store.Keeps.count t _ _).trans (Store.Keeps.count _ _ _)

/-- A bag is assigned to a cabin (R38). -/
theorem Store.Keeps.assign (t : Store) (h : Handle) (k : CabinKey) : Store.Keeps t (t.assign h k) := by
  unfold Store.assign
  split
  · exact Store.Keeps.refl t
  · refine Store.Keeps.trans ?_ (Store.Keeps.modifyCabin _ _ _ fun _ => rfl)
    have h1 := (Store.Keeps.modifyBag t h (fun b => { b with home := some k }))
    split
    · exact h1.trans (Store.Keeps.countAssign _ _ _ _)
    · exact (h1.trans (Store.Keeps.countAssign _ _ _ _)).trans (Store.Keeps.modifyCabin _ _ _ fun _ => rfl)

/-- The bag table without some records keeps its form. -/
theorem Store.Keeps.eraseBag (t : Store) (i : Nat) : Store.Keeps t { t with bags := t.bags.erase i } :=
  ⟨fun hb => ⟨Table.wf_erase hb.1 _, fun e he => hb.2 e (List.mem_of_mem_filter he)⟩, rfl, id, id⟩

/-- A record retires (R30). -/
theorem Store.Keeps.retire (t : Store) (h : Handle) : Store.Keeps t (t.retire h) := by
  unfold Store.retire
  split
  · exact Store.Keeps.refl t
  · dsimp only
    refine Store.Keeps.trans (Store.Keeps.trans ?_ (Store.Keeps.eraseBag _ _)) (Store.Keeps.plain rfl rfl id)
    refine Store.Keeps.trans ?_ (Store.Keeps.countOut _ _ _)
    split
    · exact Store.Keeps.refl t
    · exact Store.Keeps.plain rfl rfl fun hw => Table.wf_erase hw _

/-! ## Setters -/

/-- The store is set. -/
theorem Keeps.setStore {s : State} {t : Store} (h : Store.Keeps s.store t) : Keeps [.store] s (s.setStore t) := by
  refine ⟨?_, id, id, id, h.bags, ?_, id, ShapeLaw.imp rfl rfl h.cabins h.tagMap id id id id id id⟩
  · intro b hb; cases b <;> first | rfl | simp at hb
  · simp only [ModeLaw, State.setStore, h.pulling]; exact id

/-- The link is set, its transmit queue no longer than it may be and its nodes as many as before. -/
theorem Keeps.setLink {s : State} {l : Link} (h : s.link.txQueue.length ≤ txCapacity → l.txQueue.length ≤ txCapacity)
    (hl : l.nodes.length = s.link.nodes.length) :
    Keeps [.link] s (s.setLink l) := by
  refine ⟨?_, id, id, h, id, id, id, ShapeLaw.imp rfl hl id id id id id id id id⟩
  intro b hb; cases b <;> first | rfl | simp at hb

/-- The loop is set, its levels following their causes, its tables in canonical form as before. -/
theorem Keeps.setLoop {s : State} {l : Loop} (h : LevelLaw s → ∀ e ∈ l.points, e.2.go = e.2.causes.isEmpty)
    (hp : Table.wf s.loop.points = true → Table.wf l.points = true)
    (ha : Table.wf s.loop.arches = true → Table.wf l.arches = true) :
    Keeps [.loop] s (s.setLoop l) := by
  refine ⟨?_, id, h, id, id, id, id, ShapeLaw.imp rfl rfl id id hp ha id id id id⟩
  intro b hb; cases b <;> first | rfl | simp at hb

/-- The loop is set, its induction points and arches staying. -/
theorem Keeps.setLoopPlain {s : State} {l : Loop} (h : l.points = s.loop.points) (ha : l.arches = s.loop.arches) :
    Keeps [.loop] s (s.setLoop l) :=
  Keeps.setLoop (fun hl => h ▸ hl) (fun hw => h ▸ hw) fun hw => ha ▸ hw

/-- The notice unit is set, NOTICE_N driven by it, its subjects still rising. -/
theorem Keeps.setNotices {s : State} {u : NoticeUnit} (h : u.pinLow = (u.global && u.anyPending))
    (hs : SubjectLaw s → SubjectLaw (s.setNotices u)) : Keeps [.notices] s (s.setNotices u) := by
  refine ⟨?_, fun _ => h, id, id, id, id, hs, id⟩
  intro b hb; cases b <;> first | rfl | simp at hb

/-- The chutes are set. -/
theorem Keeps.setChutes (s : State) (v : Table Chute) (h : Table.wf s.chutes = true → Table.wf v = true) :
    Keeps [.chutes] s (s.setChutes v) :=
  Keeps.plain (by intro b hb; cases b <;> first | rfl | simp at hb) rfl rfl rfl rfl rfl rfl
    (ShapeLaw.imp rfl rfl id id id id h id id id)

/-- The carts are set. -/
theorem Keeps.setCarts (s : State) (v : Table Cart) (h : Table.wf s.carts = true → Table.wf v = true) :
    Keeps [.carts] s (s.setCarts v) :=
  Keeps.plain (by intro b hb; cases b <;> first | rfl | simp at hb) rfl rfl rfl rfl rfl rfl
    (ShapeLaw.imp rfl rfl id id id id id h id id)

/-- The next serial is set. -/
theorem Keeps.setNextSerial (s : State) (v : Nat) : Keeps [.nextSerial] s (s.setNextSerial v) :=
  Keeps.plain (by intro b hb; cases b <;> first | rfl | simp at hb) rfl rfl rfl rfl rfl rfl id

/-- The routes are set. -/
theorem Keeps.setRoutes (s : State) (v : List Route) (h : v.length = s.routes.length) :
    Keeps [.routes] s (s.setRoutes v) :=
  Keeps.plain (by intro b hb; cases b <;> first | rfl | simp at hb) rfl rfl rfl rfl rfl rfl
    (ShapeLaw.imp h rfl id id id id id id id id)

/-- The doors are set. -/
theorem Keeps.setDoors (s : State) (v : Table Door) (h : Table.wf s.doors = true → Table.wf v = true) :
    Keeps [.doors] s (s.setDoors v) :=
  Keeps.plain (by intro b hb; cases b <;> first | rfl | simp at hb) rfl rfl rfl rfl rfl rfl
    (ShapeLaw.imp rfl rfl id id id id id id h id)

/-- The pen is set. -/
theorem Keeps.setPen (s : State) (v : Pen)
    (h : Table.wf s.pen.positions = true → Table.wf v.positions = true) :
    Keeps [.pen] s (s.setPen v) :=
  Keeps.plain (by intro b hb; cases b <;> first | rfl | simp at hb) rfl rfl rfl rfl rfl rfl
    (ShapeLaw.imp rfl rfl id id id id id id id h)

/-- The limits are set. -/
theorem Keeps.setLimits (s : State) (v : Limits) : Keeps [.limits] s (s.setLimits v) :=
  Keeps.plain (by intro b hb; cases b <;> first | rfl | simp at hb) rfl rfl rfl rfl rfl rfl id

/-- The operating state is set. -/
theorem Keeps.setOpState (s : State) (v : OpState) : Keeps [.opState] s (s.setOpState v) :=
  Keeps.plain (by intro b hb; cases b <;> first | rfl | simp at hb) rfl rfl rfl rfl rfl rfl id

/-- The port is set. -/
theorem Keeps.setPort (s : State) (v : Port) : Keeps [.port] s (s.setPort v) :=
  Keeps.plain (by intro b hb; cases b <;> first | rfl | simp at hb) rfl rfl rfl rfl rfl rfl id

/-- DISCARDED is set. -/
theorem Keeps.setDiscarded (s : State) (v : Bool) : Keeps [.discarded] s (s.setDiscarded v) :=
  Keeps.plain (by intro b hb; cases b <;> first | rfl | simp at hb) rfl rfl rfl rfl rfl rfl id

/-- The bytes shifted out are set. -/
theorem Keeps.setSpiOut (s : State) (v : List Byte) : Keeps [.spiOut] s (s.setSpiOut v) :=
  Keeps.plain (by intro b hb; cases b <;> first | rfl | simp at hb) rfl rfl rfl rfl rfl rfl id

/-- The free counter is set. -/
theorem Keeps.setFreeCount (s : State) (v : Nat) : Keeps [.freeCount] s (s.setFreeCount v) :=
  Keeps.plain (by intro b hb; cases b <;> first | rfl | simp at hb) rfl rfl rfl rfl rfl rfl id

/-- The queue of commands is set. -/
theorem Keeps.setPending (s : State) (v : List Instr) : Keeps [.pending] s (s.setPending v) :=
  Keeps.plain (by intro b hb; cases b <;> first | rfl | simp at hb) rfl rfl rfl rfl rfl rfl id

/-- The hall second is set. -/
theorem Keeps.setHallSecond (s : State) (v : Nat) : Keeps [.hallSecond] s (s.setHallSecond v) :=
  Keeps.plain (by intro b hb; cases b <;> first | rfl | simp at hb) rfl rfl rfl rfl rfl rfl id

/-- The ticks of the hall second are set. -/
theorem Keeps.setSubTick (s : State) (v : Nat) : Keeps [.subTick] s (s.setSubTick v) :=
  Keeps.plain (by intro b hb; cases b <;> first | rfl | simp at hb) rfl rfl rfl rfl rfl rfl id

/-- The earned share of a patrol visit is set. -/
theorem Keeps.setPatrolPhase (s : State) (v : Nat) : Keeps [.patrolPhase] s (s.setPatrolPhase v) :=
  Keeps.plain (by intro b hb; cases b <;> first | rfl | simp at hb) rfl rfl rfl rfl rfl rfl id

/-- The sweep unit is set and the mode stays. -/
theorem Keeps.setSweep {s : State} {v : Sweep} (h : v.mode = s.sweep.mode) : Keeps [.sweep] s (s.setSweep v) :=
  Keeps.plain (by intro b hb; cases b <;> first | rfl | simp at hb) rfl rfl rfl rfl rfl h id

/-! ## Bags and notices -/

/-- A bag's record changes. -/
theorem Keeps.modifyBag (s : State) (h : Handle) (f : Bag → Bag) : Keeps [.store] s (s.modifyBag h f) :=
  Keeps.setStore (Store.Keeps.modifyBag _ _ _)

/-- A bag enters a state. -/
theorem Keeps.moveBag (s : State) (h : Handle) (st : BagState) (loc : Option Location) :
    Keeps [.store] s (s.moveBag h st loc) :=
  Keeps.setStore (Store.Keeps.moveBag _ _ _ _ _)

/-- A bag becomes MISSING. -/
theorem Keeps.makeMissing (s : State) (h : Handle) : Keeps [.store] s (s.makeMissing h) := Keeps.moveBag s h _ _

/-- A notice unit that drives NOTICE_N afresh drives it as R179 says. -/
theorem NoticeUnit.drive_pin (u : NoticeUnit) :
    (NoticeUnit.drive u).pinLow = ((NoticeUnit.drive u).global && (NoticeUnit.drive u).anyPending) := rfl

/-- A subject is in a set it was put in, and in no other way. -/
theorem mem_insertSubject (n m : Nat) (l : List Nat) : m ∈ insertSubject n l ↔ m = n ∨ m ∈ l := by
  induction l with
  | nil => simp [insertSubject]
  | cons k t ih =>
    unfold insertSubject
    split
    · simp
    · split
      · next h => subst h; simp
      · simp only [List.mem_cons, ih]
        exact or_left_comm

/-- A rising list stays rising as a subject is put in it. -/
theorem pairwise_insertSubject (n : Nat) (l : List Nat) (h : l.Pairwise (· < ·)) :
    (insertSubject n l).Pairwise (· < ·) := by
  induction l with
  | nil => exact List.pairwise_singleton _ _
  | cons k t ih =>
    have ⟨hk, ht⟩ := List.pairwise_cons.mp h
    unfold insertSubject
    split
    · next hn =>
      refine List.pairwise_cons.mpr ⟨fun m hm => ?_, h⟩
      rcases List.mem_cons.mp hm with rfl | hm
      · exact hn
      · exact Nat.lt_trans hn (hk m hm)
    · split
      · exact h
      · next h1 h2 =>
        refine List.pairwise_cons.mpr ⟨fun m hm => ?_, ih ht⟩
        rcases (mem_insertSubject n m t).mp hm with rfl | hm
        · omega
        · exact hk m hm

/-- A law of every element of a list passes to the list with one element changed by what keeps the law. -/
theorem forall_mem_modify {α : Type} {p : α → Prop} {f : α → α} (hf : ∀ x, p x → p (f x)) {l : List α} (h : ∀ x ∈ l, p x)
    (i : Nat) : ∀ x ∈ l.modify i f, p x := by
  induction l generalizing i with
  | nil => intro x hx; simp at hx
  | cons y t ih =>
    have hy := h y List.mem_cons_self
    have ht : ∀ x ∈ t, p x := fun x hx => h x (List.mem_cons_of_mem _ hx)
    cases i with
    | zero =>
      intro x hx
      rcases List.mem_cons.mp hx with rfl | hx
      · exact hf y hy
      · exact ht x hx
    | succ i =>
      intro x hx
      rcases List.mem_cons.mp hx with rfl | hx
      · exact hy
      · exact ih ht i x hx

/-- One source's set is changed by what keeps a rising list rising. -/
theorem Keeps.onSubjects (s : State) (src : Source) {f : List Nat → List Nat}
    (hf : ∀ l, l.Pairwise (· < ·) → (f l).Pairwise (· < ·)) : Keeps [.notices] s (s.setNotices (s.notices.onSubjects src f)) :=
  Keeps.setNotices (NoticeUnit.drive_pin _) fun hs =>
    ⟨(List.length_modify ..).trans hs.1,
      forall_mem_modify (p := fun n : Notice => n.subjects.Pairwise (· < ·)) (fun n => hf n.subjects) hs.2 _⟩

/-- A subject is added. -/
theorem Keeps.raise (s : State) (src : Source) (n : Nat) : Keeps [.notices] s (s.raise src n) :=
  Keeps.onSubjects s src (pairwise_insertSubject n)

/-- Subjects are removed. -/
theorem Keeps.dropSubjects (s : State) (src : Source) (p : Nat → Bool) :
    Keeps [.notices] s (s.dropSubjects src p) :=
  Keeps.onSubjects s src fun _ h => h.filter _

/-! ## Nodes and frames -/

/-- A node's record changes. -/
theorem Keeps.modifyNode (s : State) (n : Nat) (f : Node → Node) : Keeps [.link] s (s.modifyNode n f) := by
  unfold State.modifyNode
  split
  · exact Keeps.refl _ s
  · exact Keeps.setLink id (List.length_modify ..)

/-- A node's record changes and the transmit queue stays. -/
theorem State.modifyNode_txQueue (s : State) (n : Nat) (f : Node → Node) :
    (s.modifyNode n f).link.txQueue = s.link.txQueue := by
  unfold State.modifyNode
  split <;> rfl

/-- A frame is made for a node (R56). -/
theorem Keeps.send (s : State) (r : Role) (object : Nat) (p : OutPayload) : Keeps [.link] s (s.send r object p) := by
  unfold State.send
  split
  · exact Keeps.refl _ s
  · split
    · exact Keeps.setLink (fun h => by simpa using h) rfl
    · split
      · next hlt =>
        refine (Keeps.modifyNode s _ _).trans (Keeps.setLink (fun h => ?_) (by rfl))
        simp only [List.length_append, List.length_cons, List.length_nil]
        rw [State.modifyNode_txQueue]
        exact hlt
      · exact Keeps.refl _ s

/-- A level frame for a point. -/
theorem Keeps.sendInduct (s : State) (i : Nat) (go : Level) : Keeps [.link] s (s.sendInduct i go) := Keeps.send ..

/-- A level frame for a door. -/
theorem Keeps.sendDoor (s : State) (d : Nat) (run : Level) : Keeps [.link] s (s.sendDoor d run) := Keeps.send ..

/-! ## Induction holds -/

/-- The hold causes of a point change (R77). -/
theorem Keeps.onCauses (s : State) (i : Nat) (f : HoldSet → HoldSet) : Keeps [.link, .loop] s (s.onCauses i f) := by
  unfold State.onCauses
  split
  · exact Keeps.refl _ s
  · next p _ =>
    have h : Keeps [.loop] s (s.setLoop { s.loop with
        points := s.loop.points.put i { p with causes := f p.causes, go := (f p.causes).isEmpty } }) := by
      refine Keeps.setLoop (fun hl e he => ?_) (by exact fun hw => Table.wf_put hw _ _) (by exact id)
      rcases Table.mem_put he with rfl | he
      · rfl
      · exact hl e he
    dsimp only
    split
    · exact h.mono (by decide)
    · exact h.comp (Keeps.sendInduct _ _ _) (by decide) (by decide)

/-- A hold cause is put on a point or taken from it. -/
theorem Keeps.putCause (s : State) (i : Nat) (x : HoldCause) (v : Bool) :
    Keeps [.link, .loop] s (s.putCause i x v) := Keeps.onCauses ..

/-- A hold cause is put on some points or taken from them. -/
theorem Keeps.putCauses (l : List Nat) (x : HoldCause) (v : Bool) (s : State) :
    Keeps [.link, .loop] s (s.putCauses x v l) := by
  induction l generalizing s with
  | nil => exact Keeps.refl _ s
  | cons i t ih => exact (Keeps.putCause s i x v).trans (ih _)

/-- A hold cause is put on every point or taken from it. -/
theorem Keeps.putCauseAll (s : State) (x : HoldCause) (v : Bool) : Keeps [.link, .loop] s (s.putCauseAll x v) :=
  Keeps.putCauses ..

/-! ## Creation and retirement of records -/

/-- A bag is created (R21, R31). -/
theorem Keeps.createBag {s t : State} {b : Bag} {h : Handle} (hc : s.createBag b = some (h, t)) :
    Keeps [.store, .link, .loop, .notices] s t := by
  unfold State.createBag at hc
  split at hc
  · cases hc
  · next g u hu =>
    simp only [Option.some.injEq, Prod.mk.injEq] at hc
    obtain ⟨_, rfl⟩ := hc
    have h1 : Keeps [.store, .link, .loop, .notices] s (s.setStore u) :=
      (Keeps.setStore (Store.Keeps.create hu)).mono (by decide)
    split
    · exact h1.trans ((Keeps.raise _ _ _).comp (Keeps.putCauseAll _ _ _) (by decide) (by decide))
    · exact h1

/-- A record retires (R30, R31). -/
theorem Keeps.retireRecord (s : State) (h : Handle) : Keeps [.store, .link, .loop] s (s.retireRecord h) := by
  unfold State.retireRecord
  have h1 : Keeps [.store, .link, .loop] s (s.setStore (s.store.retire h)) :=
    (Keeps.setStore (Store.Keeps.retire _ _)).mono (by decide)
  dsimp only
  split
  · exact h1.comp (Keeps.putCauseAll _ _ _) (by decide) (by decide)
  · exact h1

/-! ## The tracking state and the carrier table -/

/-- The tracking state takes a cause of loss (R83). -/
theorem Keeps.causeOfLoss (s : State) : Keeps [.link, .loop, .notices] s s.causeOfLoss := by
  unfold State.causeOfLoss
  split
  · dsimp only
    refine Keeps.comp (l := [.loop, .notices]) ?_ (Keeps.putCauseAll _ _ _) (by decide) (by decide)
    split <;> exact (Keeps.setLoopPlain (by rfl) (by rfl)).comp (Keeps.raise _ _ _) (by decide) (by decide)
  · exact Keeps.refl _ s

/-- Tracking is regained (R86). -/
theorem Keeps.regainTracking (s : State) : Keeps [.link, .loop, .notices] s s.regainTracking :=
  ((Keeps.setLoopPlain (by rfl) (by rfl)).comp (Keeps.raise _ _ _) (by decide) (by decide) : Keeps [.loop, .notices] s _).comp
    (Keeps.putCauseAll _ _ _) (by decide) (by decide)

/-- An arch classification acts on the runs (R85, R86). -/
theorem Keeps.classify (s : State) (c : Classification) : Keeps [.link, .loop, .notices] s (s.classify c) := by
  unfold State.classify
  split
  · exact (Keeps.setLoopPlain (by rfl) (by rfl)).mono (by decide)
  · dsimp only
    split
    · exact (Keeps.setLoopPlain (by rfl) (by rfl)).comp (Keeps.causeOfLoss _) (by decide) (by decide)
    · exact (Keeps.setLoopPlain (by rfl) (by rfl)).mono (by decide)
  · dsimp only
    split
    · exact (Keeps.setLoopPlain (by rfl) (by rfl)).comp (Keeps.regainTracking _) (by decide) (by decide)
    · exact (Keeps.setLoopPlain (by rfl) (by rfl)).mono (by decide)
  · exact (Keeps.setLoopPlain (by rfl) (by rfl)).mono (by decide)
  · exact Keeps.refl _ s

/-- A carrier's entry changes. -/
theorem Keeps.modifyCarrier (s : State) (c : Nat) (f : Carrier → Carrier) : Keeps [.loop] s (s.modifyCarrier c f) :=
  Keeps.setLoopPlain (by rfl) (by rfl)

/-- What a carrier holds is set. -/
theorem Keeps.setContent (s : State) (c : Nat) (x : Content) : Keeps [.loop] s (s.setContent c x) :=
  Keeps.modifyCarrier ..

/-! ## The stray pen -/

/-- The pen hold is tested (R157). -/
theorem Keeps.testPenHold (s : State) : Keeps [.pen, .link, .loop, .notices] s s.testPenHold := by
  unfold State.testPenHold
  split
  · exact ((Keeps.setPen s _ (by exact id)).comp (Keeps.putCauseAll _ _ _) (by decide) (by decide) :
      Keeps [.pen, .link, .loop] s _).comp (Keeps.raise _ _ _) (by decide) (by decide)
  · split
    · exact (Keeps.setPen s _ (by exact id)).comp (Keeps.putCauseAll _ _ _) (by decide) (by decide)
    · exact Keeps.refl _ s

/-- A position is freed (R156). -/
theorem Keeps.freePosition (s : State) (h : Handle) (p : Nat) :
    Keeps [.pen, .link, .loop, .notices] s (s.freePosition h p) :=
  ((Keeps.setPen s _ (by exact fun hw => Table.wf_erase hw _)).comp (Keeps.dropSubjects _ _ _)
    (by decide) (by decide) : Keeps [.pen, .notices] s _).comp
    (Keeps.testPenHold _) (by decide) (by decide)

/-- A bag takes a position (R155). -/
theorem Keeps.occupy (s : State) (h : Handle) (p : Nat) : Keeps [.pen, .link, .loop, .notices] s (s.occupy h p) :=
  (Keeps.setPen s _ (by exact fun hw => Table.wf_put hw _ _)).comp (Keeps.testPenHold _) (by decide) (by decide)

/-- A bag enters the pen (R155). -/
theorem Keeps.intake (s : State) (h : Handle) (p : Nat) :
    Keeps [.store, .pen, .link, .loop, .notices] s (s.intake h p) :=
  ((Keeps.moveBag s h _ _).trans (Keeps.modifyBag _ _ _)).comp (Keeps.occupy _ _ _) (by decide) (by decide)

end Sys2Proof.Machine
end

