-- ==== Sys2Proof/Laws/Doors.lean ====
section
/-! SUPPORT. What each shared operation of Machine/DoorOps.lean and Machine/Flags.lean may do. -/

namespace Sys2Proof.Machine

/-! ## Carts and routes -/

/-- A cart's record changes. -/
theorem Keeps.modifyCart (s : State) (n : Nat) (f : Cart → Cart) : Keeps [.carts] s (s.modifyCart n f) :=
  Keeps.setCarts s _ fun hw => Table.wf_modify hw _ _

/-- A bag's entry leaves a cart. -/
theorem Keeps.dropEntry (s : State) (n : Nat) (h : Handle) : Keeps [.carts] s (s.dropEntry n h) := Keeps.modifyCart ..

/-- The bags of a retiring cart leave it. -/
theorem Keeps.leaveCart (l : List Entry) (s : State) : Keeps [.store] s (s.leaveCart l) := by
  induction l generalizing s with
  | nil => exact Keeps.refl _ s
  | cons e t ih =>
    unfold State.leaveCart
    refine Keeps.trans ?_ (ih _)
    split
    · exact Keeps.modifyBag ..
    · exact Keeps.makeMissing ..

/-- A cart retires. -/
theorem Keeps.retireCart (s : State) (n : Nat) : Keeps [.store, .carts] s (s.retireCart n) := by
  unfold State.retireCart
  split
  · exact Keeps.refl _ s
  · have h := Keeps.leaveCart (‹Cart›.entries) s
    have hc := h.changes .carts (by decide)
    exact h.comp (Keeps.setCarts _ _ fun hw => Table.wf_erase (hc ▸ hw) _) (by decide) (by decide)

/-- A route's record changes. -/
theorem Keeps.modifyRoute (s : State) (k : RouteKey) (f : Route → Route) : Keeps [.routes] s (s.modifyRoute k f) :=
  Keeps.setRoutes s _ (List.length_modify ..)

/-- A route is tested for IDLE (R131). -/
theorem Keeps.testIdle (s : State) (k : RouteKey) : Keeps [.routes, .notices] s (s.testIdle k) := by
  unfold State.testIdle
  split
  · exact Keeps.refl _ s
  · split
    · exact (Keeps.modifyRoute _ _ _).comp (Keeps.raise _ _ _) (by decide) (by decide)
    · exact Keeps.refl _ s

/-- CART_DONE is raised where it is asked for (R140). -/
theorem Keeps.tellCartDone (s : State) (c : Cart) : Keeps [.notices] s (s.tellCartDone c) := by
  unfold State.tellCartDone
  split
  · exact Keeps.refl _ s
  · split
    · exact Keeps.refl _ s
    · split
      · exact Keeps.raise ..
      · exact Keeps.refl _ s

/-- A QUEUED cart retires (R127). -/
theorem Keeps.retireQueued (s : State) (n : Nat) : Keeps [.store, .carts, .routes, .notices] s (s.retireQueued n) := by
  unfold State.retireQueued
  split
  · exact Keeps.refl _ s
  · split
    · exact (Keeps.retireCart _ _).mono (by decide)
    · exact (((Keeps.modifyRoute s _ _).comp (Keeps.retireCart _ _) (by decide) (by decide) :
        Keeps [.store, .carts, .routes] s _).comp (Keeps.tellCartDone _ _) (by decide) (by decide) :
          Keeps [.store, .carts, .routes, .notices] s _).comp (Keeps.testIdle _ _) (by decide) (by decide)

/-! ## Doors -/

/-- A door's record changes. -/
theorem Keeps.modifyDoor (s : State) (d : Nat) (f : Door → Door) : Keeps [.doors] s (s.modifyDoor d f) :=
  Keeps.setDoors s _ fun hw => Table.wf_modify hw _ _

/-- A door's belt is set (R134). -/
theorem Keeps.setBelt (s : State) (d : Nat) : Keeps [.doors, .link] s (s.setBelt d) := by
  unfold State.setBelt
  split
  · exact Keeps.refl _ s
  · dsimp only
    split
    · exact Keeps.refl _ s
    · exact (Keeps.modifyDoor _ _ _).comp (Keeps.sendDoor _ _ _) (by decide) (by decide)

/-- The belts of some doors are set. -/
theorem Keeps.setBeltsOf (l : List Nat) (s : State) : Keeps [.doors, .link] s (s.setBeltsOf l) := by
  induction l generalizing s with
  | nil => exact Keeps.refl _ s
  | cons d t ih => exact (Keeps.setBelt s d).trans (ih _)

/-- Every belt is set. -/
theorem Keeps.setBelts (s : State) : Keeps [.doors, .link] s s.setBelts := Keeps.setBeltsOf ..

/-- A halt reason is added (R137). -/
theorem Keeps.addHalt (s : State) (d : Nat) (x : HaltReason) :
    Keeps [.doors, .notices, .link] s (s.addHalt d x) := by
  unfold State.addHalt
  split
  · exact Keeps.refl _ s
  · exact ((Keeps.modifyDoor s d _).comp (Keeps.raise _ _ _) (by decide) (by decide) :
      Keeps [.doors, .notices] s _).comp (Keeps.setBelt _ _) (by decide) (by decide)

/-- A halt reason is removed (R49). -/
theorem Keeps.dropHalt (s : State) (d : Nat) (x : HaltReason) : Keeps [.doors, .link] s (s.dropHalt d x) :=
  (Keeps.modifyDoor s d _).comp (Keeps.setBelt _ _) (by decide) (by decide)

/-- The head cart of a route comes to a door (R133). -/
theorem Keeps.takeToDoor (s : State) (d : Nat) (k : RouteKey) :
    Keeps [.carts, .routes, .doors, .link, .notices] s (s.takeToDoor d k) := by
  unfold State.takeToDoor
  split
  · exact Keeps.refl _ s
  · split
    · exact Keeps.refl _ s
    · dsimp only
      have h1 : ∀ (f : Route → Route) (g : Cart → Cart) (w : Door → Door) (n : Nat),
          Keeps [.carts, .routes, .doors, .link, .notices] s
            (((s.modifyRoute k f).modifyCart n g).modifyDoor d w) := fun f g w n =>
        ((Keeps.modifyRoute s k f).comp (Keeps.modifyCart _ _ _) (by decide) (by decide) :
          Keeps [.carts, .routes] s _).comp (Keeps.modifyDoor _ _ _) (by decide) (by decide)
      split
      · split
        · exact h1 _ _ _ _
        · exact (h1 _ _ _ _).comp (Keeps.addHalt _ _ _) (by decide) (by decide)
      · exact h1 _ _ _ _

/-- The cart at a door completes (R140). -/
theorem Keeps.completeCart (s : State) (d n : Nat) (c : Cart) :
    Keeps [.store, .carts, .routes, .doors, .notices] s (s.completeCart d n c) := by
  unfold State.completeCart
  have h1 : Keeps [.store, .carts, .routes, .doors, .notices] s
      (((s.retireCart n).modifyDoor d (fun x => { x with cart := none })).tellCartDone c) :=
    ((Keeps.retireCart s n).comp (Keeps.modifyDoor _ _ _) (by decide) (by decide) :
      Keeps [.store, .carts, .doors] s _).comp (Keeps.tellCartDone _ _) (by decide) (by decide)
  dsimp only
  split
  · exact h1
  · exact h1.comp (Keeps.testIdle _ _) (by decide) (by decide)

/-- One turn of a door. -/
theorem Keeps.doorTurn {s t : State} {d : Nat} (h : s.doorTurn d = some t) :
    Keeps [.store, .carts, .routes, .doors, .link, .notices] s t := by
  unfold State.doorTurn at h
  split at h
  · cases h
  · split at h
    · split at h
      · cases h
      · split at h
        · cases h
          exact (Keeps.completeCart _ _ _ _).mono (by decide)
        · cases h
    · obtain ⟨k, _, rfl⟩ := Option.map_eq_some_iff.1 h
      exact (Keeps.takeToDoor _ _ _).mono (by decide)

/-- The turns of a door. -/
theorem Keeps.doorTurns (d fuel : Nat) (s : State) :
    Keeps [.store, .carts, .routes, .doors, .link, .notices] s (s.doorTurns d fuel) := by
  induction fuel generalizing s with
  | zero => exact (Keeps.setBelt s d).mono (by decide)
  | succ n ih =>
    unfold State.doorTurns
    split
    · exact (Keeps.setBelt s d).mono (by decide)
    · next ht => exact (Keeps.doorTurn ht).trans (ih _)

/-- A door settles (R133, R134, R140). -/
theorem Keeps.settleDoor (s : State) (d : Nat) :
    Keeps [.store, .carts, .routes, .doors, .link, .notices] s (s.settleDoor d) := Keeps.doorTurns ..

/-- A cart that lost contents is tested (R127, R140). -/
theorem Keeps.testCart (s : State) (n : Nat) :
    Keeps [.store, .carts, .routes, .doors, .link, .notices] s (s.testCart n) := by
  unfold State.testCart
  split
  · exact Keeps.refl _ s
  · split
    · split
      · exact (Keeps.retireQueued s n).mono (by decide)
      · exact Keeps.refl _ s
    · split
      · exact Keeps.settleDoor ..
      · exact Keeps.refl _ s
    · exact Keeps.refl _ s

/-- The door of a route settles. -/
theorem Keeps.settleRoute (s : State) (k : RouteKey) :
    Keeps [.store, .carts, .routes, .doors, .link, .notices] s (s.settleRoute k) := by
  unfold State.settleRoute
  split
  · exact Keeps.settleDoor ..
  · exact Keeps.refl _ s

/-- A cart departs its chute (R116, R127). -/
theorem Keeps.departCart (s : State) (n : Nat) :
    Keeps [.store, .carts, .routes, .doors, .link, .notices] s (s.departCart n) := by
  unfold State.departCart
  split
  · exact Keeps.refl _ s
  · split
    · exact (Keeps.retireCart s n).mono (by decide)
    · exact ((Keeps.modifyCart s n _).comp (Keeps.modifyRoute _ _ _) (by decide) (by decide) :
        Keeps [.carts, .routes] s _).comp (Keeps.settleRoute _ _) (by decide) (by decide)

/-! ## Flags -/

/-- A demand check (R148). -/
theorem Keeps.demandCheck (s : State) (h : Handle) : Keeps [.store] s (s.demandCheck h) := Keeps.modifyBag ..

/-- A stray's reason is re-evaluated (R158). -/
theorem Keeps.reEvaluate (s : State) (h : Handle) (named : Option StrayReason) :
    Keeps [.store] s (s.reEvaluate h named) := by
  unfold State.reEvaluate
  repeat' split
  all_goals first | exact Keeps.refl _ s | exact Keeps.modifyBag ..

/-- OFFLOAD is raised for a bag's slot. -/
theorem Keeps.tellOffload (s : State) (b : Bag) : Keeps [.notices] s (s.tellOffload b) := by
  unfold State.tellOffload
  split
  · exact Keeps.raise ..
  · exact Keeps.refl _ s

/-- An ABOARD bag becomes OFFLOAD (R149). -/
theorem Keeps.offloadBag (s : State) (h : Handle) :
    Keeps [.store, .carts, .routes, .doors, .link, .notices] s (s.offloadBag h) := by
  unfold State.offloadBag
  split
  · exact Keeps.refl _ s
  · split
    · exact (Keeps.moveBag s h _ _).comp (Keeps.tellOffload _ _) (by decide) (by decide)
    · exact (((Keeps.moveBag s h _ _).comp (Keeps.dropEntry _ _ _) (by decide) (by decide) :
        Keeps [.store, .carts] s _).comp (Keeps.tellOffload _ _) (by decide) (by decide) :
          Keeps [.store, .carts, .notices] s _).comp (Keeps.testCart _ _) (by decide) (by decide)

/-- A reconcile visit under a VOID governing cabin (R146). -/
theorem Keeps.reconcileVoid (s : State) (h : Handle) (b : Bag) :
    Keeps [.store, .carts, .routes, .doors, .link, .notices] s (s.reconcileVoid h b) := by
  unfold State.reconcileVoid
  split
  all_goals first
    | exact (Keeps.demandCheck s h).mono (by decide)
    | exact (Keeps.demandCheck s h).comp (Keeps.modifyBag _ _ _) (by decide) (by decide)
    | exact Keeps.offloadBag ..
    | exact Keeps.refl _ s

/-- A reconcile visit under a governing cabin that is not VOID (R147). -/
theorem Keeps.reconcileSailing (s : State) (h : Handle) (b : Bag) : Keeps [.store] s (s.reconcileSailing h b) := by
  unfold State.reconcileSailing
  dsimp only
  split
  · exact (Keeps.demandCheck s h).trans (Keeps.moveBag ..)
  · exact Keeps.demandCheck s h

/-- A reconcile visit (R146, R147). -/
theorem Keeps.reconcile (s : State) (h : Handle) :
    Keeps [.store, .carts, .routes, .doors, .link, .notices] s (s.reconcile h) := by
  unfold State.reconcile
  split
  · exact Keeps.refl _ s
  · split
    · exact Keeps.refl _ s
    · split
      · exact Keeps.reconcileVoid ..
      · exact (Keeps.reconcileSailing ..).mono (by decide)

/-! ## The mode of the walker -/

/-- The mode that a condition chooses is FAST exactly under the condition. -/
theorem mode_iff (p : Bool) : (if p = true then SweepMode.fast else SweepMode.patrol) = SweepMode.fast ↔ p = true := by
  cases p <;> simp

/-- Cabins are replaced and the mode follows them (R167): the law of the mode holds after. -/
theorem Keeps.cabinsMode (s : State) (v : Table Cabin)
    (h : Table.wf s.store.cabins = true → Table.wf v = true) :
    Keeps [.store, .sweep] s ((s.setStore { s.store with cabins := v }).setMode) := by
  refine ⟨?_, id, id, id, id, fun _ => ?_, id, ShapeLaw.imp rfl rfl h id id id id id id id⟩
  · intro b hb; cases b <;> first | rfl | simp at hb
  · exact mode_iff _

/-- The mode follows the cabins as they stand. -/
theorem Keeps.setMode (s : State) : Keeps [.sweep] s s.setMode := by
  refine ⟨?_, id, id, id, id, fun _ => ?_, id, id⟩
  · intro b hb; cases b <;> first | rfl | simp at hb
  · exact mode_iff _

/-- A cabin's fields change (R12). -/
theorem Keeps.changeCabin (s : State) (k : CabinKey) (f : Cabin → Cabin) :
    Keeps [.store, .sweep] s (s.changeCabin k f) :=
  Keeps.cabinsMode s _ fun hw => Table.wf_modify hw _ _

end Sys2Proof.Machine
end

