-- ==== Sys2Proof/Laws/Chutes.lean ====
section
/-! SUPPORT. What each shared operation of Machine/ChuteOps.lean may do. -/

namespace Sys2Proof.Machine

/-! ## Chutes, swaps and cuts -/

/-- A chute's record changes. -/
theorem Keeps.modifyChute (s : State) (k : Nat) (f : Chute → Chute) : Keeps [.chutes] s (s.modifyChute k f) :=
  Keeps.setChutes s _ fun hw => Table.wf_modify hw _ _

/-- A chute goes to FAULT (R109). -/
theorem Keeps.faultChute (s : State) (k : Nat) (cause : FaultCause) :
    Keeps [.chutes, .notices] s (s.faultChute k cause) := by
  unfold State.faultChute
  split
  · exact Keeps.refl _ s
  · split
    · exact (Keeps.modifyChute s k _).comp (Keeps.raise _ _ _) (by decide) (by decide)
    · exact Keeps.refl _ s

/-- The active cart has left or filled (R116, R118). -/
theorem Keeps.swap (s : State) (k : Nat) : Keeps [.chutes, .carts, .notices] s (s.swap k) := by
  unfold State.swap
  split
  · exact Keeps.refl _ s
  · split
    · exact Keeps.refl _ s
    · split
      · exact (Keeps.modifyCart s _ _).comp (Keeps.modifyChute _ _ _) (by decide) (by decide)
      · split
        · exact (Keeps.modifyChute s k _).comp (Keeps.raise _ _ _) (by decide) (by decide)
        · exact (Keeps.modifyChute s k _).mono (by decide)

/-- A full active cart swaps (R118). -/
theorem Keeps.settleFull (s : State) (k : Nat) : Keeps [.chutes, .carts, .notices] s (s.settleFull k) := by
  unfold State.settleFull
  split
  · exact Keeps.refl _ s
  · split
    · exact Keeps.refl _ s
    · split
      · exact (Keeps.modifyCart s _ _).comp (Keeps.swap _ _) (by decide) (by decide)
      · exact Keeps.refl _ s

/-- A cut completes (R119). -/
theorem Keeps.settleCut (s : State) (k : Nat) : Keeps [.chutes, .carts, .notices] s (s.settleCut k) := by
  unfold State.settleCut
  split
  · exact Keeps.refl _ s
  · split
    · exact Keeps.refl _ s
    · split
      · exact (Keeps.modifyCart s _ _).comp (Keeps.swap _ _) (by decide) (by decide)
      · exact Keeps.refl _ s

/-- The cuts of some chutes complete. -/
theorem Keeps.settleCuts (l : List Nat) (s : State) : Keeps [.chutes, .carts, .notices] s (s.settleCuts l) := by
  induction l generalizing s with
  | nil => exact Keeps.refl _ s
  | cons k t ih => exact (Keeps.settleCut s k).trans (ih _)

/-- A carrier is disarmed (R100). -/
theorem Keeps.disarm (s : State) (c k : Nat) : Keeps [.loop, .chutes] s (s.disarm c k) :=
  (Keeps.modifyCarrier s c _).comp (Keeps.modifyChute _ _ _) (by decide) (by decide)

/-- Every carrier armed for a chute is disarmed (R117). -/
theorem Keeps.disarmChute (s : State) (k : Nat) : Keeps [.loop, .chutes] s (s.disarmChute k) :=
  (Keeps.setLoopPlain (by rfl) (by rfl)).comp (Keeps.modifyChute _ _ _) (by decide) (by decide)

/-! ## Lost claims -/

/-- Some bags become MISSING. -/
theorem Keeps.makeAllMissing (l : List Handle) (s : State) : Keeps [.store] s (s.makeAllMissing l) := by
  induction l generalizing s with
  | nil => exact Keeps.refl _ s
  | cons h t ih => exact (Keeps.makeMissing s h).trans (ih _)

/-- The claims of a chute are lost (R117). -/
theorem Keeps.loseClaims (s : State) (k : Nat) : Keeps [.store, .chutes, .loop, .notices] s (s.loseClaims k) := by
  unfold State.loseClaims
  split
  · exact Keeps.refl _ s
  · exact (((Keeps.makeAllMissing _ s).comp (Keeps.modifyChute _ _ _) (by decide) (by decide) :
      Keeps [.store, .chutes] s _).comp (Keeps.disarmChute _ _) (by decide) (by decide) :
        Keeps [.store, .chutes, .loop] s _).comp (Keeps.faultChute _ _ _) (by decide) (by decide)

/-- The claims of a chute pass or are lost (R117). -/
theorem Keeps.settleClaims (s : State) (k : Nat) (p : PosName) :
    Keeps [.store, .chutes, .loop, .notices] s (s.settleClaims k p) := by
  unfold State.settleClaims
  repeat' split
  all_goals first | exact Keeps.refl _ s | exact Keeps.loseClaims s k

/-! ## Landings -/

/-- A bag leaves its carrier for a chute (R102, R104). -/
theorem Keeps.toLanding (s : State) (h : Handle) (k : Nat) (deadline : Byte) (reason : Option StrayReason) :
    Keeps [.store, .chutes] s (s.toLanding h k deadline reason) :=
  ((Keeps.moveBag s h _ _).trans (Keeps.modifyBag _ _ _)).comp (Keeps.modifyChute _ _ _) (by decide) (by decide)

/-- A bag lands in a cart (R120). -/
theorem Keeps.landInCart (s : State) (h : Handle) (n : Nat) : Keeps [.store, .carts] s (s.landInCart h n) :=
  ((Keeps.moveBag s h _ _).comp (Keeps.modifyCart _ _ _) (by decide) (by decide) : Keeps [.store, .carts] s _).comp
    (Keeps.demandCheck _ _) (by decide) (by decide)

/-- A bag lands (R120, R121). -/
theorem Keeps.landBag (s : State) (k : Nat) (c : Chute) (h : Handle) :
    Keeps [.store, .pen, .link, .loop, .notices, .carts, .chutes] s (s.landBag k c h) := by
  unfold State.landBag
  split
  · exact (Keeps.intake s h _).mono (by decide)
  · split
    · exact (Keeps.landInCart s h _).mono (by decide)
    · exact (Keeps.makeMissing s h).comp (Keeps.loseClaims _ _) (by decide) (by decide)

/-- An item at a DECK chute matches no record (R120). -/
theorem Keeps.landUnidentified (s : State) (k : Nat) (c : Chute) :
    Keeps [.store, .chutes, .loop, .notices, .carts] s (s.landUnidentified k c) := by
  unfold State.landUnidentified
  split
  · exact (Keeps.faultChute s k _).mono (by decide)
  · refine Keeps.comp (l := [.store, .chutes, .loop, .notices]) ?_ (Keeps.modifyCart _ _ _) (by decide) (by decide)
    split
    · exact Keeps.loseClaims s k
    · exact Keeps.refl _ s

/-- An item at a STRAY chute matches no record (R121). -/
theorem Keeps.landAnonymous (s : State) (k : Nat) :
    Keeps [.store, .pen, .link, .loop, .notices, .chutes] s (s.landAnonymous k) := by
  unfold State.landAnonymous
  split
  · split
    · next hc => exact (Keeps.createBag hc).comp (Keeps.occupy _ _ _) (by decide) (by decide)
    · exact (Keeps.faultChute s k _).mono (by decide)
  · exact (Keeps.faultChute s k _).mono (by decide)

/-- A landing at a chute (R120, R121). -/
theorem Keeps.takeLanding (s : State) (k : Nat) :
    Keeps [.store, .pen, .link, .loop, .notices, .carts, .chutes] s (s.takeLanding k) := by
  unfold State.takeLanding
  split
  · exact Keeps.refl _ s
  · refine Keeps.comp (l := [.store, .pen, .link, .loop, .notices, .carts, .chutes]) ?_
      ((Keeps.settleFull _ k).trans (Keeps.settleCut _ k)) (by decide) (by decide)
    split
    · exact (Keeps.modifyChute s k _).comp (Keeps.landBag _ _ _ _) (by decide) (by decide)
    · split
      · exact (Keeps.landUnidentified s k _).mono (by decide)
      · exact (Keeps.landAnonymous s k).mono (by decide)

/-! ## Landing deadlines -/

/-- Some bags become JAMMED. -/
theorem Keeps.jamAll (k : Nat) (l : List Handle) (s : State) : Keeps [.store] s (s.jamAll k l) := by
  induction l generalizing s with
  | nil => exact Keeps.refl _ s
  | cons h t ih => exact (Keeps.moveBag s h _ _).trans (ih _)

/-- The due entries of a chute become JAMMED (R122). -/
theorem Keeps.jamDue (s : State) (pitch : Byte) (k : Nat) : Keeps [.store, .chutes, .notices] s (s.jamDue pitch k) := by
  unfold State.jamDue
  split
  · exact Keeps.refl _ s
  · dsimp only
    split
    · exact Keeps.refl _ s
    · exact ((Keeps.jamAll k _ s).comp (Keeps.modifyChute _ _ _) (by decide) (by decide) :
        Keeps [.store, .chutes] s _).comp (Keeps.raise _ _ _) (by decide) (by decide)

/-- The due entries of some chutes become JAMMED. -/
theorem Keeps.jamDueAll (pitch : Byte) (l : List Nat) (s : State) :
    Keeps [.store, .chutes, .notices] s (s.jamDueAll pitch l) := by
  induction l generalizing s with
  | nil => exact Keeps.refl _ s
  | cons k t ih => exact (Keeps.jamDue s pitch k).trans (ih _)

/-! ## Retirement -/

/-- A bag leaves its holder (R30). -/
theorem Keeps.leaveHolder (s : State) (h : Handle) (b : Bag) :
    Keeps [.loop, .chutes, .carts, .notices, .pen, .link] s (s.leaveHolder h b) := by
  unfold State.leaveHolder
  split
  · exact (Keeps.setContent s _ _).mono (by decide)
  · exact (Keeps.modifyChute s _ _).comp (Keeps.settleCut _ _) (by decide) (by decide)
  · exact (Keeps.modifyChute s _ _).comp (Keeps.settleCut _ _) (by decide) (by decide)
  · exact (Keeps.dropEntry s _ h).mono (by decide)
  · exact (Keeps.dropEntry s _ h).mono (by decide)
  · exact (Keeps.freePosition s h _).mono (by decide)
  · exact Keeps.refl _ s

/-- A bag retires (R30). -/
theorem Keeps.retireBag (s : State) (h : Handle) :
    Keeps [.store, .loop, .chutes, .carts, .notices, .pen, .link] s (s.retireBag h) := by
  unfold State.retireBag
  split
  · exact Keeps.refl _ s
  · exact (Keeps.leaveHolder s h _).comp (Keeps.retireRecord _ _) (by decide) (by decide)

end Sys2Proof.Machine
end

