-- ==== Sys2Proof/Laws/Frames.lean ====
section
/-! SUPPORT. What each operation of Machine/Setup.lean, Machine/Frames.lean, Machine/LoopFrames.lean and
Machine/FloorFrames.lean may do, where frames and walks share it. -/

namespace Sys2Proof.Machine

/-! ## The receiver and the sequence check -/

/-- The receiver's bytes are set. -/
theorem Keeps.setRx (s : State) (l : List Byte) : Keeps [.link] s (s.setRx l) := Keeps.setLink id rfl

/-- A part in REST wakes (R178). -/
theorem Keeps.wake (s : State) : Keeps [.opState, .link, .loop, .doors] s s.wake := by
  have h1 : Keeps [.opState, .link] s ((s.setLink s.link.unhear).setOpState .run) :=
    (Keeps.setLink (by exact id) (by exact List.length_map ..)).comp (Keeps.setOpState _ _) (by decide) (by decide)
  have h2 : Keeps [.opState, .link, .loop] s
      (((s.setLink s.link.unhear).setOpState .run).setLoop ((s.setLink s.link.unhear).setOpState .run).loop.anchor) :=
    h1.comp (Keeps.setLoopPlain (by rfl) (by rfl)) (by decide) (by decide)
  exact (h2.comp (((Keeps.putCauseAll _ .tracking true).trans (Keeps.putCauseAll _ .node true)).trans
    (Keeps.putCauseAll _ .state false)) (by decide) (by decide) : Keeps [.opState, .link, .loop] s _).comp
      (Keeps.setBelts _) (by decide) (by decide)

/-- A halt reason NODE is added to some doors. -/
theorem Keeps.haltNode (l : List Nat) (s : State) : Keeps [.doors, .notices, .link] s (s.haltNode l) := by
  induction l generalizing s with
  | nil => exact Keeps.refl _ s
  | cons d t ih => exact (Keeps.addHalt s d _).trans (ih _)

/-- The halt reason NODE is removed from some doors. -/
theorem Keeps.unhaltNode (l : List Nat) (s : State) : Keeps [.doors, .link] s (s.unhaltNode l) := by
  induction l generalizing s with
  | nil => exact Keeps.refl _ s
  | cons d t ih => exact (Keeps.dropHalt s d _).trans (ih _)

/-- A gap acts by the node's role (R48). -/
theorem Keeps.gap (s : State) (x : Node) : Keeps [.link, .loop, .doors, .notices] s (s.gap x) := by
  unfold State.gap
  split
  all_goals first
    | exact (Keeps.causeOfLoss s).mono (by decide)
    | exact (Keeps.haltNode _ s).mono (by decide)
    | exact Keeps.refl _ s

/-- A node is heard again (R52). -/
theorem Keeps.nodeReturns (s : State) (x : Node) : Keeps [.link, .loop, .doors] s (s.nodeReturns x) := by
  unfold State.nodeReturns
  split
  · exact (Keeps.putCauses _ _ _ s).mono (by decide)
  · exact (Keeps.unhaltNode _ s).mono (by decide)
  · exact Keeps.refl _ s

/-- A frame in sequence acts by the node's role (R49). -/
theorem Keeps.inSequence (s : State) (x : Node) : Keeps [.link, .doors] s (s.inSequence x) := by
  unfold State.inSequence
  split
  · exact (Keeps.unhaltNode _ s).mono (by decide)
  · exact Keeps.refl _ s

/-- The sequence check of a frame (R47). -/
theorem Keeps.heard (s : State) (n : Nat) (x : Node) (seq : Byte) :
    Keeps [.link, .loop, .doors, .notices] s (s.heard n x seq) := by
  unfold State.heard
  split
  · split
    · exact (Keeps.modifyNode s n _).comp (Keeps.inSequence _ _) (by decide) (by decide)
    · exact (Keeps.gap s x).comp (Keeps.modifyNode _ _ _) (by decide) (by decide)
  · exact (Keeps.modifyNode s n _).comp (Keeps.nodeReturns _ _) (by decide) (by decide)

/-- Some chutes go to FAULT with cause NODE. -/
theorem Keeps.faultNode (l : List Nat) (s : State) : Keeps [.chutes, .notices] s (s.faultNode l) := by
  induction l generalizing s with
  | nil => exact Keeps.refl _ s
  | cons k t ih => exact (Keeps.faultChute s k _).trans (ih _)

/-- A node's DOWN acts by its role (R51). -/
theorem Keeps.nodeLost (s : State) (x : Node) :
    Keeps [.link, .loop, .doors, .chutes, .notices] s (s.nodeLost x) := by
  unfold State.nodeLost
  split
  all_goals first
    | exact (Keeps.causeOfLoss s).mono (by decide)
    | exact (Keeps.putCauses _ _ _ s).mono (by decide)
    | exact (Keeps.faultNode _ s).mono (by decide)
    | exact (Keeps.haltNode _ s).mono (by decide)
    | exact Keeps.refl _ s

/-- Level frames are made for some points. -/
theorem Keeps.refreshPoints (l : List (Nat × Induction)) (s : State) : Keeps [.link] s (s.refreshPoints l) := by
  induction l generalizing s with
  | nil => exact Keeps.refl _ s
  | cons e t ih => exact (Keeps.sendInduct s _ _).trans (ih _)

/-- Level frames are made for some doors. -/
theorem Keeps.refreshDoors (l : List (Nat × Door)) (s : State) : Keeps [.link] s (s.refreshDoors l) := by
  induction l generalizing s with
  | nil => exact Keeps.refl _ s
  | cons e t ih => exact (Keeps.sendDoor s _ _).trans (ih _)

/-! ## Pitches -/

/-- A carrier is armed for a chute (R99). -/
theorem Keeps.arm (s : State) (i k : Nat) (c : Chute) (pitch : Byte) (r : Option StrayReason) :
    Keeps [.loop, .chutes, .link] s (s.arm i k c pitch r) :=
  ((Keeps.modifyCarrier s i _).comp (Keeps.modifyChute _ _ _) (by decide) (by decide) : Keeps [.loop, .chutes] s _).comp
    (Keeps.send _ _ _ _) (by decide) (by decide)

/-- A chute takes a bag whose destination matches it (R98). -/
theorem Keeps.tryArm (s : State) (i k : Nat) (c : Chute) (pitch : Byte) (h : Handle) :
    Keeps [.loop, .chutes, .link] s (s.tryArm i k c pitch h) := by
  unfold State.tryArm
  repeat' split
  all_goals first | exact Keeps.refl _ s | exact Keeps.arm ..

/-- A decision point is served (R94 to R98). -/
theorem Keeps.serveChute (s : State) (pitch : Byte) (k : Nat) :
    Keeps [.store, .loop, .chutes, .link] s (s.serveChute pitch k) := by
  unfold State.serveChute
  split
  · exact Keeps.refl _ s
  · dsimp only
    split
    · exact Keeps.refl _ s
    · split
      · split
        · exact (Keeps.demandCheck s _).comp (Keeps.tryArm _ _ _ _ _ _) (by decide) (by decide)
        · exact Keeps.refl _ s
      · exact Keeps.refl _ s

/-- Some decision points are served. -/
theorem Keeps.serveChutes (pitch : Byte) (l : List Nat) (s : State) :
    Keeps [.store, .loop, .chutes, .link] s (s.serveChutes pitch l) := by
  induction l generalizing s with
  | nil => exact Keeps.refl _ s
  | cons k t ih => exact (Keeps.serveChute s pitch k).trans (ih _)

/-- A divert ends at its check deadline (R104). -/
theorem Keeps.expire (s : State) (pitch : Byte) (i : Nat) (m : Mark) (x : Content) :
    Keeps [.store, .loop, .chutes, .carts, .notices] s (s.expire pitch i m x) := by
  unfold State.expire
  dsimp only
  have h1 : Keeps [.store, .loop, .chutes] s
      (match x with
        | .loaded h => (s.disarm i m.chute).toLanding h m.chute (pitch + s.windowOf m.chute) m.reason
        | _ => s.disarm i m.chute) := by
    split
    · exact (Keeps.disarm s i _).comp (Keeps.toLanding _ _ _ _ _) (by decide) (by decide)
    · exact (Keeps.disarm s i _).mono (by decide)
  exact (h1.comp (Keeps.setContent _ _ _) (by decide) (by decide) : Keeps [.store, .loop, .chutes] s _).comp
    (Keeps.settleCut _ _) (by decide) (by decide)

/-- A mark is tested (R104). -/
theorem Keeps.testMark (s : State) (pitch : Byte) (i : Nat) :
    Keeps [.store, .loop, .chutes, .carts, .notices] s (s.testMark pitch i) := by
  unfold State.testMark
  repeat' split
  all_goals first | exact Keeps.refl _ s | exact Keeps.expire ..

/-- Some marks are tested. -/
theorem Keeps.testMarks (pitch : Byte) (l : List Nat) (s : State) :
    Keeps [.store, .loop, .chutes, .carts, .notices] s (s.testMarks pitch l) := by
  induction l generalizing s with
  | nil => exact Keeps.refl _ s
  | cons i t ih => exact (Keeps.testMark s pitch i).trans (ih _)

/-- The carrier at home makes a lap (R65). -/
theorem Keeps.countLap (s : State) : Keeps [.store] s s.countLap := by
  unfold State.countLap
  split
  · exact Keeps.modifyBag ..
  · exact Keeps.refl _ s

/-- The divert unit's and the chute controller's part of a pitch (R65). -/
theorem Keeps.servePitch (s : State) (pitch : Byte) :
    Keeps [.store, .loop, .chutes, .link, .carts, .notices] s (s.servePitch pitch) :=
  (((Keeps.setLoopPlain (by rfl) (by rfl) : Keeps [.loop] s s.lowerMarks).comp (Keeps.serveChutes pitch _ _) (by decide)
    (by decide) : Keeps [.store, .loop, .chutes, .link] s _).comp (Keeps.testMarks pitch _ _) (by decide) (by decide) :
      Keeps [.store, .loop, .chutes, .link, .carts, .notices] s _).comp (Keeps.jamDueAll pitch _ _) (by decide)
        (by decide)

/-- One pitch is processed (R65). -/
theorem Keeps.processPitch (s : State) (pitch : Byte) :
    Keeps [.store, .loop, .chutes, .link, .carts, .notices] s (s.processPitch pitch) :=
  (((Keeps.setLoopPlain (by rfl) (by rfl) : Keeps [.loop] s s.advance).comp (Keeps.countLap _) (by decide) (by decide) :
    Keeps [.store, .loop] s _).comp (Keeps.setLink (by exact id) (by rfl)) (by decide) (by decide) :
      Keeps [.store, .loop, .link] s _).comp (Keeps.servePitch _ _) (by decide) (by decide)

/-- Some pitches are processed. -/
theorem Keeps.processPitches (n : Nat) (c : Byte) (s : State) :
    Keeps [.store, .loop, .chutes, .link, .carts, .notices] s (s.processPitches c n) := by
  induction n generalizing s c with
  | zero => exact Keeps.refl _ s
  | succ n ih => exact (Keeps.processPitch s _).trans (ih _ _)

/-- A PITCH is taken (R53, R64). -/
theorem Keeps.takePitch (s : State) (c : Byte) :
    Keeps [.store, .loop, .chutes, .link, .carts, .notices] s (s.takePitch c) := by
  unfold State.takePitch
  dsimp only
  refine Keeps.comp (l := [.store, .loop, .chutes, .link, .carts, .notices]) ?_ (Keeps.setLink id rfl)
    (by decide) (by decide)
  unfold State.trackPitch
  split
  · exact (Keeps.setLink (by exact id) (by rfl)).mono (by decide)
  · dsimp only
    split
    · exact Keeps.processPitches ..
    · split
      · exact (Keeps.causeOfLoss s).comp (Keeps.processPitches _ _ _) (by decide) (by decide)
      · exact (Keeps.causeOfLoss s).comp (Keeps.setLink (by exact id) (by rfl)) (by decide) (by decide)

/-! ## HOME, LAUNCH, ARCH, CHECK -/

/-- A HOME is taken (R66, R67). -/
theorem Keeps.takeHome (s : State) (c : Nat) (d : Int) : Keeps [.loop, .link, .notices] s (s.takeHome c d) := by
  have h1 : ∀ d, Keeps [.loop] s (s.reAnchor d) := fun _ => Keeps.setLoopPlain (by rfl) (by rfl)
  unfold State.takeHome
  split
  · exact (h1 d).comp (Keeps.setLoopPlain (by rfl) (by rfl)) (by decide) (by decide)
  · split
    · exact Keeps.refl _ s
    · exact (h1 d).comp (Keeps.causeOfLoss _) (by decide) (by decide)
  · split
    · exact (Keeps.setLoopPlain (by rfl) (by rfl)).mono (by decide)
    · exact (h1 d).comp (Keeps.causeOfLoss _) (by decide) (by decide)
  · exact (h1 d).mono (by decide)

/-- A stray's position is freed as it leaves the pen (R156). -/
theorem Keeps.leavePen (s : State) (h : Handle) (b : Bag) :
    Keeps [.pen, .link, .loop, .notices] s (s.leavePen h b) := by
  unfold State.leavePen
  split
  · exact Keeps.freePosition ..
  · exact Keeps.refl _ s

/-- A found bag goes onto a carrier (R68). -/
theorem Keeps.launchFound (s : State) (c : Nat) (h : Handle) (b : Bag) (double : Bool) :
    Keeps [.store, .pen, .link, .loop, .notices] s (s.launchFound c h b double) :=
  ((((Keeps.moveBag s h _ _).trans (Keeps.modifyBag _ _ _)).comp (Keeps.leavePen _ _ _) (by decide) (by decide) :
    Keeps [.store, .pen, .link, .loop, .notices] s _).comp (Keeps.setContent _ _ _) (by decide) (by decide) :
      Keeps [.store, .pen, .link, .loop, .notices] s _).comp (Keeps.demandCheck _ _) (by decide) (by decide)

/-- A new bag goes onto a carrier (R68). -/
theorem Keeps.placeFresh (s : State) (c : Nat) (tag : Option Nat) (r : StrayReason) :
    Keeps [.store, .link, .loop, .notices] s (s.placeFresh c tag r) := by
  unfold State.placeFresh
  split
  · next hc => exact (Keeps.createBag hc).comp (Keeps.setContent _ _ _) (by decide) (by decide)
  · exact (Keeps.setContent s _ _).mono (by decide)

/-- A launch (R68 to R70). -/
theorem Keeps.launch (s : State) (c : Nat) (read : ReadResult) :
    Keeps [.store, .pen, .link, .loop, .notices] s (s.launch c read) := by
  unfold State.launch
  split
  · exact Keeps.refl _ s
  · dsimp only
    split
    · split
      · exact Keeps.launchFound ..
      · exact (Keeps.placeFresh ..).mono (by decide)
    · split
      · exact (Keeps.makeMissing s _).comp (Keeps.launchFound _ _ _ _ _) (by decide) (by decide)
      · exact (Keeps.makeMissing s _).comp (Keeps.placeFresh _ _ _ _) (by decide) (by decide)

/-- A carrier found occupied is placed by lookup (R73). -/
theorem Keeps.placeByLookup (s : State) (c : Nat) (read : ReadResult) :
    Keeps [.store, .pen, .link, .loop, .notices] s (s.placeByLookup c read) := by
  unfold State.placeByLookup
  split
  · exact (Keeps.placeFresh ..).mono (by decide)
  · split
    · exact (Keeps.moveBag s _ _ _).comp (Keeps.setContent _ _ _) (by decide) (by decide)
    · exact (Keeps.moveBag s _ _ _).comp (Keeps.setContent _ _ _) (by decide) (by decide)
    · exact ((Keeps.setContent s _ _).comp (Keeps.modifyBag _ _ _) (by decide) (by decide) :
        Keeps [.store, .loop] s _).comp (Keeps.setContent _ _ _) (by decide) (by decide)
    · exact (((Keeps.moveBag s _ _ _).trans (Keeps.modifyBag _ _ _)).comp (Keeps.leavePen _ _ _) (by decide) (by decide) :
        Keeps [.store, .pen, .link, .loop, .notices] s _).comp (Keeps.setContent _ _ _) (by decide) (by decide)
    · exact (Keeps.placeFresh ..).mono (by decide)

/-- An arch identifies an anonymous bag (R75). -/
theorem Keeps.identify (s : State) (c : Nat) (h : Handle) (b : Bag) (tag : Nat) :
    Keeps [.store, .link, .loop] s (s.identify c h b tag).1 := by
  unfold State.identify
  split
  · exact (Keeps.setStore (Store.Keeps.giveTag _ _ _)).comp (Keeps.modifyBag _ _ _) (by decide) (by decide)
  · exact (Keeps.modifyBag s h _).mono (by decide)
  · split
    · exact (((Keeps.moveBag s _ _ _).trans (Keeps.modifyBag _ _ _)).comp (Keeps.setContent _ _ _) (by decide) (by decide) :
        Keeps [.store, .loop] s _).comp (Keeps.retireRecord _ _) (by decide) (by decide)
    · exact Keeps.refl _ s

/-- An arch reads another bag's tag (R76). -/
theorem Keeps.disagree (s : State) (c : Nat) (h : Handle) (b : Bag) (tag : Nat) :
    Keeps [.store, .pen, .link, .loop, .notices] s (s.disagree c h b tag) := by
  unfold State.disagree
  split
  · exact (Keeps.makeMissing s h).comp (Keeps.placeByLookup _ _ _) (by decide) (by decide)
  · exact (Keeps.modifyBag s h _).mono (by decide)

/-- An observation of a LOADED carrier (R74). -/
theorem Keeps.seeLoaded (s : State) (c : Nat) (h : Handle) (o : Bool) (read : ReadResult) :
    Keeps [.store, .pen, .link, .loop, .notices] s (s.seeLoaded c h o read).1 := by
  unfold State.seeLoaded
  repeat' split
  all_goals first
    | exact Keeps.refl _ s
    | exact (Keeps.identify ..).mono (by decide)
    | exact (Keeps.modifyBag s h _).mono (by decide)
    | exact Keeps.disagree ..
    | exact (Keeps.makeMissing s h).comp (Keeps.setContent _ _ _) (by decide) (by decide)

/-- An observation of a carrier (R72 to R76). -/
theorem Keeps.observe (s : State) (c : Nat) (o : Bool) (read : ReadResult) :
    Keeps [.store, .pen, .link, .loop, .notices] s (s.observe c o read).1 := by
  unfold State.observe
  repeat' split
  all_goals first
    | exact Keeps.refl _ s
    | exact Keeps.placeByLookup ..
    | exact (Keeps.setContent s _ _).mono (by decide)
    | exact Keeps.seeLoaded ..

/-- An ARCH is taken (R71). -/
theorem Keeps.archSees (s : State) (c : Nat) (o : Bool) (read : ReadResult) :
    Keeps [.store, .pen, .link, .loop, .notices] s (s.archSees c o read) := by
  unfold State.archSees
  split
  · exact (Keeps.observe ..).comp (Keeps.classify _ _) (by decide) (by decide)
  · exact Keeps.refl _ s

/-- A divert succeeds (R102). -/
theorem Keeps.divertSucceeds (s : State) (i : Nat) (m : Mark) (x : Content) :
    Keeps [.store, .loop, .chutes, .carts, .notices] s (s.divertSucceeds i m x) := by
  unfold State.divertSucceeds
  dsimp only
  have h0 : Keeps [.loop, .chutes] s
      ((s.disarm i m.chute).modifyChute m.chute (fun c => { c with failures := 0 })) :=
    (Keeps.disarm s i _).comp (Keeps.modifyChute _ _ _) (by decide) (by decide)
  refine Keeps.comp (l := [.store, .loop, .chutes]) (Keeps.comp (l := [.store, .loop, .chutes]) ?_
    (Keeps.setContent _ _ _) (by decide) (by decide)) (Keeps.settleCut _ _) (by decide) (by decide)
  split
  · exact h0.comp (Keeps.toLanding _ _ _ _ _) (by decide) (by decide)
  · exact h0.mono (by decide)

/-- A chute's failure count rises (R106). -/
theorem Keeps.countFailure (s : State) (k : Nat) : Keeps [.chutes, .notices] s (s.countFailure k) := by
  unfold State.countFailure
  split
  · exact Keeps.refl _ s
  · split
    · exact Keeps.refl _ s
    · dsimp only
      split
      · exact (Keeps.modifyChute s k _).comp (Keeps.faultChute _ _ _) (by decide) (by decide)
      · exact (Keeps.modifyChute s k _).mono (by decide)

/-- A divert fails (R103). -/
theorem Keeps.divertFails (s : State) (i : Nat) (m : Mark) (x : Content) :
    Keeps [.loop, .chutes, .carts, .notices] s (s.divertFails i m x) :=
  (((Keeps.disarm s i _).comp (Keeps.setContent _ _ _) (by decide) (by decide) : Keeps [.loop, .chutes] s _).comp
    (Keeps.countFailure _ _) (by decide) (by decide) : Keeps [.loop, .chutes, .notices] s _).comp (Keeps.settleCut _ _)
      (by decide) (by decide)

/-- A CHECK is taken (R101). -/
theorem Keeps.check (s : State) (k i : Nat) (o : Bool) :
    Keeps [.store, .loop, .chutes, .carts, .notices] s (s.check k i o) := by
  unfold State.check
  repeat' split
  all_goals first
    | exact Keeps.refl _ s
    | exact (Keeps.divertFails ..).mono (by decide)
    | exact Keeps.divertSucceeds ..

/-! ## Carts at chutes -/

/-- A cart is registered at a chute (R115). -/
theorem Keeps.registerCart (s : State) (k : Nat) (c : Chute) (p : PosName) :
    Keeps [.carts, .nextSerial, .chutes] s (s.registerCart k c p) :=
  ((Keeps.setCarts s _ (by exact fun hw => Table.wf_put hw _ _)).comp (Keeps.setNextSerial _ _)
    (by decide) (by decide) : Keeps [.carts, .nextSerial] s _).comp
    (Keeps.modifyChute _ _ _) (by decide) (by decide)

/-- A CART PRESENT is taken (R115). -/
theorem Keeps.cartPresent (s : State) (k : Nat) (p : PosName) :
    Keeps [.carts, .nextSerial, .chutes, .notices] s (s.cartPresent k p) := by
  unfold State.cartPresent
  split
  · exact Keeps.refl _ s
  · split
    · split
      · exact (Keeps.registerCart ..).mono (by decide)
      · exact (Keeps.modifyChute s k _).comp (Keeps.raise _ _ _) (by decide) (by decide)
    · exact Keeps.refl _ s

/-- A removed cart leaves its chute (R116). -/
theorem Keeps.cartLeaves (s : State) (n : Nat) :
    Keeps [.store, .carts, .routes, .doors, .link, .notices] s (s.cartLeaves n) := by
  unfold State.cartLeaves
  split
  · exact Keeps.refl _ s
  · split
    · exact (Keeps.retireCart s n).mono (by decide)
    · split
      · exact (Keeps.retireCart s n).mono (by decide)
      · exact (Keeps.modifyCart s n _).comp (Keeps.departCart _ _) (by decide) (by decide)
    · split
      · exact (Keeps.retireCart s n).mono (by decide)
      · exact (Keeps.modifyCart s n _).comp (Keeps.departCart _ _) (by decide) (by decide)
    · exact Keeps.departCart ..
    · exact Keeps.departCart ..
    · exact Keeps.refl _ s
    · exact Keeps.refl _ s

/-- A CART REMOVED is taken (R115 to R117). -/
theorem Keeps.cartRemoved (s : State) (k : Nat) (p : PosName) :
    Keeps [.store, .carts, .routes, .doors, .link, .notices, .chutes, .loop] s (s.cartRemoved k p) := by
  unfold State.cartRemoved
  split
  · exact Keeps.refl _ s
  · split
    · exact (Keeps.modifyChute s k _).mono (by decide)
    · unfold State.removeCart
      have h1 : ∀ (f : Chute → Chute) (n : Nat),
          Keeps [.store, .carts, .routes, .doors, .link, .notices, .chutes, .loop] s ((s.modifyChute k f).cartLeaves n) :=
        fun f n => (Keeps.modifyChute s k f).comp (Keeps.cartLeaves _ _) (by decide) (by decide)
      dsimp only
      split
      · exact ((h1 _ _).comp (Keeps.settleClaims _ _ _) (by decide) (by decide) :
          Keeps [.store, .carts, .routes, .doors, .link, .notices, .chutes, .loop] s _).comp (Keeps.swap _ _) (by decide)
            (by decide)
      · exact h1 _ _
    · exact Keeps.refl _ s

/-! ## Doors and the pen -/

/-- A bag goes aboard (R136). -/
theorem Keeps.board (s : State) (d : Nat) (x : Door) (h : Handle) (n : Nat) (k : RouteKey) :
    Keeps [.store, .carts, .routes, .doors, .link, .notices] s (s.board d x h n k) := by
  unfold State.board
  dsimp only
  have h1 : ∀ loc, Keeps [.store, .routes] s
      ((s.modifyRoute k (fun r => { r with loaded := r.loaded + 1 })).moveBag h .aboard loc) := fun _ =>
    (Keeps.modifyRoute s k _).comp (Keeps.moveBag _ _ _ _) (by decide) (by decide)
  split
  · exact ((h1 _).comp (Keeps.modifyCart _ _ _) (by decide) (by decide) : Keeps [.store, .carts, .routes] s _).comp
      (Keeps.settleDoor _ _) (by decide) (by decide)
  · exact ((h1 _).comp (Keeps.dropEntry _ _ _) (by decide) (by decide) : Keeps [.store, .carts, .routes] s _).comp
      ((Keeps.testCart _ _).trans (Keeps.settleDoor _ _)) (by decide) (by decide)

/-- The demand check and boarding test at the door (R136). -/
theorem Keeps.boardingTest (s : State) (d : Nat) (x : Door) (h : Handle) (n : Nat) (k : RouteKey) :
    Keeps [.store, .carts, .routes, .doors, .link, .notices] s (s.boardingTest d x h n k) := by
  unfold State.boardingTest
  dsimp only
  have h1 := Keeps.demandCheck s h
  repeat' split
  all_goals first
    | exact h1.mono (by decide)
    | exact h1.comp (Keeps.addHalt _ _ _) (by decide) (by decide)
    | exact h1.comp (Keeps.board _ _ _ _ _ _) (by decide) (by decide)

/-- A DOORSCAN is taken (R135). -/
theorem Keeps.scan (s : State) (d : Nat) (read : ReadResult) :
    Keeps [.store, .carts, .routes, .doors, .link, .notices] s (s.scan d read) := by
  unfold State.scan State.scanTag
  repeat' split
  all_goals first
    | exact Keeps.refl _ s
    | exact (Keeps.addHalt ..).mono (by decide)
    | exact Keeps.boardingTest ..

/-- The demand check at encode (R148, R158). -/
theorem Keeps.encodeCheck (s : State) (h : Handle) (named : Option StrayReason) :
    Keeps [.store] s (s.encodeCheck h named) := by
  unfold State.encodeCheck
  dsimp only
  split
  · exact (Keeps.demandCheck s h).trans (Keeps.modifyBag ..)
  · exact (Keeps.demandCheck s h).trans (Keeps.reEvaluate ..)

/-- A merge at encode (R159). -/
theorem Keeps.encodeMerge (s : State) (p : Nat) (h : Handle) (a : Bag) (g : Handle) :
    Keeps [.store, .pen, .link, .loop] s (s.encodeMerge p h a g) := by
  unfold State.encodeMerge
  dsimp only
  refine Keeps.comp (l := [.store, .pen, .link, .loop]) ?_ (Keeps.encodeCheck _ _ _) (by decide) (by decide)
  refine Keeps.comp (l := [.store, .pen]) ?_ (Keeps.retireRecord _ _) (by decide) (by decide)
  refine Keeps.comp (l := [.store]) ?_ (Keeps.setPen _ _ (by exact fun hw => Table.wf_put hw _ _)) (by decide) (by decide)
  exact (Keeps.moveBag s g _ _).trans (Keeps.modifyBag ..)

/-- An anonymous bag is judged (R159). -/
theorem Keeps.encodeAnonymous (s : State) (p : Nat) (h : Handle) (a : Bag) (read : ReadResult) :
    Keeps [.store, .pen, .link, .loop] s (s.encodeAnonymous p h a read).1 := by
  unfold State.encodeAnonymous State.giveReason
  split
  · dsimp only
    split
    · exact ((Keeps.setStore (Store.Keeps.giveTag s.store h _)).trans (Keeps.modifyBag _ h _)).mono (by decide)
    · exact (Keeps.modifyBag s h _).mono (by decide)
    · next g b _ =>
      by_cases hb : b.state = .registered ∨ b.state = .missing
      · simp only [hb, if_true]
        exact Keeps.encodeMerge s p h a g
      · simp only [hb, if_false]
        exact (Keeps.modifyBag s h _).mono (by decide)
  · exact Keeps.refl _ s

/-- A tagged bag is judged (R161). -/
theorem Keeps.encodeTagged (s : State) (h : Handle) (own : Nat) (read : ReadResult) :
    Keeps [.store] s (s.encodeTagged h own read).1 := by
  unfold State.encodeTagged
  dsimp only
  repeat' split
  all_goals first
    | exact Keeps.refl _ s
    | exact Keeps.encodeCheck ..
    | exact Keeps.modifyBag ..

/-- A free position is judged (R160). -/
theorem Keeps.encodeFree (s : State) (p : Nat) (read : ReadResult) :
    Keeps [.store, .pen, .link, .loop, .notices] s (s.encodeFree p read).1 := by
  unfold State.encodeFree
  split
  · exact Keeps.refl _ s
  · split
    · exact (Keeps.intake s _ _).comp (Keeps.encodeCheck _ _ _) (by decide) (by decide)
    · unfold State.encodeFresh
      split
      · next hc => exact (Keeps.createBag hc).comp (Keeps.occupy _ _ _) (by decide) (by decide)
      · exact Keeps.refl _ s

/-- What a report at a pen position does (R159 to R161). -/
theorem Keeps.judge (s : State) (p : Nat) (read : ReadResult) :
    Keeps [.store, .pen, .link, .loop, .notices] s (s.judge p read).1 := by
  unfold State.judge
  repeat' split
  all_goals first
    | exact Keeps.refl _ s
    | exact Keeps.encodeFree ..
    | exact (Keeps.encodeAnonymous ..).mono (by decide)
    | exact (Keeps.encodeTagged ..).mono (by decide)

/-- An ENCODE is taken (R162). -/
theorem Keeps.encode (s : State) (p : Nat) (read : ReadResult) :
    Keeps [.store, .pen, .link, .loop, .notices] s (s.encode p read) := by
  unfold State.encode
  split
  · exact (Keeps.judge ..).comp (Keeps.send _ _ _ _) (by decide) (by decide)
  · exact Keeps.refl _ s

end Sys2Proof.Machine
end

