-- ==== Sys2Proof/Laws/Walks.lean ====
section
/-! SUPPORT. What each operation of Machine/Walks.lean and Machine/Tick.lean may do. -/

namespace Sys2Proof.Machine

/-! ## The patrol -/

/-- The sweep ages a bag (R165). -/
theorem Keeps.age (s : State) (h : Handle) : Keeps [.store, .notices] s (s.age h) := by
  unfold State.age
  split
  · exact Keeps.refl _ s
  · split
    · exact (Keeps.modifyBag s h _).comp (Keeps.raise _ _ _) (by decide) (by decide)
    · exact Keeps.refl _ s

/-- PULL_DONE is raised for some slots. -/
theorem Keeps.tellPulls (l : List SlotId) (s : State) : Keeps [.notices] s (s.tellPulls l) := by
  induction l generalizing s with
  | nil => exact Keeps.refl _ s
  | cons b t ih => exact (Keeps.raise s _ _).trans (ih _)

/-- The mode is a function of the cabins alone, so that notices raised before it follows them change nothing of it. -/
theorem Keeps.cabinsNoticesMode (s t : State) (v : Table Cabin)
    (hv : Table.wf s.store.cabins = true → Table.wf v = true)
    (h : Keeps [.notices] (s.setStore { s.store with cabins := v }) t) :
    Keeps [.store, .notices, .sweep] s t.setMode := by
  have hs : Keeps [.sweep] t t.setMode := Keeps.setMode t
  refine ⟨?_, ?_, ?_, ?_, ?_, fun _ => ?_, ?_, ?_⟩
  · refine Changes.comp (l := [.store, .notices]) ?_ hs.changes (by decide) (by decide)
    refine Changes.comp (l := [.store]) ?_ h.changes (by decide) (by decide)
    intro b hb; cases b <;> first | rfl | simp at hb
  · exact fun hl => hs.notice (h.notice hl)
  · exact fun hl => hs.level (h.level hl)
  · exact fun hl => hs.queue (h.queue hl)
  · exact fun hl => hs.bags (h.bags hl)
  · simp only [ModeLaw, State.setMode, State.setSweep]
    exact mode_iff _
  · exact fun hl => hs.subjects (h.subjects hl)
  · exact hs.shape ∘ h.shape ∘ ShapeLaw.imp rfl rfl hv id id id id id id id

/-- The pull completion test (R144). -/
theorem Keeps.testPulls (s : State) (p : WalkerPos) : Keeps [.store, .notices, .sweep] s (s.testPulls p) :=
  Keeps.cabinsNoticesMode s _ _ (fun hw => Table.wf_mapValues hw _) (Keeps.tellPulls _ _)

/-- The visit of a live bag (R168). -/
theorem Keeps.visitBag (s : State) (i : Nat) :
    Keeps [.store, .carts, .routes, .doors, .link, .notices] s (s.visitBag i) := by
  unfold State.visitBag
  split
  · exact (Keeps.reconcile s _).comp (Keeps.age _ _) (by decide) (by decide)
  · exact Keeps.refl _ s

/-- A visit of the next index (R168). -/
theorem Keeps.visit (s : State) : Keeps [.store, .carts, .routes, .doors, .link, .notices, .sweep] s s.visit := by
  unfold State.visit
  dsimp only
  refine Keeps.comp (l := [.store, .carts, .routes, .doors, .link, .notices, .sweep]) ?_ (Keeps.testPulls _ _)
    (by decide) (by decide)
  exact (Keeps.visitBag s _).comp (Keeps.setSweep (by rfl)) (by decide) (by decide)

/-! ## Walks -/

/-- A walk's visit of a bag record (R169, R171). -/
theorem Keeps.walkBag (s : State) (w : WalkKind) (i : Nat) :
    Keeps [.store, .loop, .chutes, .carts, .notices, .pen, .link] s (s.walkBag w i) := by
  unfold State.walkBag
  repeat' split
  all_goals first | exact Keeps.refl _ s | exact Keeps.retireBag ..

/-- A cabin's record returns to the pool, and the mode follows. -/
theorem Keeps.eraseCabin (s : State) (key : Nat) (forward : Option Nat) :
    Keeps [.store, .sweep] s (s.eraseCabin key forward).setMode := by
  cases forward with
  | none => exact Keeps.cabinsMode s _ fun hw => Table.wf_erase hw _
  | some n =>
    have h := (Store.Keeps.modifyCabin s.store { slot := slotOfCabinCode key, number := n }
      (fun c => { c with forwardedIn := c.forwardedIn - 1 }) fun _ => rfl).cabins
    exact Keeps.cabinsMode s _ fun hw => Table.wf_erase (h hw) _

/-- A walk's visit of a cabin record (R169, R171). -/
theorem Keeps.walkCabin (s : State) (w : WalkKind) (place : Nat) : Keeps [.store, .sweep] s (s.walkCabin w place) := by
  unfold State.walkCabin
  split
  · exact Keeps.refl _ s
  · split
    · exact Keeps.eraseCabin ..
    · exact Keeps.refl _ s

/-- A walk's visit of a record. -/
theorem Keeps.walkRecord (s : State) (w : WalkKind) (n : Nat) :
    Keeps [.store, .loop, .chutes, .carts, .notices, .pen, .link, .sweep] s (s.walkRecord w n) := by
  unfold State.walkRecord
  split
  · exact (Keeps.walkBag ..).mono (by decide)
  · exact (Keeps.walkCabin ..).mono (by decide)

/-- The walk running is set. -/
theorem Keeps.setWalk (s : State) (w : Option Walk) : Keeps [.sweep] s (s.setWalk w) := Keeps.setSweep rfl

/-- A cart standing at a chute of a closed slot (R170). -/
theorem Keeps.leaveCartOf (s : State) (k : Nat) (p : PosName) (n : Nat) :
    Keeps [.store, .carts, .chutes] s (s.leaveCartOf k p n) := by
  unfold State.leaveCartOf
  split
  · exact Keeps.refl _ s
  · split
    · exact (Keeps.retireCart s n).comp (Keeps.modifyChute _ _ _) (by decide) (by decide)
    · exact (Keeps.modifyCart s n _).mono (by decide)

/-- What stands at a position of a chute of a closed slot. -/
theorem Keeps.leavePosition (s : State) (k : Nat) (p : PosName) :
    Keeps [.store, .carts, .chutes] s (s.leavePosition k p) := by
  unfold State.leavePosition
  split
  · exact Keeps.refl _ s
  · exact Keeps.leaveCartOf ..

/-- A chute of a closed slot is released (R170). -/
theorem Keeps.releaseChute (s : State) (k : Nat) :
    Keeps [.store, .carts, .chutes, .loop, .notices] s (s.releaseChute k) := by
  unfold State.releaseChute
  split
  · exact Keeps.refl _ s
  · next c _ =>
    dsimp only
    refine Keeps.comp (l := [.store, .carts, .chutes, .loop, .notices]) ?_ (Keeps.modifyChute _ k _) (by decide)
      (by decide)
    refine Keeps.comp (l := [.store, .carts, .chutes, .loop, .notices]) ?_
      ((Keeps.leavePosition _ k .x).trans (Keeps.leavePosition _ k .y)) (by decide) (by decide)
    split
    · exact Keeps.refl _ s
    · exact (Keeps.loseClaims s k).comp (Keeps.settleCut _ k) (by decide) (by decide)

/-- Some chutes are released. -/
theorem Keeps.releaseChutes (l : List Nat) (s : State) :
    Keeps [.store, .carts, .chutes, .loop, .notices] s (s.releaseChutes l) := by
  induction l generalizing s with
  | nil => exact Keeps.refl _ s
  | cons k t ih => exact (Keeps.releaseChute s k).trans (ih _)

/-- Some carts retire. -/
theorem Keeps.retireCarts (l : List Nat) (s : State) : Keeps [.store, .carts] s (s.retireCarts l) := by
  induction l generalizing s with
  | nil => exact Keeps.refl _ s
  | cons n t ih => exact (Keeps.retireCart s n).trans (ih _)

/-- Some routes become UNSET. -/
theorem Keeps.unsetRoutes (l : List RouteKey) (s : State) : Keeps [.routes] s (s.unsetRoutes l) := by
  induction l generalizing s with
  | nil => exact Keeps.refl _ s
  | cons k t ih => exact (Keeps.modifyRoute s k _).trans (ih _)

/-- The notices of a closed slot go (R170). -/
theorem Keeps.dropSlotNotices (s : State) (b : SlotId) : Keeps [.notices] s (s.dropSlotNotices b) :=
  (((Keeps.dropSubjects s _ _).trans (Keeps.dropSubjects ..)).trans (Keeps.dropSubjects ..)).trans (Keeps.dropSubjects ..)

/-- A slot's record is replaced. -/
theorem Keeps.putSlot (s : State) (b : SlotId) (v : Sailing) : Keeps [.store] s (s.putSlot b v) :=
  Keeps.setStore (Store.Keeps.putSlot ..)

/-- The completion of a close walk (R170). -/
theorem Keeps.completeClose (s : State) (b : SlotId) :
    Keeps [.store, .carts, .chutes, .loop, .notices, .routes, .doors, .sweep] s (s.completeClose b) := by
  unfold State.completeClose
  dsimp only
  refine Keeps.comp (l := [.store, .carts, .chutes, .loop, .notices, .routes, .doors, .sweep]) ?_ (Keeps.raise _ _ _)
    (by decide) (by decide)
  refine Keeps.comp (l := [.store, .carts, .chutes, .loop, .notices, .routes, .doors]) ?_ (Keeps.setWalk _ _) (by decide)
    (by decide)
  refine Keeps.comp (l := [.store, .carts, .chutes, .loop, .notices, .routes, .doors]) ?_ (Keeps.putSlot _ _ _)
    (by decide) (by decide)
  refine Keeps.comp (l := [.store, .carts, .chutes, .loop, .notices, .routes, .doors]) ?_ (Keeps.dropSlotNotices _ _)
    (by decide) (by decide)
  refine Keeps.comp (l := [.store, .carts, .chutes, .loop, .notices, .routes]) ?_
    (Keeps.setDoors _ _ (by exact fun hw => Table.wf_mapValues hw _))
    (by decide)
    (by decide)
  refine Keeps.comp (l := [.store, .carts, .chutes, .loop, .notices]) ?_ (Keeps.unsetRoutes _ _) (by decide) (by decide)
  exact (Keeps.releaseChutes _ s).comp (Keeps.retireCarts _ _) (by decide) (by decide)

/-- Every source's set is emptied (R171, R179). -/
theorem Keeps.emptyNotices (s : State) : Keeps [.notices] s (s.setNotices s.notices.empty) :=
  Keeps.setNotices (by rfl) fun hs => ⟨(List.length_map ..).trans hs.1, fun n hn => by
    obtain ⟨m, _, rfl⟩ := List.mem_map.mp hn
    exact List.Pairwise.nil⟩

/-- The completion of the clear walk (R171). -/
theorem Keeps.completeClear (s : State) :
    Keeps [.store, .carts, .chutes, .routes, .doors, .notices, .sweep, .link] s s.completeClear := by
  unfold State.completeClear
  dsimp only
  refine Keeps.comp (l := [.store, .carts, .chutes, .routes, .doors, .notices, .sweep, .link]) ?_ (Keeps.raise _ _ _)
    (by decide) (by decide)
  refine Keeps.comp (l := [.store, .carts, .chutes, .routes, .doors, .notices, .sweep]) ?_ (Keeps.setBelts _) (by decide)
    (by decide)
  refine Keeps.comp (l := [.store, .carts, .chutes, .routes, .doors, .notices]) ?_ (Keeps.setWalk _ _) (by decide)
    (by decide)
  refine Keeps.comp (l := [.store, .carts, .chutes, .routes, .doors]) ?_ (Keeps.emptyNotices _) (by decide)
    (by decide)
  refine Keeps.comp (l := [.store, .carts, .chutes, .routes, .doors]) ?_ (Keeps.setStore (.plain (by rfl) (by rfl) id))
    (by decide) (by decide)
  refine Keeps.comp (l := [.store, .carts, .chutes, .routes]) ?_
    (Keeps.setDoors _ _ (by exact fun hw => Table.wf_mapValues hw _))
    (by decide) (by decide)
  refine Keeps.comp (l := [.store, .carts, .chutes]) ?_ (Keeps.setRoutes _ _ (by exact List.length_map ..))
    (by decide) (by decide)
  exact (Keeps.retireCarts _ s).comp (Keeps.setChutes _ _ (by exact fun hw => Table.wf_mapValues hw _))
    (by decide) (by decide)

/-- A step of a walk (R169 to R171). -/
theorem Keeps.walkStep (s : State) (w : Walk) :
    Keeps [.store, .loop, .chutes, .carts, .notices, .pen, .link, .sweep, .routes, .doors] s (s.walkStep w) := by
  unfold State.walkStep
  dsimp only
  refine Keeps.comp (l := [.store, .loop, .chutes, .carts, .notices, .pen, .link, .sweep])
    (m := [.store, .loop, .chutes, .carts, .notices, .pen, .link, .sweep, .routes, .doors])
    (Keeps.walkRecord s w.kind w.next) ?_
    (by decide) (by decide)
  split
  · exact (Keeps.setWalk _ _).mono (by decide)
  · unfold State.completeWalk
    split
    · exact (Keeps.completeClose _ _).mono (by decide)
    · exact (Keeps.completeClear _).mono (by decide)

/-! ## Time -/

/-- Time passes (log 1). -/
theorem Keeps.advanceTime (s : State) : Keeps [.hallSecond, .subTick] s s.advanceTime := by
  unfold State.advanceTime
  split
  · exact (Keeps.setSubTick s _).mono (by decide)
  · exact (Keeps.setSubTick s _).comp (Keeps.setHallSecond _ _) (by decide) (by decide)

/-- The sweep's part of a tick (log 1). -/
theorem Keeps.sweepTick (s : State) : Keeps [.patrolPhase] s s.sweepTick.1 := by
  unfold State.sweepTick
  repeat' split
  · exact Keeps.refl _ s
  · exact Keeps.refl _ s
  · exact Keeps.setPatrolPhase ..
  · exact Keeps.setPatrolPhase ..
  · exact Keeps.refl _ s

/-- One tick (log 1). -/
theorem Keeps.tick (s : State) : Keeps [.hallSecond, .subTick, .patrolPhase, .pending] s s.tick := by
  have h1 : ∀ (t : State) (v : List Instr), Keeps [.hallSecond, .subTick, .patrolPhase] s t →
      Keeps [.hallSecond, .subTick, .patrolPhase, .pending] s (t.setPending v) := fun t v h =>
    h.comp (Keeps.setPending t v) (by decide) (by decide)
  unfold State.tick
  exact h1 _ _ ((Keeps.advanceTime s).comp (Keeps.sweepTick s.advanceTime) (by decide) (by decide))

end Sys2Proof.Machine
end

