-- ==== Sys2Proof/Laws/Requests.lean ====
section
/-! SUPPORT. What a request may do, said once for the tests and the answer, and what the effect of each request may do. -/

namespace Sys2Proof.Machine

/-! ## Tests and answers -/

/-- A refused request changes nothing; an accepted one does what its effect does. -/
theorem Keeps.guarded {l : List Block} {tests : List (Bool × Result)} {s : State} {act : State × Answer}
    (h : Keeps l s act.1) : Keeps l s (guarded tests s act).1 := by
  unfold Machine.guarded
  split
  · exact Keeps.refl _ s
  · exact h

/-- A request taken does what its rule does, beside the port (R172, R173). -/
theorem Keeps.takeRequest {l n : List Block} (s : State) (code : Byte) (h : Head) (len : Nat) (act : State → State × Answer)
    (ha : ∀ t, Keeps l t (act t).1) (hl : l ⊆ n) (hp : [.port, .discarded, .spiOut] ⊆ n) :
    Keeps n s (s.takeRequest code h len act) := by
  have h0 : Keeps n s ((s.setSpiOut [s.status]).setDiscarded false) :=
    ((Keeps.setSpiOut s _).comp (Keeps.setDiscarded _ _) (by decide) (by decide) :
      Keeps [.port, .discarded, .spiOut] s _).mono hp
  unfold State.takeRequest
  split
  · exact ((Keeps.setSpiOut s _).comp (Keeps.setDiscarded _ _) (by decide) (by decide) :
      Keeps [.port, .discarded, .spiOut] s _).mono hp
  · dsimp only
    refine Keeps.trans ?_ (((Keeps.setPort _ _).mono (by decide) : Keeps [.port, .discarded, .spiOut] _ _).mono hp)
    split
    · exact h0.trans ((ha _).mono hl)
    · exact h0

/-- A request that names a slot (R3). -/
theorem Keeps.onSlot {l : List Block} {h : Head} {fields : Bool} {s : State} {act : SlotId → State × Answer}
    (ha : ∀ b, Keeps l s (act b).1) : Keeps l s (onSlot h fields s act).1 := by
  unfold Machine.onSlot
  repeat' split
  all_goals first | exact Keeps.refl _ s | exact ha _

/-- A request on a sailing (R3). -/
theorem Keeps.onSailing {l : List Block} {h : Head} {fields : Bool} {s : State} {own : SlotId → List (Bool × Result)}
    {act : SlotId → State × Answer} (ha : ∀ b, Keeps l s (act b).1) : Keeps l s (onSailing h fields s own act).1 :=
  Keeps.onSlot fun b => Keeps.guarded (ha b)

/-- A request on a bag (R35). -/
theorem Keeps.onBag {l : List Block} {h : Head} {fields : Bool} {s t : State} {own : List (Bool × Result)}
    (ha : Keeps l s t) : Keeps l s (onBag h fields s own t).1 := Keeps.guarded ha

/-- A request that retires a bag (R30, R35). -/
theorem Keeps.retiring (h : Head) (fields : Bool) (s : State) (own : List (Bool × Result)) :
    Keeps [.store, .loop, .chutes, .carts, .notices, .pen, .link] s (retiring h fields s own).1 :=
  Keeps.guarded (Keeps.retireBag ..)

/-- A request on a chute. -/
theorem Keeps.onChute {l : List Block} {h : Head} {s : State} {own : Chute → List (Bool × Result)}
    {act : Chute → State × Answer} (ha : ∀ c, Keeps l s (act c).1) : Keeps l s (onChute h s own act).1 := by
  unfold Machine.onChute
  split
  · exact Keeps.refl _ s
  · exact Keeps.guarded (ha _)

/-- A request on a route (R128). -/
theorem Keeps.onRoute {l : List Block} {h : Head} {fields : Bool} {s : State} {own : RouteKey → List (Bool × Result)}
    {act : RouteKey → State × Answer} (ha : ∀ k, Keeps l s (act k).1) : Keeps l s (onRoute h fields s own act).1 :=
  Keeps.onSailing fun _ => ha _

/-- A request on a door. -/
theorem Keeps.onDoor {l : List Block} {h : Head} {s : State} {own : List (Bool × Result)} {act : Door → State × Answer}
    (ha : ∀ x, Keeps l s (act x).1) : Keeps l s (onDoor h s own act).1 := by
  unfold Machine.onDoor
  split
  · exact Keeps.refl _ s
  · exact Keeps.guarded (ha _)

/-! ## Setup -/

/-- P changes (R154). -/
theorem Keeps.setPenSize (s : State) (n : Nat) : Keeps [.pen, .link, .loop] s (s.setPenSize n) := by
  unfold State.setPenSize
  split
  · exact Keeps.refl _ s
  · dsimp only
    split
    · exact (Keeps.setPen s _ (by exact id)).comp (Keeps.putCauseAll _ _ _) (by decide) (by decide)
    · exact (Keeps.setPen s _ (by exact id)).mono (by decide)

/-- CONFIG LOOP (R61). -/
theorem Keeps.configLoop (s : State) (n p : Nat) : Keeps [.pen, .link, .loop] s (s.configLoop n p) :=
  (Keeps.setLoopPlain (by rfl) (by rfl)).comp (Keeps.setPenSize _ _) (by decide) (by decide)

/-- Configuring an object keeps the canonical form. -/
theorem wf_configure {α : Type} {t : Table α} (h : Table.wf t = true) (i node : Nat) (v : α) :
    Table.wf (configure t i node v) = true := by
  unfold configure
  split
  · exact Table.wf_erase h i
  · exact Table.wf_put h i v

/-- Node 0 for an object that is not configured leaves the table as it stands (log 58). -/
theorem configure_absent {α : Type} {t : Table α} {i : Nat} (h : Table.get? t i = none) (v : α) : configure t i 0 v = t := by
  simpa [configure] using Table.erase_absent h

/-- CONFIG INDUCTION (R77). -/
theorem Keeps.configInduction (s : State) (i offset node : Nat) :
    Keeps [.loop] s (s.configInduction i offset node) := by
  refine Keeps.setLoop (fun hl e he => ?_) (fun hw => wf_configure hw _ _ _) id
  dsimp only [configure] at he
  split at he
  · exact hl e (List.mem_of_mem_filter he)
  · rcases Table.mem_put he with rfl | he
    · rfl
    · exact hl e he

/-- CONFIG ARCH (R60). -/
theorem Keeps.configArch (s : State) (i offset node : Nat) : Keeps [.loop] s (s.configArch i offset node) :=
  Keeps.setLoop id id fun hw => wf_configure hw _ _ _

/-- Every bag's record changes. -/
theorem Store.Keeps.mapBags (t : Store) (f : Bag → Bag) : Store.Keeps t { t with bags := t.bags.mapValues f } := by
  refine ⟨fun hb => ⟨Table.wf_mapValues hb.1 _, fun e he => ?_⟩, rfl, id, id⟩
  obtain ⟨x, hx, rfl⟩ := List.mem_map.1 he
  exact hb.2 x hx

/-- CONFIG LIMITS (R176). -/
theorem Keeps.configLimits (s : State) (l : Limits) :
    Keeps [.limits, .loop, .chutes, .store, .pen, .link, .notices] s (s.configLimits l) := by
  have h1 : ∀ t, Keeps [.limits, .loop, .chutes, .store] s t →
      Keeps [.limits, .loop, .chutes, .store, .pen, .link, .notices] s
        (if l.penLow = s.limits.penLow then t else t.testPenHold) := by
    intro t h
    split
    · exact h.mono (by decide)
    · exact h.comp (Keeps.testPenHold t) (by decide) (by decide)
  unfold State.configLimits
  refine h1 _ (Keeps.comp (l := [.limits, .loop, .chutes]) ?_ (Keeps.setStore (Store.Keeps.mapBags _ _)) (by decide)
    (by decide))
  refine Keeps.comp (l := [.limits, .loop]) ?_ (Keeps.setChutes _ _ (by exact fun hw => Table.wf_mapValues hw _))
    (by decide) (by decide)
  exact (Keeps.setLimits s l).comp (Keeps.setLoopPlain (by rfl) (by rfl)) (by decide) (by decide)

/-- The part enters RUN (R177). -/
theorem Keeps.enterRun (s : State) : Keeps [.opState, .loop, .link, .doors] s s.enterRun :=
  (((Keeps.setOpState s _).comp (Keeps.setLoopPlain (by rfl) (by rfl)) (by decide) (by decide) :
    Keeps [.opState, .loop] s ((s.setOpState .run).setLoop (s.setOpState .run).loop.anchor)).comp
      (Keeps.putCauseAll _ _ _) (by decide) (by decide) : Keeps [.opState, .loop, .link] s _).comp (Keeps.setBelts _)
        (by decide) (by decide)

/-- Every point takes STATE, TRACKING and NODE. -/
theorem Keeps.holdAll (s : State) : Keeps [.link, .loop] s s.holdAll :=
  ((Keeps.putCauseAll s _ _).trans (Keeps.putCauseAll ..)).trans (Keeps.putCauseAll ..)

/-- HALL CLEAR (R171). -/
theorem Keeps.hallClear (s : State) :
    Keeps [.opState, .store, .loop, .link, .chutes, .routes, .doors, .sweep, .carts, .notices] s s.hallClear := by
  unfold State.hallClear
  dsimp only
  refine Keeps.comp (l := [.opState, .store, .loop, .link, .chutes, .routes, .doors, .sweep, .carts, .notices]) ?_
    (Keeps.setBelts _) (by decide) (by decide)
  refine Keeps.comp (l := [.opState, .store, .loop, .link, .chutes, .routes, .doors, .sweep]) ?_ (Keeps.settleCuts _ _)
    (by decide) (by decide)
  refine Keeps.comp (l := [.opState, .store, .loop, .link, .chutes, .routes, .doors, .sweep]) ?_ (Keeps.holdAll _)
    (by decide) (by decide)
  refine Keeps.comp (l := [.opState, .store, .loop, .link, .chutes, .routes, .doors]) ?_ (Keeps.setSweep (by rfl))
    (by decide) (by decide)
  refine Keeps.comp (l := [.opState, .store, .loop, .link, .chutes, .routes]) ?_
    (Keeps.setDoors _ _ (by exact fun hw => Table.wf_mapValues hw _))
    (by decide)
    (by decide)
  refine Keeps.comp (l := [.opState, .store, .loop, .link, .chutes]) ?_
    (Keeps.setRoutes _ _ (by exact List.length_map ..))
    (by decide) (by decide)
  refine Keeps.comp (l := [.opState, .store, .loop, .link]) ?_
    (Keeps.setChutes _ _ (by exact fun hw => Table.wf_mapValues hw _))
    (by decide) (by decide)
  refine Keeps.comp (l := [.opState, .store, .loop]) ?_ (Keeps.setLink (by exact id) (by exact List.length_map ..))
    (by decide) (by decide)
  refine Keeps.comp (l := [.opState, .store]) ?_ (Keeps.setLoopPlain (by rfl) (by rfl)) (by decide) (by decide)
  exact (Keeps.setOpState s _).comp (Keeps.setStore (.plain (by rfl) (by rfl) id)) (by decide) (by decide)

/-- The part enters REST (R178). -/
theorem Keeps.enterRest (s : State) : Keeps [.opState, .loop, .link, .doors] s s.enterRest :=
  (((Keeps.setOpState s _).comp (Keeps.setLoopPlain (by rfl) (by rfl)) (by decide) (by decide) :
    Keeps [.opState, .loop] s ((s.setOpState .rest).setLoop (s.setOpState .rest).loop.anchor)).comp
      ((Keeps.putCauseAll _ .state true).trans (Keeps.putCauseAll _ .tracking true)) (by decide) (by decide) :
        Keeps [.opState, .loop, .link] s _).comp (Keeps.setBelts _) (by decide) (by decide)

/-! ## Sailings and cabins -/

/-- A close begins (R8). -/
theorem Keeps.startClose (s : State) (b : SlotId) : Keeps [.store, .sweep] s (s.startClose b) :=
  (Keeps.putSlot s b _).comp (Keeps.setSweep (by rfl)) (by decide) (by decide)

/-- A pull state that is not PULLING is not. -/
theorem Cabin.pulling_noPull (c : Cabin) (h : c.pull = .noPull) : c.pulling = false := by
  simp [Cabin.pulling, h]

/-- Whether a put changes whether some record meets a condition. -/
theorem Table.any_put_new {α : Type} {t : Table α} {i : Nat} {v : α} {p : α → Bool} (hn : Table.get? t i = none)
    (hv : p v = false) : (Table.put t i v).any (fun e => p e.2) = t.any (fun e => p e.2) := by
  induction t with
  | nil => simp [Table.put, hv]
  | cons a t ih =>
    obtain ⟨k, w⟩ := a
    unfold Table.get? at hn
    split at hn
    · cases hn
    · next hne =>
      unfold Table.put
      split
      · simp [hv]
      · simp only [List.any_cons, ih hn]

/-- A cabin is created (R14). -/
theorem Keeps.createCabin (s : State) (k : CabinKey) (route allowance : Nat) (g : List (Byte × BitVec 32))
    (hn : s.store.cabin? k = none) : Keeps [.store, .freeCount] s (s.createCabin k route allowance g) := by
  have h1 : Store.Keeps s.store
      { s.store with cabins := s.store.cabins.put k.code (s.newCabin route allowance g) } :=
    ⟨id, Table.any_put_new (p := Cabin.pulling) hn rfl, fun hw => Table.wf_put hw _ _, id⟩
  exact (Keeps.setStore h1).comp (Keeps.setFreeCount _ _) (by decide) (by decide)

/-- CABIN PUT (R14). -/
theorem Keeps.putCabin (s : State) (k : CabinKey) (route allowance : Nat) (g : List (Byte × BitVec 32)) :
    Keeps [.store, .freeCount, .sweep] s (s.putCabin k route allowance g).1 := by
  unfold State.putCabin
  split
  · next hn => exact Keeps.guarded ((Keeps.createCabin s k _ _ _ hn).mono (by decide))
  · exact Keeps.guarded ((Keeps.changeCabin s k _).mono (by decide))

/-- A cabin retires (R16). -/
theorem Keeps.dropCabin (s : State) (k : CabinKey) : Keeps [.store, .sweep] s (s.dropCabin k) :=
  Keeps.cabinsMode s _ fun hw => Table.wf_erase hw _

/-- A forwarded-in count rises. -/
theorem Keeps.gainForward (s : State) (k : CabinKey) : Keeps [.store] s (s.gainForward k) :=
  Keeps.setStore (Store.Keeps.modifyCabin _ _ _ fun _ => rfl)

/-- A forwarded-in count falls. -/
theorem Keeps.loseForward (s : State) (k : CabinKey) : Keeps [.store] s (s.loseForward k) :=
  Keeps.setStore (Store.Keeps.modifyCabin _ _ _ fun _ => rfl)

/-- A forward target changes (R18). -/
theorem Keeps.forwardCabin (s : State) (k : CabinKey) (target : Option Nat) :
    Keeps [.store, .sweep] s (s.forwardCabin k target) := by
  unfold State.forwardCabin
  split
  · exact Keeps.refl _ s
  · next c _ =>
    split
    · exact Keeps.refl _ s
    · dsimp only
      have h1 : Keeps [.store] s (match c.forward with
          | some n => s.loseForward ⟨k.slot, n⟩
          | none => s) := by
        split
        · exact Keeps.loseForward ..
        · exact Keeps.refl _ s
      have h2 := h1.comp (Keeps.changeCabin _ k (fun c => { c with forward := target })) (n := [.store, .sweep])
        (by decide) (by decide)
      split
      · exact h2.comp (Keeps.gainForward _ _) (by decide) (by decide)
      · exact h2

/-! ## Bags -/

/-- BAG REGISTER (R36). -/
theorem Keeps.register (s : State) (k : CabinKey) (tag : Nat) :
    Keeps [.store, .link, .loop, .notices] s (s.register k tag).1 := by
  unfold State.register
  split
  · next hc => exact (Keeps.createBag hc).comp (Keeps.demandCheck _ _) (by decide) (by decide)
  · exact Keeps.refl _ s

/-- BAG REASSIGN (R38). -/
theorem Keeps.reassign (s : State) (h : Handle) (k : CabinKey) :
    Keeps [.store, .carts, .routes, .doors, .link, .notices] s (s.reassign h k) := by
  unfold State.reassign
  split
  · exact Keeps.refl _ s
  · exact ((Keeps.setStore (Store.Keeps.assign s.store h k)).trans (Keeps.demandCheck _ h)).comp (Keeps.reconcile _ _)
      (by decide) (by decide)

/-- BAG PULL (R150). -/
theorem Keeps.pullBag (s : State) (h : Handle) :
    Keeps [.store, .carts, .routes, .doors, .link, .notices] s (s.pullBag h) := by
  unfold State.pullBag
  split
  · exact Keeps.refl _ s
  · split
    · exact Keeps.refl _ s
    · dsimp only
      split
      · exact (Keeps.modifyBag s h _).comp (Keeps.offloadBag _ _) (by decide) (by decide)
      · exact (Keeps.modifyBag s h _).mono (by decide)

/-- BAG UNLOAD (R139). -/
theorem Keeps.unload (s : State) (h : Handle) (p : Nat) :
    Keeps [.store, .carts, .routes, .doors, .link, .notices, .pen, .loop] s (s.unload h p) := by
  unfold State.unload
  split
  · exact Keeps.refl _ s
  · refine Keeps.comp (l := [.store, .carts, .pen, .link, .loop, .notices]) ?_ (Keeps.testCart _ _)
      (by decide) (by decide)
    refine Keeps.comp (l := [.store, .carts, .pen, .link, .loop, .notices]) ?_ (Keeps.modifyBag _ h _) (by decide)
      (by decide)
    exact (Keeps.dropEntry s _ h).comp (Keeps.intake _ h p) (by decide) (by decide)

/-! ## Loop, chutes, carts -/

/-- A carrier's part of TRACKING RESET (R92). -/
theorem Keeps.resetCarrier (s : State) (c : Nat) :
    Keeps [.store, .loop, .chutes, .carts, .notices] s (s.resetCarrier c) := by
  unfold State.resetCarrier
  split
  · exact Keeps.refl _ s
  · next e _ =>
    dsimp only
    refine Keeps.comp (l := [.store, .loop, .chutes, .carts, .notices]) ?_ (Keeps.setContent _ c _)
      (by decide) (by decide)
    have h1 : Keeps [.loop, .chutes, .carts, .notices] s (match e.armed with
        | some m => (s.disarm c m.chute).settleCut m.chute
        | none => s) := by
      split
      · exact (Keeps.disarm s c _).comp (Keeps.settleCut _ _) (by decide) (by decide)
      · exact Keeps.refl _ s
    split
    · exact h1.comp (Keeps.makeMissing _ _) (by decide) (by decide)
    · exact h1.mono (by decide)

/-- Some carriers' parts of TRACKING RESET. -/
theorem Keeps.resetCarriers (l : List Nat) (s : State) :
    Keeps [.store, .loop, .chutes, .carts, .notices] s (s.resetCarriers l) := by
  induction l generalizing s with
  | nil => exact Keeps.refl _ s
  | cons c t ih => exact (Keeps.resetCarrier s c).trans (ih _)

/-- TRACKING RESET (R92). -/
theorem Keeps.trackingReset (s : State) :
    Keeps [.store, .loop, .chutes, .carts, .notices, .link] s s.trackingReset := by
  unfold State.trackingReset
  dsimp only
  have h1 : Keeps [.store, .loop, .chutes, .carts, .notices] s
      ((s.resetCarriers (List.range s.carrierCount)).setLoop
        { (s.resetCarriers (List.range s.carrierCount)).loop.anchor with lossCount := 0 }) :=
    (Keeps.resetCarriers _ s).comp (Keeps.setLoopPlain (by rfl) (by rfl)) (by decide) (by decide)
  split
  · exact h1.comp (Keeps.putCauseAll _ _ _) (by decide) (by decide)
  · exact h1.mono (by decide)

/-- Some carts take a route. -/
theorem Keeps.giveRoute (k : RouteKey) (l : List Nat) (s : State) : Keeps [.carts] s (s.giveRoute k l) := by
  induction l generalizing s with
  | nil => exact Keeps.refl _ s
  | cons n t ih => exact (Keeps.modifyCart s n _).trans (ih _)

/-- CHUTE ASSIGN (R110). -/
theorem Keeps.assignChute (s : State) (n : Nat) (c : Chute) (k : RouteKey) :
    Keeps [.chutes, .routes, .carts] s (s.assignChute n c k) := by
  unfold State.assignChute
  split
  · exact Keeps.refl _ s
  · exact ((Keeps.modifyChute s n _).comp (Keeps.modifyRoute _ _ _) (by decide) (by decide) :
      Keeps [.chutes, .routes] s _).comp (Keeps.giveRoute _ _ _) (by decide) (by decide)

/-- CHUTE OPEN (R111). -/
theorem Keeps.openChute (s : State) (n : Nat) (c : Chute) : Keeps [.chutes, .notices] s (s.openChute n c) := by
  have h1 : ∀ f g, Keeps [.chutes] s ((s.modifyChute n f).modifyChute n g) := fun f g =>
    (Keeps.modifyChute s n f).trans (Keeps.modifyChute ..)
  unfold State.openChute
  dsimp only
  repeat' split
  · exact (h1 _ _).comp (Keeps.raise _ _ _) (by decide) (by decide)
  · exact (h1 _ _).mono (by decide)
  · exact (Keeps.modifyChute s n _).mono (by decide)

/-- CART CUT (R119). -/
theorem Keeps.cutCart (s : State) (k n : Nat) (notify : Bool) :
    Keeps [.carts, .chutes, .notices] s (s.cutCart k n notify) :=
  (Keeps.modifyCart s n _).comp (Keeps.settleCut _ _) (by decide) (by decide)

/-- CART CLEAR UNIDENTIFIED (R124). -/
theorem Keeps.clearUnidentified (s : State) (n : Nat) :
    Keeps [.store, .carts, .routes, .doors, .link, .notices] s (s.clearUnidentified n) := by
  unfold State.clearUnidentified
  split
  · exact Keeps.refl _ s
  · split
    · exact Keeps.refl _ s
    · dsimp only
      split
      · exact ((Keeps.modifyCart s n _).comp (Keeps.modifyDoor _ _ _) (by decide) (by decide) :
          Keeps [.carts, .doors] s _).comp (Keeps.settleDoor _ _) (by decide) (by decide)
      · exact (Keeps.modifyCart s n _).comp (Keeps.testCart _ _) (by decide) (by decide)

/-- JAM CLEAR with LANDED (R123). -/
theorem Keeps.jamLanded (s : State) (h : Handle) (k : Nat) :
    Keeps [.store, .pen, .link, .loop, .notices, .carts, .chutes] s (s.jamLanded h k) := by
  unfold State.jamLanded
  split
  · exact Keeps.refl _ s
  · refine Keeps.comp (l := [.store, .pen, .link, .loop, .notices, .carts, .chutes]) ?_
      ((Keeps.settleFull _ k).trans (Keeps.settleCut _ k)) (by decide) (by decide)
    exact (Keeps.modifyChute s k _).comp (Keeps.landBag _ _ _ _) (by decide) (by decide)

/-- JAM CLEAR with REMOVED (R123). -/
theorem Keeps.jamRemoved (s : State) (h : Handle) (k p : Nat) :
    Keeps [.store, .pen, .link, .loop, .notices, .carts, .chutes] s (s.jamRemoved h k p) := by
  unfold State.jamRemoved
  split
  · exact Keeps.refl _ s
  · refine Keeps.comp (l := [.store, .pen, .link, .loop, .notices, .chutes]) ?_ (Keeps.settleCut _ k)
      (by decide) (by decide)
    refine Keeps.comp (l := [.store, .pen, .link, .loop, .notices, .chutes]) ?_ (Keeps.modifyBag _ h _) (by decide)
      (by decide)
    exact (Keeps.modifyChute s k _).comp (Keeps.intake _ h p) (by decide) (by decide)

/-! ## Routes and doors -/

/-- ROUTE START (R129). -/
theorem Keeps.startRoute (s : State) (k : RouteKey) (stay : Bool) :
    Keeps [.store, .carts, .routes, .doors, .link, .notices] s (s.startRoute k stay) :=
  (Keeps.modifyRoute s k _).comp (Keeps.settleRoute _ _) (by decide) (by decide)

/-- ROUTE PAUSE (R130). -/
theorem Keeps.pauseRoute (s : State) (k : RouteKey) : Keeps [.routes, .doors, .link] s (s.pauseRoute k) := by
  unfold State.pauseRoute
  split
  · exact (Keeps.setRoutes s _ (by exact List.length_map ..)).comp (Keeps.setBelt _ _) (by decide) (by decide)
  · exact Keeps.refl _ s

/-- ROUTE CONTINUE (R131). -/
theorem Keeps.continueRoute (s : State) (k : RouteKey) : Keeps [.routes, .doors, .link] s (s.continueRoute k) := by
  unfold State.continueRoute
  dsimp only
  split
  · exact (Keeps.modifyRoute s k _).comp (Keeps.setBelt _ _) (by decide) (by decide)
  · exact (Keeps.modifyRoute s k _).mono (by decide)

/-- DOOR RELEASE (R138). -/
theorem Keeps.releaseDoor (s : State) (d : Nat) (x : Door) :
    Keeps [.doors, .link, .notices] s (s.releaseDoor d x) := by
  unfold State.releaseDoor
  dsimp only
  split
  · exact (Keeps.modifyDoor s d _).comp (Keeps.addHalt _ _ _) (by decide) (by decide)
  · exact (Keeps.modifyDoor s d _).comp (Keeps.setBelt _ _) (by decide) (by decide)

/-! ## Frames -/

/-- A frame taken does what admission, the sequence check and its block's act do (R44 to R50). -/
theorem Keeps.takeFrame {l n : List Block} (s : State) (f : FrameHead) (r : Report) (act : State → State)
    (ha : ∀ t, Keeps l t (act t)) (hl : l ⊆ n) (hn : [.opState, .link, .loop, .doors, .notices] ⊆ n) :
    Keeps n s (s.takeFrame f r act) := by
  have hx : ∀ m, Keeps n s (s.setRx m) := fun m =>
    ((Keeps.setRx s m).mono (by decide) : Keeps [.opState, .link, .loop, .doors, .notices] s _).mono hn
  unfold State.takeFrame
  dsimp only
  split
  · exact Keeps.refl _ s
  · split
    · exact hx _
    · next s1 h1 =>
      have h2 : Keeps n s s1 := by
        refine (hx []).trans (Keeps.mono (l := [.opState, .link, .loop, .doors, .notices]) ?_ hn)
        unfold State.admission at h1
        repeat' split at h1
        all_goals cases h1
        all_goals first
          | exact Keeps.refl _ _
          | exact (Keeps.wake _).mono (by decide)
      split
      · exact h2
      · next x _ =>
        have h3 : Keeps n s (s1.heard f.node.toNat x f.seq) := h2.trans
          (((Keeps.heard s1 _ x _).mono (by decide) : Keeps [.opState, .link, .loop, .doors, .notices] s1 _).mono hn)
        split
        · exact h3.trans ((ha _).mono hl)
        · exact h3

/-- A frame about a carrier does what its block's act does, or is a cause of loss (R53, R55). -/
theorem Keeps.atStamp {l n : List Block} (s : State) (stamp : Byte) (offset : Nat) (act : Nat → Int → State)
    (ha : ∀ c d, Keeps l s (act c d)) (hl : l ⊆ n) (hn : [.link, .loop, .notices] ⊆ n) :
    Keeps n s (s.atStamp stamp offset act) := by
  unfold State.atStamp
  split
  · exact Keeps.refl _ s
  · exact (Keeps.causeOfLoss s).mono hn
  · exact (ha _ _).mono hl

end Sys2Proof.Machine
end

