-- ==== Sys2Proof/Laws/Answers.lean ====
section
/-! SUPPORT. How a request that is taken comes to its answer: the tests pass or the first that fails answers. -/

namespace Sys2Proof.Machine

/-- A port that is idle is ready for a request of the right length. -/
theorem Ready.ofIdle {s : State} {h : Head} {len : Nat} (hp : s.port = .idle) (hl : Head.lengthOk h len = true) :
    Ready s h len := ⟨fun r hx => (by rw [hp] at hx; cases hx), hl⟩

/-- A request that is ready is answered by its rule, applied to the state it is taken in. -/
theorem request_ready {s : State} {h : Head} {len : Nat} (hr : Ready s h len) (code : Byte)
    (act : State → State × Answer) : request code h len act s = answered code h (act s.taken).1 (act s.taken).2 := by
  obtain ⟨hp, hl⟩ := hr
  unfold request State.takeRequest answered State.taken
  split
  · next r hx => exact absurd hx (hp r)
  · simp [hl]

/-- A request of another length is answered BAD_LENGTH. -/
theorem request_badLength {s : State} {h : Head} {len : Nat} (hp : ∀ r, s.port ≠ .working r)
    (hl : Head.lengthOk h len = false) (code : Byte) (act : State → State × Answer) :
    request code h len act s = answered code h s.taken (Answer.refuse .badLength) := by
  unfold request State.takeRequest answered State.taken
  split
  · next r hx => exact absurd hx (hp r)
  · simp [hl]

/-- A request taken while the port is WORKING is discarded. -/
theorem request_working {s : State} {r : Response} (hp : s.port = .working r) (code : Byte) (h : Head) (len : Nat)
    (act : State → State × Answer) :
    request code h len act s = .next ((s.setSpiOut [s.status]).setDiscarded true) := by
  unfold request State.takeRequest
  rw [hp]

/-- Tests that all pass leave the effect. -/
theorem guarded_pass {tests : List (Bool × Result)} (h : firstFailure tests = none) (s : State) (act : State × Answer) :
    guarded tests s act = act := by simp [guarded, h]

/-- The first test that fails refuses. -/
theorem guarded_fail {tests : List (Bool × Result)} {r : Result} (h : firstFailure tests = some r) (s : State)
    (act : State × Answer) : guarded tests s act = (s, Answer.refuse r) := by simp [guarded, h]

/-- The tests of a list after tests that pass. -/
theorem firstFailure_append (l m : List (Bool × Result)) :
    firstFailure (l ++ m) = (match firstFailure l with
      | some r => some r
      | none => firstFailure m) := by
  induction l with
  | nil => rfl
  | cons a t ih =>
    obtain ⟨ok, r⟩ := a
    cases ok
    · rfl
    · exact ih

/-- The tests of R3 pass for an OPEN slot outside SETUP. -/
theorem sailingTests_pass {s : State} {b : SlotId} (hs : s.opState ≠ .setup) (ho : s.slotState b = .opened) :
    firstFailure (sailingTests s b) = none := by
  simp [sailingTests, firstFailure, ho, hs]

/-- The tests of R35 pass for a nameable bag. -/
theorem bagTests_pass {s : State} {h : Handle} {b : Bag} (hn : Nameable s h b) :
    firstFailure (bagTests s h true) = none := by
  obtain ⟨hi, hs, hb, hc⟩ := hn
  have hb' : s.store.bag? h = some b := hb
  have hg : s.store.gen h.index = h.gen ∧ s.store.bags.get? h.index = some b := by
    unfold Store.bag? at hb'
    split at hb'
    · next hg => exact ⟨hg, hb'⟩
    · cases hb'
  simp only [bagTests, firstFailure, hb', hi, hg.1, hg.2]
  cases hh : b.home with
  | none => simp [hs]
  | some k => simp [hs, hc k hh]

/-- A request that names an OPEN slot goes on to its own tests. -/
theorem onSailing_open {s : State} {h : Head} {b : SlotId} (ho : SlotOpen s h b) (own : SlotId → List (Bool × Result))
    (act : SlotId → State × Answer) : onSailing h true s own act = guarded (own b) s (act b) := by
  obtain ⟨hk, hs, ho⟩ := ho
  simp [onSailing, onSlot, hk, guarded, firstFailure_append, sailingTests_pass hs ho]

/-- A request that names a nameable bag goes on to its own tests. -/
theorem onBag_nameable {s : State} {h : Head} {b : Bag} (hn : Nameable s h.key.handle b) (own : List (Bool × Result))
    (t : State) : onBag h true s own t = guarded own s (t, t.bagAnswer h.key.handle) := by
  simp [onBag, guarded, firstFailure_append, bagTests_pass hn]

/-- A request that retires a nameable bag goes on to its own tests. -/
theorem retiring_nameable {s : State} {h : Head} {b : Bag} (hn : Nameable s h.key.handle b)
    (own : List (Bool × Result)) :
    retiring h true s own =
      guarded own s (s.retireBag h.key.handle, Answer.done (.handle h.key.handle)) := by
  simp [retiring, guarded, firstFailure_append, bagTests_pass hn]

end Sys2Proof.Machine
end

