-- ==== Sys2Proof/Laws/Holds.lean ====
section
/-! SUPPORT. The hold causes of the induction points after each operation that tests a condition: what the tests of the pen hold
and of the bag table do, said once, and how they sit in a longer operation. -/

namespace Sys2Proof.Machine

/-! ## Hold causes -/

/-- A point with its hold causes replaced and its level that of the new set (R77). -/
def Induction.withCauses (p : Induction) (c : HoldSet) : Induction := { p with causes := c, go := c.isEmpty }

/-- A frame that is made leaves the loop as it was. -/
theorem State.send_loop (s : State) (r : Role) (object : Nat) (p : OutPayload) : (s.send r object p).loop = s.loop :=
  (Keeps.send s r object p).changes .loop (by decide)

/-- A change of one point's causes changes that point alone. -/
theorem State.onCauses_loop (s : State) (i : Nat) (f : HoldSet → HoldSet) :
    (s.onCauses i f).loop = { s.loop with points :=
      ((s.loop.points.get? i).map fun p => s.loop.points.put i (p.withCauses (f p.causes))).getD s.loop.points } := by
  unfold State.onCauses
  cases s.loop.points.get? i with
  | none => rfl
  | some p =>
    dsimp only
    split
    · rfl
    · exact State.send_loop ..

/-- Whether a point is there, and what it is, after a change of one point's causes. -/
theorem State.onCauses_get? (s : State) (i j : Nat) (f : HoldSet → HoldSet) :
    (s.onCauses i f).loop.points.get? j =
      if j = i then (s.loop.points.get? j).map (fun p => p.withCauses (f p.causes)) else s.loop.points.get? j := by
  rw [State.onCauses_loop]
  by_cases e : j = i
  · subst e
    cases h : s.loop.points.get? j with
    | none => simp [h]
    | some p => simp
  · simp only [e, if_false]
    cases s.loop.points.get? i with
    | none => rfl
    | some p => exact Table.get?_put_other _ e _

/-- A cause put a second time changes nothing more. -/
theorem HoldSet.put_put (c : HoldSet) (x : HoldCause) (v : Bool) : (c.put x v).put x v = c.put x v := by
  cases x <;> rfl

/-- Every point that is named takes the cause, and no other point changes. -/
theorem State.putCauses_get? (x : HoldCause) (v : Bool) (l : List Nat) (s : State) (j : Nat) :
    (s.putCauses x v l).loop.points.get? j =
      if j ∈ l then (s.loop.points.get? j).map (fun p => p.withCauses (p.causes.put x v)) else s.loop.points.get? j := by
  induction l generalizing s with
  | nil => rfl
  | cons i t ih =>
    unfold State.putCauses State.putCause
    rw [ih, State.onCauses_get?]
    by_cases hi : j = i
    · subst hi
      cases s.loop.points.get? j <;> simp [Induction.withCauses, HoldSet.put_put]
    · simp [hi]

/-- Outside the points, the loop does not change. -/
theorem State.putCauses_loop (x : HoldCause) (v : Bool) (l : List Nat) (s : State) :
    (s.putCauses x v l).loop = { s.loop with points := (s.putCauses x v l).loop.points } := by
  induction l generalizing s with
  | nil => rfl
  | cons i t ih =>
    unfold State.putCauses State.putCause
    rw [ih, State.onCauses_loop]

/-- Outside the points, a cause put on every point leaves the loop as it was. -/
theorem State.putCauseAll_loop (s : State) (x : HoldCause) (v : Bool) :
    (s.putCauseAll x v).loop = { s.loop with points := (s.putCauseAll x v).loop.points } :=
  State.putCauses_loop ..

/-- A cause put on every point: every point takes it, with its level that of its causes (R77). -/
theorem State.putCauseAll_get? (s : State) (x : HoldCause) (v : Bool) (j : Nat) :
    (s.putCauseAll x v).loop.points.get? j =
      (s.loop.points.get? j).map (fun p => p.withCauses (p.causes.put x v)) := by
  unfold State.putCauseAll
  rw [State.putCauses_get?]
  split
  · rfl
  · next h =>
    cases hg : s.loop.points.get? j with
    | none => rfl
    | some p => exact absurd (List.mem_map_of_mem (Table.mem_of_get? hg)) h

/-! ## Subjects -/

/-- What the subjects of a source are after a subject is added to one of the fifteen (R179). -/
theorem State.mem_subjects_raise {s : State} (hs : s.notices.sources.length = 15) (src : Source) (n m : Nat) :
    m ∈ (s.raise src n).subjects src ↔ m = n ∨ m ∈ s.subjects src := by
  have hlt : src.number < s.notices.sources.length := by rw [hs]; cases src <;> decide
  unfold State.subjects State.raise NoticeUnit.onSubjects NoticeUnit.drive
  simp only [State.setNotices_notices, List.getElem?_modify, if_true, List.getElem?_eq_getElem hlt]
  exact mem_insertSubject ..

/-- A cause put on every point leaves the notices as they were. -/
theorem State.putCauseAll_notices (s : State) (x : HoldCause) (v : Bool) : (s.putCauseAll x v).notices = s.notices :=
  (Keeps.putCauseAll s x v).changes .notices (by decide)

/-- A cause put on every point leaves the store as it was. -/
theorem State.putCauseAll_store (s : State) (x : HoldCause) (v : Bool) : (s.putCauseAll x v).store = s.store :=
  (Keeps.putCauseAll s x v).changes .store (by decide)

/-- A cause put on every point leaves the pen as it was. -/
theorem State.putCauseAll_pen (s : State) (x : HoldCause) (v : Bool) : (s.putCauseAll x v).pen = s.pen :=
  (Keeps.putCauseAll s x v).changes .pen (by decide)

/-- A cause put on every point leaves the limits as they were. -/
theorem State.putCauseAll_limits (s : State) (x : HoldCause) (v : Bool) : (s.putCauseAll x v).limits = s.limits :=
  (Keeps.putCauseAll s x v).changes .limits (by decide)

/-- The subjects of a source are read from the notices. -/
theorem State.subjects_congr {s t : State} (h : t.notices = s.notices) (src : Source) : t.subjects src = s.subjects src := by
  unfold State.subjects
  rw [h]

/-! ## The two conditions -/

/-- What the hold conditions and their causes rest on stands as it did. -/
structure SameHolds (s t : State) : Prop where
  points : t.loop.points = s.loop.points
  hold : t.pen.hold = s.pen.hold
  low : tableLow t = tableLow s
  subjects : t.subjects .capacity = s.subjects .capacity
  sources : t.notices.sources.length = s.notices.sources.length

/-- Before operations that leave the conditions and their causes alone. -/
theorem HoldsFollow.before {s u t : State} {tested : Prop} (h : SameHolds s u) (k : HoldsFollow u t tested) :
    HoldsFollow s t tested := by
  unfold HoldsFollow at k ⊢
  rw [h.points, h.hold, h.low, h.subjects, h.sources] at k
  exact k

/-- After operations that leave the conditions and their causes alone, and the free count and the low mark. -/
theorem HoldsFollow.after {s t u : State} {tested : Prop} (k : HoldsFollow s t tested) (h : SameHolds t u)
    (hf : penFree u = penFree t) (hl : u.limits.penLow = t.limits.penLow) : HoldsFollow s u tested := by
  unfold HoldsFollow at k ⊢
  rw [h.points, h.hold, h.low, h.subjects, hf, hl]
  exact k

/-- Nothing is tested and nothing changes. -/
theorem HoldsFollow.same {s t : State} (h : SameHolds s t) : HoldsFollow s t False := by
  unfold HoldsFollow
  rw [h.points, h.hold, h.low, h.subjects]
  refine ⟨False.elim, fun _ => rfl, fun _ => id, fun i p hp => ⟨p, hp, rfl, rfl, by simp⟩, fun _ m => ?_⟩
  cases s.pen.hold <;> cases tableLow s <;> simp

/-- A cause put on every point, the points standing as they did before. -/
theorem State.putCauseAll_points {s u : State} (hu : u.loop.points = s.loop.points) (x : HoldCause) (v : Bool) :
    (∀ i, s.loop.points.get? i = none → (u.putCauseAll x v).loop.points.get? i = none) ∧
    ∀ i p, s.loop.points.get? i = some p → ∃ q, (u.putCauseAll x v).loop.points.get? i = some q ∧
      q.offset = p.offset ∧ q.node = p.node ∧ q.causes = p.causes.put x v := by
  refine ⟨fun i hi => ?_, fun i p hi => ?_⟩
  · rw [State.putCauseAll_get?, hu, hi]; rfl
  · rw [State.putCauseAll_get?, hu, hi]; exact ⟨_, rfl, rfl, rfl, rfl⟩

/-- The pen hold comes to stand: its cause on every point, and its subject (R157). -/
theorem HoldsFollow.penDeclared {s : State} (hh : s.pen.hold = false) (hf : penFree s < s.limits.penLow) :
    HoldsFollow s (((s.setPen { s.pen with hold := true }).putCauseAll .pen true).raise .capacity 1) True := by
  obtain ⟨h1, h2⟩ := State.putCauseAll_points (s := s) (u := s.setPen { s.pen with hold := true }) rfl .pen true
  generalize hu : (s.setPen { s.pen with hold := true }).putCauseAll .pen true = u at h1 h2
  have hnt : u.notices = s.notices := by rw [← hu]; exact State.putCauseAll_notices ..
  have hst : u.store = s.store := by rw [← hu]; exact State.putCauseAll_store ..
  have hpn : u.pen = { s.pen with hold := true } := by rw [← hu]; exact State.putCauseAll_pen ..
  have hl : u.limits = s.limits := by rw [← hu]; exact State.putCauseAll_limits ..
  have hlow : tableLow (u.raise .capacity 1) = tableLow s := by simp [tableLow, State.raise, hst]
  have hhold : (u.raise .capacity 1).pen.hold = true := by simp [State.raise, hpn]
  refine ⟨fun _ => ?_, fun h => absurd trivial h, h1, fun i p hp => ?_, fun h15 m => ?_⟩
  · simp only [penFree] at hf
    simp [penFree, State.raise, hpn, hl, hh, hf]
  · obtain ⟨q, hq, ho, hnode, hc⟩ := h2 i p hp
    exact ⟨q, hq, ho, hnode, by simp [hhold, hlow, hc, hh, HoldSet.put]⟩
  · rw [State.mem_subjects_raise (by rw [hnt]; exact h15), State.subjects_congr hnt, hlow, hhold, hh]
    cases tableLow s <;> simp [or_comm]

/-- The pen hold ceases: its cause leaves every point (R157). -/
theorem HoldsFollow.penReleased {s : State} (hh : s.pen.hold = true) (hf : s.limits.penLow + 2 ≤ penFree s) :
    HoldsFollow s ((s.setPen { s.pen with hold := false }).putCauseAll .pen false) True := by
  obtain ⟨h1, h2⟩ := State.putCauseAll_points (s := s) (u := s.setPen { s.pen with hold := false }) rfl .pen false
  generalize hu : (s.setPen { s.pen with hold := false }).putCauseAll .pen false = u at h1 h2
  have hnt : u.notices = s.notices := by rw [← hu]; exact State.putCauseAll_notices ..
  have hst : u.store = s.store := by rw [← hu]; exact State.putCauseAll_store ..
  have hpn : u.pen = { s.pen with hold := false } := by rw [← hu]; exact State.putCauseAll_pen ..
  have hl : u.limits = s.limits := by rw [← hu]; exact State.putCauseAll_limits ..
  have hlow : tableLow u = tableLow s := by simp [tableLow, hst]
  refine ⟨fun _ => ?_, fun h => absurd trivial h, h1, fun i p hp => ?_, fun h15 m => ?_⟩
  · simp only [penFree] at hf
    simp [penFree, hpn, hl, hh, hf]
  · obtain ⟨q, hq, ho, hnode, hc⟩ := h2 i p hp
    exact ⟨q, hq, ho, hnode, by simp [hpn, hlow, hc, hh, HoldSet.put]⟩
  · rw [State.subjects_congr hnt, hlow, hpn]
    cases tableLow s <;> simp

/-- The pen hold is tested: from below the low mark it is declared, with its cause on every point and its subject, and from the
low mark and two more it is released, its cause taken from every point (R157). -/
theorem HoldsFollow.testPenHold (s : State) : HoldsFollow s s.testPenHold True := by
  have still (hs : s.testPenHold = s) (hv : s.pen.hold =
      if s.pen.hold = true then decide (penFree s < s.limits.penLow + 2) else decide (penFree s < s.limits.penLow)) :
      HoldsFollow s s.testPenHold True := by
    rw [hs]
    have k := HoldsFollow.same (s := s) (t := s) ⟨rfl, rfl, rfl, rfl, rfl⟩
    exact ⟨fun _ => hv, fun h => absurd trivial h, k.2.2⟩
  cases hh : s.pen.hold
  · by_cases hf : penFree s < s.limits.penLow
    · have : s.testPenHold = ((s.setPen { s.pen with hold := true }).putCauseAll .pen true).raise .capacity 1 := by
        unfold State.testPenHold State.freePen
        simp only [penFree] at hf
        simp [hh, hf]
      rw [this]
      exact HoldsFollow.penDeclared hh hf
    · refine still ?_ (by simp [hh, hf])
      unfold State.testPenHold State.freePen
      simp only [penFree] at hf
      simp [hh, hf]
  · by_cases hf : s.limits.penLow + 2 ≤ penFree s
    · have : s.testPenHold = (s.setPen { s.pen with hold := false }).putCauseAll .pen false := by
        unfold State.testPenHold State.freePen
        simp only [penFree] at hf
        simp [hh, hf]
      rw [this]
      exact HoldsFollow.penReleased hh hf
    · refine still ?_ (by simp [hh]; omega)
      unfold State.testPenHold State.freePen
      simp only [penFree] at hf
      simp [hh, hf]

/-- A position is taken: the pen hold is tested against what is then free (R155, R157). -/
theorem HoldsFollow.occupy (s : State) (h : Handle) (p : Nat) : HoldsFollow s (s.occupy h p) True :=
  (HoldsFollow.testPenHold _).before ⟨rfl, rfl, rfl, rfl, rfl⟩

/-- A position is freed: the pen hold is tested against what is then free (R156, R157). -/
theorem HoldsFollow.freePosition (s : State) (h : Handle) (p : Nat) : HoldsFollow s (s.freePosition h p) True := by
  unfold State.freePosition
  refine HoldsFollow.before ?_ (HoldsFollow.testPenHold _)
  refine ⟨rfl, rfl, rfl, ?_, List.length_modify ..⟩
  unfold State.subjects State.dropSubjects NoticeUnit.onSubjects NoticeUnit.drive
  simp [Source.number]

/-- A put leaves at least as many records. -/
theorem Table.length_le_put {α : Type} (t : Table α) (i : Nat) (v : α) : List.length t ≤ List.length (Table.put t i v) := by
  induction t with
  | nil => exact Nat.zero_le _
  | cons a t ih =>
    unfold Table.put
    split
    · simp
    · split <;> simp_all

/-- The counters change no bag record. -/
theorem Store.countIn_bags (t : Store) (home : Option CabinKey) (st : BagState) : (t.countIn home st).bags = t.bags := by
  cases home with
  | none => rfl
  | some k => obtain ⟨b, n⟩ := k; cases b <;> rfl

/-- The counters change no bag record. -/
theorem Store.countOut_bags (t : Store) (home : Option CabinKey) (st : BagState) : (t.countOut home st).bags = t.bags := by
  cases home with
  | none => rfl
  | some k => obtain ⟨b, n⟩ := k; cases b <;> rfl

/-- A creation leaves at least as many records. -/
theorem Store.length_le_create {t u : Store} {b : Bag} {h : Handle} (hc : t.create b = some (h, u)) :
    t.bags.length ≤ u.bags.length := by
  unfold Store.create at hc
  split at hc
  · simp only [Option.some.injEq, Prod.mk.injEq] at hc
    obtain ⟨_, rfl⟩ := hc
    rw [Store.countIn_bags]
    unfold Store.mapTag
    split <;> exact Table.length_le_put ..
  · cases hc

/-- A retirement leaves at most as many records. -/
theorem Store.length_retire_le (t : Store) (h : Handle) : (t.retire h).bags.length ≤ t.bags.length := by
  unfold Store.retire
  split
  · exact Nat.le_refl _
  · dsimp only [Store.setGen]
    rw [Store.countOut_bags]
    refine Nat.le_trans (List.length_filter_le ..) (Nat.le_of_eq ?_)
    split <;> rfl

/-- With no fewer records live, a low bag table is low still. -/
theorem tableLow_mono {s t : State} (h : s.store.bags.length ≤ t.store.bags.length) (hs : tableLow s = true) :
    tableLow t = true := by
  have hs := of_decide_eq_true hs
  exact decide_eq_true (by omega)

/-- A bag is created: where that brings the free records below the low mark, subject 0 joins CAPACITY and every point takes the
cause TABLE (R31, R78). -/
theorem HoldsFollow.createBag {s t : State} {b : Bag} {h : Handle} (hc : s.createBag b = some (h, t)) :
    HoldsFollow s t False := by
  unfold State.createBag at hc
  split at hc
  · cases hc
  · next g v hv =>
    simp only [Option.some.injEq, Prod.mk.injEq] at hc
    obtain ⟨_, rfl⟩ := hc
    have hle := Store.length_le_create hv
    have hs : s.store.low = tableLow s := rfl
    have ht : v.low = tableLow (s.setStore v) := rfl
    rw [hs, ht]
    split
    · next hb =>
      rw [Bool.and_eq_true, Bool.not_eq_true'] at hb
      obtain ⟨h1, h2⟩ := State.putCauseAll_points (s := s) (u := (s.setStore v).raise .capacity 0) rfl .table true
      generalize hu : ((s.setStore v).raise .capacity 0).putCauseAll .table true = u at h1 h2
      have hnt : u.notices = ((s.setStore v).raise .capacity 0).notices := by rw [← hu]; exact State.putCauseAll_notices ..
      have hpn : u.pen = s.pen := by rw [← hu]; exact State.putCauseAll_pen ..
      have hlow : tableLow u = true := by
        rw [← hb.2]
        have : u.store = v := by rw [← hu]; exact State.putCauseAll_store ..
        exact congrArg Store.low this
      refine ⟨False.elim, fun _ => by rw [hpn], h1, fun i p hp => ?_, fun h15 m => ?_⟩
      · obtain ⟨q, hq, ho, hnode, hcs⟩ := h2 i p hp
        exact ⟨q, hq, ho, hnode, by simp [hpn, hlow, hcs, hb.1, HoldSet.put]⟩
      · rw [State.subjects_congr hnt, State.mem_subjects_raise (by exact h15), hlow, hpn, hb.1]
        have : (s.setStore v).subjects .capacity = s.subjects .capacity := rfl
        rw [this]
        cases s.pen.hold <;> simp [or_comm]
    · next hb =>
      refine HoldsFollow.same ⟨rfl, rfl, ?_, rfl, rfl⟩
      have hm := tableLow_mono (s := s) (t := s.setStore v) hle
      cases h1 : tableLow s <;> cases h2 : tableLow (s.setStore v) <;> simp_all

/-- A record retires: where that brings the free records back to the low mark, every point loses the cause TABLE (R31, R78). -/
theorem HoldsFollow.retireRecord (s : State) (h : Handle) : HoldsFollow s (s.retireRecord h) False := by
  unfold State.retireRecord
  have hle := Store.length_retire_le s.store h
  have hs : s.store.low = tableLow s := rfl
  have ht : (s.store.retire h).low = tableLow (s.setStore (s.store.retire h)) := rfl
  dsimp only
  rw [hs, ht]
  split
  · next hb =>
    rw [Bool.and_eq_true, Bool.not_eq_true'] at hb
    obtain ⟨h1, h2⟩ := State.putCauseAll_points (s := s) (u := s.setStore (s.store.retire h)) rfl .table false
    generalize hu : (s.setStore (s.store.retire h)).putCauseAll .table false = u at h1 h2
    have hnt : u.notices = s.notices := by rw [← hu]; exact State.putCauseAll_notices ..
    have hpn : u.pen = s.pen := by rw [← hu]; exact State.putCauseAll_pen ..
    have hlow : tableLow u = false := by
      rw [← hb.2]
      have : u.store = s.store.retire h := by rw [← hu]; exact State.putCauseAll_store ..
      exact congrArg Store.low this
    refine ⟨False.elim, fun _ => by rw [hpn], h1, fun i p hp => ?_, fun h15 m => ?_⟩
    · obtain ⟨q, hq, ho, hnode, hcs⟩ := h2 i p hp
      exact ⟨q, hq, ho, hnode, by simp [hpn, hlow, hcs, hb.1, HoldSet.put]⟩
    · rw [State.subjects_congr hnt, hlow, hpn]
      cases s.pen.hold <;> simp
  · next hb =>
    refine HoldsFollow.same ⟨rfl, rfl, ?_, rfl, rfl⟩
    have hm := tableLow_mono (s := s.setStore (s.store.retire h)) (t := s) hle
    cases h1 : tableLow s <;> cases h2 : tableLow (s.setStore (s.store.retire h)) <;> simp_all

end Sys2Proof.Machine
end

