-- ==== Sys2Proof/Laws/Levels.lean ====
section
/-! SUPPORT. What making a frame does, said once, and what making one level frame after another comes to (R56, R58). -/

namespace Sys2Proof.Machine

/-! ## The node that serves an object -/

/-- The node that is found is in the list, and meets the condition. -/
theorem findNode_eq {p : Node → Bool} {l : List Node} {i n : Nat} (h : findNode p l i = some n) :
    i ≤ n ∧ ∃ x, l[n - i]? = some x ∧ p x = true := by
  induction l generalizing i with
  | nil => cases h
  | cons y t ih =>
    unfold findNode at h
    split at h
    · next hp => cases h; exact ⟨Nat.le_refl _, y, by simp, hp⟩
    · obtain ⟨h1, x, h2, h3⟩ := ih h
      refine ⟨by omega, x, ?_, h3⟩
      rw [show n - i = (n - (i + 1)) + 1 by omega, List.getElem?_cons_succ]
      exact h2

/-- A change of one node that leaves the condition as it was finds the same node. -/
theorem findNode_modify {p : Node → Bool} {f : Node → Node} (hf : ∀ x, p (f x) = p x) (l : List Node) (k i : Nat) :
    findNode p (l.modify k f) i = findNode p l i := by
  induction l generalizing k i with
  | nil => simp
  | cons y t ih =>
    cases k with
    | zero => simp [findNode, hf]
    | succ k => simp [findNode, ih]

/-- The node that serves an object stands in the node table, with the object's role and, where the role has several objects, with
the object among its own (R43). -/
theorem State.servingNode_eq {s : State} {r : Role} {object n : Nat} (h : s.servingNode r object = some n) :
    ∃ x, s.node? n = some x ∧ x.role = some r ∧ (r = .loop ∨ r = .encode ∨ object ∈ x.objects) := by
  obtain ⟨h1, x, h2, h3⟩ := findNode_eq h
  refine ⟨x, ?_, ?_⟩
  · unfold State.node?
    rw [if_neg (by omega)]
    exact h2
  · simpa [Node.serves, or_assoc] using h3

/-- A node's record after a change of one. -/
theorem State.modifyNode_node? (s : State) (n m : Nat) (f : Node → Node) :
    (s.modifyNode n f).node? m = if m = n then (s.node? m).map f else s.node? m := by
  unfold State.modifyNode State.node?
  by_cases hn : n = 0
  · subst hn
    by_cases hm : m = 0 <;> simp [hm]
  · by_cases hm : m = 0
    · subst hm; simp [Ne.symm hn]
    · simp only [hn, hm, if_false, State.setLink_link, List.getElem?_modify]
      by_cases e : m = n
      · subst e; simp
      · rw [if_neg e]
        have : n - 1 ≠ m - 1 := by omega
        simp [this]

/-! ## One frame -/

/-- A frame that no node is there for is not made. -/
theorem State.send_none {s : State} {r : Role} {object : Nat} (p : OutPayload) (h : s.servingNode r object = none) :
    s.send r object p = s := by
  unfold State.send
  rw [h]

/-- Whether two payloads are levels for one object. -/
theorem OutPayload.sameLevel_iff (p q : OutPayload) :
    p.sameLevel q = true ↔ levelOf p ≠ none ∧ levelOf q = levelOf p := by
  cases p <;> cases q <;> simp [OutPayload.sameLevel, levelOf] <;> exact eq_comm

/-- The level goes into the frame that waits (R56). -/
theorem State.send_waiting {s : State} {r : Role} {object n : Nat} {p : OutPayload} (h : s.servingNode r object = some n)
    (hw : ∃ f ∈ s.link.txQueue, p.sameLevel f.payload = true) :
    s.send r object p = s.setLink { s.link with
      txQueue := s.link.txQueue.map (fun f => if p.sameLevel f.payload then { f with payload := p } else f) } := by
  unfold State.send
  rw [h]
  dsimp only
  rw [if_pos (List.any_eq_true.2 hw)]

/-- The frame joins the tail (R56). -/
theorem State.send_joins {s : State} {r : Role} {object n : Nat} {p : OutPayload} {x : Node}
    (h : s.servingNode r object = some n) (hx : s.node? n = some x)
    (hw : ∀ f ∈ s.link.txQueue, p.sameLevel f.payload = false) (hc : s.link.txQueue.length < txCapacity) :
    s.send r object p = s.setLink { s.link with
      nodes := s.link.nodes.modify (n - 1) (fun x => { x with outSeq := x.outSeq + 1 })
      txQueue := s.link.txQueue ++ [⟨n, x.outSeq, s.link.stampRef.getD 0, p⟩] } := by
  have hn : n ≠ 0 := by
    rintro rfl
    simp [State.node?] at hx
  unfold State.send
  rw [h]
  dsimp only
  rw [if_neg (by simpa using hw), if_pos hc, hx]
  unfold State.modifyNode
  rw [if_neg hn]
  rfl

/-- A frame made while the queue is full is not sent (R56). -/
theorem State.send_full {s : State} {r : Role} {object : Nat} {p : OutPayload}
    (hw : ∀ f ∈ s.link.txQueue, p.sameLevel f.payload = false) (hc : txCapacity ≤ s.link.txQueue.length) :
    s.send r object p = s := by
  unfold State.send
  split
  · rfl
  · rw [if_neg (by simpa using hw), if_neg (by omega)]

/-- A frame that is made leaves the link as it was but for the queue and one node's sequence. -/
theorem State.send_link (s : State) (r : Role) (object : Nat) (p : OutPayload) : ∃ k q,
    (s.send r object p).link = { s.link with txQueue := q } ∨
    (s.send r object p).link = { s.link with
      nodes := s.link.nodes.modify k (fun x => { x with outSeq := x.outSeq + 1 }), txQueue := q } := by
  unfold State.send
  split
  · exact ⟨0, _, .inl rfl⟩
  · next n _ =>
    split
    · exact ⟨0, _, .inl rfl⟩
    · split
      · by_cases hn : n = 0
        · subst hn; exact ⟨0, _, .inl rfl⟩
        · unfold State.modifyNode
          rw [if_neg hn]
          exact ⟨n - 1, _, .inr rfl⟩
      · exact ⟨0, _, .inl rfl⟩

/-- A frame that is made leaves the node of every object as it was. -/
theorem State.send_servingNode (s : State) (r : Role) (object : Nat) (p : OutPayload) (r' : Role) (o : Nat) :
    (s.send r object p).servingNode r' o = s.servingNode r' o := by
  obtain ⟨k, q, h | h⟩ := State.send_link s r object p <;> unfold State.servingNode <;> rw [h]
  exact findNode_modify (f := fun x => { x with outSeq := x.outSeq + 1 }) (fun _ => rfl) ..

/-- A frame that is made leaves S as it was. -/
theorem State.send_stampRef (s : State) (r : Role) (object : Nat) (p : OutPayload) :
    (s.send r object p).link.stampRef = s.link.stampRef := by
  obtain ⟨k, q, h | h⟩ := State.send_link s r object p <;> rw [h]

/-! ## One level frame after another -/

/-- A sequence that advances once and then as often as frames follow. -/
theorem outSeq_succ (a : Byte) (n : Nat) : a + 1 + BitVec.ofNat 8 n = a + BitVec.ofNat 8 (n + 1) := by
  rw [BitVec.ofNat_add, BitVec.add_assoc, BitVec.add_comm (BitVec.ofNat 8 n)]
  rfl

/-- No object is named: no frame is made. -/
theorem LevelsMade.nil (s : State) (b : Byte) : LevelsMade s s b [] := by
  refine ⟨fun j f h => ⟨f.payload, h, fun _ he => absurd he (by simp), fun _ => rfl⟩, by simp, fun j f x hj hf => ?_,
    fun n x h => ⟨x, h, rfl, rfl, by simp⟩⟩
  rw [List.getElem?_eq_none hj] at hf
  cases hf

/-- Frames for distinct objects are made one after another, while S stays (R56, R58). -/
theorem LevelsMade.sendAll (l : List (Role × Nat × OutPayload)) (s : State)
    (hl : ∀ e ∈ l, levelOf e.2.2 = some (e.1, e.2.1))
    (hd : l.Pairwise (fun a b => (a.1, a.2.1) ≠ (b.1, b.2.1))) : LevelsMade s (s.sendAll l) (s.link.stampRef.getD 0) l := by
  induction l generalizing s with
  | nil => exact LevelsMade.nil s _
  | cons e l ih =>
    obtain ⟨hde, hd⟩ := List.pairwise_cons.1 hd
    have he := hl e (.head _)
    have hl' : ∀ e ∈ l, levelOf e.2.2 = some (e.1, e.2.1) := fun x hx => hl x (.tail _ hx)
    have hs := State.send_servingNode s e.1 e.2.1 e.2.2
    have hb := State.send_stampRef s e.1 e.2.1 e.2.2
    have hsame (q : OutPayload) : e.2.2.sameLevel q = true ↔ levelOf q = some (e.1, e.2.1) := by
      rw [OutPayload.sameLevel_iff, he]; simp
    have hrest (o : Option (Role × Nat)) (ho : o = some (e.1, e.2.1)) :
        ∀ x ∈ l, o ≠ some (x.1, x.2.1) := by
      rintro x hx rfl
      exact hde x hx (Option.some.inj ho).symm
    have ih' := ih (s.send e.1 e.2.1 e.2.2) hl' hd
    rw [hb] at ih'
    have hu : s.sendAll (e :: l) = (s.send e.1 e.2.1 e.2.2).sendAll l := rfl
    rw [hu]
    obtain ⟨iA, iB, iC, iD⟩ := ih'
    simp only [hs] at iA iB
    generalize (s.send e.1 e.2.1 e.2.2).sendAll l = t at iA iB iC iD
    cases hn : s.servingNode e.1 e.2.1 with
    | none =>
      rw [State.send_none _ hn] at iA iB iC iD
      have hf : (e :: l).filter (fun e => (s.servingNode e.1 e.2.1).isSome) =
          l.filter (fun e => (s.servingNode e.1 e.2.1).isSome) := by simp [hn]
      refine ⟨?_, ?_, iC, iD⟩
      · rw [hf]; exact iA
      · rw [hf]; exact iB
    | some n =>
      have hf : (e :: l).filter (fun e => (s.servingNode e.1 e.2.1).isSome) =
          e :: l.filter (fun e => (s.servingNode e.1 e.2.1).isSome) := by simp [hn]
      have hrest' : ∀ x ∈ l.filter (fun e => (s.servingNode e.1 e.2.1).isSome), (x.1, x.2.1) ≠ (e.1, e.2.1) :=
        fun x hx => (hde x (List.mem_filter.1 hx).1).symm
      unfold LevelsMade
      dsimp only
      rw [hf]
      generalize l.filter (fun e => (s.servingNode e.1 e.2.1).isSome) = due at iA iB hrest'
      by_cases hw : ∃ f ∈ s.link.txQueue, e.2.2.sameLevel f.payload = true
      · rw [State.send_waiting hn hw] at iA iB iC iD
        simp only [State.setLink_link, List.length_map] at iA iB iC iD
        refine ⟨fun j f hj => ?_, ?_, iC, iD⟩
        · obtain ⟨w, h1, h2, h3⟩ := iA j (if e.2.2.sameLevel f.payload then { f with payload := e.2.2 } else f)
            (by rw [List.getElem?_map, hj]; rfl)
          by_cases hm : e.2.2.sameLevel f.payload = true
          · simp only [hm, if_true] at h1 h2 h3
            have hw : w = e.2.2 := h3 fun x hx => by rw [he]; exact fun h => hrest' x hx (Option.some.inj h).symm
            subst hw
            refine ⟨e.2.2, h1, fun x hx hlev => ?_, fun h => absurd ((hsame _).1 hm) (h e (.head _))⟩
            rcases List.mem_cons.1 hx with rfl | hx
            · rfl
            · rw [(hsame _).1 hm] at hlev
              exact absurd (Option.some.inj hlev).symm (hrest' x hx)
          · simp only [hm] at h1 h2 h3
            refine ⟨w, h1, fun x hx hlev => ?_, fun h => h3 fun x hx => h x (.tail _ hx)⟩
            rcases List.mem_cons.1 hx with rfl | hx
            · exact absurd ((hsame _).2 hlev) hm
            · exact h2 x hx hlev
        · rw [iB]
          have h1 : (s.link.txQueue.any fun f => levelOf f.payload == some (e.1, e.2.1)) = true := by
            obtain ⟨f, h1, h2⟩ := hw
            exact List.any_eq_true.2 ⟨f, h1, by rw [(hsame _).1 h2]; simp⟩
          have h2 : (fun f : OutFrame => if e.2.2.sameLevel f.payload = true then { f with payload := e.2.2 } else f) =
              fun f => if levelOf f.payload = some (e.1, e.2.1) then { f with payload := e.2.2 } else f := by
            funext f
            simp only [hsame]
          rw [List.filter_cons, h1]
          simp only [Bool.not_true, Bool.false_eq_true, if_false]
          congr 2
          apply List.filter_congr
          intro x _
          rw [List.any_map]
          congr 2
          funext f
          simp only [Function.comp_apply]
          split
          · next hm => rw [he, (hsame _).1 hm]
          · rfl
      · have hw' : ∀ f ∈ s.link.txQueue, e.2.2.sameLevel f.payload = false := by simpa using hw
        have hany : (s.link.txQueue.any fun f => levelOf f.payload == some (e.1, e.2.1)) = false := by
          rw [List.any_eq_false]
          intro f hfm
          have := mt (hsame f.payload).2 (by simp [hw' f hfm])
          simpa using this
        have hno {j : Nat} {f : OutFrame} (hj : s.link.txQueue[j]? = some f) : levelOf f.payload ≠ some (e.1, e.2.1) := by
          have := mt (hsame f.payload).2 (by simp [hw' f (List.mem_of_getElem? hj)])
          exact this
        by_cases hc : s.link.txQueue.length < txCapacity
        · obtain ⟨y, hy, _⟩ := State.servingNode_eq hn
          rw [State.send_joins hn hy hw' hc] at iA iB iC iD
          have hnode (m : Nat) : (s.setLink { s.link with
              nodes := s.link.nodes.modify (n - 1) (fun x => { x with outSeq := x.outSeq + 1 })
              txQueue := s.link.txQueue ++ [⟨n, y.outSeq, s.link.stampRef.getD 0, e.2.2⟩] }).node? m =
              if m = n then (s.node? m).map (fun x => { x with outSeq := x.outSeq + 1 }) else s.node? m := by
            have hn0 : n ≠ 0 := by rintro rfl; simp [State.node?] at hy
            rw [← State.modifyNode_node?]
            unfold State.modifyNode
            rw [if_neg hn0]
            rfl
          simp only [hnode] at iC iD
          simp only [State.setLink_link, List.length_append, List.length_cons, List.length_nil, Nat.zero_add] at iA iB iC iD
          have hnew : t.link.txQueue[s.link.txQueue.length]? = some ⟨n, y.outSeq, s.link.stampRef.getD 0, e.2.2⟩ := by
            obtain ⟨w, h1, _, h3⟩ := iA s.link.txQueue.length ⟨n, y.outSeq, s.link.stampRef.getD 0, e.2.2⟩
              (by rw [List.getElem?_append_right (Nat.le_refl _)]; simp)
            have : w = e.2.2 := h3 fun x hx => by
              dsimp only; rw [he]; exact fun h => hrest' x hx (Option.some.inj h).symm
            subst this
            exact h1
          have hdrop : t.link.txQueue.drop s.link.txQueue.length =
              ⟨n, y.outSeq, s.link.stampRef.getD 0, e.2.2⟩ :: t.link.txQueue.drop (s.link.txQueue.length + 1) := by
            rw [List.drop_eq_getElem?_toList_append, hnew]
            rfl
          refine ⟨fun j f hj => ?_, ?_, fun j f x hj hf hx => ?_, fun m x hx => ?_⟩
          · obtain ⟨w, h1, h2, h3⟩ := iA j f (by rw [List.getElem?_append_left (by
              exact (List.getElem?_eq_some_iff.1 hj).1)]; exact hj)
            refine ⟨w, h1, fun x hx hlev => ?_, fun h => h3 fun x hx => h x (.tail _ hx)⟩
            rcases List.mem_cons.1 hx with rfl | hx
            · exact absurd hlev (hno hj)
            · exact h2 x hx hlev
          · rw [hdrop, List.map_cons, iB, List.filter_cons, hany]
            simp only [Bool.not_false, if_true]
            rw [show txCapacity - s.link.txQueue.length = (txCapacity - (s.link.txQueue.length + 1)) + 1 by omega,
              List.take_succ_cons, List.map_cons, hn]
            simp only [Option.getD_some]
            congr 3
            apply List.filter_congr
            intro x hx
            rw [List.any_append]
            have : ([(⟨n, y.outSeq, s.link.stampRef.getD 0, e.2.2⟩ : OutFrame)].any
                fun f => levelOf f.payload == some (x.1, x.2.1)) = false := by
              simp only [List.any_cons, List.any_nil, Bool.or_false, he]
              simpa using fun h1 h2 => hrest' x hx (by rw [h1, h2])
            rw [this, Bool.or_false]
          · rcases Nat.eq_or_lt_of_le hj with e1 | hlt
            · subst e1
              rw [hnew] at hf; cases hf
              dsimp only at hx
              rw [hy] at hx; cases hx
              exact ⟨rfl, by simp⟩
            · have hx' : (if f.node = n then (s.node? f.node).map (fun x => { x with outSeq := x.outSeq + 1 }) else s.node? f.node) =
                  some (if f.node = n then { x with outSeq := x.outSeq + 1 } else x) := by
                rw [hx]; split <;> rfl
              obtain ⟨h1, h2⟩ := iC j f _ (by omega) hf hx'
              refine ⟨h1, ?_⟩
              rw [h2, hdrop, show j - s.link.txQueue.length = (j - (s.link.txQueue.length + 1)) + 1 by omega,
                List.take_succ_cons, List.filter_cons]
              by_cases e2 : f.node = n
              · simp only [e2, if_true, beq_self_eq_true, List.length_cons]
                exact outSeq_succ ..
              · have : (n == f.node) = false := by simpa using Ne.symm e2
                simp only [e2, if_false, this, Bool.false_eq_true]
          · have hx' : (if m = n then (s.node? m).map (fun x => { x with outSeq := x.outSeq + 1 }) else s.node? m) =
                some (if m = n then { x with outSeq := x.outSeq + 1 } else x) := by
              rw [hx]; split <;> rfl
            obtain ⟨z, h1, h2, h3, h4⟩ := iD m _ hx'
            refine ⟨z, h1, h2.trans (by split <;> rfl), h3.trans (by split <;> rfl), ?_⟩
            rw [h4, hdrop, List.filter_cons]
            by_cases e2 : m = n
            · subst e2
              simp only [if_true, beq_self_eq_true, List.length_cons]
              exact outSeq_succ ..
            · have : (n == m) = false := by simpa using Ne.symm e2
              simp only [e2, if_false, this, Bool.false_eq_true]
        · rw [State.send_full hw' (by omega)] at iA iB iC iD
          refine ⟨fun j f hj => ?_, ?_, iC, iD⟩
          · obtain ⟨w, h1, h2, h3⟩ := iA j f hj
            refine ⟨w, h1, fun x hx hlev => ?_, fun h => h3 fun x hx => h x (.tail _ hx)⟩
            rcases List.mem_cons.1 hx with rfl | hx
            · exact absurd hlev (hno hj)
            · exact h2 x hx hlev
          · rw [iB, show txCapacity - s.link.txQueue.length = 0 by omega]
            simp

/-! ## The level frames of a hall second -/

/-- Frames made for one list of objects and then for another. -/
theorem State.sendAll_append (s : State) (l m : List (Role × Nat × OutPayload)) :
    s.sendAll (l ++ m) = (s.sendAll l).sendAll m := List.foldl_append ..

/-- The frames of the induction points (R58). -/
theorem State.refreshPoints_eq (l : List (Nat × Induction)) (s : State) :
    s.refreshPoints l = s.sendAll (l.map (fun e => (.induct, e.1, .induct e.1 e.2.go))) := by
  induction l generalizing s with
  | nil => rfl
  | cons e t ih => exact ih _

/-- The frames of the doors (R58). -/
theorem State.refreshDoors_eq (l : List (Nat × Door)) (s : State) :
    s.refreshDoors l = s.sendAll (l.map (fun e => (.door, e.1, .door e.1 e.2.running))) := by
  induction l generalizing s with
  | nil => rfl
  | cons e t ih => exact ih _

/-- A table in canonical form has no key twice. -/
theorem Table.keys_pairwise {α : Type} {t : Table α} (h : Table.wf t = true) :
    List.Pairwise (fun a b : Nat × α => a.1 ≠ b.1) t := by
  induction t with
  | nil => exact .nil
  | cons e t ih =>
    obtain ⟨h1, h2⟩ := (Table.wf_cons ..).1 h
    exact .cons (fun x hx => Nat.ne_of_lt (h1 x hx)) (ih h2)

/-- An entry of a table in canonical form is the record at its key. -/
theorem Table.get?_of_mem {α : Type} {t : Table α} (h : Table.wf t = true) {e : Nat × α} (he : e ∈ t) :
    t.get? e.1 = some e.2 := by
  induction t with
  | nil => cases he
  | cons x t ih =>
    obtain ⟨h1, h2⟩ := (Table.wf_cons ..).1 h
    unfold Table.get?
    rcases List.mem_cons.1 he with rfl | he
    · simp
    · rw [if_neg (Nat.ne_of_gt (h1 e he))]
      exact ih h2 he

/-- Level frames for the points and then the doors of two tables in canonical form are each for an object of its own. -/
theorem levels_pairwise {α β : Type} {p : List (Nat × α)} {d : List (Nat × β)} (f : Nat × α → OutPayload)
    (g : Nat × β → OutPayload) (hp : p.Pairwise (fun a b => a.1 ≠ b.1)) (hd : d.Pairwise (fun a b => a.1 ≠ b.1)) :
    (p.map (fun e => ((.induct, e.1, f e) : Role × Nat × OutPayload)) ++
      d.map (fun e => ((.door, e.1, g e) : Role × Nat × OutPayload))).Pairwise
      (fun a b => (a.1, a.2.1) ≠ (b.1, b.2.1)) := by
  rw [List.pairwise_append, List.pairwise_map, List.pairwise_map]
  refine ⟨hp.imp fun h e => h (Prod.mk.inj e).2, hd.imp fun h e => h (Prod.mk.inj e).2, ?_⟩
  intro a ha b hb e
  obtain ⟨x, _, rfl⟩ := List.mem_map.1 ha
  obtain ⟨y, _, rfl⟩ := List.mem_map.1 hb
  cases (Prod.mk.inj e).1

/-- LEVEL_REFRESH of points and doors in canonical form (R58). -/
theorem LevelsMade.refresh {s : State} (hp : Table.wf s.loop.points = true) (hd : Table.wf s.doors = true) :
    LevelsMade s (s.sendAll (levelsDue s)) (s.link.stampRef.getD 0) (levelsDue s) := by
  refine LevelsMade.sendAll _ _ ?_ (levels_pairwise (fun e : Nat × Induction => .induct e.1 e.2.go)
    (fun e : Nat × Door => .door e.1 e.2.running) (Table.keys_pairwise hp) (Table.keys_pairwise hd))
  intro e he
  rcases List.mem_append.1 he with h | h <;> obtain ⟨x, _, rfl⟩ := List.mem_map.1 h <;> rfl

/-! ## The level frames of a stop -/

/-- What a frame does to the link depends on the link alone. -/
theorem State.send_link_congr {s u : State} (h : u.link = s.link) (r : Role) (object : Nat) (p : OutPayload) :
    (u.send r object p).link = (s.send r object p).link := by
  unfold State.send State.servingNode State.modifyNode State.node?
  rw [h]
  split
  · exact h
  · next n _ =>
    split
    · rfl
    · split
      · by_cases hn : n = 0 <;> simp [hn, h]
      · exact h

/-- What frames do to the link depends on the link alone. -/
theorem State.sendAll_link_congr (l : List (Role × Nat × OutPayload)) {s u : State} (h : u.link = s.link) :
    (u.sendAll l).link = (s.sendAll l).link := by
  induction l generalizing s u with
  | nil => exact h
  | cons e t ih => exact ih (State.send_link_congr h ..)

/-- A cause put on each point of a list in turn sends HOLD for those that stood at GO (R58, R77). -/
theorem State.putCauses_link (x : HoldCause) (l : List (Nat × Induction)) (s : State)
    (hd : l.Pairwise (fun a b => a.1 ≠ b.1)) (hg : ∀ e ∈ l, s.loop.points.get? e.1 = some e.2) :
    (s.putCauses x true (l.map (·.1))).link =
      (s.sendAll ((l.filter (·.2.go)).map (fun e => (.induct, e.1, .induct e.1 false)))).link := by
  have hput (c : HoldSet) : (c.put x true).isEmpty = false := by cases x <;> simp [HoldSet.put, HoldSet.isEmpty]
  induction l generalizing s with
  | nil => rfl
  | cons e t ih =>
    obtain ⟨h1, h2⟩ := List.pairwise_cons.1 hd
    have he := hg e (.head _)
    have hrest : ∀ y ∈ t, (s.putCause e.1 x true).loop.points.get? y.1 = some y.2 := fun y hy => by
      unfold State.putCause
      rw [State.onCauses_get?, if_neg (h1 y hy).symm]
      exact hg y (.tail _ hy)
    have hlink : (s.putCause e.1 x true).link =
        (s.sendAll (([e].filter (·.2.go)).map (fun e => (.induct, e.1, .induct e.1 false)))).link := by
      unfold State.putCause State.onCauses
      rw [he]
      dsimp only
      rw [hput]
      cases hgo : e.2.go with
      | false => simp [hgo, State.sendAll]
      | true =>
        simp only [Bool.false_eq_true, if_false, List.filter_cons, hgo, if_true, List.filter_nil, List.map_cons, List.map_nil]
        refine State.send_link_congr (s := s) ?_ .induct e.1 (.induct e.1 false)
        rfl
    show ((s.putCause e.1 x true).putCauses x true (t.map (·.1))).link = _
    rw [ih _ h2 hrest, show e :: t = [e] ++ t from rfl, List.filter_append, List.map_append, State.sendAll_append]
    exact State.sendAll_link_congr _ hlink

/-- A cause put on every point sends HOLD for those that stood at GO (R58, R77). -/
theorem State.putCauseAll_link {s : State} (hp : Table.wf s.loop.points = true) (x : HoldCause) :
    (s.putCauseAll x true).link =
      (s.sendAll ((s.loop.points.filter (·.2.go)).map (fun e => (.induct, e.1, .induct e.1 false)))).link :=
  State.putCauses_link x _ s (Table.keys_pairwise hp) fun _ he => Table.get?_of_mem hp he

/-- The belts of some doors, none of which may run, are stopped, and STOP is sent for those that ran (R58, R134). -/
theorem State.setBeltsOf_link (l : List (Nat × Door)) (s : State) (ho : s.opState ≠ .run)
    (hd : l.Pairwise (fun a b => a.1 ≠ b.1)) (hg : ∀ e ∈ l, s.door? e.1 = some e.2) :
    (s.setBeltsOf (l.map (·.1))).link =
      (s.sendAll ((l.filter (·.2.running)).map (fun e => (.door, e.1, .door e.1 false)))).link := by
  induction l generalizing s with
  | nil => rfl
  | cons e t ih =>
    obtain ⟨h1, h2⟩ := List.pairwise_cons.1 hd
    have he := hg e (.head _)
    have hb (x : Door) : s.beltRuns x = false := by
      have : (s.opState == OpState.run) = false := beq_eq_false_iff_ne.2 ho
      unfold State.beltRuns
      rw [this, Bool.and_false]
    have hop : (s.setBelt e.1).opState = s.opState := (Keeps.setBelt s e.1).changes .opState (by decide)
    have hrest : ∀ y ∈ t, (s.setBelt e.1).door? y.1 = some y.2 := fun y hy => by
      rw [← hg y (.tail _ hy)]
      unfold State.setBelt
      rw [he]
      dsimp only
      split
      · rfl
      · unfold State.door? State.sendDoor
        rw [(Keeps.send ..).changes .doors (by decide)]
        unfold State.modifyDoor
        rw [State.setDoors_doors]
        exact Table.get?_modify_other s.doors (h1 y hy).symm _
    have hlink : (s.setBelt e.1).link =
        (s.sendAll (([e].filter (·.2.running)).map (fun e => (.door, e.1, .door e.1 false)))).link := by
      unfold State.setBelt
      rw [he]
      dsimp only
      rw [hb]
      cases hr : e.2.running with
      | false => simp [hr, State.sendAll]
      | true =>
        simp only [Bool.false_eq_true, if_false, List.filter_cons, hr, if_true, List.filter_nil, List.map_cons, List.map_nil]
        refine State.send_link_congr (s := s) ?_ .door e.1 (.door e.1 false)
        rfl
    show ((s.setBelt e.1).setBeltsOf (t.map (·.1))).link = _
    rw [ih _ (by rw [hop]; exact ho) h2 hrest, show e :: t = [e] ++ t from rfl, List.filter_append, List.map_append,
      State.sendAll_append]
    exact State.sendAll_link_congr _ hlink

end Sys2Proof.Machine
end

