-- ==== Sys2Proof/Laws/Swaps.lean ====
section
/-! SUPPORT. The swap of a chute's carts, said once: what becomes of the chute, of its carts and of CHUTE_BLOCKED as the active cart
is FULL or cut, and how that sits in a longer operation. -/

namespace Sys2Proof.Machine

/-! ## Chutes, carts and subjects under a change -/

/-- The chutes after a change of one. -/
theorem State.modifyChute_chute? (s : State) (k j : Nat) (f : Chute → Chute) :
    (s.modifyChute k f).chute? j = if j = k then (s.chute? j).map f else s.chute? j := by
  split
  · next e => subst e; exact Table.get?_modify_same ..
  · next e => exact Table.get?_modify_other _ e _

/-- The live carts after a change of one. -/
theorem State.modifyCart_cart? (s : State) (n m : Nat) (f : Cart → Cart) :
    (s.modifyCart n f).cart? m = if m = n then (s.cart? m).map f else s.cart? m := by
  split
  · next e => subst e; exact Table.get?_modify_same ..
  · next e => exact Table.get?_modify_other _ e _

@[simp] theorem State.modifyCart_chute? (s : State) (n k : Nat) (f : Cart → Cart) :
    (s.modifyCart n f).chute? k = s.chute? k := rfl
@[simp] theorem State.modifyChute_cart? (s : State) (k n : Nat) (f : Chute → Chute) :
    (s.modifyChute k f).cart? n = s.cart? n := rfl
@[simp] theorem State.raise_chute? (s : State) (w : Source) (n k : Nat) : (s.raise w n).chute? k = s.chute? k := rfl
@[simp] theorem State.raise_cart? (s : State) (w : Source) (n m : Nat) : (s.raise w n).cart? m = s.cart? m := rfl

/-- A source's number names it. -/
theorem Source.number_inj {v w : Source} (h : v.number = w.number) : v = w := by cases v <;> cases w <;> first | rfl | cases h

/-- A subject added to one source leaves the others' as they were. -/
theorem State.subjects_raise_other (s : State) {v w : Source} (h : v ≠ w) (n : Nat) :
    (s.raise w n).subjects v = s.subjects v := by
  unfold State.subjects State.raise NoticeUnit.onSubjects NoticeUnit.drive
  simp only [State.setNotices_notices]
  rw [List.getElem?_modify]
  simp only [if_neg (fun e : w.number = v.number => h (Source.number_inj e.symm))]
  cases s.notices.sources[v.number]? <;> rfl

/-- The active cart of a chute stands at its active position. -/
theorem State.activeCart_eq {s : State} {c : Chute} {n : Nat} {x : Cart} (h : s.activeCart c = some (n, x)) :
    ∃ p, c.active = some p ∧ c.position p = .cart n ∧ s.cart? n = some x := by
  unfold State.activeCart Chute.active? at h
  cases hp : c.active with
  | none => simp [hp] at h
  | some p =>
    simp only [hp, Option.bind_eq_bind, Option.bind_some] at h
    cases hq : c.position p with
    | empty => simp [hq, Position.serial?] at h
    | marked => simp [hq, Position.serial?] at h
    | cart m =>
      simp only [hq, Position.serial?, Option.bind_some] at h
      cases hm : s.cart? m with
      | none => simp [hm] at h
      | some y =>
        simp only [hm, Option.bind_some, Option.some.injEq, Prod.mk.injEq] at h
        obtain ⟨rfl, rfl⟩ := h
        exact ⟨p, rfl, hq, hm⟩

/-- The cart at the active position is the active cart. -/
theorem State.activeCart_of {s : State} {c : Chute} {p : PosName} {n : Nat} {x : Cart} (ha : c.active = some p)
    (hp : c.position p = .cart n) (hx : s.cart? n = some x) : s.activeCart c = some (n, x) := by
  simp [State.activeCart, Chute.active?, ha, hp, Position.serial?, hx]

/-! ## The swap -/

/-- The STANDBY cart at a position. -/
theorem State.standby?_eq_some {s : State} {c : Chute} {p : PosName} {m : Nat} :
    s.standby? c p = some m ↔ c.position p = .cart m ∧ ∃ z, s.cart? m = some z ∧ z.state = .standby := by
  unfold State.standby?
  cases c.position p with
  | empty => simp [Position.serial?]
  | marked => simp [Position.serial?]
  | cart k =>
    simp only [Position.serial?, Position.cart.injEq]
    cases hk : s.cart? k with
    | none =>
      constructor
      · intro h; cases h
      · rintro ⟨rfl, z, hz, _⟩; rw [hk] at hz; cases hz
    | some x =>
      dsimp only
      constructor
      · intro h
        split at h
        · next hs => cases h; exact ⟨rfl, x, hk, hs⟩
        · cases h
      · rintro ⟨rfl, z, hz, hs⟩
        rw [hk] at hz; cases hz
        rw [if_pos hs]

/-- What the swap leaves of the chute, of its carts and of CHUTE_BLOCKED, once the active cart has got a state other than STANDBY
(R118, R119). -/
theorem SwapsIf.leave {s : State} {k n : Nat} {c : Chute} {p : PosName} {x : Cart} {v : CartState} (hk : s.chute? k = some c)
    (ha : c.active = some p) (hx : s.cart? n = some x) (hv : v ≠ .standby) :
    ∃ d, ((s.modifyCart n (fun y => { y with state := v })).swap k).chute? k = some d ∧
      d = { c with active := d.active, state := d.state } ∧
      (∀ j, j ≠ k → ((s.modifyCart n (fun y => { y with state := v })).swap k).chute? j = s.chute? j) ∧
      ((s.modifyCart n (fun y => { y with state := v })).swap k).cart? n = some { x with state := v } ∧
      SwapsIf True s ((s.modifyCart n (fun y => { y with state := v })).swap k) k n c d c.state := by
  have hn : (s.modifyCart n (fun y => { y with state := v })).cart? n = some { x with state := v } := by
    rw [State.modifyCart_cart?, if_pos rfl, hx]; rfl
  have hm {m : Nat} (h : m ≠ n) : (s.modifyCart n (fun y => { y with state := v })).cart? m = s.cart? m := by
    rw [State.modifyCart_cart?, if_neg h]
  have hw : (s.modifyCart n (fun y => { y with state := v })).notices = s.notices := rfl
  have hku : (s.modifyCart n (fun y => { y with state := v })).chute? k = some c := hk
  have hju (j : Nat) : (s.modifyCart n (fun y => { y with state := v })).chute? j = s.chute? j := rfl
  generalize s.modifyCart n (fun y => { y with state := v }) = u at hn hm hw hku hju
  have hsw : u.swap k = match u.standby? c p.other with
      | some m => (u.modifyCart m (fun x => { x with state := .filling })).modifyChute k
          (fun c => { c with active := some p.other })
      | none =>
        if c.state = .opened then
          (u.modifyChute k (fun c => { c with active := none, state := .blocked })).raise .chuteBlocked k
        else u.modifyChute k (fun c => { c with active := none }) := by
    unfold State.swap
    rw [hku]
    dsimp only
    rw [ha]
    all_goals rfl
  rw [hsw]
  cases hs : u.standby? c p.other with
  | some m =>
    obtain ⟨hpos, z, hz, hst⟩ := State.standby?_eq_some.1 hs
    have hmn : m ≠ n := by
      rintro rfl
      rw [hn] at hz; cases hz
      exact hv hst
    rw [hm hmn] at hz
    refine ⟨{ c with active := some p.other }, ?_, rfl, fun j hj => ?_, ?_, ?_, fun h => absurd trivial h, ?_, ?_⟩
    · rw [State.modifyChute_chute?, if_pos rfl, State.modifyCart_chute?, hku]; rfl
    · rw [State.modifyChute_chute?, if_neg hj, State.modifyCart_chute?, hju]
    · rw [State.modifyChute_cart?, State.modifyCart_cart?, if_neg (Ne.symm hmn), hn]
    · intro _ q hq
      rw [ha] at hq; cases hq
      refine ⟨?_, fun h => absurd ⟨hpos, hmn, hz, hst⟩ (h m z)⟩
      rintro i w ⟨hi, _, hw, _⟩
      rw [hpos] at hi; cases hi
      rw [hz] at hw; cases hw
      refine ⟨?_, rfl, rfl⟩
      rw [State.modifyChute_cart?, State.modifyCart_cart?, if_pos rfl, hm hmn, hz]; rfl
    · intro i hi h
      rw [State.modifyChute_cart?, State.modifyCart_cart?, hm hi]
      split
      · next e => subst e; exact absurd hst (h trivial p z ha hpos hz)
      · rfl
    · intro _ i
      have : (((u.modifyCart m (fun x => { x with state := .filling })).modifyChute k
          (fun c => { c with active := some p.other })).subjects .chuteBlocked) = s.subjects .chuteBlocked :=
        State.subjects_congr hw _
      rw [this]
      simp
  | none =>
    have hno (m : Nat) (z : Cart) : ¬(c.position p.other = .cart m ∧ m ≠ n ∧ s.cart? m = some z ∧ z.state = .standby) := by
      rintro ⟨h1, h2, h3, h4⟩
      have : u.standby? c p.other = some m := State.standby?_eq_some.2 ⟨h1, z, by rw [hm h2]; exact h3, h4⟩
      rw [hs] at this; cases this
    dsimp only
    split
    · next ho =>
      refine ⟨{ c with active := none, state := .blocked }, ?_, rfl, fun j hj => ?_, ?_, ?_, fun h => absurd trivial h, ?_, ?_⟩
      · rw [State.raise_chute?, State.modifyChute_chute?, if_pos rfl, hku]; rfl
      · rw [State.raise_chute?, State.modifyChute_chute?, if_neg hj, hju]
      · rw [State.raise_cart?, State.modifyChute_cart?, hn]
      · intro _ q hq
        rw [ha] at hq; cases hq
        refine ⟨fun m z h => absurd h (hno m z), fun _ => ⟨rfl, fun h => absurd ho h, fun _ => ⟨rfl, fun h15 => ?_⟩⟩⟩
        exact (State.mem_subjects_raise (s := u.modifyChute k _) (by exact hw ▸ h15) ..).2 (.inl rfl)
      · intro i hi _
        rw [State.raise_cart?, State.modifyChute_cart?, hm hi]
      · intro h15 i
        rw [State.mem_subjects_raise (s := u.modifyChute k _) (by exact hw ▸ h15),
          show (u.modifyChute k (fun c => { c with active := none, state := .blocked })).subjects .chuteBlocked =
            s.subjects .chuteBlocked from State.subjects_congr hw _]
        simp [ho, or_comm]
    · next ho =>
      refine ⟨{ c with active := none }, ?_, rfl, fun j hj => ?_, ?_, ?_, fun h => absurd trivial h, ?_, ?_⟩
      · rw [State.modifyChute_chute?, if_pos rfl, hku]; rfl
      · rw [State.modifyChute_chute?, if_neg hj, hju]
      · rw [State.modifyChute_cart?, hn]
      · intro _ q hq
        rw [ha] at hq; cases hq
        exact ⟨fun m z h => absurd h (hno m z), fun _ => ⟨rfl, fun _ => rfl, fun h => absurd h ho⟩⟩
      · intro i hi _
        rw [State.modifyChute_cart?, hm hi]
      · intro _ i
        rw [show (u.modifyChute k (fun c => { c with active := none })).subjects .chuteBlocked = s.subjects .chuteBlocked from
          State.subjects_congr hw _]
        simp [ho]

/-- A condition that holds, or does not, may be put for another that does as well. -/
theorem SwapsIf.congr {l m : Prop} {s t : State} {k n : Nat} {c d : Chute} {st : ChuteState} (h : l ↔ m)
    (hs : SwapsIf l s t k n c d st) : SwapsIf m s t k n c d st := by
  have e : l = m := propext h
  exact e ▸ hs

/-- Nothing is left and nothing swaps. -/
theorem SwapsIf.stay {s t : State} {k n : Nat} {c d : Chute} {st : ChuteState} (ha : d.active = c.active) (hs : d.state = st)
    (hc : ∀ m, m ≠ n → t.cart? m = s.cart? m) (hw : t.subjects .chuteBlocked = s.subjects .chuteBlocked) :
    SwapsIf False s t k n c d st :=
  ⟨False.elim, fun _ => ⟨ha, hs⟩, fun m hm _ => hc m hm, fun _ m => by rw [hw]; simp⟩

/-- A cut is settled: the chute, its carts and CHUTE_BLOCKED after it (R119). -/
theorem CutSettled.settleCut {s : State} {k : Nat} {c : Chute} (hk : s.chute? k = some c) :
    ∃ d, (s.settleCut k).chute? k = some d ∧ d = { c with active := d.active, state := d.state } ∧
      (∀ j, j ≠ k → (s.settleCut k).chute? j = s.chute? j) ∧ CutSettled s (s.settleCut k) k c d c.state := by
  unfold State.settleCut
  rw [hk]
  dsimp only
  cases hc : s.activeCart c with
  | none =>
    exact ⟨c, hk, rfl, fun _ _ => rfl, fun n x h => absurd (hc ▸ h) (by simp), fun _ => ⟨rfl, rfl, rfl, rfl⟩⟩
  | some e =>
    obtain ⟨n, x⟩ := e
    obtain ⟨p, ha, _, hx⟩ := State.activeCart_eq hc
    dsimp only
    split
    · next hcut =>
      obtain ⟨d, h1, h2, h3, h4, h5⟩ := SwapsIf.leave hk ha hx (v := .cut) (by decide)
      have hcl : d.reserved + d.landing.length + d.jams.length = 0 := by rw [h2]; exact hcut.2
      refine ⟨d, h1, h2, h3, fun m y h => ?_, fun h => absurd (hc ▸ h) (by simp)⟩
      rw [hc] at h; cases h
      exact ⟨by rw [h4, if_pos ⟨hcut.1, hcl⟩], h5.congr (by simp [hcut.1, hcl])⟩
    · next hcut =>
      change ¬(x.state = .closing ∧ c.reserved + c.landing.length + c.jams.length = 0) at hcut
      refine ⟨c, hk, rfl, fun _ _ => rfl, fun m y h => ?_, fun h => absurd (hc ▸ h) (by simp)⟩
      rw [hc] at h; cases h
      exact ⟨by rw [hx, if_neg hcut], (SwapsIf.stay rfl rfl (fun _ _ => rfl) rfl).congr (by simpa using hcut)⟩

/-- A cart that takes an item may be full, and is then FULL; else a cut is settled: the chute, its carts and CHUTE_BLOCKED after
both (R118, R119). -/
theorem SwapsIf.settle {s : State} {k n : Nat} {c : Chute} {x : Cart} (hk : s.chute? k = some c)
    (hc : s.activeCart c = some (n, x)) :
    ∃ d, ((s.settleFull k).settleCut k).chute? k = some d ∧ d = { c with active := d.active, state := d.state } ∧
      (∀ j, j ≠ k → ((s.settleFull k).settleCut k).chute? j = s.chute? j) ∧
      ((s.settleFull k).settleCut k).cart? n = some { x with
        state := if x.capacity ≤ x.entries.length + x.unidentified then .full
          else if x.state = .closing ∧ d.reserved + d.landing.length + d.jams.length = 0 then .cut else x.state } ∧
      SwapsIf (x.capacity ≤ x.entries.length + x.unidentified ∨
          x.state = .closing ∧ d.reserved + d.landing.length + d.jams.length = 0)
        s ((s.settleFull k).settleCut k) k n c d c.state := by
  obtain ⟨p, ha, _, hx⟩ := State.activeCart_eq hc
  by_cases hf : x.capacity ≤ x.entries.length + x.unidentified
  · have he : s.settleFull k = (s.modifyCart n (fun y => { y with state := .full })).swap k := by
      unfold State.settleFull
      rw [hk]
      dsimp only
      rw [hc]
      dsimp only
      rw [if_pos (show x.full = true from decide_eq_true hf)]
    obtain ⟨d, h1, h2, h3, h4, h5⟩ := SwapsIf.leave hk ha hx (v := .full) (by decide)
    rw [← he] at h1 h3 h4 h5
    have hcut : (s.settleFull k).settleCut k = s.settleFull k := by
      unfold State.settleCut
      rw [h1]
      dsimp only
      cases hd : (s.settleFull k).activeCart d with
      | none => rfl
      | some e =>
        obtain ⟨m, y⟩ := e
        obtain ⟨q, hq, hqp, hy⟩ := State.activeCart_eq hd
        dsimp only
        rw [if_neg]
        rintro ⟨hy1, _⟩
        obtain ⟨g1, g2⟩ := h5.1 trivial p ha
        by_cases hst : ∃ m z, c.position p.other = .cart m ∧ m ≠ n ∧ s.cart? m = some z ∧ z.state = .standby
        · obtain ⟨i, z, hz⟩ := hst
          obtain ⟨k1, k2, _⟩ := g1 i z hz
          rw [k2] at hq; cases hq
          have : d.position p.other = .cart i := by rw [h2]; exact hz.1
          rw [hqp] at this; cases this
          rw [hy] at k1; cases k1
          cases hy1
        · obtain ⟨k2, _⟩ := g2 fun m z h => hst ⟨m, z, h⟩
          rw [k2] at hq; cases hq
    rw [hcut]
    exact ⟨d, h1, h2, h3, by rw [h4, if_pos hf], h5.congr (by simp [hf])⟩
  · have he : s.settleFull k = s := by
      unfold State.settleFull
      rw [hk]
      dsimp only
      rw [hc]
      dsimp only
      rw [if_neg]
      simpa [Cart.full] using hf
    rw [he]
    obtain ⟨d, h1, h2, h3, h4, _⟩ := CutSettled.settleCut hk
    obtain ⟨h5, h6⟩ := h4 n x hc
    exact ⟨d, h1, h2, h3, by rw [h5, if_neg hf], h6.congr (by simp [hf])⟩

/-- The swap's notice apart, no subject changes. -/
theorem State.swap_subjects_other (s : State) (k : Nat) {w : Source} (h : w ≠ .chuteBlocked) :
    (s.swap k).subjects w = s.subjects w := by
  unfold State.swap
  split
  · rfl
  · split
    · rfl
    · split
      · rfl
      · split
        · exact State.subjects_raise_other _ h _
        · rfl

/-- The swap's notice apart, no subject changes as a cut is settled. -/
theorem State.settleCut_subjects_other (s : State) (k : Nat) {w : Source} (h : w ≠ .chuteBlocked) :
    (s.settleCut k).subjects w = s.subjects w := by
  unfold State.settleCut
  split
  · rfl
  · split
    · rfl
    · split
      · exact State.swap_subjects_other _ _ h
      · rfl

/-- The swap's notice apart, no subject changes as a full cart is settled. -/
theorem State.settleFull_subjects_other (s : State) (k : Nat) {w : Source} (h : w ≠ .chuteBlocked) :
    (s.settleFull k).subjects w = s.subjects w := by
  unfold State.settleFull
  split
  · rfl
  · split
    · rfl
    · split
      · exact State.swap_subjects_other _ _ h
      · rfl

/-! ## The swap within a longer operation -/

/-- Before operations that leave the chute's positions and its carts but the active one, and CHUTE_BLOCKED, alone. -/
theorem SwapsIf.before {left : Prop} {s u t : State} {k n : Nat} {c e d : Chute} {st : ChuteState}
    (hc : ∀ m, m ≠ n → u.cart? m = s.cart? m) (hw : u.subjects .chuteBlocked = s.subjects .chuteBlocked)
    (hl : u.notices.sources.length = s.notices.sources.length) (ha : e.active = c.active)
    (hp : ∀ p, e.position p = c.position p) (h : SwapsIf left u t k n e d st) : SwapsIf left s t k n c d st := by
  obtain ⟨h1, h2, h3, h4⟩ := h
  refine ⟨fun hleft p hcp => ?_, fun hn => ?_, fun m hm hst => ?_, fun h15 m => ?_⟩
  · obtain ⟨g1, g2⟩ := h1 hleft p (ha ▸ hcp)
    refine ⟨fun m z hz => g1 m z ⟨by rw [hp]; exact hz.1, hz.2.1, by rw [hc m hz.2.1]; exact hz.2.2.1, hz.2.2.2⟩,
      fun hno => ?_⟩
    obtain ⟨k1, k2, k3⟩ := g2 fun m z hz =>
      hno m z ⟨by rw [← hp]; exact hz.1, hz.2.1, by rw [← hc m hz.2.1]; exact hz.2.2.1, hz.2.2.2⟩
    exact ⟨k1, k2, fun ho => ⟨(k3 ho).1, fun h15 => (k3 ho).2 (hl ▸ h15)⟩⟩
  · rw [← ha]; exact h2 hn
  · rw [← hc m hm]
    exact h3 m hm fun hleft p z hcp hpos hz => hst hleft p z (ha ▸ hcp) (by rw [← hp]; exact hpos) (by rw [← hc m hm]; exact hz)
  · rw [h4 (hl ▸ h15), hw]

/-- Before operations that leave the chute's positions, the carts and CHUTE_BLOCKED alone. -/
theorem CutSettled.before {s u t : State} {k : Nat} {c e d : Chute} {st : ChuteState} (hc : u.carts = s.carts)
    (hw : u.subjects .chuteBlocked = s.subjects .chuteBlocked)
    (hl : u.notices.sources.length = s.notices.sources.length) (ha : e.active = c.active)
    (hp : ∀ p, e.position p = c.position p) (h : CutSettled u t k e d st) : CutSettled s t k c d st := by
  have hcart (m : Nat) : u.cart? m = s.cart? m := by unfold State.cart?; rw [hc]
  have hact : u.activeCart e = s.activeCart c := by
    unfold State.activeCart Chute.active?
    rw [ha]
    cases c.active with
    | none => rfl
    | some p => simp only [Option.bind_eq_bind, Option.bind_some, hp, hcart]
  refine ⟨fun n x hx => ?_, fun hx => ?_⟩
  · obtain ⟨h1, h2⟩ := h.1 n x (hact ▸ hx)
    exact ⟨h1, h2.before (fun m _ => hcart m) hw hl ha hp⟩
  · obtain ⟨h1, h2, h3, h4⟩ := h.2 (hact ▸ hx)
    exact ⟨h1.trans ha, h2, h3.trans hc, h4.trans hw⟩

end Sys2Proof.Machine
end

