-- ==== Sys2Proof/Laws/Turns.lean ====
section
/-! SUPPORT. The turns of a door, said once: how its belt is set, how a cart comes to it and how one completes, and that it settles
turn by turn (R131, R133, R134, R140). -/

namespace Sys2Proof.Machine

/-! ## The belt -/

/-- The doors after a change of one. -/
theorem State.modifyDoor_door? (s : State) (d e : Nat) (f : Door → Door) :
    (s.modifyDoor d f).door? e = if e = d then (s.door? e).map f else s.door? e := by
  split
  · next h => subst h; exact Table.get?_modify_same ..
  · next h => exact Table.get?_modify_other _ h _

@[simp] theorem State.raise_door? (s : State) (w : Source) (n d : Nat) : (s.raise w n).door? d = s.door? d := rfl

/-- A frame that is made leaves the state of every node. -/
theorem State.send_nodeLive (s : State) (r : Role) (object : Nat) (p : OutPayload) (n : Nat) :
    (s.send r object p).nodeLive n = s.nodeLive n := by
  unfold State.nodeLive State.node?
  by_cases hn : n = 0
  · subst hn; rfl
  · obtain ⟨k, q, h | h⟩ := State.send_link s r object p <;> rw [h]
    simp only [if_neg hn, List.getElem?_modify]
    cases s.link.nodes[n - 1]? with
    | none => rfl
    | some x => by_cases e : k = n - 1 <;> simp [e]

/-- Where carts, routes, the operating state and the nodes' states are the same, a belt runs under the same conditions. -/
theorem State.beltRuns_congr {s t : State} (hc : t.carts = s.carts) (hr : t.routes = s.routes) (ho : t.opState = s.opState)
    (hn : ∀ n, t.nodeLive n = s.nodeLive n) (x : Door) : t.beltRuns x = s.beltRuns x := by
  unfold State.beltRuns State.doorLoading State.routeState State.route? State.cart?
  rw [hc, hr, ho, hn]

/-- A door's belt is set: its record, the other doors, and the conditions of every belt (R134). -/
theorem State.setBelt_door? (s : State) (d e : Nat) :
    (s.setBelt d).door? e = if e = d then (s.door? e).map (fun x => { x with running := s.beltRuns x }) else s.door? e := by
  unfold State.setBelt
  split
  · next h =>
    split
    · next he => subst he; rw [h]; rfl
    · rfl
  · next x h =>
    dsimp only
    split
    · next hv =>
      split
      · next he => subst he; rw [h, Option.map_some, hv]
      · rfl
    · have hs : ((s.modifyDoor d (fun y => { y with running := s.beltRuns x })).sendDoor d (s.beltRuns x)).doors =
          (s.modifyDoor d (fun y => { y with running := s.beltRuns x })).doors := (Keeps.sendDoor _ _ _).changes .doors (by decide)
      have hd : ((s.modifyDoor d (fun y => { y with running := s.beltRuns x })).sendDoor d (s.beltRuns x)).door? e =
          (s.modifyDoor d (fun y => { y with running := s.beltRuns x })).door? e := by unfold State.door?; rw [hs]
      rw [hd, State.modifyDoor_door?]
      split
      · next he => subst he; rw [h]; rfl
      · rfl

/-- A belt that is set leaves the conditions of every belt. -/
theorem State.setBelt_beltRuns (s : State) (d : Nat) (x : Door) : (s.setBelt d).beltRuns x = s.beltRuns x := by
  have h := (Keeps.setBelt s d).changes
  refine State.beltRuns_congr (h .carts (by decide)) (h .routes (by decide)) (h .opState (by decide)) (fun n => ?_) x
  unfold State.setBelt
  split
  · rfl
  · dsimp only
    split
    · rfl
    · exact State.send_nodeLive ..

/-- A belt that stands as its conditions have it is not touched. -/
theorem State.setBelt_same {s : State} {d : Nat} {x : Door} (h : s.door? d = some x) (hv : s.beltRuns x = x.running) :
    s.setBelt d = s := by
  unfold State.setBelt
  rw [h]
  exact if_pos hv

/-- A door that is not configured has no belt. -/
theorem State.setBelt_none {s : State} {d : Nat} (h : s.door? d = none) : s.setBelt d = s := by
  unfold State.setBelt
  rw [h]

/-- A halt reason is added: the door's record, its belt stopped, and its subject (R134, R137). -/
theorem State.addHalt_door? (s : State) (d e : Nat) (w : HaltReason) :
    (s.addHalt d w).door? e =
      if e = d then (s.door? e).map (fun x => { x with halts := x.halts.put w true, running := false }) else s.door? e := by
  unfold State.addHalt
  split
  · next h =>
    split
    · next he => subst he; rw [h]; rfl
    · rfl
  · next x h =>
    rw [State.setBelt_door?, State.raise_door?, State.modifyDoor_door?]
    split
    · next he =>
      subst he
      rw [h]
      simp only [Option.map_some, Option.some.injEq, Door.mk.injEq, true_and, and_true, and_self]
      unfold State.beltRuns
      have : (x.halts.put w true).isEmpty = false := by
        unfold HaltSet.isEmpty
        cases w <;> simp [HaltSet.put, HaltSet.empty]
      simp [this]
    · rfl

/-- The subjects after a halt reason is added to a configured door (R137). -/
theorem State.addHalt_subjects {s : State} {d : Nat} {x : Door} (h : s.door? d = some x) (w : HaltReason) (v : Source) :
    (s.addHalt d w).subjects v = (s.raise .doorStopped d).subjects v := by
  unfold State.addHalt
  rw [h]
  exact State.subjects_congr ((Keeps.setBelt _ d).changes .notices (by decide)) v

/-! ## Turns -/

/-- A route offers a cart exactly as the arbitration tests it (R133). -/
theorem State.offers_iff {s : State} {d : Nat} {k : RouteKey} : s.offers d k = true ↔ Offering s d k := by
  unfold State.offers State.doorServes State.routeState Offering
  cases s.door? d with
  | none => simp
  | some x =>
    cases s.route? k with
    | none => simp
    | some r =>
      cases hq : r.queue <;> simp [and_assoc, hq]

/-- With a door free, its turn is that of the winner. -/
theorem State.doorTurn_free {s : State} {d : Nat} {x : Door} (h : s.door? d = some x) (hc : x.cart = none) :
    s.doorTurn d = (s.winner d x).map (s.takeToDoor d) := by
  unfold State.doorTurn
  rw [h]
  dsimp only
  rw [hc]

/-- The winner of an arbitration (R133). -/
theorem State.winner_eq {s : State} {d : Nat} {x : Door} {k : RouteKey} {r : Route} {n : Nat} {rest : List Nat} {c : Cart}
    (h : s.door? d = some x) (hw : Wins s d x k r n rest c) : s.winner d x = some k := by
  obtain ⟨⟨i, hi, hk, hno⟩, hr, hd, hs, hq, _⟩ := hw
  subst hk
  have hoff := State.offers_iff.2 ⟨x, r, h, hr, rfl, hd, hs, by simp [hq]⟩
  unfold State.winner arbitrationOrder
  rw [List.find?_map, Option.map_eq_some_iff]
  refine ⟨i, ?_, by cases x.lastServed <;> rfl⟩
  rw [List.find?_range_eq_some]
  refine ⟨by cases hl : x.lastServed <;> simpa [hl] using hoff, by simpa using hi, fun j hj => ?_⟩
  have := hno j hj
  rw [← State.offers_iff] at this
  cases hl : x.lastServed <;> simpa [hl] using this

/-- Where no route of the door's slot offers a cart, none wins. -/
theorem State.winner_none {s : State} {d : Nat} {x : Door} (hno : ∀ i, i < 12 → ¬Offering s d ⟨x.berth, i⟩) :
    s.winner d x = none := by
  unfold State.winner arbitrationOrder
  dsimp only
  rw [List.find?_map, Option.map_eq_none_iff, List.find?_eq_none]
  exact fun i _ ho => hno _ (Nat.mod_lt _ (by decide)) (State.offers_iff.1 ho)

/-- A winner is offered. -/
theorem State.offering_of_winner {s : State} {d : Nat} {x : Door} {k : RouteKey} (h : s.winner d x = some k) :
    Offering s d k := State.offers_iff.1 (List.find?_some h)

/-- The cart that comes to a door. -/
theorem State.takeToDoor_eq {s : State} {d : Nat} {k : RouteKey} {r : Route} {n : Nat} {rest : List Nat}
    (hr : s.route? k = some r) (hq : r.queue = n :: rest) : s.takeToDoor d k =
      if (s.cart? n).any (fun c => decide (c.unidentified ≠ 0)) = true then (s.broughtUp d k n rest).addHalt d .unidentified
      else s.broughtUp d k n rest := by
  unfold State.takeToDoor
  rw [hr]
  dsimp only
  rw [hq]
  dsimp only
  change (match (s.broughtUp d k n rest).cart? n with
    | some c => if c.unidentified = 0 then s.broughtUp d k n rest else (s.broughtUp d k n rest).addHalt d .unidentified
    | none => s.broughtUp d k n rest) = _
  have hc : (s.broughtUp d k n rest).cart? n = (s.cart? n).map (fun c => { c with state := .atDoor }) :=
    Table.get?_modify_same s.carts n (fun c => { c with state := .atDoor })
  rw [hc]
  cases s.cart? n with
  | none => rfl
  | some c => by_cases hu : c.unidentified = 0 <;> simp [hu]

/-- What a completion leaves of the live carts. -/
theorem State.completeCart_carts {s : State} {d n : Nat} {c : Cart} (h : s.cart? n = some c) :
    (s.completeCart d n c).carts = s.carts.erase n := by
  have h1 : (s.retireCart n).carts = s.carts.erase n := by
    unfold State.retireCart
    rw [h]
    rfl
  have h2 : (((s.retireCart n).modifyDoor d (fun x => { x with cart := none })).tellCartDone c).carts = s.carts.erase n :=
    ((Keeps.tellCartDone _ c).changes .carts (by decide)).trans h1
  unfold State.completeCart
  dsimp only
  split
  · exact h2
  · exact ((Keeps.testIdle _ _).changes .carts (by decide)).trans h2

/-- A table without a record that it held is shorter. -/
theorem Table.length_erase_lt {α : Type} {t : Table α} {i : Nat} {v : α} (h : Table.get? t i = some v) :
    List.length (Table.erase t i) < List.length t := by
  have hm := Table.mem_of_get? h
  unfold Table.erase
  rw [List.length_filter_lt_length_iff_exists]
  exact ⟨_, hm, by simp⟩

/-- How many turns a door can still take: a completion takes a live cart away, and an arbitration brings one to a free door. -/
def State.turnsLeft (s : State) (d : Nat) : Nat := 2 * s.carts.length + if s.doorFree d = true then 1 else 0

/-- Each turn leaves fewer to take. -/
theorem State.turnsLeft_lt {s t : State} {d : Nat} (h : s.doorTurn d = some t) : t.turnsLeft d < s.turnsLeft d := by
  unfold State.doorTurn at h
  split at h
  · cases h
  · next x hx =>
    split at h
    · next n hn =>
      split at h
      · cases h
      · next c hc =>
        split at h
        · cases h
          have h1 := Table.length_erase_lt hc
          unfold State.turnsLeft
          rw [State.completeCart_carts hc]
          split <;> split <;> omega
        · cases h
    · next hn =>
      obtain ⟨k, hw, rfl⟩ := Option.map_eq_some_iff.1 h
      obtain ⟨_, r, _, hr, _, _, _, hq⟩ := State.offering_of_winner hw
      obtain ⟨n, rest, hq⟩ := List.exists_cons_of_ne_nil hq
      have hlen : (s.takeToDoor d k).carts.length = s.carts.length := by
        rw [State.takeToDoor_eq hr hq]
        have hb : (s.broughtUp d k n rest).carts.length = s.carts.length := List.length_map ..
        split
        · rw [(Keeps.addHalt _ _ _).changes .carts (by decide)]; exact hb
        · exact hb
      have hdoor : (s.takeToDoor d k).doorFree d = false := by
        have hb : (s.broughtUp d k n rest).door? d = some { x with cart := some n, lastServed := some k.route } := by
          rw [show (s.broughtUp d k n rest).door? d = (s.door? d).map _ from
            Table.get?_modify_same s.doors d (fun x => { x with cart := some n, lastServed := some k.route }), hx]
          rfl
        rw [State.takeToDoor_eq hr hq]
        unfold State.doorFree
        split
        · rw [State.addHalt_door?, if_pos rfl, hb]; rfl
        · rw [hb]; rfl
      have hfree : s.doorFree d = true := by unfold State.doorFree; rw [hx]; simp [hn]
      unfold State.turnsLeft
      rw [hlen, hdoor, hfree]
      simp

/-- A turn, and those after it. -/
theorem State.doorTurns_succ (s : State) (d n : Nat) : s.doorTurns d (n + 1) = match s.doorTurn d with
    | none => s.setBelt d
    | some t => t.doorTurns d n := rfl

/-- Where no turn is due, any number of turns sets the belt. -/
theorem State.doorTurns_none {s : State} {d : Nat} (h : s.doorTurn d = none) (n : Nat) : s.doorTurns d n = s.setBelt d := by
  cases n with
  | zero => rfl
  | succ n => rw [State.doorTurns_succ, h]

/-- Any number of turns that is enough comes to the same. -/
theorem State.doorTurns_enough (d : Nat) (m : Nat) : ∀ (s : State) (n : Nat), s.turnsLeft d ≤ m → s.turnsLeft d ≤ n →
    s.doorTurns d m = s.doorTurns d n := by
  induction m with
  | zero =>
    intro s n hm _
    have hnone : s.doorTurn d = none := by
      cases h : s.doorTurn d with
      | none => rfl
      | some t => have := State.turnsLeft_lt h; omega
    rw [State.doorTurns_none hnone, State.doorTurns_none hnone]
  | succ m ih =>
    intro s n hm hn
    cases h : s.doorTurn d with
    | none => rw [State.doorTurns_none h, State.doorTurns_none h]
    | some t =>
      have hlt := State.turnsLeft_lt h
      cases n with
      | zero => omega
      | succ n =>
        rw [State.doorTurns_succ, State.doorTurns_succ, h]
        exact ih t n (by omega) (by omega)

/-- A door settles turn by turn, until none is due, and then its belt is set (R133, R134, R140). -/
theorem State.settleDoor_eq (s : State) (d : Nat) : s.settleDoor d = match s.doorTurn d with
    | none => s.setBelt d
    | some t => t.settleDoor d := by
  have hs : s.turnsLeft d ≤ 2 * s.carts.length + 1 := by unfold State.turnsLeft; split <;> omega
  unfold State.settleDoor
  conv_lhs => unfold State.doorTurns
  cases h : s.doorTurn d with
  | none => rfl
  | some t =>
    have hlt := State.turnsLeft_lt h
    exact State.doorTurns_enough d _ t _ (by omega) (by unfold State.turnsLeft; split <;> omega)

/-- A free door settles by its arbitration, and one that is not free, where the command names it, not at all (R133, log 2). -/
theorem execDoorArbitrate_free {s : State} {d : Nat} {x : Door} (h : s.door? d = some x) (hc : x.cart = none) :
    exec (.doorArbitrate d) s = .next (s.settleDoor d) := by
  change Host.Outcome.next (if s.doorFree d = true then s.settleDoor d else s) = _
  rw [if_pos (by unfold State.doorFree; rw [h]; simp [hc])]

/-! ## A completion -/

/-- The live bags after a change of one. -/
theorem State.modifyBag_bag? (s : State) (h g : Handle) (f : Bag → Bag) :
    (s.modifyBag h f).bag? g = if g = h then (s.bag? g).map f else s.bag? g := by
  change (s.store.modifyBag h f).bag? g = if g = h then (s.store.bag? g).map f else s.store.bag? g
  unfold Store.modifyBag
  cases hb : s.store.bag? h with
  | none =>
    dsimp only
    by_cases e : g = h
    · rw [if_pos e, e, hb]; rfl
    · rw [if_neg e]
  | some b =>
    dsimp only
    have hg : s.store.gen h.index = h.gen := by
      unfold Store.bag? at hb
      split at hb
      · assumption
      · cases hb
    change (if s.store.gen g.index = g.gen then (s.store.bags.put h.index (f b)).get? g.index else none) = _
    by_cases e : g = h
    · subst e
      rw [if_pos hg, if_pos rfl, hb, Table.get?_put_same]
      rfl
    · rw [if_neg e]
      unfold Store.bag?
      split
      · next hgg =>
        rw [Table.get?_put_other]
        intro hi
        exact e (by cases g; cases h; simp_all)
      · rfl

/-- A change of a bag leaves the other records, and the rest of the store. -/
theorem State.modifyBag_store (s : State) (h : Handle) (f : Bag → Bag) :
    (s.modifyBag h f).store = { s.store with bags := (s.modifyBag h f).store.bags } ∧
    ∀ i, h.index ≠ i → (s.modifyBag h f).store.bags.get? i = s.store.bags.get? i := by
  unfold State.modifyBag Store.modifyBag
  simp only [State.setStore_store]
  split
  · exact ⟨rfl, fun _ _ => rfl⟩
  · exact ⟨rfl, fun i hi => Table.get?_put_other _ (Ne.symm hi) _⟩

/-- The bags of marked entries lose their location as their cart retires, and nothing else of the store changes (R140). -/
theorem State.leaveCart_marked (l : List Entry) : ∀ s : State, (∀ e ∈ l, e.aboard = true) →
    (s.leaveCart l).store = { s.store with bags := (s.leaveCart l).store.bags } ∧
    (∀ g, (s.leaveCart l).bag? g = if (∃ e ∈ l, e.bag = g) then (s.bag? g).map (fun b => { b with location := none })
      else s.bag? g) ∧
    ∀ i, (∀ e ∈ l, e.bag.index ≠ i) → (s.leaveCart l).store.bags.get? i = s.store.bags.get? i := by
  induction l with
  | nil => exact fun s _ => ⟨rfl, fun g => by simp [State.leaveCart], fun _ _ => rfl⟩
  | cons e t ih =>
    intro s h
    obtain ⟨h1, h2, h3⟩ := ih (s.modifyBag e.bag (fun b => { b with location := none }))
      (fun x hx => h x (List.mem_cons_of_mem _ hx))
    have he : s.leaveCart (e :: t) = (s.modifyBag e.bag (fun b => { b with location := none })).leaveCart t := by
      unfold State.leaveCart
      rw [if_pos (h e List.mem_cons_self)]
      cases t <;> rfl
    obtain ⟨k1, k2⟩ := State.modifyBag_store s e.bag (fun b => { b with location := none })
    rw [he]
    refine ⟨?_, fun g => ?_, fun i hi => ?_⟩
    · rw [h1, k1]
    · rw [h2, State.modifyBag_bag?]
      by_cases hg : g = e.bag
      · subst hg
        rw [if_pos rfl, if_pos (⟨e, List.mem_cons_self, rfl⟩ : ∃ x ∈ e :: t, x.bag = e.bag)]
        cases s.bag? e.bag <;> simp
      · have : (∃ x ∈ e :: t, x.bag = g) ↔ ∃ x ∈ t, x.bag = g := by
          simp only [List.mem_cons, exists_eq_or_imp]
          exact ⟨fun h => h.resolve_left fun h => hg h.symm, .inr⟩
        rw [if_neg hg]
        simp only [this]
    · rw [h3 i fun x hx => hi x (List.mem_cons_of_mem _ hx), k2 i (hi e List.mem_cons_self)]

/-- Whether a route has a cart at some door (R126). -/
theorem State.routeCart_none {s : State} {k : RouteKey} :
    s.routeCart k = none ↔ ∀ e ∈ s.doors, ∀ m z, e.2.cart = some m → s.cart? m = some z → z.route ≠ some k := by
  unfold State.routeCart
  rw [List.findSome?_eq_none_iff]
  refine forall₂_congr fun e _ => ?_
  unfold State.cartOnRoute
  cases e.2.cart with
  | none => simp
  | some m =>
    cases hz : s.cart? m with
    | none =>
      have : ∀ i z, m = i → s.cart? i = some z → ¬z.route = some k := by rintro i z rfl h; rw [hz] at h; cases h
      simpa [hz] using this
    | some z =>
      have : ¬z.route = some k ↔ ∀ i w, m = i → s.cart? i = some w → ¬w.route = some k :=
        ⟨by rintro h i w rfl hw; rw [hz] at hw; cases hw; exact h, fun h => h m z rfl hz⟩
      simpa [hz] using this

/-- The retirement of a cart whose entries are all marked: its record, its bags, and what they leave of the store (R140). -/
theorem State.retireCart_done {s : State} {n : Nat} {c : Cart} (h : s.cart? n = some c) (hd : c.done = true) :
    (s.retireCart n).carts = s.carts.erase n ∧
    (s.retireCart n).store = { s.store with bags := (s.retireCart n).store.bags } ∧
    (∀ e ∈ c.entries, ∀ b, s.bag? e.bag = some b → (s.retireCart n).bag? e.bag = some { b with location := none }) ∧
    ∀ i, (∀ e ∈ c.entries, e.bag.index ≠ i) → (s.retireCart n).store.bags.get? i = s.store.bags.get? i := by
  have hr : s.retireCart n = (s.leaveCart c.entries).setCarts (s.carts.erase n) := by unfold State.retireCart; rw [h]
  obtain ⟨h1, h2, h3⟩ := State.leaveCart_marked c.entries s (by
    simp only [Cart.done, Bool.and_eq_true, List.all_eq_true] at hd
    exact hd.1)
  rw [hr]
  refine ⟨rfl, h1, fun e he b hb => ?_, h3⟩
  change (s.leaveCart c.entries).bag? e.bag = _
  rw [h2, if_pos ⟨e, he, rfl⟩, hb]
  rfl

/-- CART_DONE as a cart completes (R140). -/
theorem State.tellCartDone_subjects {s : State} (c : Cart) :
    (s.notices.sources.length = 15 → ∀ m, m ∈ (s.tellCartDone c).subjects .cartDone ↔ m ∈ s.subjects .cartDone ∨
      ∃ k r, c.route = some k ∧ s.route? k = some r ∧ (c.notify = true ∨ r.notifyAll = true) ∧ m = k.subject) ∧
    ∀ w, w ≠ .cartDone → (s.tellCartDone c).subjects w = s.subjects w := by
  unfold State.tellCartDone
  cases c.route with
  | none => simp
  | some k =>
    dsimp only
    cases hr : s.route? k with
    | none => simp [hr]
    | some r =>
      dsimp only
      split
      · next h =>
        refine ⟨fun h15 m => ?_, fun w hw => State.subjects_raise_other _ hw _⟩
        rw [State.mem_subjects_raise h15]
        simp only [Bool.or_eq_true] at h
        simp [hr, h, or_comm]
      · next h => simp only [Bool.or_eq_true] at h; simp [hr, h]

/-- A completion, before the door arbitrates again (R24, R131, R140). -/
theorem CartCompletes.completeCart {s : State} {d n : Nat} {c : Cart} (h : s.cart? n = some c) (hd : c.done = true) :
    CartCompletes s (s.completeCart d n c) d n c := by
  obtain ⟨h1, h2, h3, h4⟩ := State.retireCart_done h hd
  have hk := (Keeps.retireCart s n).changes
  let u := (s.retireCart n).modifyDoor d (fun x => { x with cart := none })
  let v := u.tellCartDone c
  have hv := (Keeps.tellCartDone u c).changes
  have hur : u.routes = s.routes := hk .routes (by decide)
  have huw : u.notices = s.notices := hk .notices (by decide)
  have hud : u.doors = s.doors.modify d (fun x => { x with cart := none }) := by
    rw [← hk .doors (by decide)]
    rfl
  have huroute (k : RouteKey) : u.route? k = s.route? k := by unfold State.route?; rw [hur]
  have hvr : v.routes = s.routes := (hv .routes (by decide)).trans hur
  have hvd : v.doors = _ := (hv .doors (by decide)).trans hud
  have hvc : v.carts = s.carts.erase n := (hv .carts (by decide)).trans h1
  have hvs : v.store = (s.retireCart n).store := hv .store (by decide)
  have hvroute (k : RouteKey) : v.route? k = s.route? k := by unfold State.route?; rw [hvr]
  have hcart (m : Nat) : v.cart? m = if m = n then none else s.cart? m := by
    unfold State.cart?
    rw [hvc]
    split
    · next e => subst e; exact Table.get?_erase_same ..
    · next e => exact Table.get?_erase_other _ e
  have hfree (k : RouteKey) : v.routeCart k = none ↔
      ∀ e ∈ s.doors, e.1 ≠ d → ∀ m z, e.2.cart = some m → m ≠ n → s.cart? m = some z → z.route ≠ some k := by
    rw [State.routeCart_none, hvd]
    constructor
    · intro h e he hed m z hm hmn hz
      refine h e ?_ m z hm (by rw [hcart, if_neg hmn]; exact hz)
      exact List.mem_map.2 ⟨e, he, if_neg hed⟩
    · intro h e he m z hm hz
      obtain ⟨e', he', rfl⟩ := List.mem_map.1 he
      split at hm
      · cases hm
      · next hed =>
        rw [hcart] at hz
        split at hz
        · cases hz
        · next hmn => exact h e' he' hed m z hm hmn hz
  obtain ⟨w1, w2⟩ := State.tellCartDone_subjects (s := u) c
  have hsub (w : Source) : u.subjects w = s.subjects w := State.subjects_congr huw w
  simp only [huw, hsub, huroute] at w1 w2
  have hbag (g : Handle) : v.bag? g = (s.retireCart n).bag? g := by unfold State.bag?; rw [hvs]
  have hcv : Changes [.store, .carts, .routes, .doors, .notices] s v :=
    (((Keeps.retireCart s n).comp (Keeps.modifyDoor _ _ _) (by decide) (by decide) :
      Keeps [.store, .carts, .doors] s u).comp (Keeps.tellCartDone _ _) (by decide) (by decide) :
      Keeps [.store, .carts, .routes, .doors, .notices] s v).changes
  -- the test for IDLE
  by_cases hi : ∃ k r, c.route = some k ∧ s.route? k = some r ∧ r.state = .loading ∧ r.queue = [] ∧ r.stay = false ∧
      ∀ e ∈ s.doors, e.1 ≠ d → ∀ m z, e.2.cart = some m → m ≠ n → s.cart? m = some z → z.route ≠ some k
  · obtain ⟨k, r, hk1, hk2, hk3, hk4, hk5, hk6⟩ := hi
    have ht : s.completeCart d n c = (v.modifyRoute k (fun r => { r with state := .idle })).raise .routeIdle k.subject := by
      unfold State.completeCart
      rw [hk1]
      change v.testIdle k = _
      unfold State.testIdle
      rw [hvroute, hk2]
      dsimp only
      rw [if_pos]
      simp [hk3, hk4, hk5, (hfree k).2 hk6]
    have hv15 : s.notices.sources.length = 15 → v.notices.sources.length = 15 := fun h15 => by
      change (u.tellCartDone c).notices.sources.length = 15
      unfold State.tellCartDone
      repeat' split
      all_goals first | rw [huw]; exact h15 | skip
      simp [State.raise, NoticeUnit.onSubjects, NoticeUnit.drive, huw, h15]
    have hmod : s.routes.modify k.subject (fun r => { r with state := .idle }) =
        ((v.modifyRoute k (fun r => { r with state := .idle })).raise .routeIdle k.subject).routes := by
      change _ = v.routes.modify _ _
      rw [hvr]
    have hone : ∀ k' r', c.route = some k' → s.route? k' = some r' → k' = k ∧ r' = r := by
      intro k' r' e1 e2
      rw [hk1] at e1; cases e1
      rw [hk2] at e2; cases e2
      exact ⟨rfl, rfl⟩
    rw [ht]
    refine ⟨?_, hvc, hvd, ?_, fun e he b hb => ?_, fun i hi => ?_, fun k' r' hi => ?_, fun hno => ?_,
      fun h15 => ⟨fun m => ?_, fun m => ?_⟩, fun w hw hw' => ?_⟩
    · exact hcv.comp ((Keeps.modifyRoute v k _).comp (Keeps.raise _ _ _) (by decide) (by decide) :
        Keeps [.routes, .notices] v _).changes (by decide) (by decide)
    · exact hvs.trans (h2.trans (by rw [← hvs]; rfl))
    · exact (hbag _).trans (h3 e he b hb)
    · exact (congrArg (fun st : Store => st.bags.get? i) hvs).trans (h4 i hi)
    · obtain ⟨rfl, rfl⟩ := hone k' r' hi.1 hi.2.1
      exact hmod.symm
    · exact absurd ⟨hk1, hk2, hk3, hk4, hk5, hk6⟩ (hno k r)
    · rw [State.mem_subjects_raise (s := v.modifyRoute k _) (hv15 h15)]
      change m = k.subject ∨ m ∈ v.subjects .routeIdle ↔ _
      rw [w2 _ (by decide)]
      constructor
      · rintro (rfl | h)
        · exact .inr ⟨k, r, ⟨hk1, hk2, hk3, hk4, hk5, hk6⟩, rfl⟩
        · exact .inl h
      · rintro (h | ⟨k', r', hi, rfl⟩)
        · exact .inr h
        · exact .inl (by rw [(hone k' r' hi.1 hi.2.1).1])
    · rw [State.subjects_raise_other _ (by decide)]
      exact w1 h15 m
    · rw [State.subjects_raise_other _ hw]
      exact w2 w hw'
  · have hno : ∀ k r, ¬(c.route = some k ∧ s.route? k = some r ∧ r.state = .loading ∧ r.queue = [] ∧ r.stay = false ∧
        ∀ e ∈ s.doors, e.1 ≠ d → ∀ m z, e.2.cart = some m → m ≠ n → s.cart? m = some z → z.route ≠ some k) :=
      fun k r h => hi ⟨k, r, h⟩
    have ht : s.completeCart d n c = v := by
      unfold State.completeCart
      cases hk1 : c.route with
      | none => rfl
      | some k =>
        change v.testIdle k = _
        unfold State.testIdle
        cases hk2 : v.route? k with
        | none => rfl
        | some r =>
          dsimp only
          rw [if_neg]
          simp only [Bool.and_eq_true, Option.isNone_iff_eq_none, List.isEmpty_iff, beq_iff_eq, Bool.not_eq_true']
          rintro ⟨⟨⟨h1, h2⟩, h3⟩, h4⟩
          exact hno k r ⟨hk1, by rw [← hvroute]; exact hk2, h1, h2, h3, (hfree k).1 h4⟩
    rw [ht]
    refine ⟨hcv, hvc, hvd, ?_, fun e he b hb => ?_, fun i hi => ?_, fun k r h => absurd h (hno k r), fun _ => hvr,
      fun h15 => ⟨fun m => ?_, w1 h15⟩, fun w hw hw' => w2 w hw'⟩
    · exact hvs.trans (h2.trans (by rw [← hvs]))
    · exact (hbag _).trans (h3 e he b hb)
    · exact (congrArg (fun st : Store => st.bags.get? i) hvs).trans (h4 i hi)
    · rw [w2 _ (by decide)]
      refine ⟨.inl, fun h => h.resolve_right ?_⟩
      rintro ⟨k, r, h, _⟩
      exact hno k r h

/-- Where a cart at a door is done, the door settles as it does once the cart has completed (R140). -/
theorem State.settleDoor_done {s : State} {d n : Nat} {x : Door} {c : Cart} (h : s.door? d = some x) (hx : x.cart = some n)
    (hc : s.cart? n = some c) (hd : c.done = true) : s.settleDoor d = (s.completeCart d n c).settleDoor d := by
  rw [State.settleDoor_eq, State.doorTurn]
  simp only [h, hx, hc, hd, if_true]

/-- A door that holds a cart that is not done sets its belt and does nothing else (R133, R134). -/
theorem State.settleDoor_busy {s : State} {d n : Nat} {x : Door} {c : Cart} (h : s.door? d = some x) (hx : x.cart = some n)
    (hc : s.cart? n = some c) (hd : c.done = false) : s.settleDoor d = s.setBelt d := by
  rw [State.settleDoor_eq, State.doorTurn]
  simp only [h, hx, hc, hd]
  rfl

/-- A free door settles as its arbitration has it (R133, R134, R140). -/
theorem Arbitrates.settleDoor {s : State} {d : Nat} {x : Door} (h : s.door? d = some x) (hc : x.cart = none) :
    Arbitrates s (s.settleDoor d) d x := by
  refine ⟨fun hno => ?_, fun k r n rest c hw => ?_⟩
  · have hs : s.settleDoor d = s.setBelt d := by
      rw [State.settleDoor_eq, State.doorTurn_free h hc, State.winner_none hno]
      rfl
    have hb : s.beltRuns x = false := by unfold State.beltRuns State.doorLoading; rw [hc]; rfl
    rw [hs]
    refine ⟨(Keeps.setBelt s d).changes, ?_, fun e he => ?_, fun hr => State.setBelt_same h (hb.trans hr.symm)⟩
    · rw [State.setBelt_door?, if_pos rfl, h, Option.map_some, hb]
    · rw [State.setBelt_door?, if_neg he]
  · obtain ⟨_, hr, hd, hst, hq, hcart⟩ := id hw
    have hs : s.settleDoor d = (s.takeToDoor d k).settleDoor d := by
      rw [State.settleDoor_eq, State.doorTurn_free h hc, State.winner_eq h hw]
      rfl
    have hbd : (s.broughtUp d k n rest).door? d = some { x with cart := some n, lastServed := some k.route } := by
      rw [show (s.broughtUp d k n rest).door? d = (s.door? d).map _ from
        Table.get?_modify_same s.doors d (fun x => { x with cart := some n, lastServed := some k.route }), h]
      rfl
    have hbc : (s.broughtUp d k n rest).cart? n = some { c with state := .atDoor } := by
      rw [show (s.broughtUp d k n rest).cart? n = (s.cart? n).map _ from
        Table.get?_modify_same s.carts n (fun c => { c with state := .atDoor }), hcart]
      rfl
    have hto := State.takeToDoor_eq (d := d) hr hq
    rw [hcart] at hto
    refine ⟨fun hdone => ?_, fun hdone => ?_⟩
    · -- the state before the belt is set
      have hz : ∃ v, (s.takeToDoor d k).door? d = some { x with
            cart := some n, lastServed := some k.route, running := v
            halts := if c.unidentified = 0 then x.halts else { x.halts with unidentified := true } } ∧
          (∀ e, e ≠ d → (s.takeToDoor d k).door? e = s.door? e) ∧
          (s.takeToDoor d k).carts = (s.broughtUp d k n rest).carts ∧
          (s.takeToDoor d k).routes = (s.broughtUp d k n rest).routes ∧
          (c.unidentified = 0 → (s.takeToDoor d k).notices = s.notices) ∧
          (∀ w, w ≠ .doorStopped → (s.takeToDoor d k).subjects w = s.subjects w) ∧
          (c.unidentified ≠ 0 → s.notices.sources.length = 15 → d ∈ (s.takeToDoor d k).subjects .doorStopped) := by
        have hbo (e : Nat) (he : e ≠ d) : (s.broughtUp d k n rest).door? e = s.door? e :=
          Table.get?_modify_other s.doors he (fun x => { x with cart := some n, lastServed := some k.route })
        by_cases hu : c.unidentified = 0
        · rw [if_neg (by simp [hu])] at hto
          rw [hto]
          exact ⟨x.running, by rw [hbd, if_pos hu], hbo, rfl, rfl, fun _ => rfl, fun _ _ => rfl, fun h => absurd hu h⟩
        · rw [if_pos (by simp [hu])] at hto
          rw [hto]
          have hk := (Keeps.addHalt (s.broughtUp d k n rest) d .unidentified).changes
          refine ⟨false, by rw [State.addHalt_door?, if_pos rfl, hbd, if_neg hu]; rfl, fun e he => ?_,
            hk .carts (by decide), hk .routes (by decide), fun h => absurd h hu, fun w hw => ?_, fun _ h15 => ?_⟩
          · rw [State.addHalt_door?, if_neg he, hbo e he]
          · rw [State.addHalt_subjects hbd, State.subjects_raise_other _ hw]
            rfl
          · rw [State.addHalt_subjects hbd]
            exact (State.mem_subjects_raise (s := s.broughtUp d k n rest) h15 ..).2 (.inl rfl)
      obtain ⟨v, z1, z3, z4, z5, z6, z7, z8⟩ := hz
      have hcart' : (s.takeToDoor d k).cart? n = some { c with state := .atDoor } := by
        unfold State.cart?; rw [z4]; exact hbc
      have hset : s.settleDoor d = (s.takeToDoor d k).setBelt d :=
        hs.trans (State.settleDoor_busy z1 rfl hcart' hdone)
      have hb := (Keeps.setBelt (s.takeToDoor d k) d).changes
      have hcar := hb .carts (by decide)
      have hrou := hb .routes (by decide)
      have hnot := hb .notices (by decide)
      rw [hset]
      refine ⟨?_, ⟨_, by rw [State.setBelt_door?, if_pos rfl, z1]; rfl, ?_⟩, ?_, ?_, fun m hm => ?_, fun e he => ?_,
        fun j hj => ?_, fun hu => hnot.trans (z6 hu), fun w hw => ?_, fun hu h15 => ?_⟩
      · exact ((Keeps.takeToDoor s d k).comp (Keeps.setBelt _ d) (by decide) (by decide)).changes
      · rw [State.setBelt_beltRuns]
        rfl
      · unfold State.cart?; rw [hcar]; exact hcart'
      · unfold State.route?
        rw [hrou, z5]
        change (s.routes.modify k.subject _)[k.subject]? = _
        rw [List.getElem?_modify_eq]
        change Option.map _ (s.route? k) = _
        rw [hr]; rfl
      · unfold State.cart?
        rw [hcar, z4]
        exact Table.get?_modify_other s.carts hm (fun c => { c with state := .atDoor })
      · rw [State.setBelt_door?, if_neg he, z3 e he]
      · rw [hrou, z5]
        exact List.getElem?_modify_ne _ _ (Ne.symm hj)
      · rw [State.subjects_congr hnot, z7 w hw]
      · rw [State.subjects_congr hnot]
        exact z8 hu h15
    · have hu : c.unidentified = 0 := by simp [Cart.done] at hdone; exact hdone.2
      rw [if_neg (by simp [hu])] at hto
      refine ⟨_, CartCompletes.completeCart hbc hdone, ?_⟩
      rw [execDoorArbitrate_free (x := { x with cart := none, lastServed := some k.route }) ?_ rfl, hs, hto,
        State.settleDoor_done hbd rfl hbc hdone]
      have := (CartCompletes.completeCart (d := d) hbc hdone).2.2.1
      unfold State.door?
      rw [this, show Table.get? (Table.modify (s.broughtUp d k n rest).doors d _) d =
        ((s.broughtUp d k n rest).door? d).map (fun x => { x with cart := none }) from Table.get?_modify_same .., hbd]
      rfl

/-! ## Carts that no turn concerns -/

/-- A cart that waits in no queue and stands at no door. -/
def Apart (s : State) (m : Nat) : Prop := (∀ r ∈ s.routes, m ∉ r.queue) ∧ ∀ e ∈ s.doors, e.2.cart ≠ some m

/-- Belts aside, a door's record is that of before, where its belt is set. -/
theorem Apart.setBelt {s : State} {m : Nat} (h : Apart s m) (d : Nat) : Apart (s.setBelt d) m := by
  have hk := (Keeps.setBelt s d).changes
  refine ⟨by rw [hk .routes (by decide)]; exact h.1, ?_⟩
  unfold State.setBelt
  split
  · exact h.2
  · dsimp only
    split
    · exact h.2
    · rw [(Keeps.sendDoor _ _ _).changes .doors (by decide)]
      rintro e he
      obtain ⟨e', he', rfl⟩ := List.mem_map.1 he
      split <;> exact h.2 e' he'

/-- A turn leaves a cart that waits in no queue and stands at no door as it is, and so apart. -/
theorem Apart.doorTurn {s t : State} {d m : Nat} (h : Apart s m) (ht : s.doorTurn d = some t) :
    Apart t m ∧ t.cart? m = s.cart? m := by
  unfold State.doorTurn at ht
  split at ht
  · cases ht
  · next x hx =>
    split at ht
    · next n hn =>
      have hmn : m ≠ n := by
        rintro rfl
        exact h.2 _ (Table.mem_of_get? hx) hn
      split at ht
      · cases ht
      · next c hc =>
        split at ht
        · next hd =>
          cases ht
          obtain ⟨_, h2, h3, _, _, _, h7, h8, _⟩ := CartCompletes.completeCart (d := d) hc hd
          refine ⟨⟨?_, ?_⟩, ?_⟩
          · by_cases hi : ∃ k r, c.route = some k ∧ s.route? k = some r ∧ r.state = .loading ∧ r.queue = [] ∧ r.stay = false ∧
              ∀ e ∈ s.doors, e.1 ≠ d → ∀ m z, e.2.cart = some m → m ≠ n → s.cart? m = some z → z.route ≠ some k
            · obtain ⟨k, r, hi⟩ := hi
              rw [h7 k r hi]
              exact forall_mem_modify (p := fun r : Route => m ∉ r.queue) (f := fun r => { r with state := .idle })
                (fun _ hr => hr) h.1 _
            · rw [h8 fun k r hkr => hi ⟨k, r, hkr⟩]
              exact h.1
          · rw [h3]
            rintro e he
            obtain ⟨e', he', rfl⟩ := List.mem_map.1 he
            split
            · simp
            · exact h.2 e' he'
          · unfold State.cart?
            rw [h2]
            exact Table.get?_erase_other _ hmn
        · cases ht
    · obtain ⟨k, hw, rfl⟩ := Option.map_eq_some_iff.1 ht
      obtain ⟨_, r, _, hr, _, _, _, hq⟩ := State.offering_of_winner hw
      obtain ⟨n, rest, hq⟩ := List.exists_cons_of_ne_nil hq
      have hin : m ∉ n :: rest := hq ▸ h.1 r (List.mem_of_getElem? hr)
      have hmn : m ≠ n := by
        rintro rfl
        exact hin List.mem_cons_self
      have hb : Apart (s.broughtUp d k n rest) m ∧ (s.broughtUp d k n rest).cart? m = s.cart? m := by
        refine ⟨⟨?_, ?_⟩, Table.get?_modify_other s.carts hmn (fun c => { c with state := .atDoor })⟩
        · exact forall_mem_modify (p := fun r : Route => m ∉ r.queue) (f := fun r => { r with queue := rest })
            (fun _ _ hr => hin (List.mem_cons_of_mem _ hr)) h.1 _
        · rintro e he
          obtain ⟨e', he', rfl⟩ := List.mem_map.1 he
          split
          · simpa using Ne.symm hmn
          · exact h.2 e' he'
      rw [State.takeToDoor_eq hr hq]
      split
      · have hk := (Keeps.addHalt (s.broughtUp d k n rest) d .unidentified).changes
        refine ⟨?_, by unfold State.cart?; rw [hk .carts (by decide)]; exact hb.2⟩
        unfold State.addHalt
        split
        · exact hb.1
        · refine Apart.setBelt (s := ((s.broughtUp d k n rest).modifyDoor d _).raise _ _) ⟨hb.1.1, ?_⟩ d
          rintro e he
          obtain ⟨e', he', rfl⟩ := List.mem_map.1 he
          split <;> exact hb.1.2 e' he'
      · exact hb

/-- A door that settles leaves a cart that waits in no queue and stands at no door as it is. -/
theorem Apart.settleDoor {m : Nat} (d : Nat) : ∀ (n : Nat) (s : State), s.turnsLeft d = n → Apart s m →
    (s.settleDoor d).cart? m = s.cart? m := by
  intro n
  induction n using Nat.strongRecOn with
  | _ n ih =>
    intro s hs h
    rw [State.settleDoor_eq]
    cases ht : s.doorTurn d with
    | none =>
      unfold State.cart?
      exact congrArg (fun c : Table Cart => c.get? m) ((Keeps.setBelt s d).changes .carts (by decide))
    | some t =>
      obtain ⟨h1, h2⟩ := h.doorTurn ht
      exact (ih _ (hs ▸ State.turnsLeft_lt ht) t rfl h1).trans h2

end Sys2Proof.Machine
end

