-- ==== Sys2Proof/Laws/Departs.lean ====
section
/-! SUPPORT. The active cart of a chute leaves, said once: what becomes of the claims, of the chute and of the standby cart (R109, R116,
R117). -/

namespace Sys2Proof.Machine

/-! ## Bags that become MISSING -/

/-- The store after a bag enters a state: its record, the other records, the tags and generations, and the counters (R2, R24). -/
theorem State.moveBag_store {s : State} {h : Handle} {b : Bag} (hb : s.bag? h = some b) (st : BagState) (loc : Option Location) :
    (∀ g, (s.moveBag h st loc).bag? g = if g = h then some (b.enter st loc s.hallSecond) else s.bag? g) ∧
    (∀ i, h.index ≠ i → (s.moveBag h st loc).store.bags.get? i = s.store.bags.get? i) ∧
    (s.moveBag h st loc).store.tagMap = s.store.tagMap ∧ (s.moveBag h st loc).store.gens = s.store.gens ∧
    ∀ v, ((s.moveBag h st loc).store.slot v).counts =
      if b.home.any (fun k => k.slot == v) = true then (s.store.slot v).counts.move b.state st else (s.store.slot v).counts := by
  have hm : (s.moveBag h st loc).store =
      Store.countMove { s.store with bags := s.store.bags.put h.index (b.enter st loc s.hallSecond) } b.home b.state st := by
    unfold State.moveBag Store.moveBag
    rw [show s.store.bag? h = some b from hb]
    rfl
  have hk : (s.moveBag h st loc).store.bags = s.store.bags.put h.index (b.enter st loc s.hallSecond) ∧
      (s.moveBag h st loc).store.tagMap = s.store.tagMap ∧ (s.moveBag h st loc).store.gens = s.store.gens ∧
      ∀ v, ((s.moveBag h st loc).store.slot v).counts =
        if b.home.any (fun k => k.slot == v) = true then (s.store.slot v).counts.move b.state st
        else (s.store.slot v).counts := by
    rw [hm]
    unfold Store.countMove
    cases b.home with
    | none => exact ⟨rfl, rfl, rfl, fun v => rfl⟩
    | some k =>
      obtain ⟨sl, n⟩ := k
      cases sl
      all_goals refine ⟨rfl, rfl, rfl, fun v => ?_⟩
      all_goals cases v <;> rfl
  obtain ⟨k1, k2, k3, k4⟩ := hk
  have hg : s.store.gen h.index = h.gen := by
    unfold State.bag? Store.bag? at hb
    split at hb
    · assumption
    · cases hb
  refine ⟨fun g => ?_, fun i hi => by rw [k1, Table.get?_put_other _ (Ne.symm hi)], k2, k3, k4⟩
  unfold State.bag? Store.bag?
  rw [show (s.moveBag h st loc).store.gen g.index = s.store.gen g.index by unfold Store.gen; rw [k3], k1]
  by_cases e : g = h
  · subst e
    rw [if_pos hg, if_pos rfl, Table.get?_put_same]
  · rw [if_neg e]
    split
    · next hgg =>
      rw [Table.get?_put_other]
      intro hi
      exact e (by cases g; cases h; simp_all)
    · rfl

/-- A bag that is MISSING, as it becomes so from any state (R25, R28). -/
def Bag.lost (b : Bag) : Bag :=
  { b with
    state := .missing, location := none, recheck := b.recheck && b.state != .onLoop,
    reinduct := b.reinduct && b.state != .stray, aged := b.aged && b.state != .stray, entered := none }

/-- To enter MISSING is to be lost. -/
theorem Bag.enter_missing (b : Bag) (now : Nat) : b.enter .missing none now = b.lost := by
  unfold Bag.enter Bag.lost
  cases b with
  | mk a1 a2 st a4 a5 a6 a7 a8 a9 a10 a11 a12 => cases st <;> cases a8 <;> cases a9 <;> cases a10 <;> rfl

/-- What is lost is lost once. -/
theorem Bag.lost_lost (b : Bag) : b.lost.lost = b.lost := by
  unfold Bag.lost
  simp

/-- Bags become MISSING in turn: their records, the other records, the tags and generations, and the counters (R2, R24). -/
theorem State.makeAllMissing_store (l : List Handle) : ∀ s : State,
    (∀ g, (s.makeAllMissing l).bag? g = if g ∈ l then (s.bag? g).map Bag.lost else s.bag? g) ∧
    (∀ i, (∀ g ∈ l, g.index ≠ i) → (s.makeAllMissing l).store.bags.get? i = s.store.bags.get? i) ∧
    (s.makeAllMissing l).store.tagMap = s.store.tagMap ∧ (s.makeAllMissing l).store.gens = s.store.gens ∧
    (l.Nodup → (∀ g b, g ∈ l → s.bag? g = some b → b.state = .landing ∨ b.state = .jammed) → ∀ v,
      let mine := (l.filter (fun g => (s.bag? g).any (fun b => b.home.any (fun h => h.slot == v)))).length
      ((s.makeAllMissing l).store.slot v).counts = { (s.store.slot v).counts with
        hall := (s.store.slot v).counts.hall - mine, missing := (s.store.slot v).counts.missing + mine }) := by
  induction l with
  | nil => exact fun s => ⟨fun g => by simp [State.makeAllMissing], fun _ _ => rfl, rfl, rfl, fun _ _ v => rfl⟩
  | cons h t ih =>
    intro s
    obtain ⟨i1, i2, i3, i4, i5⟩ := ih (s.makeMissing h)
    have he : s.makeAllMissing (h :: t) = (s.makeMissing h).makeAllMissing t := rfl
    rw [he]
    cases hb : s.bag? h with
    | none =>
      have hs : s.makeMissing h = s := by
        unfold State.makeMissing State.moveBag Store.moveBag
        rw [show s.store.bag? h = none from hb]
        rfl
      rw [hs] at i1 i2 i3 i4 i5 ⊢
      refine ⟨fun g => ?_, fun i hi => i2 i fun g hg => hi g (List.mem_cons_of_mem _ hg), i3, i4, fun hn hst v => ?_⟩
      · rw [i1]
        by_cases e : g = h
        · subst e; simp [hb]
        · simp [List.mem_cons, e]
      · have := i5 (List.nodup_cons.1 hn).2 (fun g b hg => hst g b (List.mem_cons_of_mem _ hg)) v
        rw [List.filter_cons, if_neg (by simp [hb])]
        exact this
    | some b =>
      obtain ⟨m1, m2, m3, m4, m5⟩ := State.moveBag_store hb .missing none
      rw [show (s.moveBag h .missing none) = s.makeMissing h from rfl] at m1 m2 m3 m4 m5
      refine ⟨fun g => ?_, fun i hi => ?_, i3.trans m3, i4.trans m4, fun hn hst v => ?_⟩
      · rw [i1, m1, Bag.enter_missing]
        by_cases e : g = h
        · subst e
          simp [hb, Bag.lost_lost]
        · simp [List.mem_cons, e]
      · rw [i2 i fun g hg => hi g (List.mem_cons_of_mem _ hg), m2 i (hi h List.mem_cons_self)]
      · obtain ⟨n1, n2⟩ := List.nodup_cons.1 hn
        have hsame : ∀ g ∈ t, (s.makeMissing h).bag? g = s.bag? g := fun g hg => by
          rw [m1, if_neg]
          rintro rfl
          exact n1 hg
        have := i5 n2 (fun g b hg hb => hst g b (List.mem_cons_of_mem _ hg) (by rw [← hsame g hg]; exact hb)) v
        have hf : (t.filter (fun g => ((s.makeMissing h).bag? g).any (fun b => b.home.any (fun k => k.slot == v)))) =
            t.filter (fun g => (s.bag? g).any (fun b => b.home.any (fun k => k.slot == v))) :=
          List.filter_congr fun g hg => by rw [hsame g hg]
        dsimp only at this
        rw [hf, m5] at this
        have hmv : (s.store.slot v).counts.move b.state .missing = { (s.store.slot v).counts with
            hall := (s.store.slot v).counts.hall - 1, missing := (s.store.slot v).counts.missing + 1 } := by
          rcases hst h b List.mem_cons_self hb with e | e <;> rw [e] <;> rfl
        rw [hmv] at this
        rw [this, List.filter_cons]
        simp only [hb, Option.any_some]
        split
        · next hv =>
          simp only [List.length_cons]
          congr 1 <;> omega
        · rfl

/-! ## Claims that are lost -/

/-- A chute that a cause other than NODE puts into FAULT: its record, the other chutes, and its subject (R109). -/
theorem State.faultChute_cartLost {s : State} {k : Nat} {c : Chute} (hk : s.chute? k = some c) :
    (s.faultChute k .cartLost).chute? k = some { c with state := faulted c.state .cartLost } ∧
    (∀ j, j ≠ k → (s.faultChute k .cartLost).chute? j = s.chute? j) ∧
    (s.notices.sources.length = 15 → ∀ m, m ∈ (s.faultChute k .cartLost).subjects .chuteFault ↔
      m ∈ s.subjects .chuteFault ∨ m = k ∧ ∀ v, c.state ≠ .fault v) ∧
    (∀ w, w ≠ .chuteFault → (s.faultChute k .cartLost).subjects w = s.subjects w) ∧
    (s.faultChute k .cartLost).notices.sources.length = s.notices.sources.length := by
  unfold State.faultChute
  rw [hk]
  dsimp only
  split
  · next hf =>
    have e : faulted c.state .cartLost = .fault .cartLost ∧ ∀ v, c.state ≠ .fault v := by
      cases hs : c.state <;> simp [hs, faulted, ChuteState.faults] at hf ⊢
    refine ⟨?_, fun j hj => ?_, fun h15 m => ?_, fun w hw => ?_, ?_⟩
    · rw [State.raise_chute?, State.modifyChute_chute?, if_pos rfl, hk, e.1]; rfl
    · rw [State.raise_chute?, State.modifyChute_chute?, if_neg hj]
    · rw [State.mem_subjects_raise (s := s.modifyChute k _) h15]
      change m = k ∨ m ∈ s.subjects .chuteFault ↔ _
      simp [e.2, or_comm]
    · rw [State.subjects_raise_other _ hw]; rfl
    · simp [State.raise, NoticeUnit.onSubjects, NoticeUnit.drive]; rfl
  · next hf =>
    have e : faulted c.state .cartLost = c.state ∧ ∃ v, c.state = .fault v := by
      cases hs : c.state <;> simp [hs, faulted, ChuteState.faults] at hf ⊢
    refine ⟨by rw [e.1]; exact hk, fun _ _ => rfl, fun _ m => ?_, fun _ _ => rfl, rfl⟩
    obtain ⟨v, hv⟩ := e.2
    simp [hv]

/-- The claims of a chute are lost (R117). -/
theorem ClaimsLost.loseClaims {s : State} {k : Nat} {c : Chute} (hk : s.chute? k = some c) :
    Changes [.store, .loop, .chutes, .notices] s (s.loseClaims k) ∧ ClaimsLost s (s.loseClaims k) k c ∧
    (s.loseClaims k).chute? k =
      some { c with state := faulted c.state .cartLost, landing := [], jams := [], reserved := 0 } ∧
    (∀ j, j ≠ k → (s.loseClaims k).chute? j = s.chute? j) ∧
    (s.notices.sources.length = 15 → ∀ m, m ∈ (s.loseClaims k).subjects .chuteFault ↔
      m ∈ s.subjects .chuteFault ∨ m = k ∧ ∀ v, c.state ≠ .fault v) ∧
    (∀ w, w ≠ .chuteFault → (s.loseClaims k).subjects w = s.subjects w) ∧
    (s.loseClaims k).notices.sources.length = s.notices.sources.length := by
  let l := c.landing.map (·.bag) ++ c.jams
  let u := s.makeAllMissing l
  let v := (u.modifyChute k (fun c => { c with landing := [], jams := [] })).disarmChute k
  have he : s.loseClaims k = v.faultChute k .cartLost := by unfold State.loseClaims; rw [hk]
  have hu := (Keeps.makeAllMissing l s).changes
  have huc (j : Nat) : u.chute? j = s.chute? j := by
    unfold State.chute?
    rw [show u.chutes = s.chutes from hu .chutes (by decide)]
  have hset (w : State) (x : Loop) (j : Nat) : (w.setLoop x).chute? j = w.chute? j := rfl
  have hvk : v.chute? k = some { c with landing := [], jams := [], reserved := 0 } := by
    change ((u.modifyChute k (fun c => { c with landing := [], jams := [] })).disarmChute k).chute? k = _
    unfold State.disarmChute
    rw [State.modifyChute_chute?, if_pos rfl, hset, State.modifyChute_chute?, if_pos rfl, huc, hk]
    rfl
  have hvj (j : Nat) (hj : j ≠ k) : v.chute? j = s.chute? j := by
    change ((u.modifyChute k (fun c => { c with landing := [], jams := [] })).disarmChute k).chute? j = _
    unfold State.disarmChute
    rw [State.modifyChute_chute?, if_neg hj, hset, State.modifyChute_chute?, if_neg hj, huc]
  have hvs : v.store = u.store := rfl
  have hvn : v.notices = s.notices := hu .notices (by decide)
  have hvl : v.loop = { s.loop with carriers := v.loop.carriers } := by
    change ({ u.loop with carriers := _ } : Loop) = _
    rw [show u.loop = s.loop from hu .loop (by decide)]
    rfl
  have hvi (i : Nat) : v.carrier? i = (s.carrier? i).map (fun e =>
      if e.armed.any (fun m => m.chute == k) = true then ⟨e.content, none⟩ else e) := by
    unfold State.carrier?
    change (u.loop.carriers.map _)[i]? = _
    rw [show u.loop = s.loop from hu .loop (by decide), List.getElem?_map]
    cases s.loop.carriers[i]? with
    | none => rfl
    | some e =>
      simp only [Option.map_some]
      cases he : e.armed with
      | none => simp
      | some m => simp
  obtain ⟨f1, f2, f3, f4, f5⟩ := State.faultChute_cartLost hvk
  have hf := (Keeps.faultChute v k .cartLost).changes
  have hfs : (v.faultChute k .cartLost).store = u.store := (hf .store (by decide)).trans hvs
  have hfl : (v.faultChute k .cartLost).loop = v.loop := hf .loop (by decide)
  have hsub (w : Source) : v.subjects w = s.subjects w := State.subjects_congr hvn w
  obtain ⟨m1, m2, m3, m4, m5⟩ := State.makeAllMissing_store l s
  rw [he]
  refine ⟨he ▸ (Keeps.loseClaims s k).changes.mono (by decide),
    ⟨?_, fun i => ?_, ?_, ?_, fun g b hg hb => ?_, fun i hi => ?_, fun hn hst w => ?_⟩, f1, fun j hj => (f2 j hj).trans (hvj j hj), ?_, fun w hw => (f4 w hw).trans (hsub w), f5.trans (by rw [hvn])⟩
  · rw [hfl]; exact hvl
  · unfold State.carrier?; rw [hfl]; exact hvi i
  · rw [hfs]; exact m3
  · rw [hfs]; exact m4
  · have : (v.faultChute k .cartLost).bag? g = u.bag? g := by unfold State.bag?; rw [hfs]
    rw [this, m1, if_pos hg, hb]
    rfl
  · rw [hfs]; exact m2 i hi
  · rw [hfs]; exact m5 hn hst w
  · rw [← hsub]
    rw [show v.notices.sources.length = s.notices.sources.length by rw [hvn]] at f3
    exact f3

/-! ## The active cart has left -/

/-- The swap of a chute whose active position holds no cart that is FULL or CUT: the standby cart becomes active, or the chute has none
(R116, R118). -/
theorem State.swap_eq {s : State} {k : Nat} {c : Chute} {p : PosName} (hk : s.chute? k = some c) (ha : c.active = some p) :
    s.swap k = match s.standby? c p.other with
      | some m => (s.modifyCart m (fun x => { x with state := .filling })).modifyChute k
          (fun c => { c with active := some p.other })
      | none =>
        if c.state = .opened then
          (s.modifyChute k (fun c => { c with active := none, state := .blocked })).raise .chuteBlocked k
        else s.modifyChute k (fun c => { c with active := none }) := by
  unfold State.swap
  rw [hk]
  dsimp only
  rw [ha]
  all_goals rfl

/-- The swap of a chute, by whether a STANDBY cart stands at the other position: the chute, the other chutes, the carts and
CHUTE_BLOCKED (R116, R118). -/
theorem State.swap_left {s : State} {k : Nat} {p : PosName} {c : Chute} (hk : s.chute? k = some c) (ha : c.active = some p) :
    let standing := fun (m : Nat) (z : Cart) => c.position p.other = .cart m ∧ s.cart? m = some z ∧ z.state = .standby
    (∃ q, (s.swap k).chute? k = some q ∧ q = { c with active := q.active, state := q.state } ∧
      (∀ m z, standing m z → q.active = some p.other ∧ (s.swap k).cart? m = some { z with state := .filling } ∧
        q.state = c.state) ∧
      ((∀ m z, ¬standing m z) → q.active = none ∧ q.state = if c.state = .opened then .blocked else c.state)) ∧
    (∀ j, j ≠ k → (s.swap k).chute? j = s.chute? j) ∧
    (∀ m, (∀ z, ¬standing m z) → (s.swap k).cart? m = s.cart? m) ∧
    (s.notices.sources.length = 15 → ∀ m, m ∈ (s.swap k).subjects .chuteBlocked ↔ m ∈ s.subjects .chuteBlocked ∨
      m = k ∧ (∀ m z, ¬standing m z) ∧ c.state = .opened) := by
  have hsw := State.swap_eq hk ha
  have hnone : s.standby? c p.other = none → ∀ m z, ¬(c.position p.other = .cart m ∧ s.cart? m = some z ∧ z.state = .standby) := by
    rintro h m z ⟨h1, h2, h3⟩
    have := State.standby?_eq_some.2 ⟨h1, z, h2, h3⟩
    rw [h] at this
    cases this
  dsimp only
  cases hs : s.standby? c p.other with
  | some m =>
    rw [hs] at hsw
    dsimp only at hsw
    obtain ⟨h1, z, h2, h3⟩ := State.standby?_eq_some.1 hs
    rw [hsw]
    refine ⟨⟨{ c with active := some p.other }, ?_, rfl, ?_, fun h => absurd ⟨h1, h2, h3⟩ (h m z)⟩,
      fun j hj => ?_, fun i hi => ?_, fun _ i => ?_⟩
    · rw [State.modifyChute_chute?, if_pos rfl, State.modifyCart_chute?, hk]; rfl
    · rintro i w ⟨e1, e2, _⟩
      rw [h1] at e1; cases e1
      rw [h2] at e2; cases e2
      refine ⟨rfl, ?_, rfl⟩
      rw [State.modifyChute_cart?, State.modifyCart_cart?, if_pos rfl, h2]; rfl
    · rw [State.modifyChute_chute?, if_neg hj, State.modifyCart_chute?]
    · rw [State.modifyChute_cart?, State.modifyCart_cart?]
      split
      · next e => subst e; exact absurd ⟨h1, h2, h3⟩ (hi z)
      · rfl
    · refine ⟨.inl, fun h => h.resolve_right fun h => absurd ⟨h1, h2, h3⟩ (h.2.1 m z)⟩
  | none =>
    rw [hs] at hsw
    dsimp only at hsw
    have hno := hnone hs
    by_cases ho : c.state = .opened
    · rw [if_pos ho] at hsw
      rw [hsw]
      refine ⟨⟨{ c with active := none, state := .blocked }, ?_, rfl, fun m z h => absurd h (hno m z),
        fun _ => ⟨rfl, by rw [if_pos ho]⟩⟩,
        fun j hj => ?_, fun _ _ => rfl, fun h15 i => ?_⟩
      · rw [State.raise_chute?, State.modifyChute_chute?, if_pos rfl, hk]; rfl
      · rw [State.raise_chute?, State.modifyChute_chute?, if_neg hj]
      · rw [State.mem_subjects_raise (s := s.modifyChute k _) h15]
        change i = k ∨ i ∈ s.subjects .chuteBlocked ↔ _
        constructor
        · rintro (h | h)
          · exact .inr ⟨h, hno, ho⟩
          · exact .inl h
        · rintro (h | h)
          · exact .inr h
          · exact .inl h.1
    · rw [if_neg ho] at hsw
      rw [hsw]
      refine ⟨⟨{ c with active := none }, ?_, rfl, fun m z h => absurd h (hno m z), fun _ => ⟨rfl, by rw [if_neg ho]⟩⟩,
        fun j hj => ?_, fun _ _ => rfl, fun _ i => ⟨.inl, fun h => h.resolve_right fun h => ho h.2.2⟩⟩
      · rw [State.modifyChute_chute?, if_pos rfl, hk]; rfl
      · rw [State.modifyChute_chute?, if_neg hj]

/-- The claims of a chute whose active cart has left are settled, and its carts swap (R109, R116, R117). -/
theorem ActiveLeft.settle {s : State} {k : Nat} {p : PosName} {c : Chute} (hk : s.chute? k = some c) (ha : c.active = some p) :
    ActiveLeft s ((s.settleClaims k p.other).swap k) k p c := by
  let standing := fun (m : Nat) (z : Cart) => c.position p.other = .cart m ∧ s.cart? m = some z ∧ z.state = .standby
  have hch : Changes [.store, .loop, .chutes, .carts, .notices] s ((s.settleClaims k p.other).swap k) :=
    ((Keeps.settleClaims s k p.other).comp (Keeps.swap _ k) (by decide) (by decide)).changes
  have hset : s.settleClaims k p.other = if c.claims = 0 then s else match s.standby? c p.other with
      | none => s.loseClaims k
      | some n => match s.cart? n with
        | none => s.loseClaims k
        | some x => if c.claims ≤ x.capacity then s else s.loseClaims k := by
    unfold State.settleClaims
    rw [hk]
    all_goals rfl
  by_cases hp : c.claims = 0 ∨ ∃ m z, standing m z ∧ c.claims ≤ z.capacity
  · have he : s.settleClaims k p.other = s := by
      rw [hset]
      rcases hp with h | ⟨m, z, ⟨h1, h2, h3⟩, h4⟩
      · rw [if_pos h]
      · rw [State.standby?_eq_some.2 ⟨h1, z, h2, h3⟩]
        dsimp only
        rw [h2]
        dsimp only
        rw [if_pos h4]
        exact ite_self _
    rw [he] at hch ⊢
    have hk' := (Keeps.swap s k).changes
    obtain ⟨⟨q, q1, q2, q3, q4⟩, h2, h3, h4⟩ := State.swap_left hk ha
    refine ⟨hch, ⟨q, q1, fun _ => ⟨q2, hk' .store (by decide), hk' .loop (by decide)⟩, fun h => absurd hp h,
      fun m z h => ⟨(q3 m z h).1, (q3 m z h).2.1⟩, fun h => (q4 h).1, fun h => ?_, fun _ h => ?_⟩, h2, h3,
      fun h15 => ⟨fun m => ?_, fun m => ?_⟩, fun w hw _ => State.swap_subjects_other _ _ hw⟩
    · rw [(q4 h.2.1).2, if_pos h.2.2]
    · by_cases hal : ∀ m z, ¬standing m z
      · rw [(q4 hal).2, if_neg fun ho => h ⟨hp, hal, ho⟩]
      · simp only [not_forall, not_not] at hal
        obtain ⟨m, z, hmz⟩ := hal
        exact (q3 m z hmz).2.2
    · rw [h4 h15]
      exact or_congr_right (and_congr_right fun _ => ⟨fun h => ⟨hp, h⟩, fun h => h.2⟩)
    · rw [State.swap_subjects_other _ _ (by decide)]
      exact ⟨.inl, fun h => h.resolve_right fun h => h.2.1 hp⟩
  · have he : s.settleClaims k p.other = s.loseClaims k := by
      rw [hset, if_neg fun h => hp (.inl h)]
      cases hs : s.standby? c p.other with
      | none => rfl
      | some n =>
        obtain ⟨h1, z, h2, h3⟩ := State.standby?_eq_some.1 hs
        dsimp only
        rw [h2]
        dsimp only
        rw [if_neg fun h => hp (.inr ⟨n, z, ⟨h1, h2, h3⟩, h⟩)]
    obtain ⟨l1, l2, l3, l4, l5, l6, l7⟩ := ClaimsLost.loseClaims hk
    have hcart (m : Nat) : (s.loseClaims k).cart? m = s.cart? m := by
      unfold State.cart?
      rw [l1 .carts (by decide)]
    rw [he] at hch ⊢
    have hk' := (Keeps.swap (s.loseClaims k) k).changes
    obtain ⟨⟨q, q1, q2, q3, q4⟩, h2, h3, h4⟩ := State.swap_left l3 ha
    simp only [hcart, l7] at q3 q4 h3 h4
    have hns : ¬faulted c.state .cartLost = .opened := by cases c.state <;> simp [faulted]
    have hqs : q.state = faulted c.state .cartLost := by
      by_cases hal : ∀ m z, ¬standing m z
      · have := (q4 hal).2
        rw [this]
        exact if_neg hns
      · simp only [not_forall, not_not] at hal
        obtain ⟨m, z, hmz⟩ := hal
        exact (q3 m z hmz).2.2
    refine ⟨hch, ⟨q, q1, fun h => absurd h hp, fun _ => ⟨?_, ?_⟩, fun m z h => ⟨(q3 m z h).1, (q3 m z h).2.1⟩,
      fun h => (q4 h).1, fun h => absurd h.1 hp, fun h => absurd h hp⟩, fun j hj => (h2 j hj).trans (l4 j hj), h3,
      fun h15 => ⟨fun m => ?_, fun m => ?_⟩, fun w hw hw' => (State.swap_subjects_other _ _ hw).trans (l6 w hw')⟩
    · rw [q2, hqs]
    · obtain ⟨c1, c2, c3, c4, c5, c6, c7⟩ := l2
      have hs := hk' .store (by decide)
      have hl := hk' .loop (by decide)
      unfold ClaimsLost State.carrier? State.bag?
      change ((s.loseClaims k).swap k).store = _ at hs
      change ((s.loseClaims k).swap k).loop = _ at hl
      rw [hs, hl]
      exact ⟨c1, c2, c3, c4, c5, c6, c7⟩
    · rw [h4 h15, l6 _ (by decide)]
      exact ⟨fun h => .inl (h.resolve_right fun h => hns h.2.2), fun h => .inl (h.resolve_right fun h => hp h.2.1)⟩
    · rw [State.swap_subjects_other _ _ (by decide), l5 h15]
      exact or_congr_right (and_congr_right fun _ => ⟨fun h => ⟨hp, h⟩, fun h => h.2⟩)

end Sys2Proof.Machine
end

