-- ==== Sys2Proof/Laws/Receiver.lean ====
section
/-! SUPPORT. What the receiver and the frames it takes may do (Machine/Receiver.lean). -/

namespace Sys2Proof.Machine

/-- The parts that a frame may change. -/
def frameBlocks : List Block :=
  [.opState, .store, .link, .loop, .chutes, .carts, .nextSerial, .routes, .doors, .pen, .notices]

/-- A frame of a kind whose block's act may change some of those parts. -/
theorem Keeps.frame {l : List Block} (s : State) (f : FrameHead) (r : Report) (act : State → State)
    (ha : ∀ t, Keeps l t (act t)) (hl : l ⊆ frameBlocks) : Keeps frameBlocks s (s.takeFrame f r act) :=
  Keeps.takeFrame s f r act ha hl (by decide)

/-- A frame about a carrier of a kind whose block's act may change some of those parts. -/
theorem Keeps.stamped {l : List Block} (s : State) (f : FrameHead) (r : Report) (offset : State → Nat)
    (act : State → Nat → Int → State) (ha : ∀ t c d, Keeps l t (act t c d)) (hl : l ⊆ frameBlocks) :
    Keeps frameBlocks s (s.takeFrame f r fun t => t.atStamp f.stamp (offset t) (act t)) :=
  Keeps.frame s f r _ (fun t => Keeps.atStamp t f.stamp _ _ (ha t) hl (by decide)) (List.Subset.refl _)

/-- A good frame is taken by its kind. -/
theorem Keeps.takeKind (s : State) (i : Instr) : Keeps frameBlocks s (s.takeKind i) := by
  cases i
  case pitch f => exact Keeps.frame s f _ _ (fun t => Keeps.takePitch t _) (by decide)
  case home f => exact Keeps.stamped s f _ (fun _ => 0) State.takeHome (fun t c d => Keeps.takeHome t c d) (by decide)
  case launch f p r w =>
    exact Keeps.stamped s f _ (fun t => t.pointOffset _) (fun t c _ => t.launch c _) (fun t c _ => Keeps.launch t c _)
      (by decide)
  case arch f a o r w =>
    exact Keeps.stamped s f _ (fun t => t.archOffset _) (fun t c _ => t.archSees c _ _)
      (fun t c _ => Keeps.archSees t c _ _) (by decide)
  case check f k o =>
    exact Keeps.stamped s f _ (fun t => t.eyeOffset _) (fun t c _ => t.check _ c _) (fun t c _ => Keeps.check t _ c _)
      (by decide)
  case land f k => exact Keeps.frame s f _ _ (fun t => Keeps.takeLanding t _) (by decide)
  case cartPresent f k p => exact Keeps.frame s f _ _ (fun t => Keeps.cartPresent t _ _) (by decide)
  case cartRemoved f k p r => exact Keeps.frame s f _ _ (fun t => Keeps.cartRemoved t _ _) (by decide)
  case doorscan f d r w => exact Keeps.frame s f _ _ (fun t => Keeps.scan t _ _) (by decide)
  case encode f p r w => exact Keeps.frame s f _ _ (fun t => Keeps.encode t _ _) (by decide)
  all_goals exact Keeps.refl _ s

/-- The receiver reads some bytes (R44). -/
theorem Keeps.readBytes (late : Bool) (fuel : Nat) (s : State) (l : List Byte) :
    Keeps frameBlocks s (s.readBytes late fuel l) := by
  induction fuel generalizing s l with
  | zero => exact (Keeps.setRx s l).mono (by decide)
  | succ fuel ih =>
    unfold State.readBytes
    repeat' split
    all_goals first
      | exact (Keeps.setRx s _).mono (by decide)
      | exact ih s _
      | exact (Keeps.takeKind s _).trans (ih _ _)

/-- Some bytes come (R44). -/
theorem Keeps.hears (s : State) (late : Bool) (l : List Byte) : Keeps frameBlocks s (s.hears late l) :=
  Keeps.readBytes late _ s _

/-- A good frame comes (R44). -/
theorem Keeps.receive (s : State) (f : FrameHead) (kind : Byte) (payload : List Byte) (act : State → State)
    (ha : ∀ t, Keeps frameBlocks t (act t)) : Keeps frameBlocks s (s.receive f kind payload act) := by
  have h1 : Keeps frameBlocks s s.settleRx := Keeps.hears s true []
  unfold State.receive
  dsimp only
  split
  · exact h1.trans (ha _)
  · exact h1.trans (Keeps.hears _ _ _)

/-! ## What the receiver holds -/

/-- The hunt drops bytes from the front. -/
theorem hunt_suffix (l : List Byte) : ∃ a, l = a ++ hunt l :=
  ⟨l.takeWhile (· != syncByte), (List.takeWhile_append_dropWhile ..).symm⟩

/-- The hunt makes nothing longer. -/
theorem length_hunt_le (l : List Byte) : (hunt l).length ≤ l.length := by
  obtain ⟨a, ha⟩ := hunt_suffix l
  have := congrArg List.length ha
  simp only [List.length_append] at this
  omega

/-- The receiver, given enough fuel and a gap after the bytes, keeps none of them. -/
theorem readBytes_late_rx (fuel : Nat) (s : State) (l : List Byte) (h : l.length < fuel) :
    (s.readBytes true fuel l).link.rx = [] := by
  induction fuel generalizing s l with
  | zero => omega
  | succ fuel ih =>
    have hl := length_hunt_le l
    unfold State.readBytes
    split
    · rfl
    · next t ht =>
      have htl : t.length < fuel := by rw [ht, List.length_cons] at hl; omega
      split
      · exact ih _ _ htl
      · exact ih _ _ htl
      · next rest hc =>
        split
        · refine ih _ _ ?_
          unfold candidate at hc
          repeat' split at hc
          all_goals cases hc
          rw [ht] at hl
          simp only [List.length_drop]
          omega
        · exact ih _ _ htl

/-- The receiver holds no bytes once those it held are read to their end. -/
theorem settleRx_rx (s : State) : s.settleRx.link.rx = [] := readBytes_late_rx _ _ _ (Nat.lt_succ_self _)

/-- Reading bytes of which no part reads as a frame of a configured node only uses them up. -/
theorem readBytes_noFrame (fuel : Nat) (s : State) (l : List Byte) (h : l.length < fuel)
    (hn : ∀ (a m b : List Byte) (i : Instr) (f : FrameHead), l = a ++ m ++ b → readFrame m = some i →
      frameHead i = some f → s.knows f = false) :
    s.readBytes true fuel l = s.setRx [] := by
  induction fuel generalizing l with
  | zero => omega
  | succ fuel ih =>
    have hl := length_hunt_le l
    obtain ⟨a, ha⟩ := hunt_suffix l
    unfold State.readBytes
    split
    · rfl
    · next sync t ht =>
      have htl : t.length < fuel := by rw [ht, List.length_cons] at hl; omega
      rw [ht] at ha
      have hnt : ∀ (c m b : List Byte) (i : Instr) (f : FrameHead), t = c ++ m ++ b → readFrame m = some i →
          frameHead i = some f → s.knows f = false := fun c m b i f hc =>
        hn (a ++ sync :: c) m b i f (by rw [ha, hc]; simp)
      split
      · exact ih _ htl hnt
      · exact ih _ htl hnt
      · next i rest hc =>
        have hk : (frameHead i).any s.knows = false := by
          cases hf : frameHead i with
          | none => rfl
          | some f =>
            unfold candidate at hc
            repeat' split at hc
            all_goals cases hc
            next len _ _ _ _ hr =>
            refine hn a _ ((sync :: t).drop (8 + len.toNat)) i f ?_ hr hf
            rw [ha, List.append_assoc, List.take_append_drop]
        simp only [hk, Bool.false_eq_true, if_false]
        exact ih _ htl hnt

/-- A node that is not configured is not known. -/
theorem knows_eq_false {s : State} {f : FrameHead} (h : ∀ x, s.node? f.node.toNat = some x → x.role = none) :
    s.knows f = false := by
  unfold State.knows
  cases hn : s.node? f.node.toNat with
  | none => rfl
  | some x => simp [h x hn]

/-- Where no frame is held, the bytes held are only used up. -/
theorem HoldsNoFrame.settleRx {s : State} (h : HoldsNoFrame s) : s.settleRx = s.setRx [] := by
  refine readBytes_noFrame _ _ _ (Nat.lt_succ_self _) fun a m b i f hl hr hf => knows_eq_false (h a m b i f ?_ hr hf)
  rw [← hl, List.append_nil]

/-- A frame is at least 8 bytes (R183). -/
theorem length_of_readFrame {l : List Byte} {i : Instr} (h : readFrame l = some i) : 8 ≤ l.length := by
  unfold readFrame at h
  split at h
  · next len _ _ _ _ rest =>
    dsimp only at h
    split at h
    · next hc =>
      have := hc.2.2.1
      simp only [List.length_cons]
      omega
    · cases h
  · cases h

/-- Fewer than 8 held bytes hold no frame. -/
theorem HoldsNoFrame.ofShort {s : State} (h : s.link.rx.length < 8) : HoldsNoFrame s := by
  intro a m b i f hl hr
  have := length_of_readFrame hr
  rw [hl] at h
  simp only [List.length_append] at h
  omega

/-- No held bytes hold no frame. -/
theorem HoldsNoFrame.ofEmpty {s : State} (h : s.link.rx = []) : HoldsNoFrame s :=
  .ofShort (by rw [h]; decide)

/-- The receiver's bytes are what they are. -/
theorem setRx_self {s : State} (h : s.link.rx = []) : s.setRx [] = s := by
  unfold State.setRx State.setLink
  rw [← h]

/-- A frame from a configured node, with none held before it, is taken by its kind. -/
theorem receive_known {s : State} {f : FrameHead} (hs : HoldsNoFrame s) (h : s.knows f = true) (kind : Byte)
    (payload : List Byte) (act : State → State) : s.receive f kind payload act = act (s.setRx []) := by
  unfold State.receive
  rw [hs.settleRx]
  exact if_pos h

/-- A frame is received as it is once the bytes held are read to their end. -/
theorem receive_settleRx (s : State) (f : FrameHead) (kind : Byte) (payload : List Byte) (act : State → State) :
    s.receive f kind payload act = s.settleRx.receive f kind payload act := by
  have h : s.settleRx.settleRx = s.settleRx := by
    rw [(HoldsNoFrame.ofEmpty (settleRx_rx s)).settleRx]
    exact setRx_self (settleRx_rx s)
  unfold State.receive
  rw [h]

/-- A node that is configured is known. -/
theorem knows_of_role {s : State} {f : FrameHead} {x : Node} (hn : s.node? f.node.toNat = some x)
    (hr : x.role.isSome = true) : s.knows f = true := by
  simp [State.knows, hn, hr]

end Sys2Proof.Machine
end

