-- ==== Sys2Proof/Laws/Silence.lean ====
section
/-! SUPPORT. A node's silence, gap and return, said once: what the halts and faults of the objects it serves do, and that frames made
on the way leave the nodes but for their outbound sequences (R48, R49, R51, R52). -/

namespace Sys2Proof.Machine

/-! ## Frames made on the way -/

/-- Of the field link, the frames that wait and the nodes' outbound sequences alone may have changed. -/
def SendsOnly (s t : State) : Prop :=
  t.link.rx = s.link.rx ∧ t.link.stampRef = s.link.stampRef ∧ t.link.lastPitch = s.link.lastPitch ∧
  ∀ m y, s.node? m = some y → ∃ v, t.node? m = some { y with outSeq := v }

theorem SendsOnly.same {s t : State} (h : t.link = s.link) : SendsOnly s t := by
  unfold SendsOnly State.node?
  rw [h]
  exact ⟨rfl, rfl, rfl, fun _ y hy => ⟨y.outSeq, hy⟩⟩

theorem SendsOnly.trans {s t u : State} (h : SendsOnly s t) (k : SendsOnly t u) : SendsOnly s u := by
  refine ⟨k.1.trans h.1, k.2.1.trans h.2.1, k.2.2.1.trans h.2.2.1, fun m y hy => ?_⟩
  obtain ⟨v, hv⟩ := h.2.2.2 m y hy
  obtain ⟨v', hv'⟩ := k.2.2.2 m _ hv
  exact ⟨v', hv'⟩

theorem SendsOnly.send (s : State) (r : Role) (object : Nat) (p : OutPayload) : SendsOnly s (s.send r object p) := by
  unfold SendsOnly State.node?
  obtain ⟨k, q, h | h⟩ := State.send_link s r object p <;> rw [h]
  · exact ⟨rfl, rfl, rfl, fun _ y hy => ⟨y.outSeq, hy⟩⟩
  · refine ⟨rfl, rfl, rfl, fun m y hy => ?_⟩
    split at hy
    · cases hy
    · next hm =>
      rw [if_neg hm]
      simp only [List.getElem?_modify, hy]
      by_cases e : k = m - 1
      · exact ⟨y.outSeq + 1, by simp [e]⟩
      · exact ⟨y.outSeq, by simp [e]⟩

theorem SendsOnly.setBelt (s : State) (d : Nat) : SendsOnly s (s.setBelt d) := by
  unfold State.setBelt
  split
  · exact .same rfl
  · dsimp only
    split
    · exact .same rfl
    · exact (SendsOnly.same rfl).trans (.send ..)

theorem SendsOnly.addHalt (s : State) (d : Nat) (w : HaltReason) : SendsOnly s (s.addHalt d w) := by
  unfold State.addHalt
  split
  · exact .same rfl
  · exact (SendsOnly.same rfl).trans (.setBelt ..)

theorem SendsOnly.dropHalt (s : State) (d : Nat) (w : HaltReason) : SendsOnly s (s.dropHalt d w) :=
  (SendsOnly.same rfl).trans (.setBelt ..)

theorem SendsOnly.onCauses (s : State) (i : Nat) (f : HoldSet → HoldSet) : SendsOnly s (s.onCauses i f) := by
  unfold State.onCauses
  split
  · exact .same rfl
  · dsimp only
    split
    · exact .same rfl
    · exact (SendsOnly.same rfl).trans (.send ..)

theorem SendsOnly.putCauses (x : HoldCause) (v : Bool) (l : List Nat) (s : State) : SendsOnly s (s.putCauses x v l) := by
  induction l generalizing s with
  | nil => exact .same rfl
  | cons i t ih => exact (SendsOnly.onCauses ..).trans (ih _)

theorem SendsOnly.causeOfLoss (s : State) : SendsOnly s s.causeOfLoss := by
  unfold State.causeOfLoss
  split
  · dsimp only
    split <;> exact (SendsOnly.same rfl).trans (.putCauses ..)
  · exact .same rfl

/-! ## Halts and faults of served objects -/

/-- The reason NODE is put on each door of a list, its belt stopped, and no other door changes. -/
theorem State.haltNode_door? (l : List Nat) (s : State) (e : Nat) : (s.haltNode l).door? e =
    if e ∈ l then (s.door? e).map (fun x => { x with halts := { x.halts with node := true }, running := false })
    else s.door? e := by
  induction l generalizing s with
  | nil => simp [State.haltNode]
  | cons d t ih =>
    rw [State.haltNode, ih, State.addHalt_door?]
    by_cases h1 : e = d <;> by_cases h2 : e ∈ t <;> simp only [h1, h2, List.mem_cons, if_true, if_false, or_true, true_or, or_self]
    all_goals (cases s.door? d <;> simp_all [HaltSet.put])

theorem SendsOnly.haltNode (l : List Nat) (s : State) : SendsOnly s (s.haltNode l) := by
  induction l generalizing s with
  | nil => exact .same rfl
  | cons d t ih => exact (SendsOnly.addHalt ..).trans (ih _)

/-- The halts of the doors of a list change no source but DOOR_STOPPED, and take no subject from it. -/
theorem State.haltNode_subjects (l : List Nat) (s : State) :
    (∀ w, w ≠ .doorStopped → (s.haltNode l).subjects w = s.subjects w) ∧
    (s.notices.sources.length = 15 → ∀ m, m ∈ (s.haltNode l).subjects .doorStopped ↔
      m ∈ s.subjects .doorStopped ∨ m ∈ l ∧ ∃ y, s.door? m = some y) := by
  induction l generalizing s with
  | nil => exact ⟨fun _ _ => rfl, fun _ m => by simp [State.haltNode]⟩
  | cons d t ih =>
    rw [State.haltNode]
    obtain ⟨i1, i2⟩ := ih (s.addHalt d .node)
    cases hd : s.door? d with
    | none =>
      have hs : s.addHalt d .node = s := by unfold State.addHalt; rw [hd]
      rw [hs] at i1 i2 ⊢
      refine ⟨i1, fun hn m => (i2 hn m).trans ?_⟩
      simp only [List.mem_cons]
      constructor
      · rintro (h | ⟨h1, h2⟩)
        · exact .inl h
        · exact .inr ⟨.inr h1, h2⟩
      · rintro (h | ⟨h1 | h1, h2⟩)
        · exact .inl h
        · subst h1; obtain ⟨y, hy⟩ := h2; rw [hd] at hy; cases hy
        · exact .inr ⟨h1, h2⟩
    | some x =>
      have hdoors : ∀ m, (∃ y, (s.addHalt d .node).door? m = some y) ↔ ∃ y, s.door? m = some y := fun m => by
        rw [State.addHalt_door?]
        split
        · simp [Option.map_eq_some_iff]
        · exact Iff.rfl
      refine ⟨fun w hw => ?_, fun hn m => ?_⟩
      · rw [i1 w hw, State.addHalt_subjects hd, State.subjects_raise_other s hw d]
      · have hn' : (s.addHalt d .node).notices.sources.length = 15 := by
          unfold State.addHalt
          rw [hd]
          dsimp only
          rw [(Keeps.setBelt _ d).changes .notices (by decide)]
          exact (List.length_modify ..).trans hn
        rw [i2 hn' m, State.addHalt_subjects hd, State.mem_subjects_raise hn, hdoors]
        simp only [List.mem_cons]
        constructor
        · rintro ((h | h) | ⟨h1, h2⟩)
          · subst h; exact .inr ⟨.inl rfl, x, hd⟩
          · exact .inl h
          · exact .inr ⟨.inr h1, h2⟩
        · rintro (h | ⟨h1 | h1, h2⟩)
          · exact .inl (.inr h)
          · exact .inl (.inl h1)
          · exact .inr ⟨h1, h2⟩

/-- The reason NODE is taken from each door of a list, its belt following, and no other door changes. -/
theorem State.unhaltNode_door? (l : List Nat) (s : State) :
    (∀ x, (s.unhaltNode l).beltRuns x = s.beltRuns x) ∧ ∀ e, (s.unhaltNode l).door? e =
      if e ∈ l then (s.door? e).map (fun x => { x with
        halts := { x.halts with node := false }
        running := s.beltRuns { x with halts := { x.halts with node := false } } })
      else s.door? e := by
  induction l generalizing s with
  | nil => exact ⟨fun _ => rfl, fun e => by simp [State.unhaltNode]⟩
  | cons d t ih =>
    obtain ⟨i1, i2⟩ := ih (s.dropHalt d .node)
    have hb : ∀ x, (s.dropHalt d .node).beltRuns x = s.beltRuns x := fun x =>
      (State.setBelt_beltRuns _ d x).trans (State.beltRuns_congr rfl rfl rfl (fun _ => rfl) x)
    have hd : ∀ e, (s.dropHalt d .node).door? e = if e = d then (s.door? e).map (fun x => { x with
        halts := { x.halts with node := false }
        running := s.beltRuns { x with halts := { x.halts with node := false } } }) else s.door? e := fun e => by
      unfold State.dropHalt
      rw [State.setBelt_door?, State.modifyDoor_door?]
      split
      · cases s.door? e with
        | none => rfl
        | some x => rfl
      · rfl
    refine ⟨fun x => (i1 x).trans (hb x), fun e => ?_⟩
    rw [State.unhaltNode, i2, hd]
    by_cases h1 : e = d <;> by_cases h2 : e ∈ t <;> simp only [h1, h2, List.mem_cons, if_true, if_false, or_true, true_or, or_self]
    all_goals (cases s.door? d <;> simp_all)
    rfl

theorem SendsOnly.unhaltNode (l : List Nat) (s : State) : SendsOnly s (s.unhaltNode l) := by
  induction l generalizing s with
  | nil => exact .same rfl
  | cons d t ih => exact (SendsOnly.dropHalt ..).trans (ih _)

/-- Each chute of a list that is OPEN or BLOCKED goes to FAULT(NODE), its number joins CHUTE_FAULT, and no other chute and no other
source changes. -/
theorem State.faultNode_chute? (l : List Nat) (s : State) :
    (∀ k, (s.faultNode l).chute? k = if k ∈ l then (s.chute? k).map (fun c => { c with
      state := if c.state = .opened ∨ c.state = .blocked then .fault .node else c.state }) else s.chute? k) ∧
    (∀ w, w ≠ .chuteFault → (s.faultNode l).subjects w = s.subjects w) ∧
    (s.notices.sources.length = 15 → ∀ m, m ∈ (s.faultNode l).subjects .chuteFault ↔ m ∈ s.subjects .chuteFault ∨
      m ∈ l ∧ ∃ c, s.chute? m = some c ∧ (c.state = .opened ∨ c.state = .blocked)) := by
  induction l generalizing s with
  | nil => exact ⟨fun k => by simp [State.faultNode], fun _ _ => rfl, fun _ m => by simp [State.faultNode]⟩
  | cons d t ih =>
    obtain ⟨i1, i2, i3⟩ := ih (s.faultChute d .node)
    rw [State.faultNode]
    have hf : ∀ c : Chute, c.state.faults .node = true ↔ c.state = .opened ∨ c.state = .blocked := fun c => by
      cases c.state <;> simp [ChuteState.faults]
    have hc : ∀ k, (s.faultChute d .node).chute? k = if k = d then (s.chute? k).map (fun c => { c with
        state := if c.state = .opened ∨ c.state = .blocked then .fault .node else c.state }) else s.chute? k := fun k => by
      unfold State.faultChute
      cases hd : s.chute? d with
      | none => split <;> simp_all
      | some c =>
        dsimp only
        split
        · next h =>
          rw [State.raise_chute?, State.modifyChute_chute?]
          split
          · next e => subst e; rw [hd, Option.map_some, Option.map_some, if_pos ((hf c).1 h)]
          · rfl
        · next h =>
          split
          · next e => subst e; rw [hd, Option.map_some, if_neg (fun h' => h ((hf c).2 h'))]
          · rfl
    have hsub : ∀ w, w ≠ .chuteFault → (s.faultChute d .node).subjects w = s.subjects w := fun w hw => by
      unfold State.faultChute
      split
      · rfl
      · split
        · exact State.subjects_raise_other (s.modifyChute d _) hw d
        · rfl
    refine ⟨fun k => ?_, fun w hw => (i2 w hw).trans (hsub w hw), fun hn m => ?_⟩
    · rw [i1, hc]
      by_cases h1 : k = d <;> by_cases h2 : k ∈ t <;>
        simp only [h1, h2, List.mem_cons, if_true, if_false, or_true, true_or, or_self]
      all_goals (cases s.chute? d with
        | none => simp_all
        | some c => cases h : c.state <;> simp_all)
    · have hn' : (s.faultChute d .node).notices.sources.length = 15 := by
        unfold State.faultChute
        split
        · exact hn
        · split
          · exact (List.length_modify ..).trans hn
          · exact hn
      have hd : m ∈ (s.faultChute d .node).subjects .chuteFault ↔ m ∈ s.subjects .chuteFault ∨
          m = d ∧ ∃ c, s.chute? m = some c ∧ (c.state = .opened ∨ c.state = .blocked) := by
        unfold State.faultChute
        cases hd : s.chute? d with
        | none => constructor
                  · exact .inl
                  · rintro (h | ⟨rfl, c, h, _⟩)
                    · exact h
                    · rw [hd] at h; cases h
        | some c =>
          dsimp only
          split
          · next h =>
            rw [State.mem_subjects_raise (s := s.modifyChute d _) hn]
            constructor
            · rintro (rfl | h')
              · exact .inr ⟨rfl, c, hd, (hf c).1 h⟩
              · exact .inl h'
            · rintro (h' | ⟨rfl, _⟩)
              · exact .inr h'
              · exact .inl rfl
          · next h =>
            constructor
            · exact .inl
            · rintro (h' | ⟨rfl, c', h', h2⟩)
              · exact h'
              · rw [hd] at h'; cases h'; exact absurd ((hf c).2 h2) h
      rw [i3 hn' m, hd, hc]
      simp only [List.mem_cons]
      by_cases e : m = d
      · simp only [e, if_true, true_or, true_and]
        constructor
        · rintro ((h | h) | ⟨_, c', h1, h2⟩)
          · exact .inl h
          · exact .inr h
          · cases hd' : s.chute? d with
            | none => rw [hd'] at h1; cases h1
            | some c =>
              rw [hd'] at h1
              cases h1
              refine .inr ⟨c, rfl, ?_⟩
              by_contra hne
              simp only [if_neg hne] at h2
              exact hne h2
        · rintro (h | h)
          · exact .inl (.inl h)
          · exact .inl (.inr h)
      · simp [e]

/-! ## Causes of loss -/

/-- What a hold cause makes of the loop rests on no other field. -/
theorem State.putCauses_loop_congr (x : HoldCause) (v : Bool) (l : List Nat) {s t : State} (h : t.loop = s.loop) :
    (t.putCauses x v l).loop = (s.putCauses x v l).loop := by
  induction l generalizing s t with
  | nil => exact h
  | cons i l ih =>
    refine ih ?_
    unfold State.putCause
    rw [State.onCauses_loop, State.onCauses_loop, h]

/-- What a cause of loss makes of the loop rests on the loop and the limits alone. -/
theorem State.causeOfLoss_loop_congr {s t : State} (hl : t.loop = s.loop) (hm : t.limits = s.limits) :
    t.causeOfLoss.loop = s.causeOfLoss.loop := by
  unfold State.causeOfLoss
  rw [hl, hm]
  split
  · dsimp only
    split <;> exact State.putCauses_loop_congr (s := _) _ _ _ rfl
  · exact hl

/-- What a subject that is added makes of a source's subjects rests on them alone. -/
theorem State.raise_subjects_congr {s t : State} (hn : s.notices.sources.length = t.notices.sources.length) {w v : Source}
    (hw : t.subjects w = s.subjects w) {n : Nat} : (t.raise v n).subjects w = (s.raise v n).subjects w := by
  by_cases e : w = v
  · subst e
    have raised : ∀ u : State, (u.raise w n).subjects w =
        if w.number < u.notices.sources.length then insertSubject n (u.subjects w) else [] := fun u => by
      unfold State.subjects State.raise NoticeUnit.onSubjects NoticeUnit.drive
      simp only [State.setNotices_notices, List.getElem?_modify, if_true]
      by_cases h : w.number < u.notices.sources.length
      · rw [List.getElem?_eq_getElem h, if_pos h]; rfl
      · rw [List.getElem?_eq_none (Nat.le_of_not_lt h), if_neg h]; rfl
    rw [raised, raised, hn, hw]
  · rw [State.subjects_raise_other t e n, State.subjects_raise_other s e n, hw]

/-- What a cause of loss makes of a source's subjects rests on them, the loop and the limits alone. -/
theorem State.causeOfLoss_subjects_congr {s t : State} (hl : t.loop = s.loop) (hm : t.limits = s.limits)
    (hn : s.notices.sources.length = t.notices.sources.length) {w : Source}
    (hw : t.subjects w = s.subjects w) : t.causeOfLoss.subjects w = s.causeOfLoss.subjects w := by
  unfold State.causeOfLoss
  rw [hl, hm]
  split
  · dsimp only
    split <;> rw [State.subjects_congr (State.putCauseAll_notices ..), State.subjects_congr (State.putCauseAll_notices ..)]
    · exact State.raise_subjects_congr (s := s.setLoop _) (t := t.setLoop _) hn hw
    · exact State.raise_subjects_congr (s := s.setLoop _) (t := t.setLoop _) hn hw
  · exact hw

/-- After a cause of loss tracking is neither TRACKING nor CONFIRMING. -/
theorem State.causeOfLoss_track (s : State) :
    s.causeOfLoss.loop.track ≠ .tracking ∧ s.causeOfLoss.loop.track ≠ .confirming := by
  unfold State.causeOfLoss
  split
  · dsimp only
    split <;> rw [State.putCauseAll_loop]
    · exact (by decide : TrackState.anchoring ≠ .tracking ∧ TrackState.anchoring ≠ .confirming)
    · exact (by decide : TrackState.failed ≠ .tracking ∧ TrackState.failed ≠ .confirming)
  · next h => exact not_or.1 h

end Sys2Proof.Machine
end

