-- ==== Sys2Proof/Tests/Slice0.lean ====
section
/-! SUPPORT. The model's own tests: what the check on terms refuses, how bytes spell commands, and, for every statement that
has hypotheses, a state and operands that meet them, clause by clause. -/

namespace Sys2Proof.Tests

open Sys2Proof Sys2Proof.Machine

set_option Elab.async false

/-! ## Ill-formed terms are refused -/

/-- A header with an empty key and no body. -/
def head0 : Head := Head.whole (Key.ofNumber 0) 0

theorem test_wellFormed_statusOnly : (Instr.statusOnly 0x80).wellFormed = false ∧ (Instr.statusOnly 0x01).wellFormed = false ∧
    (Instr.statusOnly 0x81).wellFormed = true := by decide +kernel
theorem test_wellFormed_fetch : (Instr.fetch 0).wellFormed = false := by decide +kernel
theorem test_wellFormed_unknownRequest : (Instr.unknownRequest 0x0C head0).wellFormed = false ∧
    (Instr.unknownRequest 0 head0).wellFormed = false ∧ (Instr.unknownRequest 0x80 head0).wellFormed = false ∧
    (Instr.unknownRequest 0x0D head0).wellFormed = true := by decide +kernel
theorem test_wellFormed_lists :
    (Instr.configNode head0 (some .loop) (List.replicate 256 0)).wellFormed = false ∧
    (Instr.cabinPut head0 0 1 (List.replicate 256 (1, 1))).wellFormed = false ∧
    (Instr.noticeMask head0 [] (some true)).wellFormed = false := by decide +kernel
theorem test_wellFormed_numbers : (Instr.cutComplete 40).wellFormed = false ∧
    (Instr.landingDeadline 40).wellFormed = false ∧ (Instr.checkDeadline 512).wellFormed = false ∧
    (Instr.doorArbitrate 6).wellFormed = false ∧ (Instr.cartComplete 6).wellFormed = false ∧
    (Instr.nodeDown 0).wellFormed = false ∧ (Instr.nodeDown 33).wellFormed = false ∧
    (Instr.cartRemoved ⟨1, 0, 0⟩ 0 0 1).wellFormed = false := by decide +kernel

/-! ## Bytes and commands (R172, R174, R182, R183) -/

/-- The CRC of "123456789" for the polynomial and start value of R183. -/
theorem test_crc : crc16 [0x31, 0x32, 0x33, 0x34, 0x35, 0x36, 0x37, 0x38, 0x39] = 0x29B1 := by decide +kernel

/-- The bytes of a frame from node 1, sequence 61, with stamp 201. -/
def wire (kind : Byte) (payload : List Byte) : List Byte := frameBytes 1 61 kind 201 payload

theorem test_frames_decode :
    commandOfFrame (wire 0x01 []) = .pitch ⟨1, 61, 201⟩ ∧
    commandOfFrame (wire 0x02 []) = .home ⟨1, 61, 201⟩ ∧
    commandOfFrame (wire 0x05 [7, 1]) = .check ⟨1, 61, 201⟩ 7 1 ∧
    commandOfFrame (wire 0x06 [7]) = .land ⟨1, 61, 201⟩ 7 ∧
    commandOfFrame (wire 0x07 [7, 1, 1]) = .cartPresent ⟨1, 61, 201⟩ 7 1 ∧
    commandOfFrame (wire 0x07 [7, 1, 0]) = .cartRemoved ⟨1, 61, 201⟩ 7 1 0 := by decide +kernel
theorem test_tag_frames_decode :
    commandOfFrame (wire 0x03 [2, 1, 0, 0, 1, 44]) = .launch ⟨1, 61, 201⟩ 2 1 300 ∧
    commandOfFrame (wire 0x04 [3, 1, 1, 0, 0, 1, 44]) = .arch ⟨1, 61, 201⟩ 3 1 1 300 ∧
    commandOfFrame (wire 0x08 [5, 1, 0, 0, 1, 44]) = .doorscan ⟨1, 61, 201⟩ 5 1 300 ∧
    commandOfFrame (wire 0x09 [9, 2, 0, 0, 0, 0]) = .encode ⟨1, 61, 201⟩ 9 2 0 := by decide +kernel
theorem test_frames_outside_the_format : readFrame (wire 0x01 [0]) = none ∧ readFrame (wire 0x10 []) = none ∧
    readFrame (0xA5 :: 0 :: 1 :: 61 :: 1 :: 201 :: [0, 0]) = none := by decide +kernel
theorem test_transactions_decode :
    commandOfTransaction [0] = some (.statusOnly 0) ∧
    commandOfTransaction (0x80 :: List.replicate 8 0) = some (.fetch 9) ∧
    commandOfTransaction [0x08, 0x00, 0, 0, 0, 0] = some (.run ⟨0, ⟨0, 0, 0, 0⟩, 6⟩) ∧
    commandOfTransaction [0x0D, 0, 0, 0, 0, 0] = some (.unknownRequest 0x0D ⟨0, ⟨0, 0, 0, 0⟩, 6⟩) ∧
    commandOfTransaction [0x01, 0x03, 0, 0, 0, 0, 1, 44, 96] = some (.configLoop ⟨3, ⟨0, 0, 0, 0⟩, 9⟩ 300 96) ∧
    commandOfTransaction [0x20, 0x84, 1, 0, 0x1F, 0x40, 0, 0, 1, 44] =
      some (.bagRegister ⟨0x84, ⟨1, 0, 0x1F, 0x40⟩, 10⟩ 300) := by decide +kernel
/-- What comes beyond a body is ignored: a BAG GET of body length 0 has the handle form whatever follows, and its echo with it. -/
theorem test_bytes_beyond_the_body :
    commandOfTransaction [0x21, 0, 0, 0, 1, 44, 1] = some (.bagGet ⟨0, ⟨0, 0, 1, 44⟩, 7⟩ (some .handle)) ∧
    commandOfTransaction [0x21, 1, 0, 0, 1, 44, 1, 9] = some (.bagGet ⟨1, ⟨0, 0, 1, 44⟩, 8⟩ (some .tag)) ∧
    Head.forBagGet ⟨0, ⟨0, 0, 1, 44⟩, 7⟩ (some .tag) = ⟨0, ⟨0, 0, 1, 0⟩, 7⟩ ∧
    Head.forBagGet ⟨1, ⟨0, 0, 1, 44⟩, 6⟩ (some .tag) = ⟨1, ⟨0, 0, 1, 0⟩, 6⟩ ∧
    Head.forBagGet ⟨1, ⟨0, 0, 1, 44⟩, 7⟩ (some .tag) = ⟨1, ⟨0, 0, 1, 44⟩, 7⟩ := by decide +kernel
theorem test_no_table_bits : decodeTableWord 8 1 = none ∧ State.reset.withFetchWord 8 1 = State.reset := by decide +kernel

/-! ## A small hall -/

/-- Routes 3 of berth A and none other bound: to door 0, with chute 0. -/
def route3 : Route := ⟨some 0, [0], [], .idle, false, false, 5⟩

/-- The key of that route. -/
def key3 : RouteKey := ⟨.berthA, 3⟩

/-- A cabin of route 3 with one guest in a state, at a place of the pool. -/
def cabin (g : GuestState) (live place : Nat) : Cabin := ⟨3, 2, [⟨1, 11, g⟩], none, 0, live, 0, .noPull, none, place⟩

/-- Cabins 7 (SAILING), 8 (VOID), 9 (PENDING), 10 (VOID, forwarded to 7) and 11 (full) of berth A. -/
def cabins : Table Cabin :=
  [(7, { cabin .boarded 1 0 with forwardedIn := 1 }), (8, cabin .notSailing 0 1), (9, cabin .expected 0 2),
   (10, { cabin .notSailing 0 3 with forward := some 7 }), (11, cabin .boarded 2 4)]

/-- A cart at chute 0, of route 3, with some entries. -/
def cart (l : List Entry) (st : CartState) : Cart := ⟨0, some key3, 4, l, 0, false, st⟩

/-- Chute 0, a DECK chute of route 3 with cart 1 active at X. -/
def deck : Chute := ⟨.deck, 30, 4, 8, 4, 4, some key3, .opened, 0, [], [], .cart 1, .empty, some .x, 0⟩

/-- Chute 1, a STRAY chute. -/
def strayChute : Chute := ⟨.stray, 40, 4, 8, 4, 4, none, .opened, 0, [], [], .empty, .empty, none, 0⟩

/-- Door 0 of berth A, free. -/
def door0 : Door := ⟨.berthA, 5, false, HaltSet.empty, none, none⟩

/-- A node of a role heard at second 100, expecting sequence 5. -/
def node (r : Role) (l : List Nat) : Node := ⟨some r, l, .live, some 5, some 100, 0⟩

/-- The record store with some bags from index 0 on, the first two with their tags in the map. -/
def storeOf (bags : List Bag) : Store :=
  ⟨⟨.opened, some 500, true, ⟨4, 4, 4, 4, 4, 4⟩⟩, Sailing.reset, cabins, (List.range bags.length).zip bags, [],
   [(100, ⟨0, 0⟩), (101, ⟨1, 0⟩)].take bags.length⟩

/-- Induction point 0 at offset 10, on GO. -/
def point0 : Induction := ⟨10, 2, ⟨false, false, false, false, false⟩, true⟩

/-- The hall in RUN and TRACKING with some bags, S at 50 and the position at 0. -/
def hall (bags : List Bag) : State :=
  { State.reset with
    opState := .run
    hallSecond := 102
    store := storeOf bags
    link := { Link.reset with
      nodes := [node .loop [], node .induct [0], node .arch [0], node .chute [0, 1], node .door [0], node .encode []] ++
        List.replicate 26 Node.reset
      stampRef := some 50
      lastPitch := some 50 }
    loop := { Loop.reset with track := .tracking, points := [(0, point0)], arches := [(0, ⟨20, 3⟩)] }
    chutes := [(0, deck), (1, strayChute)]
    carts := [(1, cart [] .filling)]
    nextSerial := 2
    routes := List.replicate 3 Route.reset ++ [route3] ++ List.replicate 20 Route.reset
    doors := [(0, door0)]
    pen := ⟨16, [], [], false⟩ }

/-- A bag of cabin 7 with tag 100 in a state. -/
def bag (st : BagState) (loc : Option Location) : Bag :=
  { Bag.blank st loc with tag := some 100, home := some ⟨.berthA, 7⟩ }

/-- An anonymous stray at pen position 0. -/
def stray0 : Bag := { Bag.blank .stray (some (.pen 0)) with reason := some .noRead, entered := some 90 }

/-- The handles of the first two bags. -/
def h0 : Handle := ⟨0, 0⟩
def h1 : Handle := ⟨1, 0⟩

/-- The hall with bag 0 held by what its location names. -/
def hallWith (st : BagState) : State :=
  match st with
  | .registered | .missing | .offload => hall [bag st none]
  | .onLoop =>
    let s := hall [bag st (some (.carrier 38))]
    s.setContent 38 (.loaded h0)
  | .landing =>
    let s := hall [bag st (some (.chute 0))]
    s.setChutes [(0, { deck with landing := [⟨h0, 50⟩] }), (1, strayChute)]
  | .jammed =>
    let s := hall [bag st (some (.chute 0))]
    s.setChutes [(0, { deck with jams := [h0] }), (1, strayChute)]
  | .inCart | .aboard =>
    let s := hall [bag st (some (.cart 1))]
    s.setCarts [(1, cart [⟨h0, st == .aboard⟩] .filling)]
  | .stray =>
    let s := hall [{ bag st (some (.pen 0)) with reason := some .unknownTag, entered := some 90 }]
    s.setPen ⟨16, [(0, h0)], [h0], false⟩

/-- Bag 0 of that hall. -/
def bagWith (st : BagState) : Bag := ((hallWith st).bag? h0).getD (bag st none)

/-- A header with an object's, a cabin's, a route's or bag 0's key. -/
def onObject (n len : Nat) : Head := Head.whole (Key.ofNumber n) len
def onCabin (n len : Nat) : Head := Head.whole (Key.ofCabin .berthA n) len
def onRoute (n len : Nat) : Head := Head.whole (Key.ofRoute ⟨.berthA, n⟩) len
def onBag0 (len : Nat) : Head := Head.whole (Key.ofHandle h0) len

/-! ## Premises, in a form a state can be checked against -/

theorem nameable {s : State} {h : Handle} {b : Bag}
    (hc : (decide (h.index < bagRecords) && s.opState != .setup && s.bag? h == some b &&
      b.home.all (fun k => s.slotState k.slot != .closing)) = true) : Nameable s h b := by
  simp only [Bool.and_eq_true, decide_eq_true_eq, bne_iff_ne, ne_eq, beq_iff_eq] at hc
  obtain ⟨⟨⟨h1, h2⟩, h3⟩, h4⟩ := hc
  refine ⟨h1, h2, h3, fun k hk => ?_⟩
  rw [hk] at h4
  simpa using h4

theorem slotOpen {s : State} {h : Head} {b : SlotId}
    (hc : (h.key.slot? == some b && s.opState != .setup && s.slotState b == .opened) = true) : SlotOpen s h b := by
  simp only [Bool.and_eq_true, bne_iff_ne, ne_eq, beq_iff_eq] at hc
  exact ⟨hc.1.1, hc.1.2, hc.2⟩

theorem admitted {s : State} {f : FrameHead} {x : Node}
    (hc : (s.opState == .run && s.node? f.node.toNat == some x && x.role.isSome && s.link.rx == []) = true) :
    Admitted s f x := by
  simp only [Bool.and_eq_true, beq_iff_eq] at hc
  exact ⟨.ofEmpty hc.2, hc.1.1.1, hc.1.1.2, hc.1.2⟩

theorem serves {s : State} {x : Node} {r : Role} {n : Nat}
    (hc : (x.role == some r && x.objects.contains n && s.configured r n) = true) : Serves s x r n := by
  simp only [Bool.and_eq_true, beq_iff_eq, List.contains_iff_mem] at hc
  exact ⟨hc.1.1, hc.1.2, hc.2⟩

theorem resolves {s : State} {stamp : Byte} {offset c : Nat} {r : Byte} (hr : s.link.stampRef = some r)
    (hc : (decide (-63 ≤ (stamp - r).toInt) && decide ((stamp - r).toInt ≤ 8) &&
      c == (((s.loop.pos : Int) + (stamp - r).toInt - (offset : Int)) % (s.loop.carriers.length : Int)).toNat) = true) :
    ResolvesTo s stamp offset c (stamp - r).toInt := by
  simp only [Bool.and_eq_true, decide_eq_true_eq, beq_iff_eq] at hc
  exact ⟨r, hr, rfl, hc.1.1, hc.1.2, hc.2⟩

theorem homeOpen {s : State} {b : Bag} (hc : b.home.all (fun k => s.slotState k.slot != .closing) = true) :
    ∀ k, b.home = some k → s.slotState k.slot ≠ .closing := by
  intro k hk
  rw [hk] at hc
  simpa using hc

theorem foundBag {s : State} {read : Byte} {tag : BitVec 32} {g : Handle} {b : Bag}
    (hc : (read.toNat == 1 && decide (1 ≤ tag.toNat) && decide (tag.toNat ≤ 999999999) &&
      s.store.tagMap.get? tag.toNat == some g && s.bag? g == some b &&
      b.home.all (fun k => s.slotState k.slot != .closing)) = true) : FoundBag s read tag g b := by
  simp only [Bool.and_eq_true, decide_eq_true_eq, beq_iff_eq] at hc
  exact ⟨hc.1.1.1.1.1, hc.1.1.1.1.2, hc.1.1.1.2, hc.1.1.2, hc.1.2, homeOpen hc.2⟩

theorem unknownTag {s : State} {read : Byte} {tag : BitVec 32} {may : Bag → Prop}
    (hc : (read.toNat == 1 && decide (1 ≤ tag.toNat) && decide (tag.toNat ≤ 999999999) &&
      s.store.tagMap.get? tag.toNat == none) = true) : NewBag s read tag may (some tag.toNat) .unknownTag := by
  simp only [Bool.and_eq_true, decide_eq_true_eq, beq_iff_eq] at hc
  exact .inr (.inr ⟨hc.1.1.1, hc.1.1.2, hc.1.2, .inl ⟨hc.2, rfl, rfl⟩⟩)

theorem duplicateTag {s : State} {read : Byte} {tag : BitVec 32} {g : Handle} {b : Bag} {may : Bag → Prop}
    (h : FoundBag s read tag g b) (hm : ¬may b) : NewBag s read tag may none .duplicateTag :=
  .inr (.inr ⟨h.1, h.2.1, h.2.2.1, .inr ⟨rfl, g, b, h.2.2.2.1, h.2.2.2.2.1, .inr ⟨h.2.2.2.2.2, hm, rfl⟩⟩⟩)

theorem wrongSailing {s : State} {read : Byte} {tag : BitVec 32} {g : Handle} {b : Bag} {k : CabinKey} {may : Bag → Prop}
    (hk : b.home = some k) (hs : s.slotState k.slot = .closing)
    (hc : (read.toNat == 1 && decide (1 ≤ tag.toNat) && decide (tag.toNat ≤ 999999999) &&
      s.store.tagMap.get? tag.toNat == some g && s.bag? g == some b) = true) : NewBag s read tag may none .wrongSailing := by
  simp only [Bool.and_eq_true, decide_eq_true_eq, beq_iff_eq] at hc
  exact .inr (.inr ⟨hc.1.1.1.1, hc.1.1.1.2, hc.1.1.2, .inr ⟨rfl, g, b, hc.1.2, hc.2, .inl ⟨⟨k, hk, hs⟩, rfl⟩⟩⟩)

/-! ## Witnesses: steps, reset and the request port -/

/-- A response, and the hall while it is being applied and while it waits. -/
def response : Response := ⟨0x23, head0, Answer.refuse .notFound⟩
def working : State := (hall []).setPort (.working response)
def waiting : State := (hall []).setPort (.waiting response)

/-- Each kind of thing that a tick brings, in its order. -/
theorem test_tick_order : ∃ t, step (((hall []).setSubTick 4095).setHallSecond 104 |>.setPort (.working response)
      |>.setSweep { Sweep.reset with mode := .fast }) = .next t ∧
    t.pending = [.levelRefresh, .nodeDown 1, .nodeDown 2, .nodeDown 3, .nodeDown 4, .nodeDown 5, .nodeDown 6, .responseReady,
      .patrolVisit] := ⟨_, rfl, by decide +kernel⟩

/-- The hall with slot A CLOSING. -/
def closing (bags : List Bag) : State :=
  let s := hall bags
  s.setStore { s.store with slotA := { s.store.slotA with state := .closing } }

/-- A hall second is about to begin, with a request being applied, a frame waiting and a node silent for 5 seconds. -/
def busy : State :=
  let s := ((working.setSubTick 4095).setHallSecond 104)
  s.setLink { s.link with txQueue := [⟨2, 0, 50, .induct 0 true⟩] }

theorem test_premises_EmptyQueueTicks : (hall []).pending = [] ∧ (hall []).subTick + 1 < 4096 ∧ busy.pending = [] ∧
    4096 ≤ busy.subTick + 1 ∧ busy.link.nodes[0]? = some (node .loop []) ∧ busy.opState = .run ∧
    100 + busy.limits.silence ≤ busy.hallSecond + 1 ∧ busy.port = .working response ∧ busy.link.txQueue ≠ [] ∧
    (hall []).sweep.walk = none ∧ (hall []).sweep.mode = .patrol ∧
    (hall []).patrolPhase + (hall []).limits.patrolRate < 4096 ∧
    4096 ≤ ((hall []).setPatrolPhase 3968).patrolPhase + ((hall []).setPatrolPhase 3968).limits.patrolRate ∧
    (∀ w ∈ [WalkKind.clear, .close .berthA], ∀ n ∈ [0, 22526, 22527],
      ((hall []).setSweep { Sweep.reset with walk := some ⟨w, n⟩ }).sweep.walk = some ⟨w, n⟩) ∧
    ((hall []).setSweep { Sweep.reset with mode := .fast }).sweep.mode = .fast ∧ State.reset.opState ≠ .run := by
  decide +kernel
theorem test_premises_ResetLeaves : 999 < 1000 ∧ 1000 ≤ 1000 := by decide
theorem test_premises_FetchAnswers : waiting.port = .waiting response ∧ ∀ r, working.port ≠ .waiting r :=
  ⟨rfl, fun _ h => by cases h⟩
theorem test_premises_ResponsePlaced : working.port = .working response ∧ ∀ r, waiting.port ≠ .working r :=
  ⟨rfl, fun _ h => by cases h⟩
theorem test_premises_WorkingDiscards : working.port = .working response ∧ (requestParts (.wake head0)).isSome = true ∧
    (requestParts (.noticeClear head0)).isSome = true ∧
    ∃ code h, Instr.unknownRequest 0x0D head0 = .unknownRequest code h := ⟨rfl, rfl, rfl, _, _, rfl⟩

/-- A transaction that ended one byte early, and two whose body length is not the request's. -/
def short : Head := ⟨0, Key.ofNumber 0, 5⟩
def overlong : Head := ⟨57, Key.ofNumber 0, 63⟩

theorem test_premises_BadLengthRefused : requestParts (.wake short) = some (0x0B, short, 0) ∧
    (∀ r, (hall []).port ≠ .working r) ∧ short.came < 6 + short.bodyLen ∧
    requestParts (.wake overlong) = some (0x0B, overlong, 0) ∧ 56 < overlong.bodyLen ∧
    requestParts (.wake (onObject 0 1)) = some (0x0B, onObject 0 1, 0) ∧ (onObject 0 1).bodyLen ≠ 0 :=
  ⟨rfl, fun _ h => (by cases h), by decide, rfl, by decide, rfl, by decide⟩
theorem test_premises_UnknownRequestRefused : (∀ r, (hall []).port ≠ .working r) ∧
    6 + head0.bodyLen ≤ head0.came ∧ head0.bodyLen ≤ 56 ∧ short.came < 6 + short.bodyLen ∧ 56 < overlong.bodyLen :=
  ⟨fun _ h => (by cases h), by decide +kernel⟩
theorem test_premises_RefusedChangesNothing : ∃ t a, requestParts (.wake head0) = some (0x0B, head0, 0) ∧
    (∀ r, (hall []).port ≠ .working r) ∧ exec (.wake head0) (hall []) = .next t ∧ t.port = .working ⟨0x0B, head0, a⟩ ∧
    a.result ≠ .done ∧ a.result ≠ .accepted :=
  ⟨_, Answer.refuse .wrongState, rfl, fun _ h => by (cases h), rfl, rfl, by decide, by decide⟩
theorem test_premises_SailingTestsInOrder :
    (∀ s ∈ [hall [], closing [], State.reset], Ready s (onCabin 7 0) 0 ∧ Ready s (onCabin 0 0) 0) ∧
    requestParts (.cabinGet (onCabin 7 0)) = some (0x19, onCabin 7 0, 0) ∧
    sailingFields (.cabinGet (onCabin 7 0)) = some true ∧ (onCabin 7 0).key.slot? = some .berthA ∧
    (Head.whole ⟨2, 0, 0, 7⟩ 0).key.slot? = none ∧ sailingFields (.cabinGet (onCabin 0 0)) = some false ∧
    takenByFree (.cabinGet (onCabin 7 0)) = false ∧ State.reset.opState = .setup ∧ (closing []).opState ≠ .setup ∧
    (closing []).slotState .berthA = .closing ∧ (hall []).slotState .berthB = .free ∧
    (Head.whole (Key.ofCabin .berthB 7) 0).key.slot? = some .berthB := by
  refine ⟨fun s hs => ?_, by decide +kernel⟩
  simp only [List.mem_cons, List.not_mem_nil, or_false] at hs
  rcases hs with rfl | rfl | rfl <;>
    exact ⟨.ofIdle rfl (by decide +kernel), .ofIdle rfl (by decide +kernel)⟩
theorem test_premises_BagTestsInOrder :
    let bagless := hall []
    let shut := closing [bag .missing none]
    requestParts (.bagHold (onBag0 0)) = some (0x23, onBag0 0, 0) ∧ bagFields (.bagHold (onBag0 0)) = some true ∧
    Ready bagless (onBag0 0) 0 ∧ Ready shut (onBag0 0) 0 ∧
    bagRecords ≤ (Head.whole (Key.ofHandle ⟨16384, 0⟩) 0).key.handle.index ∧
    (Head.whole (Key.ofHandle ⟨16383, 0⟩) 0).key.handle.index < bagRecords ∧
    bagFields (.jamClearLanded (onBag0 3) false 0 0) = some false ∧ State.reset.opState = .setup ∧
    bagless.store.gen 0 ≠ (Head.whole (Key.ofHandle ⟨0, 1⟩) 0).key.handle.gen ∧
    bagless.store.gen 0 = (onBag0 0).key.handle.gen ∧ bagless.store.bags.get? 0 = none ∧
    shut.bag? h0 = some (bag .missing none) ∧ shut.slotState .berthA = .closing :=
  ⟨rfl, rfl, .ofIdle rfl (by decide +kernel), .ofIdle rfl (by decide +kernel), by decide +kernel⟩

/-! ## Witnesses: setup -/

theorem test_premises_ConfigLoopSets :
    let held := State.reset.setPen ⟨96, [], [], true⟩
    Ready State.reset (onObject 0 3) 3 ∧ Ready held (onObject 0 3) 3 ∧ State.reset.opState = .setup ∧ held.opState = .setup ∧
    State.reset.clearWalk = false ∧ held.clearWalk = false ∧ (64 : BitVec 16).toNat = 64 ∧ (512 : BitVec 16).toNat = 512 ∧
    (16 : Byte).toNat = 16 ∧ (128 : Byte).toNat = 128 ∧ (96 : Byte).toNat = State.reset.pen.size ∧
    (128 : Byte).toNat ≠ held.pen.size ∧ State.reset.pen.hold = false ∧ held.pen.hold = true :=
  ⟨.ofIdle rfl (by decide +kernel), .ofIdle rfl (by decide +kernel), by decide +kernel⟩
theorem test_premises_ConfigObjectsSet : (∀ r, State.reset.port ≠ .working r) ∧ State.reset.opState = .setup ∧
    Head.lengthOk (onObject 5 3) 3 = true ∧ (onObject 5 3).key.number = 5 ∧ (onObject 3 3).key.number = 3 ∧
    Head.lengthOk (onObject 39 7) 7 = true ∧ (onObject 39 7).key.number = 39 ∧ Head.lengthOk (onObject 5 2) 2 = true ∧
    State.reset.clearWalk = false ∧ (∀ v ∈ [(2 : Byte), 16], 2 ≤ v.toNat ∧ v.toNat ≤ 16) ∧
    (∀ v ∈ [(4 : Byte), 32], 2 ≤ v.toNat ∧ v.toNat ≤ 32) ∧ (∀ v ∈ [(4 : Byte), 48], 4 ≤ v.toNat ∧ v.toNat ≤ 48) ∧
    ∀ v ∈ [(0 : Byte), 32], v.toNat ≤ 32 := ⟨fun _ h => (by cases h), by decide +kernel⟩
theorem test_premises_ConfigNodeSets : Ready State.reset (onObject 32 3) (2 + [(39 : Byte)].length) ∧
    1 ≤ (onObject 32 3).key.number ∧ (onObject 32 3).key.number ≤ 32 ∧ Role.admits .chute [39] = true ∧
    State.reset.opState = .setup ∧ State.reset.node? 32 = some Node.reset ∧
    othersServe .chute [39] 32 1 State.reset.link.nodes = false := ⟨.ofIdle rfl (by decide +kernel), by decide +kernel⟩
theorem test_premises_ConfigurationsRefused :
    let s := State.reset
    let clearing := s.setSweep { s.sweep with walk := some ⟨.clear, 0⟩ }
    let served := (hall []).setOpState .setup
    Ready s (onObject 6 2) 2 ∧ requestParts (.configDoor (onObject 6 2) (some .berthA) 32) = some (0x05, onObject 6 2, 2) ∧
    configFields (.configDoor (onObject 6 2) (some .berthA) 32) = some (false, true) ∧ s.opState = .setup ∧
    s.clearWalk = false ∧ Ready (hall []) (onObject 5 2) 2 ∧ (hall []).opState ≠ .setup ∧ (hall []).clearWalk = false ∧
    configFields (.configDoor (onObject 5 2) (some .berthA) 32) = some (true, true) ∧ Ready clearing (onObject 5 2) 2 ∧
    clearing.opState = .setup ∧ clearing.clearWalk = true ∧ Ready served (onObject 32 3) (2 + [(1 : Byte)].length) ∧
    Role.admits .chute [1] = true ∧ served.opState = .setup ∧ served.node? 4 = some (node .chute [0, 1]) ∧
    (∃ o ∈ [(1 : Byte)], o.toNat ∈ (node .chute [0, 1]).objects) :=
  ⟨.ofIdle rfl (by decide +kernel), by decide +kernel, by decide +kernel, rfl, by decide +kernel,
    .ofIdle rfl (by decide +kernel), by decide +kernel, by decide +kernel, by decide +kernel, .ofIdle rfl (by decide +kernel), rfl,
    by decide +kernel, .ofIdle rfl (by decide +kernel), by decide +kernel⟩
theorem test_premises_ConfigLimitsSets : Ready (hall []) (onObject 0 10) 10 ∧ (hall []).opState ≠ .rest ∧
    (limitsOf ⟨1, 4, 1, 2, 1, 1, 0, 1, 16⟩).inRange = true ∧
    (limitsOf ⟨15, 64, 15, 8, 7, 60, 32, 240, 1024⟩).inRange = true ∧
    (4 : Byte).toNat = (hall []).limits.penLow ∧ (0 : Byte).toNat ≠ (hall []).limits.penLow ∧
    (32 : Byte).toNat ≠ (hall []).limits.penLow := ⟨.ofIdle rfl (by decide +kernel), by decide +kernel⟩
theorem test_premises_ConfigLimits_refused : (limitsOf ⟨0, 4, 1, 2, 1, 1, 0, 1, 16⟩).inRange = false ∧
    ((hall []).setOpState .rest).opState = .rest ∧ Ready ((hall []).setOpState .rest) (onObject 0 10) 10 :=
  ⟨by decide +kernel, rfl, .ofIdle rfl (by decide +kernel)⟩
/-- The hall in SETUP. -/
def inSetup : State := (hall []).setOpState .setup

/-- The hall in SETUP with induction point 0 at an offset, under a node. -/
def pointAt (offset node : Nat) : State :=
  inSetup.setLoop { inSetup.loop with points := [(0, { point0 with offset := offset, node := node })] }

/-- The first four tests of RUN pass. -/
def passes (s : State) : Bool :=
  s.loop.points.all (fun e => s.servingNode .induct e.1 == some e.2.node && decide (e.2.offset < 64)) &&
  s.loop.arches.all (fun e => s.servingNode .arch e.1 == some e.2.node && decide (e.2.offset < 64)) &&
  s.chutes.all (fun e => s.servingNode .chute e.1 == some e.2.node && decide (e.2.offset + 1 < 64)) &&
  s.loop.arches != [] && (s.chutes.filter (fun e => e.2.kind == .stray)).length == 1

theorem test_premises_RunEnters : Ready inSetup head0 0 ∧ inSetup.opState = .setup ∧ inSetup.clearWalk = false ∧
    inSetup.loop.carriers.length = 64 ∧ passes inSetup = true ∧
    inSetup.doors.all (fun e => inSetup.servingNode .door e.1 == some e.2.node) = true ∧
    (pointAt 63 2).servingNode .induct 0 = some 2 ∧ (pointAt 63 3).loop.points = [(0, { point0 with offset := 63, node := 3 })] ∧
    (pointAt 64 2).loop.points = [(0, { point0 with offset := 64 })] ∧
    (inSetup.setLoop { inSetup.loop with arches := [] }).loop.arches = [] ∧
    ((inSetup.setChutes [(0, deck)]).chutes.filter (fun e => e.2.kind == .stray)).length = 0 ∧
    passes (inSetup.setDoors [(0, { door0 with node := 4 })]) = true ∧
    (inSetup.setDoors [(0, { door0 with node := 4 })]).servingNode .door 0 ≠ some 4 :=
  ⟨.ofIdle rfl (by decide +kernel), by decide +kernel⟩

/-- The hall with a walk running. -/
def walking (bags : List Bag) (w : WalkKind) (n : Nat) : State :=
  (hall bags).setSweep { Sweep.reset with walk := some ⟨w, n⟩ }

theorem ownCarts {s : State} {k : Nat} {c : Chute}
    (hc : (s.chutes.all (fun e => e.1 == k || [PosName.x, .y].all (fun p => [PosName.x, .y].all (fun q =>
      c.position p == .empty || c.position p == .marked || c.position p != e.2.position q)))) = true) : OwnCarts s k c := by
  intro p m hp j o hj ho q hq
  have h := List.all_eq_true.1 hc (j, o) (Table.mem_of_get? ho)
  have hall : ∀ r : PosName, r ∈ [PosName.x, .y] := by intro r; cases r <;> decide
  simp only [Bool.or_eq_true, beq_iff_eq, hj, false_or] at h
  have h2 := List.all_eq_true.1 (List.all_eq_true.1 h p (hall p)) q (hall q)
  rw [hp, hq] at h2
  simp at h2

/-- Cart 1, in a state with an unidentified item, is active at chute 0, with cart 2 STANDBY beside it or none. -/
def swapping (st : CartState) (standby : Bool) : State :=
  ((hall []).setCarts ((1, { cart [] st with unidentified := 1 }) :: if standby then [(2, cart [] .standby)] else [])).setChutes
    [(0, { deck with posY := if standby then .cart 2 else .empty }), (1, strayChute)]

/-- The cut that completes at a chute with a STANDBY cart and at one without. -/
theorem test_swap : (∃ t, exec (.cutComplete 0) (swapping .closing true) = .next t ∧ t.cart? 2 = some (cart [] .filling) ∧
      t.chute? 0 = some { deck with posY := .cart 2, active := some .y }) ∧
    ∃ t, exec (.cutComplete 0) (swapping .closing false) = .next t ∧
      t.chute? 0 = some { deck with active := none, state := .blocked } ∧ t.subjects .chuteBlocked = [0] :=
  ⟨⟨_, rfl, by decide +kernel⟩, _, rfl, by decide +kernel⟩

/-- Cart 1, CLOSING, is active at chute 0, with one reserved. -/
def closingCart : State := (hall []).setCarts [(1, { cart [] .closing with unidentified := 1 })] |>.setChutes
  [(0, { deck with reserved := 1 }), (1, strayChute)]

theorem test_premises_HallClearStarts : Ready closingCart head0 0 ∧ closingCart.sweep.walk = none ∧
    Ready (walking [] .clear 0) head0 0 ∧ (walking [] .clear 0).sweep.walk ≠ none ∧
    closingCart.node? 1 = some (node .loop []) ∧ (node .loop []).role ≠ none ∧
    closingCart.carrier? 0 = some ⟨.empty, none⟩ ∧ closingCart.chute? 0 = some { deck with reserved := 1 } ∧
    closingCart.activeCart { deck with reserved := 1 } = some (1, { cart [] .closing with unidentified := 1 }) ∧
    closingCart.door? 0 = some door0 ∧ closingCart.loop.points.get? 0 = some point0 ∧
    Table.wf closingCart.loop.points = true ∧ Table.wf closingCart.doors = true ∧
    (∀ v ∈ [true, false], ∃ c, (swapping .closing v).chute? 0 = some c ∧ c.landing = [] ∧ c.jams = [] ∧
      (swapping .closing v).activeCart c = some (1, { cart [] .closing with unidentified := 1 }) ∧
      OwnCarts (swapping .closing v) 0 c) := by
  refine ⟨.ofIdle rfl (by decide +kernel), rfl, .ofIdle rfl (by decide +kernel), by decide, by decide +kernel, by decide +kernel,
    by decide +kernel, by decide +kernel, by decide +kernel, by decide +kernel, by decide +kernel, by decide +kernel,
    by decide +kernel, fun v _ => ?_⟩
  cases v <;> exact ⟨_, rfl, rfl, rfl, by decide +kernel, ownCarts (by decide +kernel)⟩

/-- The hall with route 3 in a state, with a queue. -/
def routed (st : RouteState) (queue : List Nat) : State :=
  let s := hall []
  s.setRoutes (s.routes.set 3 { route3 with state := st, queue := queue })

/-- A carrier armed for a chute. -/
def armed (s : State) (i k remaining : Nat) (reason : Option StrayReason) : State :=
  s.modifyCarrier i (fun e => { e with armed := some ⟨k, remaining, reason⟩ })

theorem test_premises_HallRestEnters : Ready (hall []) head0 0 ∧ (hall []).opState = .run ∧
    (hall []).closeWalk = false ∧ (∀ r ∈ (hall []).routes, r.state ≠ .loading) ∧
    (∀ c ∈ (hall []).loop.carriers, c.armed = none) ∧ (∃ r ∈ (routed .loading []).routes, r.state = .loading) ∧
    ∃ c ∈ (armed (hall []) 33 0 2 none).loop.carriers, c.armed ≠ none :=
  ⟨.ofIdle rfl (by decide +kernel), by decide +kernel⟩
theorem test_premises_WakeEnters : Ready (hall []) head0 0 ∧ (hall []).opState ≠ .rest ∧
    Ready ((hall []).setOpState .rest) head0 0 ∧ ((hall []).setOpState .rest).opState = .rest ∧
    (hall []).loop.points.get? 0 = some point0 ∧ (hall []).node? point0.node = some (node .induct [0]) ∧
    (node .induct [0]).role ≠ none ∧ (hall []).door? 0 = some door0 :=
  ⟨.ofIdle rfl (by decide +kernel), by decide, .ofIdle rfl (by decide +kernel), rfl, by decide +kernel⟩

theorem test_premises_WakingFrameWakes : frameHead (.pitch ⟨1, 5, 50⟩) = some ⟨1, 5, 50⟩ ∧
    ((hall []).setOpState .rest).opState = .rest ∧ ((hall []).setOpState .rest).node? 1 = some (node .loop []) ∧
    (node .loop []).role = some .loop ∧ HoldsNoFrame ((hall []).setOpState .rest) ∧
    Ready ((hall []).setOpState .rest) head0 0 :=
  ⟨rfl, rfl, rfl, rfl, .ofEmpty rfl, .ofIdle rfl (by decide +kernel)⟩

/-! ## Witnesses: sailings and cabins -/

/-- A header that names berth B. -/
def onB (len : Nat) : Head := Head.whole (Key.ofCabin .berthB 0) len

theorem test_premises_OpenSailingOpens : Ready (hall []) (onB 3) 3 ∧ (onB 3).key.slot? = some .berthB ∧
    Ready (hall []) (onCabin 0 3) 3 ∧ (onCabin 0 3).key.slot? = some .berthA ∧ (hall []).opState ≠ .setup ∧
    (hall []).slotState .berthB = .free ∧ (hall []).slotState .berthA ≠ .free ∧
    ((hall []).store.slot .berthA).ship = some (500 : BitVec 16).toNat ∧
    ¬((hall []).slotState .berthA ≠ .free ∧ ((hall []).store.slot .berthA).ship = some (65535 : BitVec 16).toNat) ∧
    (hall []).slotState .berthA = .opened ∧ ((hall []).store.slot .berthA).ship ≠ some (1 : BitVec 16).toNat :=
  ⟨.ofIdle rfl (by decide +kernel), rfl, .ofIdle rfl (by decide +kernel), by decide +kernel⟩

/-- The hall with no bag counted against slot A. -/
def quiet : State :=
  let s := hall []
  s.setStore { s.store with slotA := { s.store.slotA with counts := Counters.zero } }

theorem test_premises_CloseSailingStarts : Ready quiet (onCabin 0 2) 2 ∧ Ready (hall []) (onCabin 0 2) 2 ∧
    quiet.opState = .run ∧ quiet.slotState .berthA = .opened ∧
    (quiet.store.slot .berthA).ship = some (500 : BitVec 16).toNat ∧ quiet.sweep.walk = none ∧
    (quiet.store.slot .berthA).counts = Counters.zero ∧ (∀ e ∈ quiet.doors, e.2.berth = .berthA → e.2.cart = none) ∧
    (∀ i, i < 12 → ∀ r ∈ (quiet.route? ⟨.berthA, i⟩).toList, r.state = .unset ∨ r.state = .idle ∧ r.queue = []) ∧
    ((hall []).store.slot .berthA).counts.hall ≠ 0 :=
  ⟨.ofIdle rfl (by decide +kernel), .ofIdle rfl (by decide +kernel), by decide +kernel⟩
theorem test_premises_SailingGetReads : Ready (hall []) (onCabin 0 0) 0 ∧ (onCabin 0 0).key.slot? = some .berthA ∧
    (hall []).opState ≠ .setup ∧ (hall []).slotState .berthA ≠ .closing ∧ (hall []).slotState .berthB ≠ .closing :=
  ⟨.ofIdle rfl (by decide +kernel), by decide +kernel⟩

/-- Cart 1 stands at door 0, queued behind nothing. -/
def atDoor (bags : List Bag) (l : List Entry) : State :=
  let s := ((hall bags).setDoors [(0, { door0 with cart := some 1, running := true, lastServed := some 3 })]).setCarts
    [(1, cart l .atDoor)]
  s.setRoutes (s.routes.set 3 { route3 with state := .loading })

theorem test_premises_RouteSetBinds : Ready (hall []) (onRoute 3 2) 2 ∧ SlotOpen (hall []) (onRoute 3 2) .berthA ∧
    SlotOpen (atDoor [] []) (onRoute 3 2) .berthA ∧ (onRoute 3 2).key.route = 3 ∧ (onRoute 11 2).key.route < 12 ∧
    (hall []).door? 0 = some door0 ∧ (hall []).routeState key3 ≠ .loading ∧ (hall []).routeCart key3 = none ∧
    (hall []).routeState ⟨.berthA, 11⟩ = .unset ∧ (routed .loading []).routeState key3 = .loading ∧
    (atDoor [] []).routeCart key3 ≠ none :=
  ⟨.ofIdle rfl (by decide +kernel), slotOpen rfl, slotOpen rfl, by decide +kernel⟩

/-- What CLOSE SAILING and ROUTE SET refuse: each of R8's tests has a state in which it is the first that fails. -/
theorem test_premises_SailingRefusals :
    let resting := quiet.setOpState .rest
    let walks := quiet.setSweep { quiet.sweep with walk := some ⟨.close .berthB, 0⟩ }
    let loads := quiet.setRoutes (quiet.routes.set 3 { route3 with state := .loading })
    let stands := quiet.setDoors [(0, { door0 with cart := some 1 })]
    resting.slotState .berthA = .opened ∧ resting.opState ≠ .setup ∧ resting.opState ≠ .run ∧
    (quiet.store.slot .berthA).ship ≠ some (501 : BitVec 16).toNat ∧ walks.sweep.walk ≠ none ∧
    walks.slotState .berthA = .opened ∧ loads.route? ⟨.berthA, 3⟩ = some { route3 with state := .loading } ∧
    (∀ e ∈ stands.doors, e.2.berth = .berthA ∧ e.2.cart ≠ none) ∧
    (∀ i, i < 12 → ∀ r ∈ (stands.route? ⟨.berthA, i⟩).toList, r.state = .unset ∨ r.state = .idle ∧ r.queue = []) ∧
    (hall []).door? (5 : Byte).toNat = none ∧
    ((hall []).setDoors [(0, { door0 with berth := .berthB })]).door? 0 = some { door0 with berth := .berthB } := by
  decide +kernel
/-- One guest in each of guest slots 1 and 4. -/
def guests : List (Byte × BitVec 32) := [(4, 12), (1, 11)]

/-- The hall with a number of cabins. -/
def crowded (n : Nat) : State :=
  let s := hall []
  s.setStore { s.store with cabins := List.replicate n (65535, cabin .boarded 0 0) }

theorem crowded_cabins (n : Nat) : (crowded n).store.cabins.length = n ∧
    (crowded n).store.cabin? ⟨.berthA, 12⟩ = none := by
  refine ⟨List.length_replicate .., ?_⟩
  show Table.get? (List.replicate n (65535, cabin .boarded 0 0)) 12 = none
  induction n with
  | zero => rfl
  | succ n ih => simp only [List.replicate_succ, Table.get?]; exact ih
theorem test_premises_CabinPutCreates : Ready (hall []) (onCabin 12 13) (3 + 5 * guests.length) ∧
    SlotOpen (hall []) (onCabin 12 13) .berthA ∧ (onCabin 12 13).key.cabin = 12 ∧ guestsOk guests = true ∧
    (∀ v ∈ [(1 : Byte), 15], 1 ≤ v.toNat ∧ v.toNat ≤ 15) ∧ (11 : Byte).toNat < 12 ∧
    (hall []).store.cabin? ⟨.berthA, 12⟩ = none ∧ (hall []).store.cabins.length < cabinRecords :=
  ⟨.ofIdle rfl (by decide +kernel), slotOpen rfl, by decide +kernel⟩
theorem test_premises_CabinPutCreates_full (n : Nat) (hn : cabinRecords ≤ n) :
    Ready (crowded n) (onCabin 12 13) (3 + 5 * guests.length) ∧ SlotOpen (crowded n) (onCabin 12 13) .berthA ∧
    (crowded n).store.cabin? ⟨.berthA, 12⟩ = none ∧ cabinRecords ≤ (crowded n).store.cabins.length :=
  ⟨.ofIdle rfl (by decide +kernel), slotOpen rfl, (crowded_cabins n).2, (crowded_cabins n).1.symm ▸ hn⟩
theorem test_premises_CabinPutReplaces : Ready (hall []) (onCabin 7 13) (3 + 5 * guests.length) ∧
    SlotOpen (hall []) (onCabin 7 13) .berthA ∧ SlotOpen (hall []) (onCabin 11 13) .berthA ∧
    (hall []).store.cabin? ⟨.berthA, 7⟩ = some { cabin .boarded 1 0 with forwardedIn := 1 } ∧
    (1 : Byte).toNat = (cabin .boarded 1 0).liveBags ∧ (hall []).store.cabin? ⟨.berthA, 11⟩ = some (cabin .boarded 2 4) ∧
    (1 : Byte).toNat < (cabin .boarded 2 4).liveBags :=
  ⟨.ofIdle rfl (by decide +kernel), slotOpen rfl, slotOpen rfl, by decide +kernel⟩
theorem test_premises_CabinGetReads : Ready (hall []) (onCabin 7 0) 0 ∧ SlotOpen (hall []) (onCabin 7 0) .berthA ∧
    ((hall []).store.cabin? ⟨.berthA, (onCabin 7 0).key.cabin⟩).isSome = true ∧
    SlotOpen (hall []) (onCabin 65535 0) .berthA ∧
    (hall []).store.cabin? ⟨.berthA, (onCabin 65535 0).key.cabin⟩ = none :=
  ⟨.ofIdle rfl (by decide +kernel), slotOpen rfl, by decide +kernel, slotOpen rfl, by decide +kernel⟩
theorem test_premises_CabinDropRetires : Ready (hall []) (onCabin 8 0) 0 ∧ SlotOpen (hall []) (onCabin 8 0) .berthA ∧
    (hall []).store.cabin? ⟨.berthA, 8⟩ = some (cabin .notSailing 0 1) ∧ (cabin .notSailing 0 1).liveBags = 0 ∧
    (cabin .notSailing 0 1).forward = none ∧ (cabin .notSailing 0 1).forwardedIn = 0 ∧
    ∀ c ∈ ((hall []).store.cabin? ⟨.berthA, 7⟩).toList, c.liveBags ≠ 0 :=
  ⟨.ofIdle rfl (by decide +kernel), slotOpen rfl, by decide +kernel⟩
theorem test_premises_CabinForwardSets : Ready (hall []) (onCabin 10 2) 2 ∧ SlotOpen (hall []) (onCabin 10 2) .berthA ∧
    (hall []).store.cabin? ⟨.berthA, 10⟩ = some { cabin .notSailing 0 3 with forward := some 7 } ∧
    (hall []).store.cabin? ⟨.berthA, (11 : BitVec 16).toNat⟩ = some (cabin .boarded 2 4) ∧
    (cabin .boarded 2 4).forward = none ∧ (cabin .boarded 2 4).status ≠ .void ∧ (some 7 : Option Nat) ≠ some 11 ∧
    ((hall []).store.cabin? ⟨.berthA, 7⟩).isSome = true := ⟨.ofIdle rfl (by decide +kernel), slotOpen rfl, by decide +kernel⟩

/-- The hall with cabin 10's guest boarded. -/
def boarded10 : State :=
  let s := hall []
  s.setStore (s.store.modifyCabin ⟨.berthA, 10⟩ (fun c => { c with guests := [⟨1, 11, .boarded⟩] }))

theorem test_premises_CabinForwardRemoves : Ready (hall []) (onCabin 10 2) 2 ∧ Ready boarded10 (onCabin 10 2) 2 ∧
    SlotOpen (hall []) (onCabin 10 2) .berthA ∧ SlotOpen boarded10 (onCabin 10 2) .berthA ∧
    (∀ c ∈ ((hall []).store.cabin? ⟨.berthA, 10⟩).toList, c.forward = some 7 ∧ c.status = .void) ∧
    (∀ c ∈ (boarded10.store.cabin? ⟨.berthA, 10⟩).toList, c.forward = some 7 ∧ c.status ≠ .void) :=
  ⟨.ofIdle rfl (by decide +kernel), .ofIdle rfl (by decide +kernel), slotOpen rfl, slotOpen rfl, by decide +kernel⟩
theorem test_premises_CabinForwardRefused : (∀ n ∈ [(7 : Nat), 8, 10, 12],
      Ready (hall []) (onCabin n 2) 2 ∧ SlotOpen (hall []) (onCabin n 2) .berthA ∧ (onCabin n 2).key.cabin = n) ∧
    (hall []).store.cabin? ⟨.berthA, 12⟩ = none ∧
    (hall []).store.cabin? ⟨.berthA, 8⟩ = some (cabin .notSailing 0 1) ∧ (cabin .notSailing 0 1).forward = none ∧
    (cabin .notSailing 0 1).forwardedIn = 0 ∧ (cabin .notSailing 0 1).status = .void ∧
    (∀ c ∈ ((hall []).store.cabin? ⟨.berthA, 10⟩).toList, c.forward = some 7 ∧ c.forwardedIn = 0) ∧
    (∀ c ∈ ((hall []).store.cabin? ⟨.berthA, 7⟩).toList, c.forward = none ∧ c.forwardedIn ≠ 0 ∧ c.status ≠ .void) := by
  refine ⟨fun n hn => ?_, by decide +kernel⟩
  simp only [List.mem_cons, List.not_mem_nil, or_false] at hn
  rcases hn with rfl | rfl | rfl | rfl <;> exact ⟨.ofIdle rfl (by decide +kernel), slotOpen rfl, rfl⟩
theorem test_premises_GuestStatusSets : Ready (hall []) (onCabin 7 2) 2 ∧ SlotOpen (hall []) (onCabin 7 2) .berthA ∧
    ∀ c ∈ ((hall []).store.cabin? ⟨.berthA, 7⟩).toList, (∃ g ∈ c.guests, g.slot = (1 : Byte).toNat) ∧
      ∀ g ∈ c.guests, g.slot ≠ (4 : Byte).toNat := ⟨.ofIdle rfl (by decide +kernel), slotOpen rfl, by decide +kernel⟩

/-! ## Witnesses: bags -/

theorem hallWith_idle (st : BagState) : (hallWith st).port = .idle := by cases st <;> rfl
theorem hallWith_nameable (st : BagState) : Nameable (hallWith st) h0 (bagWith st) := by
  cases st <;> exact nameable (by decide +kernel)
theorem hallWith_state (st : BagState) : (bagWith st).state = st := by cases st <;> decide +kernel

theorem test_premises_BagRegisterCreates : Ready (hall []) (onCabin 7 4) 4 ∧
    SlotOpen (hall []) (onCabin 7 4) .berthA ∧ SlotOpen (hall []) (onCabin 8 4) .berthA ∧
    (hall []).store.cabin? ⟨.berthA, 7⟩ = some { cabin .boarded 1 0 with forwardedIn := 1 } ∧
    (cabin .boarded 1 0).liveBags < (cabin .boarded 1 0).allowance ∧
    (hall []).store.tagMap.get? (999999999 : BitVec 32).toNat = none ∧ (hall []).store.bags.length < bagRecords ∧
    BagTableLaw (hall []) :=
  ⟨.ofIdle rfl (by decide +kernel), slotOpen rfl, slotOpen rfl, by decide +kernel, by decide, by decide +kernel, by decide +kernel,
    rfl, fun _ h => by cases h⟩

theorem test_premises_BagRegister_refused : (1000000000 : BitVec 32).toNat = 999999999 + 1 ∧
    (hall []).store.cabin? ⟨.berthA, 12⟩ = none ∧ (hall [bag .missing none]).store.tagMap.get? 100 ≠ none ∧
    (hall []).store.cabin? ⟨.berthA, 11⟩ = some (cabin .boarded 2 4) ∧ (cabin .boarded 2 4).allowance ≤ 2 ∧
    SlotOpen (hall []) (onCabin 12 4) .berthA ∧ SlotOpen (hall [bag .missing none]) (onCabin 7 4) .berthA ∧
    (onCabin 12 4).key.cabin = 12 :=
  ⟨by decide, by decide +kernel, by decide +kernel, by decide +kernel, by decide, slotOpen rfl, slotOpen rfl, by decide +kernel⟩
/-- A header with the tag key of a tag below 256. -/
def onTag (n : Byte) : Head := Head.whole ⟨0, 0, 0, n⟩ 1

theorem test_premises_BagGetReads : Ready (hall [bag .missing none]) (onBag0 1) 1 ∧
    Nameable (hall [bag .missing none]) (onBag0 1).key.handle (bag .missing none) ∧ 1 ≤ (onTag 100).key.tag ∧
    (onTag 100).key.tag ≤ 999999999 ∧ (hall [bag .missing none]).store.tagMap.get? (onTag 100).key.tag = some h0 ∧
    (hall [bag .missing none]).store.tagMap.get? (onTag 1).key.tag = none ∧
    (closing [bag .missing none]).store.tagMap.get? (onTag 100).key.tag = some h0 ∧
    (closing [bag .missing none]).bag? h0 = some (bag .missing none) ∧
    (closing [bag .missing none]).slotState .berthA = .closing :=
  ⟨.ofIdle rfl (by decide +kernel), nameable (by decide +kernel), by decide +kernel⟩
/-- Both slots OPEN, with cabin 5 of berth B, and bag 0 held as its state says. -/
def twoSlots (st : BagState) : State :=
  let s := hallWith st
  s.setStore { s.store with
    slotB := ⟨.opened, some 501, false, ⟨1, 1, 1, 1, 1, 1⟩⟩, cabins := s.store.cabins.put 65541 (cabin .boarded 0 5) }

theorem twoSlots_nameable (st : BagState) : Nameable (twoSlots st) h0 (bagWith st) := by
  cases st <;> exact nameable (by decide +kernel)
theorem test_premises_BagReassignMoves : (∀ st, Ready (twoSlots st) (onBag0 3) 3 ∧
    Nameable (twoSlots st) (onBag0 3).key.handle (bagWith st) ∧ (bagWith st).state = st ∧
    (bagWith st).home = some ⟨.berthA, 7⟩) ∧
    (∀ st ∈ [BagState.registered, .onLoop, .stray, .missing],
      (twoSlots st).slotState .berthA = .opened ∧ (twoSlots st).slotState .berthB = .opened ∧
      (twoSlots st).store.cabin? ⟨.berthB, 5⟩ = some (cabin .boarded 0 5) ∧
      (twoSlots st).store.governing { bagWith st with home := some ⟨.berthB, 5⟩ } = some (cabin .boarded 0 5) ∧
      (twoSlots st).store.governing { bagWith st with home := some ⟨.berthA, 8⟩ } = some (cabin .notSailing 0 1)) ∧
    reassignTarget 1 5 = some ⟨.berthB, 5⟩ ∧ reassignTarget 0 8 = some ⟨.berthA, 8⟩ ∧
    reassignTarget 0 12 = some ⟨.berthA, 12⟩ ∧ (twoSlots .stray).store.cabin? ⟨.berthA, 12⟩ = none ∧
    reassignTarget 0 7 = some ⟨.berthA, 7⟩ ∧ (twoSlots .stray).store.cabin? ⟨.berthA, 7⟩ ≠ none ∧
    (cabin .boarded 0 5).liveBags < (cabin .boarded 0 5).allowance ∧
    (cabin .notSailing 0 1).liveBags < (cabin .notSailing 0 1).allowance ∧ reassignTarget 0 11 = some ⟨.berthA, 11⟩ ∧
    (twoSlots .stray).store.cabin? ⟨.berthA, 11⟩ = some (cabin .boarded 2 4) ∧
    (cabin .boarded 2 4).allowance ≤ (cabin .boarded 2 4).liveBags :=
  ⟨fun st => ⟨.ofIdle (by cases st <;> rfl) (by decide +kernel), twoSlots_nameable st, hallWith_state st,
    by cases st <;> decide +kernel⟩, by decide +kernel⟩
theorem test_premises_HoldAndRelease (st : BagState) : Ready (hallWith st) (onBag0 0) 0 ∧
    Nameable (hallWith st) (onBag0 0).key.handle (bagWith st) ∧ (bagWith st).state = st :=
  ⟨.ofIdle (hallWith_idle st) (by decide +kernel), hallWith_nameable st, hallWith_state st⟩
theorem test_premises_BagPullSets : (∀ st, Ready (hallWith st) (onBag0 0) 0 ∧
    Nameable (hallWith st) (onBag0 0).key.handle (bagWith st) ∧ (bagWith st).state = st ∧
    (bagWith st).pull ≠ some .request) ∧
    Nameable (hall [{ bag .missing none with pull := some .request }]) h0 { bag .missing none with pull := some .request } :=
  ⟨fun st => ⟨.ofIdle (hallWith_idle st) (by decide +kernel), hallWith_nameable st, hallWith_state st,
    by cases st <;> decide +kernel⟩,
    nameable (by decide +kernel)⟩
theorem test_premises_BagsRetire (st : BagState) : Nameable (hallWith st) h0 (bagWith st) ∧ (bagWith st).state = st ∧
    Ready (hallWith st) (onBag0 0) 0 ∧ Ready (hallWith st) (onBag0 2) 2 ∧ Ready (hallWith st) (onBag0 1) 1 :=
  ⟨hallWith_nameable st, hallWith_state st, .ofIdle (hallWith_idle st) (by decide +kernel),
    .ofIdle (hallWith_idle st) (by decide +kernel),
    .ofIdle (hallWith_idle st) (by decide +kernel)⟩
theorem test_premises_BagsEnterPen : (∀ st, Nameable (hallWith st) h0 (bagWith st) ∧ (bagWith st).state = st ∧
    Ready (hallWith st) (onBag0 2) 2 ∧ Ready (hallWith st) (onBag0 1) 1) ∧ (bagWith .inCart).location = some (.cart 1) ∧
    (∀ st ∈ [BagState.offload, .inCart], (15 : Byte).toNat < (hallWith st).pen.size ∧
      (hallWith st).pen.positions.has 15 = false ∧ 1 ≤ (hallWith st).penRoom) ∧
    (hallWith .inCart).cart? 1 = some (cart [⟨h0, false⟩] .filling) :=
  ⟨fun st => ⟨hallWith_nameable st, hallWith_state st, .ofIdle (hallWith_idle st) (by decide +kernel),
    .ofIdle (hallWith_idle st) (by decide +kernel)⟩,
    by decide +kernel⟩

/-- Bag 0 in cart 1, which stands at door 0 or is QUEUED on route 3, with other entries and unidentified items. -/
def unloading (st : CartState) (l : List Entry) (unidentified : Nat) : State :=
  let s := hall [bag .inCart (some (.cart 1)), bag .aboard (some (.cart 1))]
  ((s.setCarts [(1, { cart (⟨h0, false⟩ :: l) st with unidentified := unidentified, notify := true })]).setRoutes
    (s.routes.set 3 { route3 with queue := if st = .queued then [1] else [] })).setDoors
      [(0, { door0 with cart := if st = .atDoor then some 1 else none })]

/-- BAG UNLOAD from a cart at a door and from a QUEUED cart: each comes to what its entries and its unidentified items leave. -/
theorem test_premises_BagUnload :
    (∀ st ∈ [CartState.queued, .atDoor], ∀ l ∈ [[], [⟨h1, true⟩], [⟨h1, false⟩]], ∀ u ∈ [0, 1],
      let s := unloading st l u
      let c := { cart (⟨h0, false⟩ :: l) st with unidentified := u, notify := true }
      Ready s (onBag0 1) 1 ∧ Nameable s (onBag0 1).key.handle (bag .inCart (some (.cart 1))) ∧ s.cart? 1 = some c ∧
      (15 : Byte).toNat < s.pen.size ∧ s.pen.positions.has 15 = false ∧ 1 ≤ s.penRoom ∧
      s.notices.sources.length = 15 ∧ c.route = some key3 ∧ (∃ w, s.route? key3 = some w) ∧
      c.entries.filter (fun e => e.bag != h0) = l) ∧
    (unloading .atDoor [⟨h1, true⟩] 0).doorOfCart 1 = some 0 ∧
    (unloading .atDoor [⟨h1, true⟩] 0).door? 0 = some { door0 with cart := some 1 } ∧
    (unloading .atDoor [⟨h1, true⟩] 0).bag? h1 ≠ none := by
  refine ⟨fun st hst l hl u hu => ?_, by decide +kernel⟩
  simp only [List.mem_cons, List.not_mem_nil, or_false] at hst hl hu
  rcases hst with rfl | rfl <;> rcases hl with rfl | rfl | rfl <;> rcases hu with rfl | rfl <;>
    exact ⟨.ofIdle rfl (by decide +kernel), nameable (by decide +kernel), by decide +kernel, by decide +kernel,
      by decide +kernel, by decide +kernel, by decide +kernel, rfl, ⟨_, rfl⟩, by decide +kernel⟩

/-! ## Witnesses: the loop's requests, chutes and carts -/

/-- The hall with chute 0 replaced. -/
def withDeck (bags : List Bag) (c : Chute) : State := (hall bags).setChutes [(0, c), (1, strayChute)]

/-- The hall with cart 1 replaced. -/
def withCart (bags : List Bag) (c : Cart) : State := (hall bags).setCarts [(1, c)]

/-- The hall with tracking in a state. -/
def tracked (s : State) (v : TrackState) : State := s.setLoop { s.loop with track := v }

/-- For LOOP GET, CARRIER GET (at N and at N less 1), TRACKING RESET and TRACKING RESUME. -/
theorem test_premises_LoopRequests : Ready (hallWith .onLoop) (onObject 0 0) 0 ∧ Ready (hall []) (onObject 64 0) 0 ∧
    (hall []).loop.carriers.length ≤ (onObject 64 0).key.number ∧ (onObject 63 0).key.number = 63 ∧
    (hall []).loop.carriers[63]? = some Carrier.reset ∧ (hallWith .onLoop).opState ≠ .setup ∧
    (hallWith .onLoop).loop.track = .tracking ∧ (tracked (hallWith .onLoop) .failed).loop.track = .failed ∧
    (hallWith .onLoop).carrier? 38 = some ⟨.loaded h0, none⟩ ∧ (hallWith .onLoop).bag? h0 = some (bagWith .onLoop) ∧
    State.reset.opState = .setup ∧ (hallWith .onLoop).chute? 0 = some deck ∧
    (hallWith .onLoop).cart? 1 = some (cart [] .filling) :=
  ⟨.ofIdle rfl (by decide +kernel), .ofIdle rfl (by decide +kernel), by decide +kernel⟩

/-- TRACKING RESET disarms the one carrier armed for a chute whose CLOSING cart is active, and is refused in SETUP. -/
theorem test_premises_TrackingResetClears :
    let s := armed closingCart 33 0 2 none
    Ready s head0 0 ∧ s.opState ≠ .setup ∧ Ready State.reset head0 0 ∧ s.chute? 0 = some { deck with reserved := 1 } ∧
    s.activeCart { deck with reserved := 1 } = some (1, { cart [] .closing with unidentified := 1 }) ∧
    (∃ e ∈ s.loop.carriers, ∃ m, e.armed = some m ∧ m.chute = 0) ∧ OwnCarts s 0 { deck with reserved := 1 } ∧
    BagTableLaw (hallWith .onLoop) ∧
    ∃ t, exec (.trackingReset head0) s = answered 0x32 head0 t (Answer.done (.trackingReset 0 1)) ∧
      t.cart? 1 = some { cart [] .cut with unidentified := 1 } :=
  ⟨.ofIdle rfl (by decide +kernel), by decide, .ofIdle rfl (by decide +kernel), by decide +kernel, by decide +kernel,
    ⟨⟨.empty, some ⟨0, 2, none⟩⟩, by decide +kernel, _, rfl, rfl⟩, ownCarts (by decide +kernel), ⟨rfl, by decide +kernel⟩, _, rfl,
    by decide +kernel⟩

/-- The hall with chute 0 on no route, and route 4 with four chutes or none. -/
def unassigned (chutes : List Nat) : State :=
  let s := withDeck [] { deck with assigned := none }
  s.setRoutes (s.routes.set 4 { Route.reset with chutes := chutes })

theorem test_premises_ChuteAssignBinds : Ready (hall []) (onObject 0 2) 2 ∧ SlotId.ofNat? 0 = some .berthA ∧
    (hall []).slotState .berthA = .opened ∧ (hall []).chute? 0 = some deck ∧ deck.kind = .deck ∧
    (hall []).route? ⟨.berthA, 3⟩ = some route3 ∧ deck.assigned = some ⟨.berthA, 3⟩ ∧
    (hall []).route? ⟨.berthA, 11⟩ = some Route.reset ∧ key3 ≠ ⟨.berthA, 11⟩ ∧
    (unassigned [1, 2, 3, 5]).chute? 0 = some { deck with assigned := none } ∧
    (unassigned [1, 2, 3, 5]).route? ⟨.berthA, 4⟩ = some { Route.reset with chutes := [1, 2, 3, 5] } ∧
    (unassigned [1, 2, 3]).route? ⟨.berthA, 4⟩ = some { Route.reset with chutes := [1, 2, 3] } ∧
    (unassigned []).cart? 1 = some (cart [] .filling) ∧ (closing []).opState ≠ .setup ∧
    (closing []).slotState .berthA = .closing ∧ SlotId.ofNat? 1 = some .berthB ∧ (hall []).slotState .berthB = .free ∧
    ((hall []).setOpState .setup).opState = .setup ∧ ∀ k ∈ [2, 39, 40, 255], (hall []).chute? (onObject k 2).key.number = none :=
  ⟨.ofIdle rfl (by decide +kernel), by decide +kernel⟩
theorem test_premises_ChutesOpenAndClose :
    let down := (hall []).modifyNode 4 (fun x => { x with state := .down })
    Ready (hall []) (onObject 0 0) 0 ∧ (hall []).opState ≠ .setup ∧ (hall []).chute? 0 = some deck ∧
    (hall []).node? 4 = some (node .chute [0, 1]) ∧ (node .chute [0, 1]).state ≠ .down ∧
    down.node? deck.node = some { node .chute [0, 1] with state := .down } ∧ (hall []).chute? 39 = none ∧
    ((hall []).setOpState .setup).chute? 0 = some deck ∧
    (withDeck [] { deck with state := .fault .node }).chute? 0 = some { deck with state := .fault .node } ∧
    (withDeck [] { deck with state := .closed, active := none }).chute? 0 =
      some { deck with state := .closed, active := none } ∧
    (withDeck [] { deck with state := .closed, active := none }).notices.sources.length = 15 :=
  ⟨.ofIdle rfl (by decide +kernel), by decide +kernel⟩
theorem test_premises_ChuteAndCartGetRead : Ready (hall []) (onObject 1 0) 0 ∧ (hall []).chute? 1 = some strayChute ∧
    Ready (hall []) (onObject 1 1) 1 ∧ (47 : Byte).toNat ≤ 47 ∧ 47 < (48 : Byte).toNat ∧ (hall []).opState ≠ .setup ∧
    (hall []).cart? 1 = some (cart [] .filling) :=
  ⟨.ofIdle rfl (by decide +kernel), by decide +kernel, .ofIdle rfl (by decide +kernel), by decide +kernel⟩

theorem test_premises_GetsRefused : Ready (hall []) (onObject 39 0) 0 ∧ (hall []).chute? 39 = none ∧
    (hall []).door? 5 = none ∧ State.reset.opState = .setup ∧ Ready State.reset (onObject 1 1) 1 ∧ (hall []).cart? 2 = none :=
  ⟨.ofIdle rfl (by decide +kernel), by decide +kernel, by decide +kernel, rfl, .ofIdle rfl (by decide +kernel),
    by decide +kernel⟩
/-- One unmarked entry for bag 0. -/
def entry0 : Entry := ⟨h0, false⟩

/-- The hall with bag 0 in cart 1, in a state, at chute 0 with some reserved. -/
def loaded (st : CartState) (reserved : Nat) : State :=
  (withCart [bag .inCart (some (.cart 1))] (cart [entry0] st)).setChutes
    [(0, { deck with reserved := reserved }), (1, strayChute)]

theorem test_premises_CartCutCloses : Ready (hall []) (onObject 0 0) 0 ∧ (hall []).chute? 0 = some deck ∧
    deck.active = some .x ∧ deck.position .x = .cart 1 ∧ (hall []).cart? 1 = some (cart [] .filling) ∧
    (hall []).opState ≠ .setup ∧ (∀ st ∈ [CartState.filling, .closing], ∀ n ∈ [0, 1],
      (loaded st n).cart? 1 = some (cart [entry0] st) ∧ (loaded st n).chute? 0 = some { deck with reserved := n } ∧
      ({ deck with reserved := n } : Chute).claims = n) ∧ (loaded .filling 0).opState ≠ .setup ∧
    (swapping .closing true).chute? 0 = some { deck with posY := .cart 2 } ∧
    (swapping .closing true).cart? 2 = some (cart [] .standby) ∧ (hall []).notices.sources.length = 15 :=
  ⟨.ofIdle rfl (by decide +kernel), by decide +kernel⟩
/-- Cart 1, of bag 0 or of none, stands at door 0 with an unidentified item, the belt halted for it. -/
def unidentifiedAtDoor (l : List Entry) : State :=
  ((hall [bag .aboard (some (.cart 1))]).setCarts [(1, { cart l .atDoor with unidentified := 1 })]).setDoors
    [(0, { door0 with cart := some 1, halts := { HaltSet.empty with unidentified := true } })]

theorem test_premises_UnidentifiedCleared :
    let one := fun st l => withCart [] { cart l st with unidentified := 1 }
    Ready (hall []) (onObject 1 0) 0 ∧ (hall []).opState ≠ .setup ∧ (hall []).cart? 2 = none ∧
    (hall []).cart? 1 = some (cart [] .filling) ∧
    (∀ st ∈ [CartState.filling, .queued], ∀ l ∈ [[], [entry0]],
      (one st l).cart? 1 = some { cart l st with unidentified := 1 } ∧ (one st l).doorOfCart 1 = none ∧
      (one st l).opState ≠ .setup) ∧
    (∀ l ∈ [[], [⟨h0, true⟩], [entry0]], (unidentifiedAtDoor l).cart? 1 = some { cart l .atDoor with unidentified := 1 } ∧
      (unidentifiedAtDoor l).doorOfCart 1 = some 0 ∧ (unidentifiedAtDoor l).door? 0 =
        some { door0 with cart := some 1, halts := { HaltSet.empty with unidentified := true } }) ∧
    (hall []).notices.sources.length = 15 := ⟨.ofIdle rfl (by decide +kernel), by decide +kernel⟩

/-- Bag 0 jammed at the STRAY chute, with some reserved there and the pen holding some positions. -/
def strayJam (reserved : Nat) (positions : Table Handle) : State :=
  ((hall [bag .jammed (some (.chute 1)), stray0]).setChutes
    [(0, deck), (1, { strayChute with jams := [h0], reserved := reserved })]).setPen
      ⟨16, positions, positions.map (·.2), false⟩

/-- Bag 0 jammed at the DECK chute while the STRAY chute has claims. -/
def deckJam (reserved : Nat) (positions : Table Handle) : State :=
  ((hall [bag .jammed (some (.chute 0)), stray0]).setChutes
    [(0, { deck with jams := [h0] }), (1, { strayChute with reserved := reserved })]).setPen
      ⟨16, positions, positions.map (·.2), false⟩

theorem test_premises_JamClearLands : Ready (strayJam 0 []) (onBag0 3) 3 ∧
    Nameable (strayJam 0 []) (onBag0 3).key.handle (bag .jammed (some (.chute 1))) ∧
    (strayJam 0 []).chute? (1 : Byte).toNat = some { strayChute with jams := [h0] } ∧ Ready (deckJam 0 []) (onBag0 3) 3 ∧
    Nameable (deckJam 0 []) (onBag0 3).key.handle (bag .jammed (some (.chute 0))) ∧
    (deckJam 0 []).chute? (0 : Byte).toNat = some { deck with jams := [h0] } ∧
    (deckJam 0 []).activeCart { deck with jams := [h0] } = some (1, cart [] .filling) :=
  ⟨.ofIdle rfl (by decide +kernel), nameable (by decide +kernel), by decide +kernel, .ofIdle rfl (by decide +kernel),
    nameable (by decide +kernel), by decide +kernel⟩
theorem test_premises_JamClearRemoves : Ready (strayJam 0 [(0, h1)]) (onBag0 3) 3 ∧
    Nameable (strayJam 0 [(0, h1)]) h0 (bag .jammed (some (.chute 1))) ∧
    (strayJam 0 [(0, h1)]).pen.positions.has (0 : Byte).toNat = true ∧
    (strayJam 0 [(0, h1)]).pen.positions.has (15 : Byte).toNat = false ∧ (15 : Byte).toNat < (strayJam 0 []).pen.size ∧
    Nameable (deckJam 16 []) h0 (bag .jammed (some (.chute 0))) ∧ (deckJam 16 []).penRoom = 0 ∧
    Nameable (deckJam 15 []) h0 (bag .jammed (some (.chute 0))) ∧ 1 ≤ (deckJam 15 []).penRoom ∧
    (deckJam 15 []).chute? (0 : Byte).toNat = some { deck with jams := [h0] } :=
  ⟨.ofIdle rfl (by decide +kernel), nameable (by decide +kernel), by decide +kernel, by decide +kernel, by decide +kernel,
    nameable (by decide +kernel), by decide +kernel, nameable (by decide +kernel), by decide +kernel⟩

theorem test_premises_LowestPosition : Table.wf (strayJam 0 [(0, h1)]).pen.positions = true ∧
    (strayJam 0 [(0, h1)]).lowestPosition = 1 ∧ (strayJam 0 []).lowestPosition = 0 ∧
    (strayJam 0 [(0, h1)]).pen.positions.length < (strayJam 0 [(0, h1)]).pen.size := by decide +kernel
/-! ## Witnesses: routes, doors, strays and notices -/

/-- Route 3 IDLE with cart 1 queued, while another route's cart stands at the door. -/
def otherAtDoor : State :=
  let s := (routed .idle [1]).setCarts [(1, cart [entry0] .queued), (2, { cart [entry0] .atDoor with route := none })]
  s.setDoors [(0, { door0 with cart := some 2 })]

theorem test_premises_RouteStartLoads : Ready (hall []) (onRoute 3 1) 1 ∧ SlotOpen (hall []) (onRoute 3 1) .berthA ∧
    (onRoute 3 1).key.route = 3 ∧ (hall []).route? key3 = some route3 ∧ route3.state = .idle ∧ route3.queue = [] ∧
    (hall []).routeCart key3 = none ∧ SlotOpen otherAtDoor (onRoute 3 1) .berthA ∧
    otherAtDoor.route? key3 = some { route3 with queue := [1] } ∧ otherAtDoor.routeCart key3 = none ∧
    otherAtDoor.door? 0 = some { door0 with cart := some 2 } ∧
    otherAtDoor.cart? 2 = some { cart [entry0] .atDoor with route := none } ∧
    ({ cart [entry0] .atDoor with route := none } : Cart).done = false :=
  ⟨.ofIdle rfl (by decide +kernel), slotOpen rfl, by decide +kernel, by decide +kernel, by decide, by decide, by decide +kernel,
    slotOpen rfl, by decide +kernel⟩
theorem test_premises_RoutePausePauses : Ready (routed .loading []) (onRoute 3 0) 0 ∧
    SlotOpen (routed .loading []) (onRoute 3 0) .berthA ∧ (routed .loading []).routeState key3 ≠ .unset ∧
    (routed .loading []).routeDoor key3 = some 0 :=
  ⟨.ofIdle rfl (by decide +kernel), slotOpen rfl, by decide +kernel⟩

/-- Route 3 IDLE with its cart at the door. -/
def paused : State :=
  let s := atDoor [bag .inCart (some (.cart 1))] [entry0]
  s.setRoutes (s.routes.set 3 route3)

theorem test_premises_RouteContinueLoads : Ready (hall []) (onRoute 3 0) 0 ∧ SlotOpen (hall []) (onRoute 3 0) .berthA ∧
    (hall []).route? key3 = some route3 ∧ (hall []).routeCart key3 = none ∧ Ready paused (onRoute 3 0) 0 ∧
    SlotOpen paused (onRoute 3 0) .berthA ∧ paused.route? key3 = some route3 ∧ paused.routeCart key3 ≠ none ∧
    (routed .loading []).route? key3 = some { route3 with state := .loading } :=
  ⟨.ofIdle rfl (by decide +kernel), slotOpen rfl, by decide +kernel, by decide +kernel, .ofIdle rfl (by decide +kernel),
    slotOpen rfl, by decide +kernel⟩
/-- A route wins the arbitration of a door, its head cart being live, where no route before it is offered. -/
theorem wins {s : State} {d i n : Nat} {x : Door} {r : Route} {rest : List Nat} {c : Cart}
    (hc : (let start := match x.lastServed with
        | none => 0
        | some l => l + 1
      decide (i < 12) && (List.range i).all (fun j => !s.offers d ⟨x.berth, (start + j) % 12⟩) &&
      s.route? ⟨x.berth, (start + i) % 12⟩ == some r && r.door == some d && r.state == .loading && r.queue == n :: rest &&
      s.cart? n == some c) = true) :
    Wins s d x ⟨x.berth, ((match x.lastServed with
        | none => 0
        | some l => l + 1) + i) % 12⟩ r n rest c := by
  simp only [Bool.and_eq_true, decide_eq_true_eq, beq_iff_eq, List.all_eq_true, List.mem_range, Bool.not_eq_eq_eq_not,
    Bool.not_true] at hc
  obtain ⟨⟨⟨⟨⟨⟨h1, h2⟩, h3⟩, h4⟩, h5⟩, h6⟩, h7⟩ := hc
  exact ⟨⟨i, h1, rfl, fun j hj ho => Bool.noConfusion ((h2 j hj).symm.trans (State.offers_iff.2 ho))⟩, h3, h4, h5, h6, h7⟩

/-- No route of a berth is offered to a door. -/
theorem notOffering {s : State} {d : Nat} {b : SlotId} (hc : (List.range 12).all (fun i => !s.offers d ⟨b, i⟩) = true) :
    ∀ i, i < 12 → ¬Offering s d ⟨b, i⟩ := by
  intro i hi ho
  have h := List.all_eq_true.1 hc i (List.mem_range.2 hi)
  rw [State.offers_iff.2 ho] at h
  cases h

/-- What ROUTE START refuses, and what it starts at a free door: the winner's head cart comes, or, with the stay option and no cart
queued, none does. -/
theorem test_premises_RouteStart_doors :
    let free := (routed .idle [1]).setCarts [(1, cart [entry0] .queued)]
    let started := free.taken.setRoutes (free.routes.set 3 { route3 with state := .loading, queue := [1] })
    let stays := (hall []).setRoutes ((hall []).routes.set 3 { route3 with state := .loading, stay := true })
    let doorless := (hall []).setDoors []
    Route.reset.state ≠ .idle ∧ paused.route? key3 = some route3 ∧ paused.routeCart key3 ≠ none ∧
    doorless.door? 0 = none ∧ SlotOpen doorless (onRoute 3 1) .berthA ∧ SlotOpen free (onRoute 3 1) .berthA ∧
    free.route? key3 = some { route3 with queue := [1] } ∧ free.routeCart key3 = none ∧ free.door? 0 = some door0 ∧
    Wins started 0 door0 key3 { route3 with state := .loading, queue := [1] } 1 [] (cart [entry0] .queued) ∧
    (cart [entry0] .queued).done = false ∧ (cart [] .queued).done = true ∧
    ∀ i, i < 12 → ¬Offering stays 0 ⟨.berthA, i⟩ :=
  ⟨by decide, by decide +kernel, by decide +kernel, by decide +kernel, slotOpen rfl, slotOpen rfl, by decide +kernel,
    by decide +kernel, by decide +kernel, wins (i := 3) (by decide +kernel), by decide, by decide, notOffering (by decide +kernel)⟩
/-- ROUTE START at a free door: the head cart stands at the door and the belt runs; a head cart that is done completes at once, and
the route is IDLE again. -/
theorem test_route_start : (∃ t, exec (.routeStart (onRoute 3 1) (some false))
      ((routed .idle [1]).setCarts [(1, cart [entry0] .queued)]) = .next t ∧ t.routeState key3 = .loading ∧
      t.cart? 1 = some (cart [entry0] .atDoor) ∧
      t.door? 0 = some { door0 with cart := some 1, running := true, lastServed := some 3 }) ∧
    ∃ t, exec (.routeStart (onRoute 3 1) (some false)) ((routed .idle [1]).setCarts [(1, cart [] .queued)]) = .next t ∧
      t.routeState key3 = .idle ∧ t.cart? 1 = none ∧ t.door? 0 = some { door0 with lastServed := some 3 } :=
  ⟨⟨_, rfl, by decide +kernel⟩, _, rfl, by decide +kernel⟩
theorem test_premises_RouteAndDoorGetRead : Ready (hall []) (onRoute 11 0) 0 ∧
    SlotOpen (hall []) (onRoute 11 0) .berthA ∧ (onRoute 11 0).key.route < 12 ∧
    (hall []).route? ⟨.berthA, (onRoute 11 0).key.route⟩ = some Route.reset ∧
    (hall []).door? (onObject 0 0).key.number = some door0 ∧ (hall []).node? door0.node = some (node .door [0]) :=
  ⟨.ofIdle rfl (by decide +kernel), slotOpen rfl, by decide +kernel⟩
theorem test_premises_DoorReleaseReleases : Ready (hall []) (onObject 0 0) 0 ∧ (hall []).opState ≠ .setup ∧
    (hall []).door? (onObject 0 0).key.number = some door0 ∧
    (door0.cart.bind (hall []).cart?).any (fun c => decide (c.unidentified ≠ 0)) = false ∧
    Ready (unidentifiedAtDoor []) (onObject 0 0) 0 ∧
    (unidentifiedAtDoor []).door? (onObject 0 0).key.number =
      some { door0 with cart := some 1, halts := { HaltSet.empty with unidentified := true } } ∧
    ((some 1 : Option Nat).bind (unidentifiedAtDoor []).cart?).any (fun c => decide (c.unidentified ≠ 0)) = true ∧
    (unidentifiedAtDoor []).notices.sources.length = 15 :=
  ⟨.ofIdle rfl (by decide +kernel), by decide +kernel, by decide +kernel, by decide +kernel, .ofIdle rfl (by decide +kernel),
    by decide +kernel⟩
theorem test_beltRuns : (atDoor [] [entry0]).beltRuns { door0 with cart := some 1 } = true ∧
    (hall []).beltRuns door0 = false := by decide +kernel

/-- Route 3 LOADING with cart 1 queued, at a free door that last served a route. -/
def queued (last : Option Nat) : State :=
  ((routed .loading [1]).setCarts [(1, cart [entry0] .queued)]).setDoors [(0, { door0 with lastServed := last })]

theorem test_premises_ArbitrationTakesTurns : (∀ e ∈ [((none : Option Nat), 3), (some 3, 11), (some 11, 3)],
    let start := match e.1 with
      | none => 0
      | some l => l + 1
    (queued e.1).door? 0 = some { door0 with lastServed := e.1 } ∧ e.2 < 12 ∧ (start + e.2) % 12 = 3 ∧
    (∀ j, j < e.2 → (queued e.1).offers 0 ⟨.berthA, (start + j) % 12⟩ = false) ∧
    (queued e.1).doorServes 0 key3 = true ∧
    (queued e.1).route? key3 = some { route3 with state := .loading, queue := [1] } ∧
    (queued e.1).cart? 1 = some (cart [entry0] .queued)) ∧ (cart [entry0] .queued).done = false := by
  refine ⟨fun e he => ?_, by decide⟩
  simp only [List.mem_cons, List.not_mem_nil, or_false] at he
  rcases he with rfl | rfl | rfl <;> decide +kernel
theorem test_premises_CompleteCartRetires : ∀ v ∈ [true, false],
    (atDoor [] [⟨h0, v⟩]).door? 0 = some { door0 with cart := some 1, running := true, lastServed := some 3 } ∧
    (atDoor [] [⟨h0, v⟩]).cart? 1 = some (cart [⟨h0, v⟩] .atDoor) ∧
    ((∀ e ∈ [(⟨h0, v⟩ : Entry)], e.aboard = true) ∨ ∃ e ∈ [(⟨h0, v⟩ : Entry)], e.aboard = false) := by decide +kernel
theorem test_premises_StrayGetReads : (hallWith .stray).opState ≠ .setup ∧ Ready (hallWith .stray) (onObject 0 1) 1 ∧
    (127 : Byte).toNat ≤ 127 ∧ 127 < (128 : Byte).toNat ∧ (hallWith .stray).pen.strays.length ≤ (1 : Byte).toNat ∧
    (hallWith .stray).pen.strays[(0 : Byte).toNat]? = some h0 ∧ (hallWith .stray).bag? h0 = some (bagWith .stray) ∧
    Ready (hallWith .stray) (onObject 16 0) 0 ∧ (hallWith .stray).pen.size ≤ (onObject 16 0).key.number ∧
    (onObject 15 0).key.number < (hallWith .stray).pen.size ∧ (hallWith .stray).pen.positions.get? 15 = none ∧
    (hallWith .stray).pen.positions.get? 0 = some h0 :=
  ⟨by decide +kernel, .ofIdle rfl (by decide +kernel), by decide, by decide, by decide +kernel, by decide +kernel,
    by decide +kernel, .ofIdle rfl (by decide +kernel), by decide +kernel⟩

/-- Bag 0 may have no home, a cabin of its own, or one that is forwarded; a cabin's guests may stand in each way; a stray has its
position. -/
theorem test_premises_ViewsGiveFields :
    let s := hallWith .stray
    stray0.home = none ∧ (bagWith .stray).home = some ⟨.berthA, 7⟩ ∧
    s.store.cabin? ⟨.berthA, 7⟩ = some { cabin .boarded 1 0 with forwardedIn := 1 } ∧
    s.store.cabin? ⟨.berthA, 10⟩ = some { cabin .notSailing 0 3 with forward := some 7 } ∧
    (∀ g ∈ [GuestState.boarded, .expected, .notSailing], (cabin g 0 0).guests = [⟨1, 11, g⟩]) ∧
    (bagWith .stray).location = some (.pen 0) := by decide +kernel
theorem test_premises_StrayResolveActs : (∀ st, Ready (hallWith st) (onBag0 1) 1 ∧
    Nameable (hallWith st) (onBag0 1).key.handle (bagWith st) ∧ (bagWith st).state = st) ∧
    (hallWith .stray).routable (bagWith .stray) ≠ none ∧
    Nameable (hall [stray0]) (onBag0 1).key.handle stray0 ∧ stray0.state = .stray ∧ (hall [stray0]).routable stray0 = none :=
  ⟨fun st => ⟨.ofIdle (hallWith_idle st) (by decide +kernel), hallWith_nameable st, hallWith_state st⟩, by decide +kernel,
    nameable (by decide +kernel), by decide +kernel⟩

/-- The hall with DOOR_STOPPED and LOOP_FAILED enabled and pending. -/
def noticed : State :=
  let s := hall []
  s.setNotices { s.notices with
    sources := (s.notices.sources.set 5 ⟨[0, 2], true, .high⟩).set 0 ⟨[0], true, .high⟩, global := true, pinLow := true }

theorem test_premises_NoticeReadChooses :
    let rank (i : Nat) (n : Notice) : Nat := (if sticky i then 2 else 0) + (if n.priority = .low then 1 else 0)
    Ready (hall []) head0 0 ∧ (∀ n ∈ (hall []).notices.sources, n.enabled = true → n.subjects = []) ∧
    Ready noticed head0 0 ∧ noticed.notices.sources.length = 15 ∧
    noticed.notices.sources[5]? = some ⟨[0, 2], true, .high⟩ ∧
    (∀ j, j < 15 → ∀ m ∈ noticed.notices.sources[j]?.toList, m.enabled = true → m.subjects ≠ [] →
      rank 5 ⟨[0, 2], true, .high⟩ < rank j m ∨ rank 5 ⟨[0, 2], true, .high⟩ = rank j m ∧ 5 ≤ j) :=
  ⟨.ofIdle rfl (by decide +kernel), by decide +kernel, .ofIdle rfl (by decide +kernel), by decide +kernel⟩
theorem test_premises_NoticeMaskAndClear : Ready noticed (onObject 0 31) 31 ∧
    (List.replicate 15 (true, Priority.low)).length = 15 ∧ Ready noticed (onObject 14 0) 0 ∧
    (onObject 14 0).key.number < 15 ∧ noticed.stillActive (onObject 14 0).key.number = false ∧
    (tracked noticed .failed).stillActive (onObject 0 0).key.number = true :=
  ⟨.ofIdle rfl (by decide +kernel), rfl, .ofIdle rfl (by decide +kernel), by decide +kernel⟩

/-! ## Witnesses: frames, nodes and the transmit queue -/

/-- The head of a frame from a node, with sequence 5 and a stamp. -/
def frame (n stamp : Byte) : FrameHead := ⟨n, 5, stamp⟩

/-- A state without S. -/
def unstamped (s : State) : State := s.setLink { s.link with stampRef := none, lastPitch := none }

/-- A state with a node's state changed. -/
def nodeIs (s : State) (n : Nat) (v : NodeState) : State := s.modifyNode n (fun x => { x with state := v })

theorem test_premises_FramesDiscarded : frameHead (.land (frame 4 50) 0) = some (frame 4 50) ∧
    State.reset.opState = .setup ∧ (hall []).node? (frame 7 50).node.toNat = some Node.reset ∧ Node.reset.role = none ∧
    (Instr.land (frame 7 50) 0).wellFormed = true ∧ ((hall []).setOpState .rest).opState = .rest ∧
    ((hall []).setOpState .rest).node? (frame 4 50).node.toNat = some (node .chute [0, 1]) ∧
    Admitted (hall []) (frame 4 50) (node .chute [0, 1]) ∧ frameHead (.pitch (frame 4 50)) = some (frame 4 50) ∧
    (node .chute [0, 1]).role ≠ frameRole (.pitch (frame 4 50)) :=
  ⟨rfl, rfl, by decide +kernel, rfl, by decide +kernel, rfl, by decide +kernel, admitted (by decide +kernel), rfl, by decide⟩
/-- The bytes of a LAND at chute 0 from a node. -/
def landing (n : Byte) : List Byte := frameBytes n 5 0x06 50 [0]

/-- For each clause on the bytes the receiver holds: no SYNC byte, a SYNC byte alone, a length of 9, a frame one byte short, a frame
with a wrong CRC, one from node 7, which is not configured, and a whole frame inside a discarded one. -/
theorem test_premises_ReceiverReads : ([1, 2] : List Byte).dropWhile (· != 0xA5) = [] ∧
    ([1, 0xA5] : List Byte).dropWhile (· != 0xA5) = [0xA5] ∧
    ([0xA5, 9] ++ landing 4).dropWhile (· != 0xA5) = 0xA5 :: 9 :: landing 4 ∧ 8 < (9 : Byte).toNat ∧
    (landing 4).dropWhile (· != 0xA5) = 0xA5 :: 1 :: (landing 4).drop 2 ∧ ((landing 4).drop 2).length = 6 + 1 ∧
    readFrame (landing 4) = some (.land (frame 4 50) 0) ∧ (hall []).node? 4 = some (node .chute [0, 1]) ∧
    readFrame (landing 7) = some (.land (frame 7 50) 0) ∧ (hall []).node? 7 = some Node.reset ∧
    readFrame (0xA5 :: 1 :: 4 :: (landing 4).take 6) = none := by decide +kernel

/-- A whole frame inside bytes that make a frame with a wrong CRC is taken, and after a gap also one inside what is not whole. -/
theorem test_receiver_hunts_on : ∃ t u v, exec (.land (frame 4 50) 0) (hall []) = .next t ∧
    exec (.frameDiscard (0xA5 :: 8 :: landing 4 ++ [0, 0, 0, 0, 0])) (hall []) = .next u ∧
    exec (.frameByteTimeout (0xA5 :: 8 :: landing 4) 1001) (hall []) = .next v ∧ u = t ∧ v = t :=
  ⟨_, _, _, rfl, rfl, rfl, by decide +kernel⟩
/-- At another frame's row what is held is read to its end first: the PITCH inside bytes that are not whole is taken before the LAND,
and with no frame held the LAND alone is. -/
theorem test_held_bytes_settle :
    let held := fun l : List Byte => (hall []).setLink { (hall []).link with rx := l }
    let pitch := frameBytes 1 5 0x01 51 []
    (∃ t u v, exec (.land (frame 4 50) 0) (held (0xA5 :: 8 :: pitch)) = .next t ∧ exec (.pitch (frame 1 51)) (hall []) = .next u ∧
      exec (.land (frame 4 50) 0) u = .next v ∧ t = v ∧ t.link.stampRef = some 51) ∧
    (∃ t v, exec (.land (frame 4 50) 0) (held [0xA5, 8]) = .next t ∧ exec (.land (frame 4 50) 0) (hall []) = .next v ∧ t = v) ∧
    HoldsNoFrame (held [0xA5, 8]) :=
  ⟨⟨_, _, _, rfl, rfl, rfl, by decide +kernel, by decide +kernel⟩, ⟨_, _, rfl, rfl, by decide +kernel⟩, .ofShort (by decide)⟩

/-- For each clause: a frame of each role's node, an object that the node does not serve, one that it serves but that is not
configured, and payload bytes beyond their tables. -/
theorem test_premises_FramesUnread :
    (∀ e ∈ [((2 : Byte), node .induct [0]), (3, node .arch [0]), (4, node .chute [0, 1]), (5, node .door [0])],
      Admitted (hall []) (frame e.1 50) e.2 ∧ (2 : Byte).toNat ∉ e.2.objects) ∧
    (∀ e ∈ [((2 : Byte), node .induct [0]), (3, node .arch [0]), (4, node .chute [0, 1]), (5, node .door [0])],
      let s := (((hall []).setLoop Loop.reset).setChutes []).setDoors []
      Admitted s (frame e.1 50) e.2 ∧ (0 : Byte).toNat ∈ e.2.objects ∧ s.loop.points.get? 0 = none ∧
        s.loop.arches.get? 0 = none ∧ s.chute? 0 = none ∧ s.door? 0 = none) ∧
    1 < (2 : Byte).toNat ∧ 2 < (3 : Byte).toNat ∧ (1 : Byte).toNat = 1 ∧ (0 : BitVec 32).toNat = 0 ∧
    999999999 < (1000000000 : BitVec 32).toNat ∧ AdmittedEncode (hall []) (frame 6 50) (node .encode []) ∧
    AdmittedEncode ((hall []).setOpState .rest) (frame 6 50) (node .encode []) := by
  refine ⟨fun e he => ?_, fun e he => ?_, by decide, by decide, by decide, by decide, by decide,
    ⟨.ofEmpty rfl, .inl rfl, rfl, rfl⟩, ⟨.ofEmpty rfl, .inr rfl, rfl, rfl⟩⟩
  · simp only [List.mem_cons, List.not_mem_nil, or_false] at he
    rcases he with rfl | rfl | rfl | rfl <;> exact ⟨admitted (by decide +kernel), by decide⟩
  · simp only [List.mem_cons, List.not_mem_nil, or_false] at he
    rcases he with rfl | rfl | rfl | rfl <;> exact ⟨admitted (by decide +kernel), by decide +kernel⟩
theorem test_premises_SequenceChecked :
    (∀ e ∈ [((1 : Byte), node .loop []), (2, node .induct [0]), (3, node .arch [0]), (4, node .chute [0, 1]),
      (5, node .door [0])], Admitted (hall []) (frame e.1 50) e.2 ∧ Admitted (hall []) ⟨e.1, 6, 50⟩ e.2 ∧
        e.2.state = .live ∧ e.2.expected = some (frame e.1 50).seq ∧ e.2.expected ≠ some 6) ∧
    Admitted (nodeIs (hall []) 2 .unheard) (frame 2 50) { node .induct [0] with state := .unheard } ∧
    Admitted (nodeIs (hall []) 5 .down) (frame 5 50) { node .door [0] with state := .down } := by
  refine ⟨fun e he => ?_, admitted (by decide +kernel), admitted (by decide +kernel)⟩
  simp only [List.mem_cons, List.not_mem_nil, or_false] at he
  rcases he with rfl | rfl | rfl | rfl | rfl <;>
    exact ⟨admitted (by decide +kernel), admitted (by decide +kernel), by decide +kernel⟩
/-- The ENCODE node's frames in REST, in sequence and with a gap. -/
theorem test_premises_SequenceChecked_rest : ((hall []).setOpState .rest).opState = .rest ∧
    ((hall []).setOpState .rest).node? 6 = some (node .encode []) ∧ (node .encode []).role = some .encode ∧
    (frame 6 50).seq = 5 := by decide +kernel
theorem test_premises_LossCounted : (hall []).loop.track = .tracking ∧ (tracked (hall []) .anchoring).loop.track = .anchoring ∧
    (hall []).loop.lossCount + 1 < (hall []).limits.loss ∧
    (let s := hall []
     (s.setLoop { s.loop with lossCount := 3 }).limits.loss ≤ 3 + 1) := by decide +kernel
theorem test_premises_SilentNodeGoesDown :
    (∀ n ∈ [1, 2, 3, 4, 5, 6], ∀ x ∈ ((hall []).node? n).toList, x.lastHeard = some 100 ∧ x.state = .live ∧
      x.role.isSome = true) ∧ (hall []).opState = .run ∧
    100 + (hall []).limits.silence ≤ ((hall []).setHallSecond 105).hallSecond ∧
    ¬100 + (hall []).limits.silence ≤ ((hall []).setHallSecond 104).hallSecond ∧
    (hall []).node? 7 = some Node.reset ∧ Node.reset.lastHeard = none ∧ (∀ n ∈ [0, 33], (hall []).node? n = none) ∧
    (hall []).chute? 0 = some deck := by decide +kernel
/-- A CHUTE node that falls silent: each of its chutes is in FAULT(NODE) and in CHUTE_FAULT, and tracking stays; a DOOR node's: its
door halts, its belt stopped, with DOOR_STOPPED. -/
theorem test_silence_of_chutes_and_doors :
    (∃ t, exec (.nodeDown 4) ((hall []).setHallSecond 105) = .next t ∧
      t.chute? 0 = some { deck with state := .fault .node } ∧ t.chute? 1 = some { strayChute with state := .fault .node } ∧
      t.subjects .chuteFault = [0, 1] ∧ t.subjects .nodeDown = [4] ∧ t.loop = (hall []).loop) ∧
    ∃ t, exec (.nodeDown 5) ((atDoor [] [entry0]).setHallSecond 105) = .next t ∧
      t.door? 0 = some { door0 with
        cart := some 1, running := false, lastServed := some 3, halts := { HaltSet.empty with node := true } } ∧
      t.subjects .doorStopped = [0] ∧ t.loop = (hall []).loop :=
  ⟨⟨_, rfl, by decide +kernel⟩, _, rfl, by decide +kernel⟩
/-- The hall with a number of frames waiting. -/
def framesWaiting (f : OutFrame) (n : Nat) : State :=
  let s := hall []
  s.setLink { s.link with txQueue := List.replicate n f }

/-- A state whose transmit queue is full. -/
def waiting64 (s : State) : State :=
  s.setLink { s.link with txQueue := List.replicate 64 ⟨2, 0, 50, .induct 0 true⟩ }

theorem test_premises_FramesMadeAndSent : Table.wf (hall []).loop.points = true ∧ Table.wf (hall []).doors = true ∧
    (hall []).loop.points.get? 0 = some point0 ∧ (hall []).servingNode .induct 0 = some 2 ∧
    (hall []).doors.get? 0 = some door0 ∧ (hall []).servingNode .door 0 = some 5 ∧ (hall []).link.txQueue = [] ∧
    (hall []).node? 2 = some (node .induct [0]) ∧ busy.link.txQueue = [⟨2, 0, 50, .induct 0 true⟩] ∧
    (∃ f ∈ busy.link.txQueue, levelOf (.induct 0 false) ≠ none ∧ levelOf f.payload = levelOf (.induct 0 false)) ∧
    (∀ p ∈ [OutPayload.induct 1 true, .door 0 true, .divert 0 54, .answer 0 (.reason .noRead)],
      ∀ f ∈ (waiting64 (hall [])).link.txQueue, ¬(levelOf p ≠ none ∧ levelOf f.payload = levelOf p)) ∧
    busy.servingNode .induct 1 = none ∧ (waiting64 (hall [])).link.txQueue.length = 64 := by decide +kernel

/-- LEVEL_REFRESH with a frame of each length of the queue about 64: the level goes into the frame that waits; a frame is added for
each other object while there is room. -/
theorem test_level_refresh :
    let made := fun s : State => match exec .levelRefresh s with
      | .next t => t.link.txQueue.drop (s.link.txQueue.length - 1)
      | _ => []
    made (framesWaiting ⟨3, 9, 7, .induct 0 false⟩ 1) = [⟨3, 9, 7, .induct 0 true⟩, ⟨5, 0, 50, .door 0 false⟩] ∧
    made (framesWaiting ⟨2, 9, 7, .induct 1 false⟩ 62) =
      [⟨2, 9, 7, .induct 1 false⟩, ⟨2, 0, 50, .induct 0 true⟩, ⟨5, 0, 50, .door 0 false⟩] ∧
    made (framesWaiting ⟨2, 9, 7, .induct 1 false⟩ 63) = [⟨2, 9, 7, .induct 1 false⟩, ⟨2, 0, 50, .induct 0 true⟩] ∧
    made (framesWaiting ⟨2, 9, 7, .induct 1 false⟩ 64) = [⟨2, 9, 7, .induct 1 false⟩] := by decide +kernel

/-! ## Witnesses: frames about the loop -/

/-- Bag 0 on a carrier. -/
def riding (b : Bag) (i : Nat) : State := (hall [b]).setContent i (.loaded h0)

theorem test_premises_DestinationByLines :
    let b := bag .onLoop (some (.carrier 38))
    let s := hall [b]
    b.reason = none ∧ b.laps ≠ s.limits.recirc ∧ ({ b with laps := 3 } : Bag).laps = s.limits.recirc ∧ b.hold = false ∧
    b.home = some ⟨.berthA, 7⟩ ∧ (closing [b]).slotState .berthA = .closing ∧ s.slotState .berthA ≠ .closing ∧
    b.pull = none ∧ (∀ c ∈ (s.store.governing b).toList, ¬(c.status = .void ∧ c.forward = none)) ∧
    (∃ c, s.store.governing { b with home := some ⟨.berthA, 8⟩ } = some c ∧ c.status = .void ∧ c.forward = none) ∧
    b.recheck = false ∧ (s.store.governing b).isSome = true :=
  ⟨rfl, by decide, rfl, rfl, rfl, by decide +kernel, by decide +kernel, rfl, by decide +kernel,
    ⟨cabin .notSailing 0 1, by decide +kernel⟩, rfl, by decide +kernel⟩
theorem test_premises_DecisionPointArms :
    let b := bag .onLoop (some (.carrier 38))
    let s := riding b 38
    let p := { b with pull := some .request, location := some (.carrier 28) }
    let t := riding p 28
    s.chute? 0 = some deck ∧ (((s.loop.pos : Int) - 30 + 4) % 64).toNat = 38 ∧ s.carrier? 38 = some ⟨.loaded h0, none⟩ ∧
    s.bag? h0 = some b ∧ s.loop.track = .tracking ∧ 1 ≤ s.credit deck ∧
    s.destination (s.store.checked b) deck.kind = .route key3 ∧ deck.assigned = some key3 ∧
    t.chute? 1 = some strayChute ∧ (((t.loop.pos : Int) - 40 + 4) % 64).toNat = 28 ∧
    t.carrier? 28 = some ⟨.loaded h0, none⟩ ∧ t.bag? h0 = some p ∧ 1 ≤ t.credit strayChute ∧
    t.destination (t.store.checked p) strayChute.kind = .stray .pulled ∧
    s.credit { deck with state := .closed } = 0 ∧ (tracked s .anchoring).loop.track ≠ .tracking ∧
    (hall []).carrier? 38 = some ⟨.empty, none⟩ ∧ s.servingNode .chute 0 = some 4 ∧
    s.link.txQueue.length < txCapacity ∧ txCapacity ≤ (waiting64 s).link.txQueue.length ∧
    (waiting64 s).carrier? 38 = some ⟨.loaded h0, none⟩ ∧ 1 ≤ (waiting64 s).credit deck := by decide +kernel
theorem test_premises_CreditCounts :
    ({ deck with state := .closed } : Chute).state ≠ .opened ∧ strayChute.state = .opened ∧ strayChute.kind = .stray ∧
    deck.state = .opened ∧ deck.kind = .deck ∧ ({ deck with active := none } : Chute).active = none ∧
    deck.active = some .x ∧ deck.position .x = .cart 1 ∧ (hall []).cart? 1 = some (cart [] .filling) ∧
    closingCart.cart? 1 = some { cart [] .closing with unidentified := 1 } := by decide +kernel
theorem test_premises_PitchAdvances : Admitted (unstamped (hall [])) (frame 1 50) (node .loop []) ∧
    (unstamped (hall [])).link.stampRef = none ∧ (node .loop []).role = some .loop ∧
    (∀ v ∈ [(51 : Byte), 50, 58, 59], Admitted (riding (bag .onLoop (some (.carrier 1))) 1) (frame 1 v) (node .loop [])) ∧
    ((51 : Byte) - 50).toNat = 1 ∧ ((50 : Byte) - 50).toNat = 0 ∧ ((58 : Byte) - 50).toNat = 8 ∧
    ((59 : Byte) - 50).toNat = 9 ∧
    (riding (bag .onLoop (some (.carrier 1))) 1).carrier? 1 = some ⟨.loaded h0, none⟩ :=
  ⟨admitted (by decide +kernel), rfl, rfl, fun _ _ => admitted rfl, by decide +kernel⟩

/-- Bag 0 on carrier 33 armed for chute 0, with some pitches remaining. -/
def marked (remaining : Nat) : State :=
  let s := armed (riding (bag .onLoop (some (.carrier 33))) 33) 33 0 remaining none
  s.setChutes [(0, { deck with reserved := 1 }), (1, strayChute)]

theorem test_premises_CheckDeadlineEnds : ∀ n ∈ [0, 1], (marked n).link.lastPitch = some 50 ∧
    (marked n).carrier? 33 = some ⟨.loaded h0, some ⟨0, n, none⟩⟩ ∧
    (marked n).chute? 0 = some { deck with reserved := 1 } ∧
    (marked n).bag? h0 = some (bag .onLoop (some (.carrier 33))) ∧ (marked n).carrier? 0 = some ⟨.empty, none⟩ ∧
    (marked n).carrier? 64 = none ∧ State.reset.link.lastPitch = none := by decide +kernel

/-- Bag 0 pending at chute 0 with a deadline. -/
def pendingAt (deadline : Byte) : State :=
  withDeck [bag .landing (some (.chute 0))] { deck with landing := [⟨h0, deadline⟩] }

theorem test_premises_LandingDeadlineJams : (∀ d ∈ [(50 : Byte), 179, 178, 51], (pendingAt d).link.lastPitch = some 50 ∧
    (pendingAt d).chute? 0 = some { deck with landing := [⟨h0, d⟩] } ∧ (pendingAt d).chute? 2 = none) ∧
    State.reset.link.lastPitch = none ∧ ((50 : Byte) - 50).toNat ≤ 127 ∧
    ((50 : Byte) - 179).toNat ≤ 127 ∧ ¬((50 : Byte) - 178).toNat ≤ 127 ∧ ¬((50 : Byte) - 51).toNat ≤ 127 :=
  ⟨fun _ _ => ⟨rfl, rfl, rfl⟩, by decide +kernel⟩

theorem test_premises_HomeActs : Admitted (unstamped (hall [])) (frame 1 50) (node .loop []) ∧
    (∀ v, ∀ d ∈ [(50 : Byte), 58, 243, 59, 242], Admitted (tracked (hall []) v) (frame 1 d) (node .loop [])) ∧
    ResolvesTo (hall []) 50 0 0 0 ∧ ResolvesTo (hall []) 58 0 8 8 ∧ ResolvesTo (hall []) 243 0 1 (-63) ∧
    StaleStamp (hall []) 59 ∧ StaleStamp (hall []) 242 ∧
    (∀ v ∈ [TrackState.anchoring, .confirming, .tracking, .failed],
      ((tracked (hall []) v).afterCheck (frame 1 50) (node .loop [])).loop.track = v) :=
  ⟨admitted (by decide +kernel), fun _ _ _ => admitted rfl, resolves (r := 50) rfl (by decide +kernel),
    resolves (r := 50) rfl (by decide +kernel), resolves (r := 50) rfl (by decide +kernel),
    ⟨50, rfl, by decide⟩, ⟨50, rfl, by decide⟩, by decide +kernel⟩

/-- The hall with a number of copies of a bag in the table. -/
def full (n : Nat) : State :=
  let s := hall []
  s.setStore { s.store with bags := List.replicate n (0, stray0) }

theorem full_length (n : Nat) : (full n).store.bags.length = n := List.length_replicate ..

/-- The bag table is low from 16,321 records on: the creation that makes that many declares it, a retirement from them ends it. -/
theorem test_tableLow (n : Nat) : tableLow (full n) = true ↔ 16320 < n := by
  unfold tableLow
  rw [full_length, decide_eq_true_eq]
  omega

/-- The hall with a number of pen positions taken, bag 0 in OFFLOAD or a stray, and the pen hold standing or not. -/
def filledPen (st : BagState) (taken : List Nat) (hold : Bool) : State :=
  let s := (hallWith st).setPen ⟨16, taken.map (fun p => (p, h0)), [h0], hold⟩
  s.setLoop { s.loop with points := [(0, { point0 with causes := { point0.causes with pen := hold }, go := !hold })] }

/-- The pen hold at its marks, the low mark 4: declared where an intake leaves 3 free and not where it leaves 4; released where a
retirement leaves 6 free and not where it leaves 5. -/
theorem test_pen_hold :
    let holds := fun (i : Instr) (s : State) (hold : Bool) (subjects : List Nat) => ∃ t p, exec i s = .next t ∧
      t.pen.hold = hold ∧ t.loop.points.get? 0 = some p ∧ p.causes.pen = hold ∧ p.go = !hold ∧
      t.subjects .capacity = subjects
    holds (.offloadConfirmPen (onBag0 2) 15) (filledPen .offload (List.range 12) false) true [1] ∧
    holds (.offloadConfirmPen (onBag0 2) 15) (filledPen .offload (List.range 11) false) false [] ∧
    holds (.bagRetire (onBag0 0)) (filledPen .stray (List.range 11) true) false [] ∧
    holds (.bagRetire (onBag0 0)) (filledPen .stray (List.range 12) true) true [] :=
  ⟨⟨_, _, rfl, rfl, rfl, rfl, rfl, rfl⟩, ⟨_, _, rfl, rfl, rfl, rfl, rfl, rfl⟩, ⟨_, _, rfl, rfl, rfl, rfl, rfl, rfl⟩,
    ⟨_, _, rfl, rfl, rfl, rfl, rfl, rfl⟩⟩

/-- A carrier's content beside bag 0 in a state, with an anonymous bag on the carrier or none. -/
def meeting (s : State) (c : Nat) (on : Bool) : State := if on = true then s.setContent c (.loaded h1) else s

/-- For LAUNCH: bag 0 in each state that may be launched, and the carrier empty or with another bag. -/
theorem test_premises_LaunchFinds :
    let n := node .induct [0]
    (∀ st ∈ [BagState.registered, .missing, .stray], ∀ on ∈ [true, false],
      let s := meeting (hall [bagWith st, bag .onLoop (some (.carrier 54))]) 54 on
      Admitted s (frame 2 50) n ∧ Serves s n .induct (0 : Byte).toNat ∧
      s.loop.points.get? (0 : Byte).toNat = some point0 ∧ ResolvesTo s 50 point0.offset 54 0 ∧
      s.carrier? 54 = some ⟨if on = true then .loaded h1 else .empty, none⟩ ∧ FoundBag s 1 100 h0 (bagWith st) ∧
      s.bag? h1 = some (bag .onLoop (some (.carrier 54)))) ∧
    FoundBag (riding (bag .onLoop (some (.carrier 54))) 54) 1 100 h0 (bag .onLoop (some (.carrier 54))) := by
  refine ⟨fun st hst on hon => ?_, foundBag (by decide +kernel)⟩
  simp only [List.mem_cons, List.not_mem_nil, or_false] at hst hon
  rcases hst with rfl | rfl | rfl <;> rcases hon with rfl | rfl <;>
    exact ⟨admitted (by decide +kernel), serves (by decide +kernel), by decide +kernel,
      resolves (stamp := 50) (r := 50) rfl (by decide +kernel), by decide +kernel, foundBag (by decide +kernel),
      by decide +kernel⟩

/-- The reads that bring a new bag: nothing, several tags, an unknown tag, another bag's tag, a CLOSING slot's bag's tag. -/
theorem test_premises_LaunchCreates :
    let b := bag .landing (some (.chute 0))
    let may := fun b : Bag => b.state = .registered ∨ b.state = .missing ∨ b.state = .stray ∨
      b.state = .onLoop ∧ b.location = some (.carrier 54)
    NewBag (hall [b]) 0 0 may none .noRead ∧ NewBag (hall [b]) 2 0 may none .multiRead ∧
    NewBag (hall [b]) 1 999999999 may (some (999999999 : BitVec 32).toNat) .unknownTag ∧
    NewBag (hall [b]) 1 100 may none .duplicateTag ∧ NewBag (closing [b]) 1 100 may none .wrongSailing ∧
    Admitted (hall [b]) (frame 2 50) (node .induct [0]) ∧ Admitted (closing [b]) (frame 2 50) (node .induct [0]) ∧
    (hall [b]).store.bags.length < bagRecords ∧ BagTableLaw (riding (bag .onLoop (some (.carrier 54))) 54) ∧
    (riding (bag .onLoop (some (.carrier 54))) 54).carrier? 54 = some ⟨.loaded h0, none⟩ :=
  ⟨.inl ⟨rfl, rfl, rfl⟩, .inr (.inl ⟨rfl, rfl, rfl⟩), unknownTag (by decide +kernel),
    duplicateTag (foundBag (g := h0) (b := bag .landing (some (.chute 0))) (by decide +kernel)) (by decide +kernel),
    wrongSailing (g := h0) (b := bag .landing (some (.chute 0))) rfl (by decide +kernel) (by decide +kernel),
    admitted (by decide +kernel), admitted (by decide +kernel), by decide +kernel, ⟨rfl, by decide +kernel⟩, by decide +kernel⟩
theorem test_premises_LaunchCreates_full (n : Nat) (hn : bagRecords ≤ n) :
    Admitted (full n) (frame 2 50) (node .induct [0]) ∧ Serves (full n) (node .induct [0]) .induct 0 ∧
    (full n).loop.points.get? 0 = some point0 ∧ ResolvesTo (full n) 50 point0.offset 54 0 ∧
    (full n).carrier? 54 = some ⟨.empty, none⟩ ∧ bagRecords ≤ (full n).store.bags.length :=
  ⟨admitted rfl, serves rfl, rfl, resolves (stamp := 50) (r := 50) rfl rfl, rfl, (full_length n).symm ▸ hn⟩
theorem test_premises_LaunchUnresolved :
    (∀ s ∈ [unstamped (hall []), hall []], Admitted s (frame 2 59) (node .induct [0]) ∧
      Serves s (node .induct [0]) .induct (0 : Byte).toNat) ∧ (unstamped (hall [])).link.stampRef = none ∧
    StaleStamp (hall []) (frame 2 59).stamp ∧ StaleStamp (hall []) (frame 2 242).stamp := by
  refine ⟨fun s hs => ?_, rfl, ⟨50, rfl, by decide⟩, ⟨50, rfl, by decide⟩⟩
  simp only [List.mem_cons, List.not_mem_nil, or_false] at hs
  rcases hs with rfl | rfl <;> exact ⟨admitted (by decide +kernel), serves (by decide +kernel)⟩
theorem test_premises_ArchObserves :
    let n := node .arch [0]
    let b := bag .onLoop (some (.carrier 44))
    let s := riding b 44
    (∀ v ∈ [TrackState.anchoring, .failed, .confirming, .tracking], Admitted (tracked s v) (frame 3 50) n ∧
      Serves (tracked s v) n .arch (0 : Byte).toNat ∧ ResolvesTo (tracked s v) 50 20 44 0 ∧
      ((tracked s v).afterCheck (frame 3 50) n).loop.track = v) ∧
    s.loop.arches.get? (0 : Byte).toNat = some ⟨20, 3⟩ ∧ s.carrier? 44 = some ⟨.loaded h0, none⟩ ∧ s.bag? h0 = some b ∧
    b.tag = some (100 : BitVec 32).toNat := by
  refine ⟨fun v hv => ?_, by decide +kernel⟩
  simp only [List.mem_cons, List.not_mem_nil, or_false] at hv
  rcases hv with rfl | rfl | rfl | rfl <;>
    exact ⟨admitted (by decide +kernel), serves (by decide +kernel), resolves (stamp := 50) (r := 50) rfl (by decide +kernel),
      by decide +kernel⟩
theorem test_premises_ArchUnresolved :
    (∀ s ∈ [unstamped (hall []), hall []], Admitted s (frame 3 59) (node .arch [0]) ∧
      Serves s (node .arch [0]) .arch (0 : Byte).toNat) ∧ StaleStamp (hall []) (frame 3 59).stamp ∧
    StaleStamp (hall []) (frame 3 242).stamp := by
  refine ⟨fun s hs => ?_, ⟨50, rfl, by decide⟩, ⟨50, rfl, by decide⟩⟩
  simp only [List.mem_cons, List.not_mem_nil, or_false] at hs
  rcases hs with rfl | rfl <;> exact ⟨admitted (by decide +kernel), serves (by decide +kernel)⟩
theorem test_premises_ClassificationActs : ∀ v ∈ [TrackState.anchoring, .failed, .tracking, .confirming], ∀ r ∈ [0, 15],
    let s := tracked (hall []) v
    let t := s.setLoop { s.loop with confirmRun := r, mismatchRun := r }
    t.loop.track = v ∧ (r = 0 → t.loop.confirmRun + 1 < t.limits.confirm ∧ t.loop.mismatchRun + 1 < t.limits.drift) ∧
    (r = 15 → t.limits.confirm ≤ t.loop.confirmRun + 1 ∧ t.limits.drift ≤ t.loop.mismatchRun + 1) := by decide +kernel

/-- For ARCH of a carrier believed EMPTY or UNKNOWN: bag 0 in each state that may be placed. -/
theorem test_premises_ArchPlaces :
    let n := node .arch [0]
    (∀ st ∈ [BagState.registered, .missing, .stray, .onLoop], ∀ c ∈ [Content.empty, .unknown],
      let s := (hallWith st).setContent 44 c
      Admitted s (frame 3 50) n ∧ Serves s n .arch (0 : Byte).toNat ∧ s.loop.arches.get? (0 : Byte).toNat = some ⟨20, 3⟩ ∧
      ResolvesTo s 50 20 44 0 ∧ s.carrier? 44 = some ⟨c, none⟩ ∧ FoundBag s 1 100 h0 (bagWith st)) ∧
    (∀ v ∈ [TrackState.confirming, .tracking], ((tracked (hall []) v).afterCheck (frame 3 50) n).loop.track = v) ∧
    (bagWith .onLoop).location = some (.carrier 38) ∧ (bagWith .stray).location = some (.pen 0) := by
  refine ⟨fun st hst c hc => ?_, by decide +kernel⟩
  simp only [List.mem_cons, List.not_mem_nil, or_false] at hst hc
  rcases hst with rfl | rfl | rfl | rfl <;> rcases hc with rfl | rfl <;>
    exact ⟨admitted (by decide +kernel), serves (by decide +kernel), by decide +kernel,
      resolves (stamp := 50) (r := 50) rfl (by decide +kernel), by decide +kernel, foundBag (by decide +kernel)⟩

/-- An anonymous bag on carrier 44 beside bag 0 in a state. -/
def anonymousAt44 (st : BagState) : State :=
  (hall [bag st none, Bag.blank .onLoop (some (.carrier 44))]).setContent 44 (.loaded h1)

theorem test_premises_ArchIdentifies : (∀ st ∈ [BagState.registered, .missing, .landing],
      Admitted (anonymousAt44 st) (frame 3 50) (node .arch [0]) ∧ Serves (anonymousAt44 st) (node .arch [0]) .arch 0 ∧
      ResolvesTo (anonymousAt44 st) 50 20 44 0 ∧ (anonymousAt44 st).carrier? 44 = some ⟨.loaded h1, none⟩ ∧
      (anonymousAt44 st).bag? h1 = some (Bag.blank .onLoop (some (.carrier 44))) ∧
      FoundBag (anonymousAt44 st) 1 100 h0 (bag st none)) ∧ (Bag.blank .onLoop (some (.carrier 44))).tag = none ∧
    (anonymousAt44 .missing).store.tagMap.get? (999999999 : BitVec 32).toNat = none ∧
    (closing [bag .missing none]).slotState .berthA = .closing ∧ h1.index ≠ h0.index := by
  refine ⟨fun st hst => ?_, by decide +kernel⟩
  simp only [List.mem_cons, List.not_mem_nil, or_false] at hst
  rcases hst with rfl | rfl | rfl <;>
    exact ⟨admitted (by decide +kernel), serves (by decide +kernel), resolves (stamp := 50) (r := 50) rfl (by decide +kernel),
      by decide +kernel, by decide +kernel, foundBag (by decide +kernel)⟩

/-- Bag 1, of tag 101, on carrier 44, read before as another or not, beside bag 0 in a state. -/
def taggedAt44 (st : BagState) (again : Bool) : State :=
  (hall [bag st none, { bag .onLoop (some (.carrier 44)) with tag := some 101, recheck := again }]).setContent 44 (.loaded h1)

theorem test_premises_ArchDisagrees : (∀ st ∈ [BagState.missing, .landing], ∀ again ∈ [true, false],
      Admitted (taggedAt44 st again) (frame 3 50) (node .arch [0]) ∧
      Serves (taggedAt44 st again) (node .arch [0]) .arch 0 ∧ ResolvesTo (taggedAt44 st again) 50 20 44 0 ∧
      (taggedAt44 st again).carrier? 44 = some ⟨.loaded h1, none⟩ ∧
      (taggedAt44 st again).bag? h1 = some { bag .onLoop (some (.carrier 44)) with tag := some 101, recheck := again } ∧
      FoundBag (taggedAt44 st again) 1 100 h0 (bag st none) ∧ BagTableLaw (taggedAt44 st again)) ∧
    (taggedAt44 .missing true).store.tagMap.get? (100 : BitVec 32).toNat ≠ some h1 ∧
    (taggedAt44 .missing true).store.tagMap.get? (999999999 : BitVec 32).toNat = none ∧
    (taggedAt44 .missing true).store.bags.length < bagRecords := by
  refine ⟨fun st hst again ha => ?_, by decide +kernel⟩
  simp only [List.mem_cons, List.not_mem_nil, or_false] at hst ha
  rcases hst with rfl | rfl <;> rcases ha with rfl | rfl <;>
    exact ⟨admitted (by decide +kernel), serves (by decide +kernel), resolves (stamp := 50) (r := 50) rfl (by decide +kernel),
      by decide +kernel, by decide +kernel, foundBag (by decide +kernel), ⟨rfl, by decide +kernel⟩⟩
theorem test_premises_CheckUnresolved :
    (∀ s ∈ [unstamped (marked 2), marked 2], Admitted s (frame 4 59) (node .chute [0, 1]) ∧
      Serves s (node .chute [0, 1]) .chute (0 : Byte).toNat) ∧ StaleStamp (marked 2) (frame 4 59).stamp ∧
    StaleStamp (marked 2) (frame 4 242).stamp := by
  refine ⟨fun s hs => ?_, ⟨50, rfl, by decide⟩, ⟨50, rfl, by decide⟩⟩
  simp only [List.mem_cons, List.not_mem_nil, or_false] at hs
  rcases hs with rfl | rfl <;> exact ⟨admitted (by decide +kernel), serves (by decide +kernel)⟩
theorem test_premises_CheckResolved :
    let n := node .chute [0, 1]
    let s := marked 2
    let last := (marked 2).setChutes [(0, { deck with failures := 2, reserved := 1 }), (1, strayChute)]
    Admitted s (frame 4 50) n ∧ Serves s n .chute (0 : Byte).toNat ∧ s.link.stampRef = some 50 ∧
    ResolvesTo s 50 (deck.offset + 1) 33 0 ∧ s.chute? (0 : Byte).toNat = some { deck with reserved := 1 } ∧
    s.carrier? 33 = some ⟨.loaded h0, some ⟨0, 2, none⟩⟩ ∧ s.bag? h0 = some (bag .onLoop (some (.carrier 33))) ∧
    ((hall []).carrier? 33).bind (·.armed) = none ∧ deck.failures + 1 < s.limits.failure ∧
    last.chute? 0 = some { deck with failures := 2, reserved := 1 } ∧ 2 + 1 = last.limits.failure :=
  ⟨admitted (by decide +kernel), serves (by decide +kernel), rfl,
    resolves (stamp := 50) (r := 50) rfl (by decide +kernel), by decide +kernel⟩

/-! ## Witnesses: frames from the hall floor -/

theorem test_premises_LandFillsCart :
    let n := node .chute [0, 1]
    (∀ st ∈ [BagState.landing, .jammed], Admitted (hallWith st) (frame 4 50) n ∧
      Serves (hallWith st) n .chute (0 : Byte).toNat) ∧
    (hallWith .landing).chute? 0 = some { deck with landing := [⟨h0, 50⟩] } ∧
    (hallWith .jammed).chute? 0 = some { deck with jams := [h0] } ∧
    (hallWith .jammed).activeCart { deck with jams := [h0] } = some (1, cart [] .filling) ∧
    (hallWith .jammed).bag? h0 = some (bagWith .jammed) := by
  refine ⟨fun st hst => ?_, by decide +kernel⟩
  simp only [List.mem_cons, List.not_mem_nil, or_false] at hst
  rcases hst with rfl | rfl <;> exact ⟨admitted (by decide +kernel), serves (by decide +kernel)⟩
/-- Bag 0 lands in cart 1, whose capacity is 1: it is FULL, and cart 2 becomes active where it stands by. -/
theorem test_land_fills : ∀ standby ∈ [true, false],
    let s := ((hallWith .landing).setCarts ((1, { cart [] .filling with capacity := 1 }) ::
      if standby then [(2, cart [] .standby)] else [])).setChutes
        [(0, { deck with landing := [⟨h0, 50⟩], posY := if standby then .cart 2 else .empty }), (1, strayChute)]
    ∃ t ∈ (match exec (.land (frame 4 50) 0) s with
      | .next t => [t]
      | _ => []), t.cart? 1 = some { cart [⟨h0, false⟩] .full with capacity := 1 } ∧
        t.chute? 0 = some (if standby then { deck with posY := .cart 2, active := some .y }
          else { deck with active := none, state := .blocked }) := by decide +kernel
theorem test_premises_LandEntersPen : Admitted (strayJam 0 []) (frame 4 50) (node .chute [0, 1]) ∧
    Serves (strayJam 0 []) (node .chute [0, 1]) .chute (1 : Byte).toNat ∧
    (strayJam 0 []).chute? 1 = some { strayChute with jams := [h0] } ∧ strayChute.active = none ∧
    (strayJam 0 []).bag? h0 = some (bag .jammed (some (.chute 1))) :=
  ⟨admitted (by decide +kernel), serves (by decide +kernel), by decide +kernel⟩
theorem test_premises_UnidentifiedLands :
    let n := node .chute [0, 1]
    let bare := withDeck [] { deck with active := none }
    let brim := withDeck [] { deck with reserved := 4 }
    let noRoom := (hall []).setPen ⟨0, [], [], false⟩
    Admitted (hall []) (frame 4 50) n ∧ Serves (hall []) n .chute (0 : Byte).toNat ∧
    Serves (hall []) n .chute (1 : Byte).toNat ∧ (hall []).chute? 0 = some deck ∧ deck.landing = [] ∧ deck.jams = [] ∧
    (hall []).activeCart deck = some (1, cart [] .filling) ∧ deck.reserved < (cart [] .filling).freePlaces ∧
    brim.chute? 0 = some { deck with reserved := 4 } ∧ (cart [] .filling).freePlaces ≤ 4 ∧
    bare.chute? 0 = some { deck with active := none } ∧ (hall []).chute? 1 = some strayChute ∧
    (hall []).strayClaims < (hall []).freePen ∧ noRoom.freePen ≤ noRoom.strayClaims :=
  ⟨admitted (by decide +kernel), serves (by decide +kernel), serves (by decide +kernel), by decide +kernel⟩
theorem test_premises_CartPresentRegisters :
    let n := node .chute [0, 1]
    let bare := withDeck [] { deck with posX := .empty, active := none, state := .blocked }
    Admitted (hall []) (frame 4 50) n ∧ Serves (hall []) n .chute (0 : Byte).toNat ∧ (hall []).chute? 0 = some deck ∧
    deck.position .x ≠ .empty ∧ deck.position .y = .empty ∧ (hall []).carts.length < cartRecords ∧
    (hall []).nextSerial = 2 ∧ ((hall []).setNextSerial 65535).nextSerial ≤ 65535 ∧ (hall []).cart? 2 = none ∧
    bare.chute? 0 = some { deck with posX := .empty, active := none, state := .blocked } :=
  ⟨admitted (by decide +kernel), serves (by decide +kernel), by decide +kernel⟩
theorem test_premises_CartPresentRegisters_full (n : Nat) (hn : cartRecords ≤ n) :
    let s := (hall []).setCarts (List.replicate n (1, cart [] .filling))
    Admitted s (frame 4 50) (node .chute [0, 1]) ∧ Serves s (node .chute [0, 1]) .chute 0 ∧ s.chute? 0 = some deck ∧
    deck.position .y = .empty ∧ cartRecords ≤ s.carts.length :=
  ⟨admitted rfl, serves rfl, rfl, rfl, by
    show cartRecords ≤ (List.replicate n (1, cart [] .filling)).length
    rw [List.length_replicate]
    exact hn⟩
theorem test_premises_CartRemovedClears :
    let n := node .chute [0, 1]
    let short := withDeck [] { deck with posX := .marked, active := none }
    let standby := (withDeck [] { deck with posY := .cart 2 }).setCarts [(1, cart [] .filling), (2, cart [] .standby)]
    Admitted (hall []) (frame 4 50) n ∧ Serves (hall []) n .chute (0 : Byte).toNat ∧ (hall []).chute? 0 = some deck ∧
    deck.position .y = .empty ∧ short.chute? 0 = some { deck with posX := .marked, active := none } ∧
    Admitted standby (frame 4 50) n ∧ Serves standby n .chute 0 ∧
    standby.chute? 0 = some { deck with posY := .cart 2 } ∧ standby.cart? 2 = some (cart [] .standby) ∧
    deck.active ≠ some .y ∧ deck.position .x = .cart 1 ∧ (hall []).cart? 1 = some (cart [] .filling) ∧ deck.claims = 0 ∧
    Serves (hall []) n .chute (1 : Byte).toNat ∧ (hall []).chute? 1 = some strayChute :=
  ⟨admitted (by decide +kernel), serves (by decide +kernel), by decide +kernel, by decide +kernel, by decide +kernel,
    admitted (by decide +kernel), serves (by decide +kernel), by decide +kernel, by decide +kernel, by decide +kernel,
    by decide +kernel, by decide +kernel, by decide +kernel, serves (by decide +kernel), by decide +kernel⟩

/-- Cart 1, in a state, holds bag 0 at X; cart 2 stands by at Y; door 0 is busy with cart 3. -/
def departing (st : CartState) (reserved : Nat) (y : Position) : State :=
  let s := (loaded st reserved).setChutes [(0, { deck with reserved := reserved, posY := y }), (1, strayChute)]
  (s.setCarts [(1, cart [entry0] st), (2, cart [] .standby), (3, cart [⟨h1, false⟩] .atDoor)]).setDoors
    [(0, { door0 with cart := some 3 })]

theorem test_premises_CartRemovedDeparts :
    let n := node .chute [0, 1]
    (∀ st ∈ [CartState.full, .cut, .filling, .closing], ∀ r ∈ [0, 4, 5], ∀ y ∈ [Position.cart 2, .empty],
      Admitted (departing st r y) (frame 4 50) n ∧ Serves (departing st r y) n .chute (0 : Byte).toNat ∧
      (departing st r y).chute? 0 = some { deck with reserved := r, posY := y } ∧
      (departing st r y).cart? 1 = some (cart [entry0] st) ∧ (departing st r y).route? key3 = some route3 ∧
      (departing st r y).door? 0 = some { door0 with cart := some 3 } ∧
      (departing st r y).cart? 3 = some (cart [⟨h1, false⟩] .atDoor)) ∧
    (departing .full 4 (.cart 2)).cart? 2 = some (cart [] .standby) ∧ deck.position .x = .cart 1 ∧
    (cart [⟨h1, false⟩] .atDoor).done = false ∧ ({ deck with reserved := 4 } : Chute).claims ≤ (cart [] .standby).capacity ∧
    (cart [] .standby).capacity < ({ deck with reserved := 5 } : Chute).claims := by
  refine ⟨fun st _ r _ y _ => ⟨admitted rfl, serves rfl, rfl, rfl, rfl, rfl, rfl⟩, by decide +kernel⟩

/-- A cart without a route, with an unidentified item alone, departs from chute 0. -/
theorem test_premises_CartRemovedDeparts_routeless :
    let s := withCart [] { cart [] .filling with unidentified := 1, route := none }
    Admitted s (frame 4 50) (node .chute [0, 1]) ∧ Serves s (node .chute [0, 1]) .chute (0 : Byte).toNat ∧
    s.chute? 0 = some deck ∧ s.cart? 1 = some { cart [] .filling with unidentified := 1, route := none } ∧
    deck.position .x = .cart 1 ∧ deck.position PosName.x.other = .empty ∧ deck.claims = 0 :=
  ⟨admitted (by decide +kernel), serves (by decide +kernel), by decide +kernel⟩

/-- Cart 1 departs from chute 0 where door 0 is free, its route IDLE or LOADING. -/
def departingFree (st : RouteState) (l : List Entry) : State :=
  let s := (loaded .full 0).setCarts [(1, cart l .full)]
  s.setRoutes (s.routes.set 3 { route3 with state := st })

/-- A departure onto an IDLE route of a free door, which offers nothing, and onto a LOADING one, whose cart comes to the door; and an
empty active cart that leaves with claims outstanding, which a STANDBY cart beside it has room for or not. -/
theorem test_premises_CartRemovedDeparts_free :
    let joined := fun st => (departingFree st [entry0]).setRoutes
      ((departingFree st [entry0]).routes.set 3 { route3 with state := st, queue := [1] })
    (∀ st ∈ [RouteState.idle, .loading], Admitted (departingFree st [entry0]) (frame 4 50) (node .chute [0, 1]) ∧
      (departingFree st [entry0]).route? key3 = some { route3 with state := st } ∧
      (departingFree st [entry0]).door? 0 = some door0) ∧
    (∀ i, i < 12 → ¬Offering (joined .idle) 0 ⟨.berthA, i⟩) ∧
    Wins (joined .loading) 0 door0 key3 { route3 with state := .loading, queue := [1] } 1 [] (cart [entry0] .full) ∧
    ∀ r ∈ [4, 5], ∀ y ∈ [Position.cart 2, .empty],
      let s := (departing .filling r y).setCarts [(1, cart [] .filling), (2, cart [] .standby)]
      s.cart? 1 = some (cart [] .filling) ∧ s.chute? 0 = some { deck with reserved := r, posY := y } :=
  ⟨fun st _ => ⟨admitted rfl, rfl, rfl⟩, notOffering (by decide +kernel), wins (i := 3) (by decide +kernel), by decide +kernel⟩
/-- CART REMOVED of a cart onto a LOADING route of a free door: it comes to the door, and the chute, without a STANDBY cart, is BLOCKED,
with its notice; one that is empty retires, where its claims are lost with CART_LOST. -/
theorem test_cart_removed : (∃ t, exec (.cartRemoved (frame 4 50) 0 0 0) (departingFree .loading [entry0]) = .next t ∧
      t.cart? 1 = some (cart [entry0] .atDoor) ∧ t.subjects .chuteBlocked = [0] ∧
      t.chute? 0 = some { deck with posX := .empty, active := none, state := .blocked } ∧
      t.door? 0 = some { door0 with cart := some 1, running := true, lastServed := some 3 }) ∧
    ∃ t, exec (.cartRemoved (frame 4 50) 0 0 0) ((departing .filling 5 (.cart 2)).setCarts
        [(1, cart [] .filling), (2, cart [] .standby)]) = .next t ∧ t.cart? 1 = none ∧ t.cart? 2 = some (cart [] .filling) ∧
      t.chute? 0 = some { deck with
        posX := .empty, posY := .cart 2, active := some .y, state := .fault .cartLost, reserved := 0 } ∧
      t.subjects .chuteFault = [0] :=
  ⟨⟨_, rfl, by decide +kernel⟩, _, rfl, by decide +kernel⟩
/-- Bag 0 in cart 1 at door 0, in an OPEN slot. -/
def boarding (b : Bag) : State := atDoor [b, stray0] [entry0, ⟨h1, false⟩]

theorem test_premises_DoorscanHalts :
    let n := node .door [0]
    let y := { door0 with cart := some 1, running := true, lastServed := some 3 }
    let b := bag .inCart (some (.cart 1))
    let s := boarding b
    Admitted s (frame 5 50) n ∧ Serves s n .door (0 : Byte).toNat ∧ s.door? (0 : Byte).toNat = some y ∧
    s.store.tagMap.get? (999999999 : BitVec 32).toNat = none ∧ s.store.tagMap.get? (100 : BitVec 32).toNat = some h0 ∧
    s.bag? h0 = some b ∧ b.home = some ⟨.berthA, 7⟩ ∧ (closing []).slotState .berthA = .closing ∧
    s.slotState .berthA ≠ .closing ∧
    s.store.governing b = some { cabin .boarded 1 0 with forwardedIn := 1 } ∧
    s.route? ⟨.berthA, 3⟩ = some { route3 with state := .loading } ∧ route3.door = some 0 ∧
    s.cart? 1 = some (cart [entry0, ⟨h1, false⟩] .atDoor) ∧
    s.store.governing { b with home := some ⟨.berthA, 8⟩ } = some (cabin .notSailing 0 1) ∧
    (cabin .notSailing 0 1).status = .void ∧
    s.store.governing { b with home := some ⟨.berthA, 9⟩ } = some (cabin .expected 0 2) ∧
    (cabin .expected 0 2).status = .pending ∧ (s.store.slot .berthA).boardFirst = true ∧
    stray0.home = none ∧ (hallWith .registered).bag? h0 = some (bagWith .registered) ∧
    (withCart [b] { cart [entry0] .full with route := none }).cart? 1 = some { cart [entry0] .full with route := none } :=
  ⟨admitted (by decide +kernel), serves (by decide +kernel), by decide +kernel, by decide +kernel, by decide +kernel,
    by decide +kernel, by decide, by decide +kernel, by decide +kernel, by decide +kernel, by decide +kernel, by decide,
    by decide +kernel, by decide +kernel, by decide, by decide +kernel, by decide, by decide +kernel⟩

/-- Bag 0 in cart 1, in a state, while door 0 has no cart or cart 2, which is not done. -/
def boardingElsewhere (st : CartState) (l : List Entry) (busy : Bool) : State :=
  let s := boarding (bag .inCart (some (.cart 1)))
  ((s.setCarts [(1, cart (entry0 :: l) st), (2, cart [⟨h1, false⟩] .atDoor)]).setDoors
    [(0, { door0 with cart := if busy = true then some 2 else none })]).setRoutes
      (s.routes.set 3 { route3 with queue := if st = .queued then [1] else [] })

theorem test_premises_DoorscanBoards :
    let n := node .door [0]
    let b := bag .inCart (some (.cart 1))
    (∀ l ∈ [[], [⟨h1, true⟩], [⟨h1, false⟩]], let s := atDoor [b, stray0] (entry0 :: l)
      Admitted s (frame 5 50) n ∧ Serves s n .door (0 : Byte).toNat ∧ s.bag? h0 = some b ∧
      s.cart? 1 = some (cart (entry0 :: l) .atDoor) ∧ (entry0 :: l).filter (fun e => e.bag != h0) = l ∧
      s.door? 0 = some { door0 with cart := some 1, running := true, lastServed := some 3 } ∧
      ∀ q ∈ s.routes, 1 ∉ q.queue) ∧
    (∀ st ∈ [CartState.full, .queued], ∀ l ∈ [[], [⟨h1, false⟩]], ∀ busy ∈ [true, false],
      let t := boardingElsewhere st l busy
      Admitted t (frame 5 50) n ∧ Serves t n .door (0 : Byte).toNat ∧ t.bag? h0 = some b ∧
      t.cart? 1 = some (cart (entry0 :: l) st) ∧ (st = .full → ∀ q ∈ t.routes, 1 ∉ q.queue) ∧
      t.door? 0 = some { door0 with cart := if busy = true then some 2 else none }) ∧
    (boarding b).store.governing b = some { cabin .boarded 1 0 with forwardedIn := 1 } ∧
    (cabin .boarded 1 0).status = .sailing ∧ b.pull ≠ some .request ∧
    (boardingElsewhere .full [] true).cart? 2 = some (cart [⟨h1, false⟩] .atDoor) ∧
    (cart [⟨h1, false⟩] .atDoor).done = false := by
  refine ⟨fun l hl => ?_, fun st hst l hl v hv => ?_, by decide +kernel⟩
  · simp only [List.mem_cons, List.not_mem_nil, or_false] at hl
    rcases hl with rfl | rfl | rfl <;> exact ⟨admitted (by decide +kernel), serves (by decide +kernel), by decide +kernel⟩
  · simp only [List.mem_cons, List.not_mem_nil, or_false] at hst hl hv
    rcases hst with rfl | rfl <;> rcases hl with rfl | rfl <;> rcases hv with rfl | rfl <;>
      exact ⟨admitted (by decide +kernel), serves (by decide +kernel), by decide +kernel⟩
theorem test_premises_HaltStopsBelt : (boarding (bag .inCart (some (.cart 1)))).door? 0 =
    some { door0 with cart := some 1, running := true, lastServed := some 3 } ∧
    (hall []).servingNode .door 0 ≠ none ∧ (hall []).link.txQueue.length < txCapacity := by decide +kernel
theorem test_premises_EncodePlaces :
    let n := node .encode []
    let s := hall [bag .registered none]
    let other := hall [bag .landing (some (.chute 0))]
    let noRoom := (hall []).setChutes [(1, { strayChute with reserved := 16 })]
    let may := fun b : Bag => b.state = .registered ∨ b.state = .missing
    (∀ o ∈ [OpState.run, .rest], AdmittedEncode (s.setOpState o) (frame 6 50) n) ∧ s.pen.size ≤ (16 : Byte).toNat ∧
    (15 : Byte).toNat < s.pen.size ∧ s.pen.positions.get? 15 = none ∧ noRoom.penRoom = 0 ∧ 1 ≤ s.penRoom ∧
    FoundBag s 1 100 h0 (bag .registered none) ∧ NewBag s 1 999999999 may (some (999999999 : BitVec 32).toNat) .unknownTag ∧
    NewBag other 1 100 may none .duplicateTag ∧
    NewBag (closing [bag .registered none]) 1 100 may none .wrongSailing ∧ s.store.bags.length < bagRecords := by
  refine ⟨fun o ho => ?_, by decide +kernel, by decide +kernel, by decide +kernel, by decide +kernel, by decide +kernel,
    foundBag (by decide +kernel), unknownTag (by decide +kernel),
    duplicateTag (foundBag (g := h0) (b := bag .landing (some (.chute 0))) (by decide +kernel)) (by decide +kernel),
    wrongSailing (g := h0) (b := bag .registered none) rfl (by decide +kernel) (by decide +kernel), by decide +kernel⟩
  simp only [List.mem_cons, List.not_mem_nil, or_false] at ho
  rcases ho with rfl | rfl
  · exact ⟨.ofEmpty rfl, .inl rfl, rfl, rfl⟩
  · exact ⟨.ofEmpty rfl, .inr rfl, rfl, rfl⟩
theorem test_premises_EncodePlaces_full (n : Nat) (hn : bagRecords ≤ n) :
    AdmittedEncode (full n) (frame 6 50) (node .encode []) ∧
    (15 : Byte).toNat < (full n).pen.size ∧ (full n).pen.positions.get? 15 = none ∧ 1 ≤ (full n).penRoom ∧
    bagRecords ≤ (full n).store.bags.length :=
  ⟨⟨.ofEmpty rfl, .inl rfl, rfl, rfl⟩, by
    show 15 < 16
    decide, rfl, by
    show 1 ≤ (hall []).penRoom
    decide +kernel, (full_length n).symm ▸ hn⟩
theorem test_premises_EncodeJudges :
    let n := node .encode []
    let b := bag .missing none
    let s := (hall [b, stray0]).setPen ⟨16, [(0, h1)], [h1], false⟩
    AdmittedEncode s (frame 6 50) n ∧ (0 : Byte).toNat < s.pen.size ∧ s.pen.positions.get? 0 = some h1 ∧
    s.bag? h1 = some stray0 ∧ stray0.tag = none ∧ s.store.tagMap.get? (100 : BitVec 32).toNat = some h0 ∧
    s.bag? h0 = some b ∧ s.slotState .berthA ≠ .closing ∧ h1.index ≠ h0.index ∧
    s.store.tagMap.get? (999999999 : BitVec 32).toNat = none ∧ (closing [b, stray0]).slotState .berthA = .closing ∧
    (hallWith .stray).pen.positions.get? 0 = some h0 ∧ (bagWith .stray).tag = some 100 ∧
    (100 : Nat) ≠ (999999999 : BitVec 32).toNat := ⟨⟨.ofEmpty rfl, .inl rfl, rfl, rfl⟩, by decide +kernel⟩

theorem test_premises_AnswerIsSent : (hall []).servingNode .encode 0 = some 6 ∧
    (hall []).link.txQueue.length < txCapacity ∧ txCapacity ≤ (waiting64 (hall [])).link.txQueue.length ∧
    State.reset.servingNode .encode 0 = none := by decide +kernel

/-! ## Witnesses: the sweep and the laws -/

/-- The walker at an index and pass. -/
def walkerAt (s : State) (index : Nat) (pass : BitVec 32) : State := s.setSweep { s.sweep with pos := ⟨index, pass⟩ }

theorem test_premises_PatrolVisits : State.reset.opState ≠ .run ∧ (walking [] .clear 0).sweep.walk ≠ none ∧
    (hall []).opState = .run ∧ (hall []).sweep.walk = none ∧ 16383 ≤ (hall []).sweep.pos.index ∧
    (hall []).sweep.pos.pass.toNat < 4294967295 ∧ (walkerAt (hall []) 16382 0).sweep.pos.index < 16383 ∧
    (∀ st, h0.index = (hallWith st).sweep.pos.next.index ∧ (hallWith st).opState = .run ∧
      (hallWith st).sweep.walk = none ∧ (hallWith st).bag? h0 = some (bagWith st)) ∧
    (90 + (hall []).limits.strayAge * 60 ≤ ((hallWith .stray).setHallSecond 1890).hallSecond) ∧
    ¬(90 + (hall []).limits.strayAge * 60 ≤ ((hallWith .stray).setHallSecond 1889).hallSecond) :=
  ⟨by decide, by decide +kernel, rfl, rfl, by decide +kernel, by decide +kernel, by decide +kernel,
    fun st => by cases st <;> decide +kernel, by decide +kernel, by decide +kernel⟩

/-- Cabin 8's pull began at index 0 in pass 3, and the walker is about to come there in a pass. -/
def pulling (bags : List Bag) (pass : Nat) : State :=
  let s := hall bags
  walkerAt (s.setStore (s.store.modifyCabin ⟨.berthA, 8⟩ (fun c => { c with pull := .pulling, pullStart := some ⟨0, 3⟩ })))
    16383 (BitVec.ofNat 32 pass)

theorem test_premises_PatrolWalks : ∀ bags ∈ [[], [bag .missing none]], ∀ pass ∈ [2, 3],
    (pulling bags pass).opState = .run ∧ (pulling bags pass).sweep.walk = none ∧
    16383 ≤ (pulling bags pass).sweep.pos.index ∧ (pulling bags pass).sweep.pos.pass.toNat < 4294967295 ∧
    (pulling bags pass).store.cabins.get? 8 =
      some { cabin .notSailing 0 1 with pull := .pulling, pullStart := some ⟨0, 3⟩ } ∧
    (pulling bags pass).notices.sources.length = 15 ∧ (pulling [] pass).store.bags.get? 0 = none := by decide +kernel

/-- Bag 0, ABOARD in cart 1 at door 0, of cabin 8, which is VOID, with other entries and unidentified items. -/
def patrolAtDoor (l : List Entry) (unidentified : Nat) : State :=
  let b := { bag .aboard (some (.cart 1)) with home := some ⟨.berthA, 8⟩ }
  (atDoor [b, bag .aboard (some (.cart 1))] []).setCarts
    [(1, { cart (⟨h0, true⟩ :: l) .atDoor with unidentified := unidentified, notify := true })]

/-- The cart at the door after OFFLOAD: it stays while it holds an unmarked entry or an unidentified item, and else completes. -/
theorem test_premises_PatrolReconciles_door :
    (∀ e ∈ [(([⟨h1, false⟩] : List Entry), 0), ([⟨h1, true⟩], 1), ([], 1), ([⟨h1, true⟩], 0), ([], 0)],
      let s := patrolAtDoor e.1 e.2
      s.opState = .run ∧ s.sweep.walk = none ∧ h0.index = s.sweep.pos.next.index ∧ s.doorOfCart 1 = some 0 ∧
      (s.bag? h0).any (fun b => b.state == .aboard && (s.store.governing b).any (fun c => c.status == .void)) = true ∧
      s.door? 0 = some { door0 with cart := some 1, running := true, lastServed := some 3 } ∧
      s.cart? 1 = some { cart (⟨h0, true⟩ :: e.1) .atDoor with unidentified := e.2, notify := true }) ∧
    ∃ t, exec .patrolVisit (patrolAtDoor [⟨h1, true⟩] 0) = .next t ∧ t.cart? 1 = none ∧ t.subjects .cartDone = [3] ∧
      t.bag? h1 = some { bag .aboard none with tag := some 100 } ∧ (t.bag? h0).map (·.state) = some .offload :=
  ⟨by decide +kernel, _, rfl, by decide +kernel⟩
/-- A walk about to visit a record of the hall with bag 0 missing. -/
def walkAt (w : WalkKind) (n : Nat) : State := walking [bag .missing none, stray0] w n

/-- Cart 2, QUEUED on route 3 of berth A, stands in no queue, and chute 0's claims hold its CLOSING cart 1 active. -/
def closeEnds : State :=
  let s := walkAt (.close .berthA) 22527
  (s.setCarts [(1, { cart [] .closing with unidentified := 1 }), (2, cart [entry0] .queued)]).setChutes
    [(0, { deck with reserved := 1 }), (1, strayChute)]

/-- A walk about to visit bag 0 in each state, where its holder has it. -/
theorem test_premises_LeftHolder : (∀ st, ((hallWith st).setSweep { Sweep.reset with walk := some ⟨.clear, 0⟩ }).bag? h0 =
      some (bagWith st)) ∧
    (bagWith .onLoop).location = some (.carrier 38) ∧ (hallWith .onLoop).carrier? 38 = some ⟨.loaded h0, none⟩ ∧
    (bagWith .landing).location = some (.chute 0) ∧
    (hallWith .landing).chute? 0 = some { deck with landing := [⟨h0, 50⟩] } ∧
    (bagWith .jammed).location = some (.chute 0) ∧ (hallWith .jammed).chute? 0 = some { deck with jams := [h0] } ∧
    (bagWith .inCart).location = some (.cart 1) ∧ (hallWith .inCart).cart? 1 = some (cart [⟨h0, false⟩] .filling) ∧
    (bagWith .aboard).location = some (.cart 1) ∧ (hallWith .aboard).cart? 1 = some (cart [⟨h0, true⟩] .filling) ∧
    (bagWith .stray).location = some (.pen 0) :=
  ⟨fun st => by cases st <;> decide +kernel, by decide +kernel⟩
theorem test_premises_WalksRetire :
    (∀ w ∈ [WalkKind.clear, .close .berthA, .close .berthB], ∀ n ∈ [0, 1, 16383, 16384, 22526, 22527],
      (walkAt w n).sweep.walk = some ⟨w, n⟩) ∧
    (walkAt .clear 0).store.bags.get? 0 = some (bag .missing none) ∧
    (walkAt .clear 1).store.bags.get? 1 = some stray0 ∧ (walkAt .clear 0).store.bags.get? 16383 = none ∧
    (walkAt .clear 0).store.cabins.find? (fun e => e.2.place + 16384 == 16387) =
      some (10, { cabin .notSailing 0 3 with forward := some 7 }) ∧
    (walkAt .clear 0).store.cabins.find? (fun e => e.2.place + 16384 == 22526) = none ∧
    (walkAt .clear 0).routes.length = 24 ∧ (walkAt .clear 0).notices.sources.length = 15 ∧
    closeEnds.sweep.walk = some ⟨.close .berthA, 22527⟩ ∧ closeEnds.cart? 2 = some (cart [entry0] .queued) ∧
    (∀ e ∈ closeEnds.chutes, e.2.posX ≠ .cart 2 ∧ e.2.posY ≠ .cart 2) ∧
    closeEnds.chute? 0 = some { deck with reserved := 1 } ∧ ({ deck with reserved := 1 } : Chute).claims ≠ 0 ∧
    closeEnds.activeCart { deck with reserved := 1 } = some (1, { cart [] .closing with unidentified := 1 }) ∧
    (∀ r ∈ closeEnds.routes, 1 ∉ r.queue) :=
  ⟨fun _ _ _ _ => rfl, by decide +kernel⟩
theorem test_close_walk_completes : ∃ t, exec .closeWalkComplete closeEnds = .next t ∧ t.cart? 2 = none ∧
    t.cart? 1 = some { cart [] .cut with unidentified := 1, route := none } :=
  ⟨_, rfl, by decide +kernel⟩

/-- Cabin 10, forwarded to cabin 7, stands in the pool's last record as a walk ends: it retires with the clear walk and slot A's, and
stays with slot B's. -/
def lastCabin (w : WalkKind) : State :=
  let s := walkAt w 22527
  s.setStore { s.store with cabins := s.store.cabins.modify 10 (fun c => { c with place := 6143 }) }

theorem test_walk_ends_at_a_cabin : (∀ w ∈ [WalkKind.clear, .close .berthA, .close .berthB],
      (lastCabin w).store.cabins.find? (fun e => e.2.place + 16384 == 22527) =
        some (10, { cabin .notSailing 0 6143 with forward := some 7 })) ∧
    (∀ e ∈ [(Instr.clearWalkVisit, WalkKind.clear), (.closeWalkComplete, .close .berthA)],
      ∃ t ∈ (match exec e.1 (lastCabin e.2) with
        | .next t => [t]
        | _ => []), t.store.cabins.get? 10 = none ∧ t.store.cabins.get? 7 = some (cabin .boarded 1 0)) ∧
    (∃ t, exec .closeWalkVisit (lastCabin (.close .berthB)) = .next t ∧
      t.store.cabins = (lastCabin (.close .berthB)).store.cabins) ∧ ListedInHall (lastCabin .clear) := by
  have hn : ∀ e ∈ (lastCabin .clear).chutes, e.2.landing = [] ∧ e.2.jams = [] := by decide +kernel
  have hc : ∀ e ∈ (lastCabin .clear).carts, e.2.entries = [] := by decide +kernel
  refine ⟨by decide +kernel, by decide +kernel, ⟨_, rfl, by decide +kernel⟩, fun k c hk => ?_, fun n x hx => ?_⟩
  · obtain ⟨h1, h2⟩ := hn _ (Table.mem_of_get? (t := (lastCabin .clear).chutes) hk)
    exact ⟨by rw [h1]; simp, by rw [h2]; simp⟩
  · rw [hc _ (Table.mem_of_get? (t := (lastCabin .clear).carts) hx)]
    simp

/-- Carts 1 (FILLING, with an unidentified item or none) at X and 2 (STANDBY) at Y of chute 0 when slot A's walk ends. -/
def cartsAtEnd (unidentified : Nat) : State :=
  ((walkAt (.close .berthA) 22527).setCarts
    [(1, { cart [] .filling with unidentified := unidentified }), (2, cart [] .standby)]).setChutes
      [(0, { deck with posY := .cart 2 }), (1, strayChute)]

theorem test_premises_CloseWalkCompletes_carts : ∀ u ∈ [0, 1],
    (cartsAtEnd u).chute? 0 = some { deck with posY := .cart 2 } ∧ deck.assigned = some key3 ∧ key3.slot = .berthA ∧
    (cartsAtEnd u).cart? 1 = some { cart [] .filling with unidentified := u } ∧
    (cartsAtEnd u).cart? 2 = some (cart [] .standby) ∧ strayChute.posX ≠ .cart 1 ∧ strayChute.posY ≠ .cart 2 ∧
    (∀ r ∈ (cartsAtEnd u).routes, 1 ∉ r.queue) := by decide +kernel
theorem test_premises_HallTimeReads : Ready State.reset head0 0 := .ofIdle rfl (by decide +kernel)
theorem test_premises_Laws (i : Instr) : NoticeLaw State.reset ∧ LevelLaw (hall []) ∧ QueueLaw (hall []) ∧
    BagTableLaw (hall [stray0]) ∧ ModeLaw (hall []) ∧ NoticeLaw noticed ∧ SubjectLaw noticed ∧ ShapeLaw (hall []) ∧
    step ((hall []).setPending [i]) = exec i (hall []) ∧
    (∃ t, step ((hall []).setPending [.frameTransmit]) = .next t) ∧ (∃ t, step (hall [stray0]) = .next t) ∧
    ∃ t, step (noticed.setPending [.frameTransmit]) = .next t :=
  ⟨rfl, by intro e he; simp only [hall, List.mem_cons, List.not_mem_nil, or_false] at he; subst he; rfl, Nat.zero_le _,
    ⟨rfl, by decide +kernel⟩, by unfold ModeLaw; decide +kernel, by unfold NoticeLaw; decide +kernel,
    ⟨rfl, by decide +kernel⟩, by unfold ShapeLaw; decide +kernel, rfl, ⟨_, rfl⟩,
    ⟨_, rfl⟩, ⟨_, rfl⟩⟩

end Sys2Proof.Tests
end

section
/-! Bag records and the tag map: how a request that names a bag by its handle and changes its record comes to its answer, and from
that BAG HOLD and BAG RELEASE (R35, R39, R40). -/

namespace Sys2Proof.Machine

/-! ## A live bag's record -/

theorem State.modifyBag_live {s : State} {h : Handle} {b : Bag} (hb : s.bag? h = some b) (f : Bag → Bag) :
    s.modifyBag h f = s.setStore { s.store with bags := s.store.bags.put h.index (f b) } := by
  have hb' : s.store.bag? h = some b := hb
  simp [State.modifyBag, Store.modifyBag, hb']

/-- A bag is viewed with its cabin's governing record, which lies outside the bag table. -/
theorem State.bagView_modifyBag (s : State) (h g : Handle) (f : Bag → Bag) (b : Bag) :
    (s.modifyBag h f).bagView g b = s.bagView g b := by
  cases hb : s.store.bag? h with
  | none => simp [State.modifyBag, Store.modifyBag, hb, State.setStore]
  | some x => rw [s.modifyBag_live hb]; rfl

theorem State.bagAnswer_modifyBag {s : State} {h : Handle} {b : Bag} (hb : s.bag? h = some b) (f : Bag → Bag) :
    (s.modifyBag h f).bagAnswer h = Answer.done (.bag (s.bagView h (f b))) := by
  simp [State.bagAnswer, State.modifyBag_bag?, hb, State.bagView_modifyBag]

theorem State.bagIn_live {s : State} {h : Handle} {b : Bag} (hb : s.bag? h = some b) (l : List BagState) :
    s.bagIn h l = l.contains b.state := by
  simp [State.bagIn, State.bagState, hb]

theorem Store.governedVoid_eq_any (t : Store) (b : Bag) :
    t.governedVoid b = (t.governing b).any (fun g => g.status == .void) := by
  unfold Store.governedVoid
  cases t.governing b <;> rfl

/-! ## Requests on a nameable bag -/

/-- Taking a request changes nothing that the tests of R35 look at. -/
theorem Nameable.taken {s : State} {h : Handle} {b : Bag} (hn : Nameable s h b) : Nameable s.taken h b := hn

section
variable {s : State} {h : Head} {b : Bag} {len : Nat}

/-- A request on a nameable bag whose own tests pass has its effect. -/
theorem request_onBag_pass (hr : Ready s h len) (hn : Nameable s h.key.handle b) (code : Byte)
    {own : State → List (Bool × Result)} (hown : firstFailure (own s.taken) = none) (act : State → State) :
    request code h len (fun t => onBag h true t (own t) (act t)) s =
      answered code h (act s.taken) ((act s.taken).bagAnswer h.key.handle) := by
  rw [request_ready hr, onBag_nameable hn.taken, guarded_pass hown]

/-- A request on a nameable bag is refused by the first of its own tests that fails. -/
theorem request_onBag_fail (hr : Ready s h len) (hn : Nameable s h.key.handle b) (code : Byte)
    {own : State → List (Bool × Result)} {r : Result} (hown : firstFailure (own s.taken) = some r)
    (act : State → State) :
    request code h len (fun t => onBag h true t (own t) (act t)) s = answered code h s.taken (Answer.refuse r) := by
  rw [request_ready hr, onBag_nameable hn.taken, guarded_fail hown]

/-- A request whose effect is a change of the bag it names puts the changed record and answers with it. -/
theorem request_onBag_modifies (hr : Ready s h len) (hn : Nameable s h.key.handle b) (code : Byte)
    {own : State → List (Bool × Result)} (hown : firstFailure (own s.taken) = none) (f : State → Bag → Bag) :
    request code h len (fun t => onBag h true t (own t) (t.modifyBag h.key.handle (f t))) s =
      answered code h
        (s.taken.setStore { s.store with bags := s.store.bags.put h.key.handle.index (f s.taken b) })
        (Answer.done (.bag (s.bagView h.key.handle (f s.taken b)))) := by
  obtain ⟨-, -, hb, -⟩ := hn.taken
  rw [request_onBag_pass hr hn code hown (fun t => t.modifyBag h.key.handle (f t)),
    State.bagAnswer_modifyBag hb, State.modifyBag_live hb]
  rfl

end

/-! ## BAG HOLD and BAG RELEASE -/

theorem exec_bagHold (h : Head) (s : State) : exec (.bagHold h) s = execBagHold h s := rfl

theorem exec_bagRelease (h : Head) (s : State) : exec (.bagRelease h) s = execBagRelease h s := rfl

/-- The states in which BAG HOLD takes a bag, as its own test lists them (R39). -/
theorem holdable_iff (x : BagState) :
    ([.registered, .onLoop, .stray, .missing] : List BagState).contains x = true ↔
      x = .registered ∨ x = .onLoop ∨ x = .stray ∨ x = .missing := by
  simp

theorem bagHoldSets : Claim.BagHoldSets := by
  intro h b s hr hn
  obtain ⟨-, -, hb, -⟩ := hn.taken
  rw [exec_bagHold]
  constructor
  · intro hst
    refine request_onBag_modifies hr hn 0x23 ?_ (fun _ b => { b with hold := true })
    rw [State.bagIn_live hb, (holdable_iff b.state).2 hst]
    rfl
  · intro hst
    refine request_onBag_fail hr hn 0x23 ?_ (fun t => t.modifyBag h.key.handle (fun b => { b with hold := true }))
    rw [State.bagIn_live hb, Bool.eq_false_iff.2 (mt (holdable_iff b.state).1 hst)]
    rfl

theorem bagReleaseClears : Claim.BagReleaseClears := by
  intro h b s hr hn x
  have hx : b.release (s.taken.store.governedVoid b) = x := by
    rw [Store.governedVoid_eq_any]
    rfl
  rw [exec_bagRelease, ← hx]
  exact request_onBag_modifies hr hn 0x24 (own := fun _ => []) rfl
    (fun t b => b.release (t.store.governedVoid b))

/-- Settles O20: each request is a change of the one record that its handle names, BAG HOLD's after a test of the bag's state, BAG
RELEASE's after no test of its own. -/
theorem holdAndRelease : Obligations.HoldAndRelease :=
  ⟨bagHoldSets, bagReleaseClears⟩

end Sys2Proof.Machine
end

section
/-! The carrier table as CARRIER GET reads it, and from that CARRIER GET (R60, R80). -/

namespace Sys2Proof.Machine

/-! ## The carrier table -/

/-- The carriers are numbered 0 to N - 1: a number of N or more names none (R60). -/
theorem State.carrier?_eq_none_iff (s : State) (n : Nat) : s.carrier? n = none ↔ s.carrierCount ≤ n :=
  List.getElem?_eq_none_iff

/-- Taking a request changes nothing of what CARRIER GET reads: the carrier table and the position. -/
@[simp] theorem State.carrierAnswer_taken (s : State) (n : Nat) : s.taken.carrierAnswer n = s.carrierAnswer n := rfl

theorem State.carrierAnswer_of_none {s : State} {n : Nat} (hn : s.carrier? n = none) :
    s.carrierAnswer n = Answer.refuse .badField := by
  simp only [State.carrierAnswer, hn]

theorem State.carrierAnswer_of_some {s : State} {n : Nat} {c : Carrier} (hc : s.carrier? n = some c) :
    s.carrierAnswer n =
      Answer.done (.carrier ⟨n, c.content, c.armed.map (·.chute), s.wrap ((s.loop.pos : Int) - (n : Int))⟩) := by
  simp only [State.carrierAnswer, hc]

/-! ## CARRIER GET -/

theorem exec_carrierGet (h : Head) (s : State) : exec (.carrierGet h) s = execCarrierGet h s := rfl

/-- A CARRIER GET that is ready is answered from the carrier table as it stands when the request is taken. -/
theorem exec_carrierGet_ready {h : Head} {s : State} (hr : Ready s h 0) :
    exec (.carrierGet h) s = answered 0x31 h s.taken (s.carrierAnswer h.key.number) := by
  rw [exec_carrierGet, execCarrierGet, request_ready hr, State.carrierAnswer_taken]

/-- Settles O24: CARRIER GET answers what the carrier table holds under the number it names, and a number has an entry there just
where it lies below N. -/
theorem carrierGetReads : Obligations.CarrierGetReads := by
  intro h s hr
  rw [exec_carrierGet_ready hr]
  constructor
  · intro hN
    have hnone : s.carrier? h.key.number = none := (s.carrier?_eq_none_iff h.key.number).2 hN
    rw [State.carrierAnswer_of_none hnone]
  · intro c hc
    have hsome : s.carrier? h.key.number = some c := hc
    rw [State.carrierAnswer_of_some hsome, State.wrap, State.carrierCount]

end Sys2Proof.Machine
end

section
/-! Loss of tracking and recovery: what the tracking state, the notices and the induction points become when tracking takes a cause
of loss (R78, R83, R93). -/

namespace Sys2Proof.Machine

/-! ## The loss that is counted -/

/-- The loop tracker as a counted cause of loss leaves it, before the points take TRACKING: the raised count stops at the loss limit,
and tracking fails where it comes to it (R83). -/
def Loop.lost (l : Loop) (limit : Nat) : Loop :=
  { l.anchor with
    track := if l.lossCount + 1 < limit then .anchoring else .failed
    lossCount := min (l.lossCount + 1) limit }

/-- The notice source that a counted cause of loss makes pending (R83, R93). -/
def Loop.lossNotice (l : Loop) (limit : Nat) : Source :=
  if l.lossCount + 1 < limit then .loopLost else .loopFailed

section
variable {l : Loop} {limit : Nat}

theorem Loop.lost_below (h : l.lossCount + 1 < limit) :
    l.lost limit = { l.anchor with lossCount := l.lossCount + 1 } := by
  simp only [Loop.lost, if_pos h, Nat.min_eq_left h.le, Loop.anchor]

theorem Loop.lost_at (h : limit ≤ l.lossCount + 1) :
    l.lost limit = { l.anchor with track := .failed, lossCount := limit } := by
  simp only [Loop.lost, if_neg h.not_gt, Nat.min_eq_right h]

theorem Loop.lossNotice_below (h : l.lossCount + 1 < limit) : l.lossNotice limit = .loopLost := if_pos h

theorem Loop.lossNotice_at (h : limit ≤ l.lossCount + 1) : l.lossNotice limit = .loopFailed := if_neg h.not_gt

end

/-! ## A cause of loss in each tracking state -/

/-- A cause of loss taken while tracking is lost already is not counted (R83). -/
theorem State.causeOfLoss_uncounted {s : State} (h : s.loop.track = .anchoring ∨ s.loop.track = .failed) :
    s.causeOfLoss = s := by
  have hout : ¬(s.loop.track = .tracking ∨ s.loop.track = .confirming) := by
    rcases h with h | h <;> simp [h]
  exact if_neg hout

section
variable {s : State} (h : s.loop.track = .tracking ∨ s.loop.track = .confirming)
include h

/-- A counted cause of loss acts in three parts: on the loop tracker, on the notices, and then on every point. -/
theorem State.causeOfLoss_counted :
    s.causeOfLoss =
      ((s.setLoop (s.loop.lost s.limits.loss)).raise (s.loop.lossNotice s.limits.loss) 0).putCauseAll .tracking true := by
  rw [State.causeOfLoss, if_pos h]
  rcases Nat.lt_or_ge (s.loop.lossCount + 1) s.limits.loss with hlt | hle
  · simp only [if_pos hlt, Loop.lost_below hlt, Loop.lossNotice_below hlt]
  · simp only [if_neg hle.not_gt, Loop.lost_at hle, Loop.lossNotice_at hle]

theorem State.causeOfLoss_loop :
    s.causeOfLoss.loop = { s.loop.lost s.limits.loss with points := s.causeOfLoss.loop.points } := by
  rw [State.causeOfLoss_counted h, State.putCauseAll_loop]
  rfl

theorem State.causeOfLoss_track_count :
    s.causeOfLoss.loop.track = (s.loop.lost s.limits.loss).track ∧
    s.causeOfLoss.loop.lossCount = (s.loop.lost s.limits.loss).lossCount := by
  rw [State.causeOfLoss_loop h]
  exact ⟨rfl, rfl⟩

/-- A counted cause of loss clears the runs and the home mark, at the limit and below it, and keeps the position and the carrier
table (R83, R87). -/
theorem State.causeOfLoss_clears :
    s.causeOfLoss.loop.confirmRun = 0 ∧ s.causeOfLoss.loop.mismatchRun = 0 ∧ s.causeOfLoss.loop.homeMark = false ∧
    s.causeOfLoss.loop.pos = s.loop.pos ∧ s.causeOfLoss.loop.carriers = s.loop.carriers := by
  rw [State.causeOfLoss_loop h]
  exact ⟨rfl, rfl, rfl, rfl, rfl⟩

theorem State.causeOfLoss_notices :
    s.causeOfLoss.notices = (s.raise (s.loop.lossNotice s.limits.loss) 0).notices := by
  rw [State.causeOfLoss_counted h, State.putCauseAll_notices]
  rfl

/-- A counted cause of loss puts TRACKING on every point, and adds or takes away no point (R78, R83). -/
theorem State.causeOfLoss_point (i : Nat) :
    s.causeOfLoss.loop.points.get? i =
      (s.loop.points.get? i).map (fun p => p.withCauses (p.causes.put .tracking true)) := by
  rw [State.causeOfLoss_counted h, State.putCauseAll_get?]
  rfl

theorem State.causeOfLoss_point_tracking {i : Nat} {p : Induction} (hp : s.causeOfLoss.loop.points.get? i = some p) :
    p.causes.tracking = true := by
  rw [State.causeOfLoss_point h, Option.map_eq_some_iff] at hp
  obtain ⟨q, -, rfl⟩ := hp
  rfl

end

/-- Settles O38: a cause that is not counted changes nothing, and a counted one leaves the loop tracker as `Loop.lost` says, which
parts at the loss limit, with the notice of that part and TRACKING on every point. -/
theorem lossCounted : Obligations.LossCounted := by
  intro s
  refine ⟨State.causeOfLoss_uncounted, fun h => ?_⟩
  have hchanges := (Keeps.causeOfLoss s).changes
  have hnotices := State.causeOfLoss_notices h
  obtain ⟨htrack, hcount⟩ := State.causeOfLoss_track_count h
  obtain ⟨hconfirm, hmismatch, hhome, hpos, hcarriers⟩ := State.causeOfLoss_clears h
  refine ⟨hchanges, hconfirm, hmismatch, hhome, hpos, hcarriers, fun _ _ => State.causeOfLoss_point_tracking h,
    fun hlt => ?below, fun hle => ?limit⟩
  case below =>
    rw [Loop.lost_below hlt] at htrack hcount
    rw [Loop.lossNotice_below hlt] at hnotices
    exact ⟨htrack, hcount, hnotices⟩
  case limit =>
    rw [Loop.lost_at hle] at htrack hcount
    rw [Loop.lossNotice_at hle] at hnotices
    exact ⟨htrack, hcount, hnotices⟩

end Sys2Proof.Machine
end

section
/-! The destination rule at a decision point, one lemma for each of its lines, and from those DestinationByLines (R95). -/

namespace Sys2Proof.Machine

/-! ## What the lines read -/

/-- A bag's slot is CLOSING just where the bag has a slot and that slot is (R95 line 4). -/
theorem State.bagClosing_iff (s : State) (b : Bag) :
    s.bagClosing b = true ↔ ∃ k, b.home = some k ∧ s.slotState k.slot = .closing := by
  unfold State.bagClosing
  cases b.home <;> simp

theorem Cabin.standsVoid_iff (c : Cabin) : c.standsVoid = true ↔ c.status = .void ∧ c.forward = none := by
  simp [Cabin.standsVoid]

/-- A bag's governing cabin stands VOID just where the bag has one, VOID and without a forward target (R95 line 5). -/
theorem Store.governedStandsVoid_iff (t : Store) (b : Bag) :
    t.governedStandsVoid b = true ↔ ∃ c, t.governing b = some c ∧ c.status = .void ∧ c.forward = none := by
  unfold Store.governedStandsVoid
  cases t.governing b <;> simp [Cabin.standsVoid_iff]

theorem Store.bagRoute_of_governing {t : Store} {b : Bag} {k : CabinKey} {c : Cabin} (hk : b.home = some k)
    (hc : t.governing b = some c) : t.bagRoute b = some ⟨k.slot, c.route⟩ := by
  simp [Store.bagRoute, hk, hc]

theorem Store.bagRoute_of_no_home {t : Store} {b : Bag} (hk : b.home = none) : t.bagRoute b = none := by
  simp [Store.bagRoute, hk]

section
variable {s : State} {b : Bag}

/-! ## Lines 1 and 2 -/

theorem State.linesReason_given {r : StrayReason} (h : b.reason = some r) : s.linesReason b = some r := by
  simp only [State.linesReason, h]

theorem State.linesReason_recirc (h : b.reason = none) (hl : b.laps = s.limits.recirc) :
    s.linesReason b = some .recircLimit := by
  simp only [State.linesReason, h, if_pos hl]

theorem State.linesReason_none (h : b.reason = none) (hl : b.laps ≠ s.limits.recirc) : s.linesReason b = none := by
  simp only [State.linesReason, h, if_neg hl]

/-! ## Lines 3 to 5 -/

theorem State.linesHeld_hold (h : b.hold = true) : s.linesHeld b = some .held := if_pos h

/-- Without HOLD the slot is read first. -/
theorem State.linesHeld_closing (h : b.hold = false) (hc : s.bagClosing b = true) :
    s.linesHeld b = some .wrongSailing := by
  simp [State.linesHeld, h, hc]

/-- Without HOLD and with the slot not CLOSING, the flag and the governing cabin are read. -/
theorem State.linesHeld_pulled (h : b.hold = false) (hc : s.bagClosing b = false)
    (hp : b.pull ≠ none ∨ s.store.governedStandsVoid b = true) : s.linesHeld b = some .pulled := by
  simp [State.linesHeld, h, hc, Option.isSome_iff_ne_none, hp]

theorem State.linesHeld_none (h : b.hold = false) (hc : s.bagClosing b = false) (hp : b.pull = none)
    (hv : s.store.governedStandsVoid b = false) : s.linesHeld b = none := by
  simp [State.linesHeld, h, hc, hp, hv]

/-! ## Lines 7 and 8 -/

theorem State.linesRoute_governed {k : CabinKey} {c : Cabin} (hk : b.home = some k)
    (hc : s.store.governing b = some c) : s.linesRoute b = .route ⟨k.slot, c.route⟩ := by
  simp only [State.linesRoute, Store.bagRoute_of_governing hk hc]

/-- A bag with no cabin strays by what it carries: a tag or none. -/
theorem State.linesRoute_of_no_home (hk : b.home = none) :
    s.linesRoute b = .stray (if b.tag = none then .noRead else .unknownTag) := by
  simp only [State.linesRoute, Store.bagRoute_of_no_home hk]
  cases b.tag <;> rfl

/-! ## The rule: an earlier line that holds wins -/

variable {kind : ChuteKind} {r : StrayReason}

theorem State.destination_of_linesReason (h : s.linesReason b = some r) : s.destination b kind = .stray r := by
  simp only [State.destination, h]

theorem State.destination_of_linesHeld (h : s.linesReason b = none) (hh : s.linesHeld b = some r) :
    s.destination b kind = .stray r := by
  simp only [State.destination, h, hh]

/-- Line 6: RECHECK withholds the destination at a DECK chute. -/
theorem State.destination_recheck (h : s.linesReason b = none) (hh : s.linesHeld b = none) (hr : b.recheck = true)
    (hk : kind = .deck) : s.destination b kind = .nowhere := by
  simp [State.destination, h, hh, hr, hk]

/-- Past line 6, which a STRAY chute passes over too, lines 7 and 8 decide (R97). -/
theorem State.destination_past_recheck (h : s.linesReason b = none) (hh : s.linesHeld b = none)
    (hr : b.recheck = false ∨ kind = .stray) : s.destination b kind = s.linesRoute b := by
  have hskip : (b.recheck && kind == .deck) = false := by
    rcases hr with hr | rfl
    · rw [hr, Bool.false_and]
    · exact Bool.and_false b.recheck
  simp [State.destination, h, hh, hskip]

end

/-- Settles O41: the lines in their order, the negation of each line's condition being carried to the lines after it. -/
theorem destinationByLines : Obligations.DestinationByLines := by
  intro s b kind
  refine ⟨fun r hr => State.destination_of_linesReason (State.linesReason_given hr), fun hr => ⟨fun hl =>
    State.destination_of_linesReason (State.linesReason_recirc hr hl), fun hl => ?_⟩⟩
  have h12 : s.linesReason b = none := State.linesReason_none hr hl
  refine ⟨fun hh => State.destination_of_linesHeld h12 (State.linesHeld_hold hh), fun hh => ⟨fun hc =>
    State.destination_of_linesHeld h12 (State.linesHeld_closing hh ((s.bagClosing_iff b).2 hc)), fun hc => ?_⟩⟩
  have hopen : s.bagClosing b = false :=
    Bool.eq_false_iff.2 fun h => by
      obtain ⟨k, hk, hclosing⟩ := (s.bagClosing_iff b).1 h
      exact hc k hk hclosing
  refine ⟨fun hp => State.destination_of_linesHeld h12 (State.linesHeld_pulled hh hopen
    (hp.imp_right (s.store.governedStandsVoid_iff b).2)), fun hp hv => ?_⟩
  have hsails : s.store.governedStandsVoid b = false :=
    Bool.eq_false_iff.2 fun h => by
      obtain ⟨c, hg, hvoid⟩ := (s.store.governedStandsVoid_iff b).1 h
      exact hv c hg hvoid
  have h345 : s.linesHeld b = none := State.linesHeld_none hh hopen hp hsails
  refine ⟨State.destination_recheck h12 h345, fun hpast => ?_⟩
  rw [State.destination_past_recheck h12 h345 hpast]
  exact ⟨fun k c => State.linesRoute_governed, State.linesRoute_of_no_home⟩

end Sys2Proof.Machine
end

section
/-! Every command keeps the laws, its case by the lemma that says what the shared operation behind it may do, and from that the
invariants of a step (R20, R56, R77, R166, R167, R179). -/

namespace Sys2Proof.Machine

/-! ## Commands and the laws -/

/-- Every part of the state: what a command may change where only the laws are asked for. -/
def everyBlock : List Block :=
  [.opState, .hallSecond, .subTick, .patrolPhase, .limits, .port, .discarded, .spiOut, .store, .link, .loop, .chutes, .carts,
    .nextSerial, .routes, .doors, .pen, .sweep, .notices, .freeCount, .pending]

theorem subset_everyBlock (l : List Block) : l ⊆ everyBlock := by
  intro b _
  cases b <;> decide

/-- The next state of an outcome, if there is one, keeps the laws. -/
def Lawful (s : State) (o : Outcome) : Prop := ∀ t, o = .next t → Keeps everyBlock s t

theorem Lawful.next {l : List Block} {s t : State} (h : Keeps l s t) : Lawful s (.next t) := by
  intro u hu
  cases hu
  exact h.mono (subset_everyBlock l)

/-- A request keeps the laws that its rule keeps. -/
theorem Lawful.request {l : List Block} {code : Byte} {h : Head} {len : Nat} {act : State → State × Answer} {s : State}
    (ha : ∀ t, Keeps l t (act t).1) : Lawful s (request code h len act s) :=
  Lawful.next (Keeps.takeRequest s code h len act ha (subset_everyBlock l) (subset_everyBlock _))

/-- A request that only reads. -/
theorem Lawful.reads {code : Byte} {h : Head} {len : Nat} {act : State → State × Answer} {s : State}
    (ha : ∀ t, (act t).1 = t) : Lawful s (Machine.request code h len act s) :=
  Lawful.request (l := []) fun t => (ha t).symm ▸ Keeps.refl [] t

theorem guarded_reads {tests : List (Bool × Result)} {s : State} {a : Answer} : (guarded tests s (s, a)).1 = s := by
  unfold guarded
  split <;> rfl

theorem onSlot_reads {h : Head} {fields : Bool} {s : State} {act : SlotId → State × Answer}
    (ha : ∀ b, (act b).1 = s) : (onSlot h fields s act).1 = s := by
  unfold onSlot
  repeat' split
  all_goals first | rfl | exact ha _

theorem onSailing_reads {h : Head} {fields : Bool} {s : State} {own : SlotId → List (Bool × Result)}
    {answer : SlotId → Answer} : (onSailing h fields s own (fun b => (s, answer b))).1 = s :=
  onSlot_reads fun _ => guarded_reads

/-! ## Reset -/

/-- Settles O60: every table of the reset state is empty or has its size, and no source has a subject. -/
theorem lawsHoldAtReset : Obligations.LawsHoldAtReset := by
  refine ⟨rfl, ?_, Nat.zero_le _, ⟨rfl, ?_⟩, ?_, ⟨rfl, by decide⟩, ?_⟩
  · intro e he
    cases he
  · intro e he
    cases he
  · unfold ModeLaw
    decide
  · unfold ShapeLaw
    decide

/-- Restarting leaves the laws standing, whatever stood before. -/
theorem Keeps.restart (s : State) : Keeps everyBlock s s.restart := by
  obtain ⟨hn, hl, hq, hb, hm, hs, hw⟩ := lawsHoldAtReset
  have hk : Keeps everyBlock State.reset s.restart :=
    ((Keeps.setPending _ _).comp (Keeps.setFreeCount _ _) (subset_everyBlock _) (subset_everyBlock _))
  refine ⟨?_, fun _ => hk.notice hn, fun _ => hk.level hl, fun _ => hk.queue hq, fun _ => hk.bags hb, fun _ => hk.mode hm,
    fun _ => hk.subjects hs, fun _ => hk.shape hw⟩
  intro b hb
  exact absurd (subset_everyBlock [b] (List.mem_singleton_self b)) hb

/-! ## Notices -/

theorem NoticeUnit.onNumber_rises {u : NoticeUnit} (i : Nat) {f : List Nat → List Nat}
    (hf : ∀ l, l.Pairwise (· < ·) → (f l).Pairwise (· < ·))
    (h : u.sources.length = 15 ∧ ∀ n ∈ u.sources, n.subjects.Pairwise (· < ·)) :
    (u.onNumber i f).sources.length = 15 ∧ ∀ n ∈ (u.onNumber i f).sources, n.subjects.Pairwise (· < ·) := by
  refine ⟨by simpa [NoticeUnit.onNumber, NoticeUnit.drive] using h.1, ?_⟩
  exact forall_mem_modify (p := fun n : Notice => n.subjects.Pairwise (· < ·)) (fun n hn => hf _ hn) h.2 i

/-- One source's set is changed by number (R180, R181). -/
theorem Keeps.onNumber (s : State) (i : Nat) {f : List Nat → List Nat}
    (hf : ∀ l, l.Pairwise (· < ·) → (f l).Pairwise (· < ·)) :
    Keeps [.notices] s (s.setNotices (s.notices.onNumber i f)) :=
  Keeps.setNotices (NoticeUnit.drive_pin _) (NoticeUnit.onNumber_rises i hf)

/-- A source is read (R180). -/
theorem Keeps.readNotice (s : State) (i : Nat) : Keeps [.notices] s (s.setNotices (s.notices.read i)) := by
  unfold NoticeUnit.read
  split
  · exact Keeps.refl _ s
  · exact Keeps.onNumber s i fun l hl => hl.tail

theorem NoticeUnit.mask_subjects {u : NoticeUnit} {l : List (Option Bool × Option Priority)} {global : Bool} {n : Notice}
    (hn : n ∈ (u.mask l global).sources) : ∃ m ∈ u.sources, n.subjects = m.subjects := by
  change n ∈ u.sources.zipWith (fun n e =>
    { n with enabled := e.1.getD n.enabled, priority := e.2.getD n.priority }) l at hn
  rw [← List.map_uncurry_zip_eq_zipWith] at hn
  obtain ⟨⟨m, e⟩, he, rfl⟩ := List.mem_map.1 hn
  exact ⟨m, (List.of_mem_zip he).1, rfl⟩

/-- Enables and priorities are replaced, for all fifteen sources (R181). -/
theorem Keeps.maskNotices (s : State) (l : List (Option Bool × Option Priority)) (global : Bool) (hl : l.length = 15) :
    Keeps [.notices] s (s.setNotices (s.notices.mask l global)) := by
  refine Keeps.setNotices (NoticeUnit.drive_pin _) fun hs => ⟨?_, ?_⟩
  · change (s.notices.sources.zipWith _ l).length = 15
    rw [List.length_zipWith, hs.1, hl]
    rfl
  · intro n hn
    obtain ⟨m, hm, he⟩ := NoticeUnit.mask_subjects hn
    exact he ▸ hs.2 m hm

/-- NOTICE MASK takes a list of fifteen alone, the length being among its tests (R181). -/
theorem Keeps.guardedMask (s : State) (l : List (Option Bool × Option Priority)) (global : Option Bool) :
    Keeps [.notices] s (Machine.guarded [(maskOk l global, Result.badField)] s
      (s.setNotices (s.notices.mask l (global.getD false)), Answer.done .empty)).1 := by
  cases hm : maskOk l global with
  | false => exact Keeps.refl _ s
  | true =>
    refine Keeps.maskNotices s l _ ?_
    simp only [maskOk, Bool.and_eq_true, decide_eq_true_eq] at hm
    exact hm.1.1

/-! ## Every command -/

/-- Every command keeps the laws. -/
theorem exec_lawful (i : Instr) (s : State) : Lawful s (exec i s) := by
  cases i with
  | powerOn => exact Lawful.next (Keeps.restart s)
  | hallResetN low =>
    refine Lawful.next (l := everyBlock) ?_
    split
    · exact Keeps.restart s
    · exact Keeps.refl _ s
  | statusOnly first => exact Lawful.next (Keeps.setSpiOut ..)
  | fetch clocked =>
    refine Lawful.next (l := everyBlock) ?_
    split
    · exact (Keeps.setSpiOut s _).comp (Keeps.setPort _ _) (subset_everyBlock _) (subset_everyBlock _)
    · exact (Keeps.setSpiOut s _).mono (subset_everyBlock _)
  | unknownRequest code h => exact Lawful.reads fun _ => rfl
  | responseReady =>
    refine Lawful.next (l := [.port]) ?_
    split
    · exact Keeps.setPort ..
    · exact Keeps.refl _ s
  | configLoop h n p => exact Lawful.request fun t => Keeps.guarded (Keeps.configLoop ..)
  | configInduction h offset node => exact Lawful.request fun t => Keeps.guarded (Keeps.configInduction ..)
  | configArch h offset node => exact Lawful.request fun t => Keeps.guarded (Keeps.configArch ..)
  | configChute h kind offset lead window capacity node =>
    exact Lawful.request fun t => Keeps.guarded (Keeps.setChutes t _ fun hw => wf_configure hw _ _ _)
  | configDoor h berth node =>
    exact Lawful.request fun t => Keeps.guarded (Keeps.setDoors t _ fun hw => wf_configure hw _ _ _)
  | configNode h role objects =>
    refine Lawful.request (l := [.link]) fun t => ?_
    cases role with
    | none => exact Keeps.refl _ t
    | some r => exact Keeps.guarded (Keeps.modifyNode ..)
  | configLimits h body => exact Lawful.request fun t => Keeps.guarded (Keeps.configLimits ..)
  | run h =>
    refine Lawful.request (l := [.opState, .loop, .link, .doors]) fun t => Keeps.guarded ?_
    split
    · exact Keeps.refl _ t
    · exact Keeps.enterRun t
  | hallClear h => exact Lawful.request fun t => Keeps.guarded (Keeps.hallClear ..)
  | hallRest h => exact Lawful.request fun t => Keeps.guarded (Keeps.enterRest ..)
  | wake h => exact Lawful.request fun t => Keeps.guarded (Keeps.wake ..)
  | hallTime h => exact Lawful.reads fun _ => rfl
  | openSailing h ship policy => exact Lawful.request fun t => Keeps.onSlot fun b => Keeps.guarded (Keeps.putSlot ..)
  | closeSailing h ship => exact Lawful.request fun t => Keeps.onSailing fun b => Keeps.startClose ..
  | sailingGet h => exact Lawful.reads fun t => onSlot_reads fun b => guarded_reads
  | routeSet h door notifyAll => exact Lawful.request fun t => Keeps.onSailing fun b => Keeps.modifyRoute ..
  | cabinPut h route allowance guests => exact Lawful.request fun t => Keeps.onSailing fun b => Keeps.putCabin ..
  | cabinGet h => exact Lawful.reads fun t => onSailing_reads
  | cabinDrop h => exact Lawful.request fun t => Keeps.onSailing fun b => Keeps.dropCabin ..
  | cabinForward h target => exact Lawful.request fun t => Keeps.onSailing fun b => Keeps.forwardCabin ..
  | guestStatus h guest state => exact Lawful.request fun t => Keeps.onSailing fun b => Keeps.changeCabin ..
  | bagRegister h tag => exact Lawful.request fun t => Keeps.onSailing fun b => Keeps.register ..
  | bagGet h form =>
    refine Lawful.reads fun t => ?_
    split
    · rfl
    · exact guarded_reads
    · exact guarded_reads
  | bagReassign h slot cabin =>
    refine Lawful.request (l := [.store, .carts, .routes, .doors, .link, .notices]) fun t => ?_
    split
    · exact Keeps.refl _ t
    · exact Keeps.onBag (Keeps.reassign ..)
  | bagHold h => exact Lawful.request fun t => Keeps.onBag (Keeps.modifyBag ..)
  | bagRelease h => exact Lawful.request fun t => Keeps.onBag (Keeps.modifyBag ..)
  | bagPull h => exact Lawful.request fun t => Keeps.onBag (Keeps.pullBag ..)
  | bagRetire h => exact Lawful.request fun t => Keeps.retiring ..
  | offloadConfirmRetire h known position => exact Lawful.request fun t => Keeps.retiring ..
  | offloadConfirmPen h position =>
    exact Lawful.request fun t => Keeps.onBag
      ((Keeps.intake t _ _).comp (Keeps.modifyBag _ _ _) (subset_everyBlock _) (subset_everyBlock _))
  | bagUnload h position => exact Lawful.request fun t => Keeps.onBag (Keeps.unload ..)
  | loopGet h => exact Lawful.reads fun _ => rfl
  | carrierGet h => exact Lawful.reads fun _ => rfl
  | trackingReset h => exact Lawful.request fun t => Keeps.guarded (Keeps.trackingReset ..)
  | trackingResume h => exact Lawful.request fun t => Keeps.guarded (Keeps.setLoopPlain rfl rfl)
  | chuteAssign h slot route =>
    refine Lawful.request (l := [.chutes, .routes, .carts]) fun t => ?_
    split
    · exact Keeps.refl _ t
    · exact Keeps.guarded (Keeps.onChute fun c => Keeps.assignChute ..)
  | chuteOpen h => exact Lawful.request fun t => Keeps.onChute fun c => Keeps.openChute ..
  | chuteClose h => exact Lawful.request fun t => Keeps.onChute fun c => Keeps.modifyChute ..
  | chuteGet h => exact Lawful.request fun t => Keeps.onChute fun c => Keeps.refl [] t
  | cartCut h =>
    refine Lawful.request (l := [.carts, .chutes, .notices]) fun t => Keeps.onChute fun c => ?_
    dsimp only
    split
    · exact Keeps.cutCart ..
    · exact Keeps.refl _ t
  | cutComplete chute => exact Lawful.next (Keeps.settleCut ..)
  | cartGet h first => exact Lawful.reads fun t => guarded_reads
  | cartClearUnidentified h => exact Lawful.request fun t => Keeps.guarded (Keeps.clearUnidentified ..)
  | jamClearLanded h known chute position => exact Lawful.request fun t => Keeps.onBag (Keeps.jamLanded ..)
  | jamClearRemoved h chute position => exact Lawful.request fun t => Keeps.onBag (Keeps.jamRemoved ..)
  | routeStart h stay => exact Lawful.request fun t => Keeps.onRoute fun k => Keeps.startRoute ..
  | routePause h => exact Lawful.request fun t => Keeps.onRoute fun k => Keeps.pauseRoute ..
  | routeContinue h => exact Lawful.request fun t => Keeps.onRoute fun k => Keeps.continueRoute ..
  | routeGet h => exact Lawful.request fun t => Keeps.onRoute fun k => Keeps.refl [] t
  | doorGet h => exact Lawful.request fun t => Keeps.onDoor fun x => Keeps.refl [] t
  | doorRelease h => exact Lawful.request fun t => Keeps.onDoor fun x => Keeps.releaseDoor ..
  | strayNext h place => exact Lawful.reads fun t => guarded_reads
  | strayGet h => exact Lawful.reads fun t => guarded_reads
  | strayResolveReinduct h => exact Lawful.request fun t => Keeps.onBag (Keeps.modifyBag ..)
  | strayResolveReturn h => exact Lawful.request fun t => Keeps.retiring ..
  | strayResolveHold h known => exact Lawful.request fun t => Keeps.onBag (Keeps.modifyBag ..)
  | noticeRead h =>
    refine Lawful.request (l := [.notices]) fun t => ?_
    split
    · exact Keeps.refl _ t
    · exact Keeps.readNotice ..
  | noticeMask h sources global => exact Lawful.request fun t => Keeps.guardedMask ..
  | noticeClear h =>
    exact Lawful.request fun t => Keeps.guarded (Keeps.onNumber t _ fun _ _ => List.Pairwise.nil)
  | frameDiscard bytes => exact Lawful.next (Keeps.hears ..)
  | frameByteTimeout bytes gapMicros => exact Lawful.next (Keeps.hears ..)
  | pitch f => exact Lawful.next (Keeps.receive s f _ _ _ fun t => Keeps.takeKind t (.pitch f))
  | checkDeadline carrier =>
    refine Lawful.next (l := [.store, .loop, .chutes, .carts, .notices]) ?_
    split
    · exact Keeps.testMark ..
    · exact Keeps.refl _ s
  | landingDeadline chute =>
    refine Lawful.next (l := [.store, .chutes, .notices]) ?_
    split
    · exact Keeps.jamDue ..
    · exact Keeps.refl _ s
  | home f => exact Lawful.next (Keeps.receive s f _ _ _ fun t => Keeps.takeKind t (.home f))
  | launch f point read tag =>
    exact Lawful.next (Keeps.receive s f _ _ _ fun t => Keeps.takeKind t (.launch f point read tag))
  | arch f arch occupied read tag =>
    exact Lawful.next (Keeps.receive s f _ _ _ fun t => Keeps.takeKind t (.arch f arch occupied read tag))
  | check f chute occupied =>
    exact Lawful.next (Keeps.receive s f _ _ _ fun t => Keeps.takeKind t (.check f chute occupied))
  | land f chute => exact Lawful.next (Keeps.receive s f _ _ _ fun t => Keeps.takeKind t (.land f chute))
  | cartPresent f chute position =>
    exact Lawful.next (Keeps.receive s f _ _ _ fun t => Keeps.takeKind t (.cartPresent f chute position))
  | cartRemoved f chute position report =>
    exact Lawful.next (Keeps.receive s f _ _ _ fun t => Keeps.takeKind t (.cartRemoved f chute position report))
  | doorArbitrate door =>
    refine Lawful.next (l := [.store, .carts, .routes, .doors, .link, .notices]) ?_
    split
    · exact Keeps.settleDoor ..
    · exact Keeps.refl _ s
  | doorscan f door read tag =>
    exact Lawful.next (Keeps.receive s f _ _ _ fun t => Keeps.takeKind t (.doorscan f door read tag))
  | cartComplete door =>
    refine Lawful.next (l := [.store, .carts, .routes, .doors, .link, .notices]) ?_
    split
    · exact Keeps.settleDoor ..
    · exact Keeps.refl _ s
  | encode f position read tag =>
    exact Lawful.next (Keeps.receive s f _ _ _ fun t => Keeps.takeKind t (.encode f position read tag))
  | nodeDown node =>
    refine Lawful.next (l := everyBlock) ?_
    split
    · exact Keeps.refl _ s
    · split
      · exact ((Keeps.modifyNode s _ _).comp (Keeps.raise _ _ _) (subset_everyBlock _) (subset_everyBlock _)).comp
          (Keeps.nodeLost _ _) (subset_everyBlock _) (subset_everyBlock _)
      · exact Keeps.refl _ s
  | levelRefresh => exact Lawful.next ((Keeps.refreshPoints _ s).trans (Keeps.refreshDoors _ _))
  | frameTransmit =>
    refine Lawful.next (l := [.link]) ?_
    split
    · exact Keeps.refl _ s
    · next f t hq =>
      refine Keeps.setLink (fun h => ?_) rfl
      rw [hq] at h
      exact Nat.le_of_succ_le h
  | patrolVisit =>
    refine Lawful.next (l := [.store, .carts, .routes, .doors, .link, .notices, .sweep]) ?_
    split
    · exact Keeps.visit s
    · exact Keeps.refl _ s
  | closeWalkVisit =>
    refine Lawful.next (l := everyBlock) ?_
    split
    · exact (Keeps.walkStep s _).mono (subset_everyBlock _)
    · exact Keeps.refl _ s
  | closeWalkComplete =>
    refine Lawful.next (l := everyBlock) ?_
    split
    · split
      · exact (Keeps.walkStep s _).mono (subset_everyBlock _)
      · exact Keeps.refl _ s
    · exact Keeps.refl _ s
  | clearWalkVisit =>
    refine Lawful.next (l := everyBlock) ?_
    split
    · exact (Keeps.walkStep s _).mono (subset_everyBlock _)
    · exact Keeps.refl _ s
  | clearWalkComplete =>
    refine Lawful.next (l := everyBlock) ?_
    split
    · split
      · exact (Keeps.walkStep s _).mono (subset_everyBlock _)
      · exact Keeps.refl _ s
    · exact Keeps.refl _ s

/-! ## Steps -/

/-- A step is one tick of time or one command, and keeps the laws. -/
theorem step_lawful (s : State) : Lawful s (step s) := by
  unfold step
  split
  · exact Lawful.next (Keeps.tick s)
  · next c rest _ =>
    intro t ht
    exact ((Keeps.setPending s rest).mono (subset_everyBlock _)).trans (exec_lawful c _ t ht)

/-- Settles O56: NOTICE_N is driven afresh wherever sources or enables change. -/
theorem noticePinFollows : Obligations.NoticePinFollows := fun s t hs ht => (step_lawful s t ht).notice hs

/-- Settles O57: causes change through one operation, which sets the level with them. -/
theorem levelsFollowCauses : Obligations.LevelsFollowCauses := fun s t hs ht => (step_lawful s t ht).level hs

/-- Settles O58: a record is put at the lowest free index, below 16,384 while fewer than that are held. -/
theorem bagTableBounded : Obligations.BagTableBounded := fun s t hs ht => (step_lawful s t ht).bags hs

/-- Settles O59: a frame joins a queue with room alone, the mode is set where a pull changes, subjects are put in their place, and
tables are changed by operations that keep their form. -/
theorem queueAndMode : Obligations.QueueAndMode :=
  ⟨fun s t hs ht => (step_lawful s t ht).queue hs, fun s t hs ht => (step_lawful s t ht).mode hs,
    fun s t hs ht => (step_lawful s t ht).subjects hs, fun s t hs ht => (step_lawful s t ht).shape hs⟩

end Sys2Proof.Machine
end

section
/-! Steps, reset and the request port: one tick of time, what power-on leaves, the status byte, and what the port discards and
refuses before and after a request's own rule (R51, R172 to R175). -/

namespace Sys2Proof.Machine

/-! ## Steps -/

/-- Settles O1. -/
theorem stepRunsFront : Obligations.StepRunsFront := fun _ _ _ => rfl

/-- The numbers of the silent nodes rise from the number that the list is counted from. -/
theorem State.silentNodes_rise (s : State) (l : List Node) (i : Nat) :
    (s.silentNodes l i).Pairwise (· < ·) ∧ ∀ m ∈ s.silentNodes l i, i ≤ m := by
  induction l generalizing i with
  | nil => exact ⟨List.Pairwise.nil, fun m hm => absurd hm List.not_mem_nil⟩
  | cons x t ih =>
    obtain ⟨hp, hm⟩ := ih (i + 1)
    unfold State.silentNodes
    split
    · exact ⟨List.pairwise_cons.2 ⟨hm, hp⟩, fun m h => (List.mem_cons.1 h).elim (fun e => e.ge)
        fun h => (Nat.le_succ i).trans (hm m h)⟩
    · exact ⟨hp, fun m h => (Nat.le_succ i).trans (hm m h)⟩

theorem State.mem_silentNodes (s : State) (l : List Node) (i m : Nat) :
    m ∈ s.silentNodes l i ↔ ∃ n x, m = i + n ∧ l[n]? = some x ∧ s.silent x = true := by
  induction l generalizing i with
  | nil => simp [State.silentNodes]
  | cons y t ih =>
    rw [State.silentNodes, List.mem_append, ih (i + 1)]
    constructor
    · rintro (h | ⟨n, x, rfl, hx, hs⟩)
      · split at h
        · next hy => exact ⟨0, y, by simpa using h, rfl, hy⟩
        · exact absurd h List.not_mem_nil
      · exact ⟨n + 1, x, by omega, hx, hs⟩
    · rintro ⟨n, x, rfl, hx, hs⟩
      cases n with
      | zero =>
        cases hx
        exact .inl (by simp [hs])
      | succ n => exact .inr ⟨n, x, by omega, hx, hs⟩

theorem State.silent_iff (s : State) (x : Node) :
    s.silent x = true ↔ s.opState = .run ∧ x.state = .live ∧ ∃ l, x.lastHeard = some l ∧ l + s.limits.silence ≤ s.hallSecond := by
  unfold State.silent
  cases x.lastHeard <;> simp [and_assoc]

/-- What is due of the sweep in a tick. -/
theorem State.sweepTick_due (s : State) :
    s.sweepTick.2 = (match s.sweep.walk with
      | some w =>
        if w.kind = .clear then [if w.next + 1 < 22528 then Instr.clearWalkVisit else .clearWalkComplete]
        else [if w.next + 1 < 22528 then .closeWalkVisit else .closeWalkComplete]
      | none =>
        if s.opState = .run ∧ (s.sweep.mode = .fast ∨ 4096 ≤ s.patrolPhase + s.limits.patrolRate) then [.patrolVisit]
        else []) := by
  unfold State.sweepTick
  cases hw : s.sweep.walk with
  | some w =>
    obtain ⟨kind, n⟩ := w
    have hl : Walk.last ⟨kind, n⟩ = decide (22528 ≤ n + 1) := rfl
    by_cases hn : n + 1 < 22528
    · cases kind <;> simp [Walk.due, hl, hn, Nat.not_le.2 hn]
    · cases kind <;> simp [Walk.due, hl, hn, Nat.not_lt.1 hn]
  | none =>
    cases ho : s.opState <;> simp
    cases hm : s.sweep.mode <;> simp
    by_cases hp : s.patrolPhase + s.limits.patrolRate < 4096
    · simp [ticksPerSecond, hp]
    · simp [ticksPerSecond, hp, Nat.not_lt.1 hp]

theorem State.sweepTick_phase (s : State) :
    s.sweepTick.1.patrolPhase = (if s.sweep.walk = none ∧ s.opState = .run ∧ s.sweep.mode = .patrol then
        if s.patrolPhase + s.limits.patrolRate < 4096 then s.patrolPhase + s.limits.patrolRate
        else s.patrolPhase + s.limits.patrolRate - 4096
      else s.patrolPhase) := by
  unfold State.sweepTick
  cases hw : s.sweep.walk with
  | some w => simp
  | none =>
    cases ho : s.opState <;> simp
    cases hm : s.sweep.mode <;> simp
    by_cases hp : s.patrolPhase + s.limits.patrolRate < 4096 <;> simp [ticksPerSecond, hp]

/-- The silent nodes of a tick that brings a new second: those whose silence has then reached the timeout. -/
def State.downNext (s : State) : List Nat :=
  ((s.setSubTick 0).setHallSecond (s.hallSecond + 1)).silentNodes s.link.nodes 1

theorem State.mem_downNext (s : State) (m : Nat) :
    m ∈ s.downNext ↔ s.opState = .run ∧ ∃ n x l, m = n + 1 ∧ s.link.nodes[n]? = some x ∧ x.state = .live ∧
      x.lastHeard = some l ∧ l + s.limits.silence ≤ s.hallSecond + 1 := by
  rw [State.downNext, State.mem_silentNodes]
  constructor
  · rintro ⟨n, x, rfl, hx, hs⟩
    obtain ⟨ho, hl, l, hh, ht⟩ := (State.silent_iff ..).1 hs
    exact ⟨ho, n, x, l, Nat.add_comm .., hx, hl, hh, ht⟩
  · rintro ⟨ho, n, x, l, rfl, hx, hl, hh, ht⟩
    exact ⟨n, x, Nat.add_comm .., hx, (State.silent_iff ..).2 ⟨ho, hl, l, hh, ht⟩⟩

/-- The tick within a second. -/
theorem State.tick_within {s : State} (h : s.subTick + 1 < 4096) :
    s.tick = (s.setSubTick (s.subTick + 1)).sweepTick.1.setPending
      (s.responseDue ++ s.frameDue ++ (s.setSubTick (s.subTick + 1)).sweepTick.2) := by
  have ha : s.advanceTime = s.setSubTick (s.subTick + 1) := if_pos h
  simp [State.tick, ha]
  rfl

/-- The tick that brings a new second. -/
theorem State.tick_second {s : State} (h : 4096 ≤ s.subTick + 1) :
    s.tick = ((s.setSubTick 0).setHallSecond (s.hallSecond + 1)).sweepTick.1.setPending
      (.levelRefresh :: s.downNext.map Instr.nodeDown ++ s.responseDue ++ s.frameDue ++
        ((s.setSubTick 0).setHallSecond (s.hallSecond + 1)).sweepTick.2) := by
  have ha : s.advanceTime = (s.setSubTick 0).setHallSecond (s.hallSecond + 1) := if_neg (Nat.not_lt.2 h)
  simp [State.tick, ha]
  rfl

/-- Settles O2: the tick within a second and the tick that brings one put the same things into the queue, but for the level refresh
and the nodes that fall silent. -/
theorem emptyQueueTicks : Obligations.EmptyQueueTicks := by
  intro s hs
  obtain ⟨hr, -⟩ := State.silentNodes_rise ((s.setSubTick 0).setHallSecond (s.hallSecond + 1)) s.link.nodes 1
  have hstep : step s = .next s.tick := by
    rw [step, hs]
  refine ⟨s.tick, s.downNext, hstep, (Keeps.tick s).changes, ?_, ?_, hr, s.mem_downNext, ?_, ?_⟩
  · intro h
    rw [State.tick_within h]
    exact ⟨(Keeps.sweepTick _).changes .subTick (by decide), (Keeps.sweepTick _).changes .hallSecond (by decide)⟩
  · intro h
    rw [State.tick_second h]
    exact ⟨(Keeps.sweepTick _).changes .subTick (by decide), (Keeps.sweepTick _).changes .hallSecond (by decide)⟩
  · by_cases h : 4096 ≤ s.subTick + 1
    · rw [State.tick_second h, State.setPending_pending, State.sweepTick_due, if_pos h]
      simp [State.responseDue, State.frameDue]
      rfl
    · rw [State.tick_within (Nat.lt_of_not_le h), State.setPending_pending, State.sweepTick_due, if_neg h]
      simp [State.responseDue, State.frameDue]
      rfl
  · by_cases h : 4096 ≤ s.subTick + 1
    · rw [State.tick_second h, State.setPending_patrolPhase, State.sweepTick_phase]
      rfl
    · rw [State.tick_within (Nat.lt_of_not_le h), State.setPending_patrolPhase, State.sweepTick_phase]
      rfl

/-! ## Reset (R175) -/

theorem execHallResetN_short {n : Nat} (h : n < 1000) (s : State) : exec (.hallResetN n) s = .next s :=
  congrArg Host.Outcome.next (if_neg (Nat.not_le.2 h))

theorem execHallResetN_long {n : Nat} (h : 1000 ≤ n) (s : State) : exec (.hallResetN n) s = exec .powerOn s :=
  congrArg Host.Outcome.next (if_pos h)

/-- Settles O3: each field of the reset state by its definition. -/
theorem resetLeaves : Obligations.ResetLeaves := by
  intro n s
  refine ⟨fun h => execHallResetN_short h s, fun h => execHallResetN_long h s, s.restart, rfl, rfl, rfl, rfl, rfl, ?_, rfl,
    rfl, fun _ => rfl, rfl, ?_, rfl, rfl, rfl, rfl, rfl, rfl, rfl, rfl, rfl, rfl, rfl, rfl, rfl, rfl, ?_, rfl, rfl, rfl,
    rfl, ?_, rfl, rfl, rfl, rfl, rfl⟩
  · intro b
    cases b <;> rfl
  · intro m h1 h2
    have h0 : m ≠ 0 := by omega
    have hm : m - 1 < 32 := by omega
    change (if m = 0 then none else (List.replicate 32 Node.reset)[m - 1]?) = some Node.reset
    rw [if_neg h0, List.getElem?_replicate, if_pos hm]
  · intro k hk
    change (List.replicate 24 Route.reset)[k]? = some Route.reset
    rw [List.getElem?_replicate, if_pos hk]
  · change ∀ x ∈ NoticeUnit.reset.sources, x.subjects = [] ∧ x.enabled = false
    decide

/-! ## Status, FETCH and the response (R172 to R174) -/

/-- The status byte of a port state, a pending notice, DISCARDED and an operating state. -/
def statusByte (port : Fin 3) (pending discarded : Bool) (op : OpState) : Byte :=
  BitVec.ofNat 8 (port.val + 4 * bitNat pending + 8 * bitNat discarded + 16 * op.code)

theorem statusByte_bits (port : Fin 3) (pending discarded : Bool) (op : OpState) :
    let b := statusByte port pending discarded op
    b.getLsbD 0 = decide (port = 1) ∧ b.getLsbD 1 = decide (port = 2) ∧ b.getLsbD 2 = pending ∧
      b.getLsbD 3 = discarded ∧ b.toNat / 16 = op.code := by
  cases op <;> revert port pending discarded <;> decide

/-- The number of a port state in the status byte. -/
def Port.number : Port → Fin 3
  | .waiting _ => 1
  | .working _ => 2
  | .idle => 0

theorem State.status_eq (s : State) : s.status = statusByte s.port.number s.notices.anyPending s.discarded s.opState := by
  unfold State.status statusByte
  cases s.port <;> rfl

theorem Port.number_eq_one (p : Port) : p.number = 1 ↔ ∃ r, p = .waiting r := by
  cases p <;> simp [Port.number]

theorem Port.number_eq_two (p : Port) : p.number = 2 ↔ ∃ r, p = .working r := by
  cases p <;> simp [Port.number]

theorem NoticeUnit.anyPending_iff (u : NoticeUnit) :
    u.anyPending = true ↔ ∃ n ∈ u.sources, n.enabled = true ∧ n.subjects ≠ [] := by
  simp [NoticeUnit.anyPending]

theorem statusByteShifted : Claim.StatusByte := by
  intro first s
  obtain ⟨h0, h1, h2, h3, h4⟩ := statusByte_bits s.port.number s.notices.anyPending s.discarded s.opState
  rw [← State.status_eq] at h0 h1 h2 h3 h4
  refine ⟨s.setSpiOut [s.status], s.status, rfl, (Keeps.setSpiOut ..).changes, rfl, ?_, ?_, ?_, ?_, h4⟩
  · rw [h0, decide_eq_true_eq, Port.number_eq_one]
  · rw [h1, decide_eq_true_eq, Port.number_eq_two]
  · rw [h2, NoticeUnit.anyPending_iff]
  · rw [h3]

theorem responsePlaced : Claim.ResponsePlaced := by
  intro s
  constructor
  · intro r hr
    simp [exec, execResponseReady, hr]
  · intro hr
    cases hp : s.port with
    | working r => exact absurd hp (hr r)
    | idle => simp [exec, execResponseReady, hp]
    | waiting r => simp [exec, execResponseReady, hp]

/-- Settles O5. -/
theorem statusAndResponse : Obligations.StatusAndResponse := ⟨statusByteShifted, responsePlaced⟩

/-- Settles O4: the bytes of a response are its echo, its code, its body's length and its body. -/
theorem fetchAnswers : Obligations.FetchAnswers := by
  intro clocked s
  constructor
  · intro r hr
    simp [exec, execFetch, hr, Response.bytes]
  · intro hr
    cases hp : s.port with
    | waiting r => exact absurd hp (hr r)
    | idle => simp [exec, execFetch, hp, noResponseBytes]
    | working r => simp [exec, execFetch, hp, noResponseBytes]

end Sys2Proof.Machine
end

section
/-! Every request of the catalogue is a rule applied by the port, and a rule that refuses leaves the state: from that what the port
discards and refuses, that a refused request changes nothing, and the ordered tests of R3 and R35. -/

namespace Sys2Proof.Machine

/-! ## Rules that refuse -/

/-- What a rule leaves is the state it was applied to, where its answer is neither DONE nor ACCEPTED. -/
structure Faithful (s : State) (r : State × Answer) : Prop where
  stays : r.2.result ≠ .done → r.2.result ≠ .accepted → r.1 = s

theorem Faithful.answer (s : State) (a : Answer) : Faithful s (s, a) := ⟨fun _ _ => rfl⟩

theorem Faithful.done (s t : State) (b : Body) : Faithful s (t, Answer.done b) := ⟨fun h => absurd rfl h⟩

theorem Faithful.accepted (s t : State) (b : Body) : Faithful s (t, ⟨.accepted, b⟩) := ⟨fun _ h => absurd rfl h⟩

theorem Faithful.guarded {tests : List (Bool × Result)} {s : State} {act : State × Answer} (h : Faithful s act) :
    Faithful s (guarded tests s act) := by
  unfold Machine.guarded
  split
  · exact Faithful.answer ..
  · exact h

theorem Faithful.onSlot {h : Head} {fields : Bool} {s : State} {act : SlotId → State × Answer}
    (ha : ∀ b, Faithful s (act b)) : Faithful s (onSlot h fields s act) := by
  unfold Machine.onSlot
  repeat' split
  all_goals first | exact Faithful.answer .. | exact ha _

theorem Faithful.onSailing {h : Head} {fields : Bool} {s : State} {own : SlotId → List (Bool × Result)}
    {act : SlotId → State × Answer} (ha : ∀ b, Faithful s (act b)) : Faithful s (onSailing h fields s own act) :=
  Faithful.onSlot fun b => Faithful.guarded (ha b)

theorem Faithful.onBag (h : Head) (fields : Bool) (s : State) (own : List (Bool × Result)) (t : State) :
    Faithful s (onBag h fields s own t) := Faithful.guarded (Faithful.done ..)

theorem Faithful.retiring (h : Head) (fields : Bool) (s : State) (own : List (Bool × Result)) :
    Faithful s (retiring h fields s own) := Faithful.guarded (Faithful.done ..)

theorem Faithful.onChute {h : Head} {s : State} {own : Chute → List (Bool × Result)} {act : Chute → State × Answer}
    (ha : ∀ c, Faithful s (act c)) : Faithful s (onChute h s own act) := by
  unfold Machine.onChute
  split
  · exact Faithful.answer ..
  · exact Faithful.guarded (ha _)

theorem Faithful.onDoor {h : Head} {s : State} {own : List (Bool × Result)} {act : Door → State × Answer}
    (ha : ∀ x, Faithful s (act x)) : Faithful s (onDoor h s own act) := by
  unfold Machine.onDoor
  split
  · exact Faithful.answer ..
  · exact Faithful.guarded (ha _)

theorem State.cabinAnswer_some {s : State} {k : CabinKey} {c : Cabin} (h : s.store.cabin? k = some c) :
    s.cabinAnswer k = Answer.done (.cabin (c.view k)) := by
  simp [State.cabinAnswer, h]

theorem State.createCabin_cabin? (s : State) (k : CabinKey) (route allowance : Nat) (given : List (Byte × BitVec 32)) :
    (s.createCabin k route allowance given).store.cabin? k = some (s.newCabin route allowance given) :=
  Table.get?_put_same ..

theorem State.changeCabin_cabin? (s : State) (k : CabinKey) (f : Cabin → Cabin) :
    (s.changeCabin k f).store.cabin? k =
      (s.store.cabin? k).map (fun c => (f c).settlePull c.standsVoid s.sweep.pos) :=
  Table.get?_modify_same s.store.cabins k.code (fun c => (f c).settlePull c.standsVoid s.sweep.pos)

/-- CABIN PUT, taken, answers with the cabin it has put. -/
theorem Faithful.putCabin (s : State) (k : CabinKey) (route allowance : Nat) (given : List (Byte × BitVec 32)) :
    Faithful s (s.putCabin k route allowance given) := by
  unfold State.putCabin
  split
  · refine Faithful.guarded ?_
    rw [State.cabinAnswer_some (State.createCabin_cabin? ..)]
    exact Faithful.done ..
  · next c hc =>
    refine Faithful.guarded ?_
    rw [State.cabinAnswer_some (k := k) (by rw [State.replaceCabin, State.changeCabin_cabin?, hc]; rfl)]
    exact Faithful.done ..

/-- BAG REGISTER creates its bag or changes nothing. -/
theorem Faithful.register (s : State) (k : CabinKey) (tag : Nat) : Faithful s (s.register k tag) := by
  unfold State.register
  split
  · exact Faithful.done ..
  · exact Faithful.answer ..

/-! ## The catalogue -/

/-- Every request of the catalogue is taken by the port, with its code, header and body length, and its rule, refusing, leaves the
state. -/
theorem exec_request {i : Instr} {code : Byte} {h : Head} {len : Nat} (hi : requestParts i = some (code, h, len)) :
    ∃ act, (∀ s, exec i s = request code h len act s) ∧ ∀ t, Faithful t (act t) := by
  cases i <;> cases hi
  case configNode =>
    refine ⟨_, fun _ => rfl, fun t => ?_⟩
    split
    · exact Faithful.answer ..
    · exact Faithful.guarded (Faithful.done ..)
  case run =>
    refine ⟨_, fun _ => rfl, fun t => Faithful.guarded ?_⟩
    split
    · exact Faithful.answer ..
    · exact Faithful.done ..
  case bagGet =>
    refine ⟨_, fun _ => rfl, fun t => ?_⟩
    split
    · exact Faithful.answer ..
    · exact Faithful.guarded (Faithful.answer ..)
    · exact Faithful.onBag ..
  case bagReassign =>
    refine ⟨_, fun _ => rfl, fun t => ?_⟩
    split
    · exact Faithful.answer ..
    · exact Faithful.onBag ..
  case chuteAssign =>
    refine ⟨_, fun _ => rfl, fun t => ?_⟩
    split
    · exact Faithful.answer ..
    · exact Faithful.guarded (Faithful.onChute fun c => Faithful.done ..)
  case noticeRead =>
    refine ⟨_, fun _ => rfl, fun t => ?_⟩
    split
    · exact Faithful.answer ..
    · exact Faithful.done ..
  case closeSailing => exact ⟨_, fun _ => rfl, fun t => Faithful.onSailing fun b => Faithful.accepted ..⟩
  case hallClear => exact ⟨_, fun _ => rfl, fun t => Faithful.guarded (Faithful.accepted ..)⟩
  case cabinPut => exact ⟨_, fun _ => rfl, fun t => Faithful.onSailing fun b => Faithful.putCabin ..⟩
  case bagRegister => exact ⟨_, fun _ => rfl, fun t => Faithful.onSailing fun b => Faithful.register ..⟩
  case hallTime | loopGet | carrierGet => exact ⟨_, fun _ => rfl, fun t => Faithful.answer ..⟩
  case cartGet | strayGet | strayNext =>
    exact ⟨_, fun _ => rfl, fun t => Faithful.guarded (Faithful.answer ..)⟩
  case openSailing | sailingGet =>
    exact ⟨_, fun _ => rfl, fun t => Faithful.onSlot fun b => Faithful.guarded (Faithful.done ..)⟩
  case cabinGet | routeGet => exact ⟨_, fun _ => rfl, fun t => Faithful.onSailing fun b => Faithful.answer ..⟩
  case routeSet | cabinDrop | cabinForward | guestStatus | routeStart | routePause | routeContinue =>
    exact ⟨_, fun _ => rfl, fun t => Faithful.onSailing fun b => Faithful.done ..⟩
  case bagHold | bagRelease | bagPull | offloadConfirmPen | bagUnload | jamClearLanded | jamClearRemoved |
      strayResolveReinduct | strayResolveHold =>
    exact ⟨_, fun _ => rfl, fun t => Faithful.onBag ..⟩
  case bagRetire | offloadConfirmRetire | strayResolveReturn => exact ⟨_, fun _ => rfl, fun t => Faithful.retiring ..⟩
  case chuteOpen | chuteClose | chuteGet | cartCut =>
    exact ⟨_, fun _ => rfl, fun t => Faithful.onChute fun c => Faithful.done ..⟩
  case doorGet | doorRelease => exact ⟨_, fun _ => rfl, fun t => Faithful.onDoor fun x => Faithful.done ..⟩
  case configLoop | configInduction | configArch | configChute | configDoor | configLimits | hallRest | wake |
      trackingReset | trackingResume | cartClearUnidentified | noticeMask | noticeClear =>
    exact ⟨_, fun _ => rfl, fun t => Faithful.guarded (Faithful.done ..)⟩

/-! ## The port (R172, R173) -/

theorem lengthOk_eq_false {h : Head} {len : Nat} (hl : h.came < 6 + h.bodyLen ∨ 56 < h.bodyLen ∨ h.bodyLen ≠ len) :
    Head.lengthOk h len = false := by
  unfold Head.lengthOk
  by_contra hc
  simp only [Bool.not_eq_false, Bool.and_eq_true, decide_eq_true_eq] at hc
  omega

theorem lengthOk_self {h : Head} (hc : 6 + h.bodyLen ≤ h.came) (hb : h.bodyLen ≤ 56) : Head.lengthOk h h.bodyLen = true := by
  simp [Head.lengthOk, hc, hb]

theorem exec_unknownRequest (code : Byte) (h : Head) (s : State) :
    exec (.unknownRequest code h) s = request code h h.bodyLen (fun t => (t, Answer.refuse .unknownRequest)) s := rfl

theorem workingDiscards : Claim.WorkingDiscards := by
  rintro i s r hr (hi | ⟨code, h, rfl⟩)
  · obtain ⟨⟨code, h, len⟩, hi⟩ := Option.isSome_iff_exists.1 hi
    obtain ⟨act, hact, -⟩ := exec_request hi
    rw [hact, request_working hr]
  · rw [exec_unknownRequest, request_working hr]

theorem badLengthRefused : Claim.BadLengthRefused := by
  intro i s code h len hi hp hl
  obtain ⟨act, hact, -⟩ := exec_request hi
  rw [hact, request_badLength hp (lengthOk_eq_false hl)]

theorem unknownRequestRefused : Claim.UnknownRequestRefused := by
  intro code h s hp
  constructor
  · intro hc hb
    rw [exec_unknownRequest, request_ready ⟨hp, lengthOk_self hc hb⟩]
  · intro hl
    rw [exec_unknownRequest, request_badLength hp (lengthOk_eq_false (hl.imp_right .inl))]

/-- Settles O6: each request of the catalogue is a rule that the port applies after its own tests. -/
theorem portRefuses : Obligations.PortRefuses := ⟨workingDiscards, badLengthRefused, unknownRequestRefused⟩

theorem answered_port {code : Byte} {h : Head} {u t : State} {b a : Answer} (ht : answered code h u b = .next t)
    (ha : t.port = .working ⟨code, h, a⟩) : b = a := by
  cases ht
  injection ha with hr
  injection hr

/-- Settles O7: a request of another length is answered with the state it was taken in, and so is one whose rule refuses. -/
theorem refusedChangesNothing : Obligations.RefusedChangesNothing := by
  intro i s t code h len a hi hp ht ha hd hc
  obtain ⟨act, hact, hf⟩ := exec_request hi
  rw [hact] at ht ⊢
  cases hl : Head.lengthOk h len with
  | false =>
    rw [request_badLength hp hl] at ht ⊢
    rw [answered_port ht ha]
  | true =>
    rw [request_ready ⟨hp, hl⟩] at ht ⊢
    have hb := answered_port ht ha
    rw [hb, (hf s.taken).stays (hb ▸ hd) (hb ▸ hc)]

theorem Store.bag?_eq_some {t : Store} {h : Handle} {b : Bag} :
    t.bag? h = some b ↔ t.gen h.index = h.gen ∧ t.bags.get? h.index = some b := by
  unfold Store.bag?
  split
  · next hg => exact ⟨fun hb => ⟨hg, hb⟩, fun hb => hb.2⟩
  · next hg => exact ⟨fun hb => absurd hb (by simp), fun hb => absurd hb.1 hg⟩

/-! ## The tests of R3 -/

/-- The tests of R3 that every request on a slot makes after the range test. -/
def slotTests (s : State) (b : SlotId) : List (Bool × Result) :=
  [(s.opState != .setup, .wrongState), (s.slotState b != .closing, .sailingBusy)]

/-- A rule on a slot: its range test, the tests of R3, its own tests, then its effect. -/
def onTestedSlot (h : Head) (fields : Bool) (own : State → SlotId → List (Bool × Result))
    (act : State → SlotId → State × Answer) (t : State) : State × Answer :=
  onSlot h fields t (fun b => guarded (slotTests t b ++ own t b) t (act t b))

theorem onTestedSlot_badField {h : Head} {fields : Bool} (hf : h.key.slot? = none ∨ fields = false)
    (own : State → SlotId → List (Bool × Result)) (act : State → SlotId → State × Answer) (t : State) :
    onTestedSlot h fields own act t = (t, Answer.refuse .badField) := by
  unfold onTestedSlot onSlot
  rcases hf with hf | hf
  · rw [hf]
  · subst hf
    cases h.key.slot? <;> rfl

theorem onTestedSlot_refuses {h : Head} {b : SlotId} (hb : h.key.slot? = some b)
    {own : State → SlotId → List (Bool × Result)} {act : State → SlotId → State × Answer} {t : State} {r : Result}
    (hr : firstFailure (slotTests t b ++ own t b) = some r) :
    onTestedSlot h true own act t = (t, Answer.refuse r) := by
  unfold onTestedSlot onSlot
  rw [hb]
  exact guarded_fail hr ..

/-- Each request of R3 is a rule on a slot, and where a FREE slot refuses it, that is the next test. -/
theorem exec_sailing {i : Instr} {code : Byte} {h : Head} {len : Nat} {fields : Bool}
    (hi : requestParts i = some (code, h, len)) (hf : sailingFields i = some fields) :
    ∃ own act, (∀ s, exec i s = request code h len (onTestedSlot h fields own act) s) ∧
      (takenByFree i = false → ∀ t b, ∃ rest, own t b = (t.slotState b != .free, .wrongState) :: rest) := by
  cases i <;> cases hf
  case openSailing | sailingGet =>
    cases hi
    exact ⟨_, _, fun _ => rfl, fun h => absurd h Bool.true_eq_false.mp⟩
  case routePause | routeContinue | routeGet =>
    cases hi
    rw [← Bool.and_true (Head.routeInRange h)]
    exact ⟨fun t b => (t.slotState b != .free, .wrongState) :: _, _, fun _ => rfl, fun _ t b => ⟨_, rfl⟩⟩
  all_goals
    cases hi
    exact ⟨fun t b => (t.slotState b != .free, .wrongState) :: _, _, fun _ => rfl, fun _ t b => ⟨_, rfl⟩⟩

theorem sailingTestsInOrder : Claim.SailingTestsInOrder := by
  intro i s code h len fields hi hf hr
  obtain ⟨own, act, hx, hfree⟩ := exec_sailing hi hf
  constructor
  · intro hb
    rw [hx, request_ready hr, onTestedSlot_badField hb]
  · intro b hb hfields
    subst hfields
    refine ⟨fun ho => ?_, fun ho hc => ?_, fun ho hc hn => ?_⟩
    · rw [hx, request_ready hr, onTestedSlot_refuses (r := .wrongState) hb]
      have ho' : s.taken.opState = .setup := ho
      simp [slotTests, firstFailure, ho']
    · rw [hx, request_ready hr, onTestedSlot_refuses (r := .sailingBusy) hb]
      have ho' : s.taken.opState ≠ .setup := ho
      have hc' : s.taken.slotState b = .closing := hc
      simp [slotTests, firstFailure, ho', hc']
    · rw [hx, request_ready hr, onTestedSlot_refuses (r := .wrongState) hb]
      have ho' : s.taken.opState ≠ .setup := ho
      have hc' : s.taken.slotState b = .free := hc
      obtain ⟨rest, hrest⟩ := hfree hn s.taken b
      simp [slotTests, firstFailure, hrest, ho', hc']

/-! ## The tests of R35 -/

/-- A rule on a bag that its handle names: the tests of R35, its own tests, then its effect. -/
def onTestedBag (h : Head) (fields : Bool) (own : State → List (Bool × Result)) (act : State → State × Answer)
    (t : State) : State × Answer :=
  guarded (bagTests t h.key.handle fields ++ own t) t (act t)

theorem onTestedBag_badField (h : Head) (own : State → List (Bool × Result)) (act : State → State × Answer) (t : State) :
    onTestedBag h false own act t = (t, Answer.refuse .badField) :=
  guarded_fail (by simp [bagTests, firstFailure]) ..

theorem Head.forBagGet_handle (h : Head) : (h.forBagGet (some .handle)).key.handle = h.key.handle := by
  simp [Head.forBagGet, Head.bagForm, KeyForm.clear, Key.handle]

/-- The tests of BAG REASSIGN after those of R35 (R38). -/
def reassignTests (t : State) (h : Handle) (k : CabinKey) : List (Bool × Result) :=
  sailingTests t k.slot ++
    [(t.bagIn h [.registered, .onLoop, .stray, .missing], .wrongState), (t.hasCabin k, .notFound),
     (t.roomFor h k, .allowance)]

theorem execBagReassign_target (h : Head) {slot : Byte} {cabin : BitVec 16} {k : CabinKey}
    (hk : reassignTarget slot cabin = some k) (s : State) :
    exec (.bagReassign h slot cabin) s = request 0x22 h 3
      (fun t => onBag h true t (reassignTests t h.key.handle k) (t.reassign h.key.handle k)) s := by
  simp only [exec, execBagReassign, hk, reassignTests]

/-- Each request of R35 is a rule on the bag that its handle names. -/
theorem exec_onBag {i : Instr} {code : Byte} {h : Head} {len : Nat} {fields : Bool}
    (hi : requestParts i = some (code, h, len)) (hf : bagFields i = some fields) :
    ∃ own act, ∀ s, exec i s = request code h len (onTestedBag h fields own act) s := by
  cases i
  case bagGet h form =>
    obtain _ | _ | _ := form <;> cases hf
    cases hi
    refine ⟨fun _ => [], fun t => (t, t.bagAnswer h.key.handle), fun s => ?_⟩
    have hrule : onTestedBag (h.forBagGet (some .handle)) true (fun _ => []) (fun t => (t, t.bagAnswer h.key.handle)) =
        fun t => onBag h true t [] t := by
      funext t
      rw [onTestedBag, Head.forBagGet_handle]
      rfl
    rw [hrule]
    rfl
  case bagReassign h slot cabin =>
    cases hf
    cases hi
    cases hk : reassignTarget slot cabin with
    | none =>
      refine ⟨fun _ => [], fun t => (t, Answer.refuse .badField), fun s => ?_⟩
      have hact : ∀ t, onTestedBag h false (fun _ => []) (fun t => (t, Answer.refuse .badField)) t =
        (t, Answer.refuse .badField) := onTestedBag_badField h _ _
      simp only [exec, execBagReassign, hk, Option.isSome_none, funext hact]
    | some k =>
      exact ⟨_, _, execBagReassign_target h hk⟩
  all_goals cases hf
  all_goals cases hi
  all_goals exact ⟨_, _, fun _ => rfl⟩

theorem bagTestsInOrder : Claim.BagTestsInOrder := by
  intro i s code h len fields hi hf hr
  obtain ⟨own, act, hx⟩ := exec_onBag hi hf
  have refuses : ∀ r, firstFailure (bagTests s.taken h.key.handle fields ++ own s.taken) = some r →
      exec i s = answered code h s.taken (Answer.refuse r) := by
    intro r hfail
    rw [hx, request_ready hr, onTestedBag, guarded_fail hfail]
  constructor
  · intro hb
    refine refuses .badField ?_
    rcases hb with hb | hb
    · simp [bagTests, firstFailure, Nat.not_lt.2 hb]
    · simp [bagTests, firstFailure, hb]
  · intro hlt hfields
    refine ⟨fun ho => ?_, fun ho hg => ?_, fun ho hg hn => ?_, fun b k ho hb hk hc => ?_⟩
    · refine refuses .wrongState ?_
      have ho' : s.taken.opState = .setup := ho
      simp [bagTests, firstFailure, hlt, hfields, ho']
    · refine refuses .staleHandle ?_
      have ho' : s.taken.opState ≠ .setup := ho
      have hg' : s.taken.store.gen h.key.handle.index ≠ h.key.handle.gen := hg
      simp [bagTests, firstFailure, hlt, hfields, ho', hg']
    · refine refuses .notFound ?_
      have ho' : s.taken.opState ≠ .setup := ho
      have hg' : s.taken.store.gen h.key.handle.index = h.key.handle.gen := hg
      have hn' : s.taken.store.bags.get? h.key.handle.index = none := hn
      simp [bagTests, firstFailure, hlt, hfields, ho', hg', hn']
    · refine refuses .sailingBusy ?_
      have ho' : s.taken.opState ≠ .setup := ho
      have hb' : s.taken.store.bag? h.key.handle = some b := hb
      have hc' : s.taken.slotState k.slot = .closing := hc
      obtain ⟨hg', hn'⟩ := Store.bag?_eq_some.1 hb'
      simp [bagTests, firstFailure, hlt, hfields, ho', hg', hn', hb', hk, hc']

/-- Settles O8: each request that names a slot, and each that names a bag by its handle, makes the tests of R3, or of R35, before its
own. -/
theorem testsInOrder : Obligations.TestsInOrder := ⟨sailingTestsInOrder, bagTestsInOrder⟩

end Sys2Proof.Machine
end

section
/-! The requests that configure objects and nodes, and the limits: their tests in order, and what each leaves (R42, R43, R61, R108,
R132, R154, R176). -/

namespace Sys2Proof.Machine

/-! ## Ranges and tests -/

theorem inRange_iff {lo n hi : Nat} : inRange lo n hi = true ↔ lo ≤ n ∧ n ≤ hi := by
  simp [inRange]

theorem inRange_of {lo n hi : Nat} (hl : lo ≤ n) (hh : n ≤ hi) : inRange lo n hi = true := inRange_iff.2 ⟨hl, hh⟩

theorem configTests_pass {s : State} {fields busy : Bool} (hf : fields = true) (hs : s.opState = .setup)
    (hb : busy = true → s.clearWalk = false) : firstFailure (configTests s fields busy) = none := by
  cases busy
  · simp [configTests, firstFailure, hf, hs]
  · simp [configTests, firstFailure, hf, hs, hb rfl]

/-- Taking a request changes the port's own fields alone. -/
theorem Changes.taken (s : State) : Changes [.discarded, .spiOut] s s.taken :=
  (Keeps.setSpiOut s _).changes.comp (Keeps.setDiscarded _ _).changes (by decide) (by decide)

/-- A request changes what its effect changes, and the port's own fields. -/
theorem Changes.ofTaken {l m : List Block} {s t : State} (h : Changes l s.taken t) (hl : l ⊆ m)
    (hm : [Block.discarded, .spiOut] ⊆ m) : Changes m s t := (Changes.taken s).comp h hm hl

/-! ## CONFIG LOOP -/

theorem State.setPenSize_same {s : State} {n : Nat} (h : n = s.pen.size) : s.setPenSize n = s := if_pos h

theorem State.setPenSize_free {s : State} {n : Nat} (h : s.pen.hold = false) :
    s.setPenSize n = s.setPen { s.pen with size := n, hold := false } := by
  unfold State.setPenSize
  split
  · next hn =>
    have hp : { s.pen with size := n, hold := false } = s.pen := by
      rw [hn, ← h]
    rw [hp]
    rfl
  · simp [h]

theorem State.setPenSize_held {s : State} {n : Nat} (hn : n ≠ s.pen.size) (h : s.pen.hold = true) :
    s.setPenSize n = (s.setPen { s.pen with size := n, hold := false }).putCauseAll .pen false := by
  simp [State.setPenSize, hn, h]

theorem State.setPenSize_pen (s : State) (n : Nat) :
    (s.setPenSize n).pen = { s.pen with size := n, hold := if n = s.pen.size then s.pen.hold else false } := by
  by_cases hn : n = s.pen.size
  · rw [State.setPenSize_same hn, if_pos hn, hn]
  · rw [if_neg hn]
    cases hh : s.pen.hold with
    | false => rw [State.setPenSize_free hh, State.setPen_pen]
    | true => rw [State.setPenSize_held hn hh, State.putCauseAll_pen, State.setPen_pen]

theorem State.setPenSize_loop (s : State) (n : Nat) :
    (s.setPenSize n).loop = { s.loop with points := (s.setPenSize n).loop.points } := by
  unfold State.setPenSize
  split
  · rfl
  · dsimp only
    split
    · rw [State.putCauseAll_loop]
      rfl
    · rfl

/-- The loop made anew with N EMPTY, unarmed carriers, the position at 0 (R61). -/
def State.remade (s : State) (n : Nat) : State :=
  s.setLoop { s.loop with carriers := List.replicate n Carrier.reset, pos := 0 }

theorem State.configLoop_eq (s : State) (n p : Nat) : s.configLoop n p = (s.remade n).setPenSize p := rfl

theorem execConfigLoop_passes {h : Head} {n : BitVec 16} {p : Byte} {s : State} (hr : Ready s h 3) (hn : 64 ≤ n.toNat)
    (hn' : n.toNat ≤ 512) (hp : 16 ≤ p.toNat) (hp' : p.toNat ≤ 128) (hs : s.opState = .setup)
    (hw : s.clearWalk = false) :
    exec (.configLoop h n p) s = answered 0x01 h (s.taken.configLoop n.toNat p.toNat) (Answer.done .empty) := by
  have ht : firstFailure (configTests s.taken (inRange 64 n.toNat 512 && inRange 16 p.toNat 128) true) = none :=
    configTests_pass (by rw [inRange_of hn hn', inRange_of hp hp']; rfl) hs fun _ => hw
  rw [exec, execConfigLoop, request_ready hr, guarded_pass ht]

theorem configLoopSets : Claim.ConfigLoopSets := by
  intro h n p s hr hn hn' hp hp' hs hw
  refine ⟨_, execConfigLoop_passes hr hn hn' hp hp' hs hw, ?_, ?_, ?_, ?_, ?_⟩
  · exact (Keeps.configLoop s.taken _ _).changes.ofTaken (by decide) (by decide)
  · rw [State.configLoop_eq, State.setPenSize_loop]
    rfl
  · rw [State.configLoop_eq, State.setPenSize_pen]
    rfl
  · rintro (hp | hh)
    · rw [State.configLoop_eq, State.setPenSize_same (s := s.taken.remade n.toNat) hp]
      exact ⟨rfl, rfl⟩
    · rw [State.configLoop_eq, State.setPenSize_free (s := s.taken.remade n.toNat) hh]
      exact ⟨rfl, rfl⟩
  · intro hne hh i
    rw [State.configLoop_eq, State.setPenSize_held (s := s.taken.remade n.toNat) hne hh, State.putCauseAll_get?]
    rfl

/-! ## CONFIG INDUCTION, ARCH, CHUTE and DOOR -/

theorem configObjectsSet : Claim.ConfigObjectsSet := by
  intro h s hp hs
  refine ⟨?_, ?_, ?_, ?_⟩
  · intro offset node hl hk hn
    have ht : firstFailure (configTests s.taken (Key.below h.key 6 && decide (node.toNat ≤ maxNode)) false) = none :=
      configTests_pass (by simp [Key.below, maxNode, hk, hn]) hs (fun hb => absurd hb Bool.false_ne_true)
    rw [exec, execConfigInduction, request_ready ⟨hp, hl⟩, guarded_pass ht]
    rfl
  · intro offset node hl hk hn
    have ht : firstFailure (configTests s.taken (Key.below h.key 4 && decide (node.toNat ≤ maxNode)) false) = none :=
      configTests_pass (by simp [Key.below, maxNode, hk, hn]) hs (fun hb => absurd hb Bool.false_ne_true)
    rw [exec, execConfigArch, request_ready ⟨hp, hl⟩, guarded_pass ht]
    rfl
  · intro kind offset lead window capacity node hl hk h1 h2 h3 h4 h5 h6 hn hw
    rw [exec, execConfigChute, request_ready ⟨hp, hl⟩, guarded_pass]
    · rfl
    · exact configTests_pass (by simp [Key.below, maxNode, inRange, *]) hs fun _ => hw
  · intro berth node hl hk hn hw
    rw [exec, execConfigDoor, request_ready ⟨hp, hl⟩, guarded_pass]
    · rfl
    · exact configTests_pass (by simp [Key.below, maxNode, hk, hn]) hs fun _ => hw

/-! ## CONFIG NODE -/

theorem State.node?_eq_some {s : State} {m : Nat} {x : Node} :
    s.node? m = some x ↔ 1 ≤ m ∧ s.link.nodes[m - 1]? = some x := by
  unfold State.node?
  split
  · next h => simp [h]
  · next h => simp [Nat.one_le_iff_ne_zero, h]

theorem othersServe_iff {r : Role} {objects : List Nat} {n i : Nat} {l : List Node} :
    othersServe r objects n i l = true ↔ ∃ j y, l[j]? = some y ∧ i + j ≠ n ∧ y.role = some r ∧
      (r = .loop ∨ r = .encode ∨ ∃ o ∈ objects, o ∈ y.objects) := by
  induction l generalizing i with
  | nil => simp [othersServe]
  | cons x t ih =>
    rw [othersServe, Bool.or_eq_true, ih]
    constructor
    · rintro (hx | ⟨j, y, hy, hn, hrest⟩)
      · simp only [Bool.and_eq_true, bne_iff_ne, beq_iff_eq, Bool.or_eq_true, List.any_eq_true,
          List.contains_iff_mem] at hx
        obtain ⟨⟨hn, hr⟩, ho⟩ := hx
        exact ⟨0, x, rfl, hn, hr, or_assoc.1 ho⟩
      · exact ⟨j + 1, y, hy, by omega, hrest⟩
    · rintro ⟨j, y, hy, hn, hr, ho⟩
      cases j with
      | zero =>
        cases hy
        refine .inl ?_
        simp only [Bool.and_eq_true, bne_iff_ne, beq_iff_eq, Bool.or_eq_true, List.any_eq_true, List.contains_iff_mem]
        exact ⟨⟨hn, hr⟩, or_assoc.2 ho⟩
      | succ j => exact .inr ⟨j, y, hy, by omega, hr, ho⟩

/-- The tests of CONFIG NODE for a role of its table. -/
def nodeTests (t : State) (n : Nat) (r : Role) (objects : List Byte) : List (Bool × Result) :=
  [(inRange 1 n maxNode && Role.admits r objects, .badField), (t.opState == .setup, .wrongState),
    (!othersServe r (objects.map (·.toNat)) n 1 t.link.nodes, .inUse)]

theorem exec_configNode (h : Head) (r : Role) (objects : List Byte) (s : State) :
    exec (.configNode h (some r) objects) s = request 0x06 h (2 + objects.length) (fun t =>
      guarded (nodeTests t h.key.number r objects) t
        (t.modifyNode h.key.number (fun x => { x with
          role := some r, objects := objects.map (·.toNat), state := .unheard, expected := none, lastHeard := none }),
          Answer.done .empty)) s := rfl

theorem configNodeSets : Claim.ConfigNodeSets := by
  intro h r objects x s hr h1 h2 ha hs hx ho
  have ht : firstFailure (nodeTests s.taken h.key.number r objects) = none := by
    have hs' : s.taken.opState = .setup := hs
    have ho' : othersServe r (objects.map (·.toNat)) h.key.number 1 s.taken.link.nodes = false := ho
    simp [nodeTests, firstFailure, inRange_of h1 h2, maxNode, ha, hs', ho']
  refine ⟨_, by rw [exec_configNode, request_ready hr, guarded_pass ht], ?_, ?_, ?_, ?_, ?_⟩
  · exact (Keeps.modifyNode s.taken _ _).changes.ofTaken (by decide) (by decide)
  · have hx' : s.taken.node? h.key.number = some x := hx
    rw [State.modifyNode_node?, if_pos rfl, hx']
    rfl
  · intro m hm
    rw [State.modifyNode_node?, if_neg hm]
    rfl
  · rw [State.modifyNode_txQueue]
    rfl
  · unfold State.modifyNode
    split <;> rfl

/-! ## Refusals -/

/-- A configuration request is a rule whose first tests are those of its fields and of SETUP, and then, for the loop, a chute and a
door, that of the clear walk. -/
theorem exec_config {i : Instr} {code : Byte} {h : Head} {len : Nat} {ok busy : Bool}
    (hi : requestParts i = some (code, h, len)) (hf : configFields i = some (ok, busy)) :
    ∃ (own : State → List (Bool × Result)) (act : State → State × Answer), (∀ s, exec i s = request code h len (fun t =>
        guarded ((ok, .badField) :: (t.opState == .setup, .wrongState) :: own t) t (act t)) s) ∧
      (busy = true → ∀ t : State, own t = [(!t.clearWalk, .busy)]) := by
  cases i <;> cases hf
  case configLoop | configChute | configDoor =>
    cases hi
    exact ⟨_, _, fun _ => rfl, fun _ _ => rfl⟩
  case configInduction | configArch =>
    cases hi
    exact ⟨_, _, fun _ => rfl, fun hb => absurd hb Bool.false_ne_true⟩
  case configNode h role objects =>
    cases hi
    cases role with
    | none =>
      refine ⟨fun _ => [], fun t => (t, Answer.refuse .badField), fun s => ?_, fun hb => absurd hb Bool.false_ne_true⟩
      rw [Option.any_none, Bool.and_false]
      rfl
    | some r => exact ⟨_, _, fun _ => rfl, fun hb => absurd hb Bool.false_ne_true⟩

theorem configurationsRefused : Claim.ConfigurationsRefused := by
  constructor
  · intro i s code h len ok busy hi hf hr refused
    obtain ⟨own, act, hx, hown⟩ := exec_config hi hf
    have fails : ∀ r, firstFailure ((ok, .badField) :: (s.taken.opState == .setup, .wrongState) :: own s.taken) = some r →
        refused r := by
      intro r hfail
      change exec i s = _
      rw [hx, request_ready hr, guarded_fail hfail]
    refine ⟨fun _ _ hok => fails _ ?_, fun hs _ hok => fails _ ?_, fun hs hb hw hok => fails _ ?_⟩
    · simp [firstFailure, hok]
    · have hs' : s.taken.opState ≠ .setup := hs
      simp [firstFailure, hok, hs']
    · have hs' : s.taken.opState = .setup := hs
      have hw' : s.taken.clearWalk = true := hw
      simp [firstFailure, hok, hs', hown hb, hw']
  · intro h r objects s m y hr h1 h2 ha hs hm hy hrole hserve
    have ho : othersServe r (objects.map (·.toNat)) h.key.number 1 s.taken.link.nodes = true := by
      obtain ⟨hm1, hy⟩ := State.node?_eq_some.1 hy
      refine othersServe_iff.2 ⟨m - 1, y, hy, by omega, hrole, hserve.imp_right (Or.imp_right ?_)⟩
      rintro ⟨o, ho, hin⟩
      exact ⟨o.toNat, List.mem_map_of_mem ho, hin⟩
    have hs' : s.taken.opState = .setup := hs
    have ht : firstFailure (nodeTests s.taken h.key.number r objects) = some .inUse := by
      simp [nodeTests, firstFailure, inRange_of h1 h2, maxNode, ha, hs', ho]
    rw [exec_configNode, request_ready hr, guarded_fail ht]

/-- Settles O9: each configuration request passes its tests and changes its one object, or is refused by the first test that fails. -/
theorem configurationSets : Obligations.ConfigurationSets :=
  ⟨configLoopSets, configObjectsSet, configNodeSets, configurationsRefused⟩

end Sys2Proof.Machine
end

section
/-! The limits, and the entry to RUN: what CONFIG LIMITS lowers and tests, and the five tests of R177 (R25, R84 to R86, R106, R157,
R176, R177). -/

namespace Sys2Proof.Machine

/-! ## Tables under a map -/

theorem Table.get?_mapValues {α : Type} (t : Table α) (f : α → α) (i : Nat) :
    Table.get? (Table.mapValues t f) i = (Table.get? t i).map f := by
  induction t with
  | nil => rfl
  | cons e t ih =>
    obtain ⟨k, v⟩ := e
    change (if i = k then some (f v) else Table.get? (Table.mapValues t f) i) = Option.map f (if i = k then some v else _)
    split
    · rfl
    · exact ih

theorem Table.length_mapValues {α : Type} (t : Table α) (f : α → α) :
    List.length (Table.mapValues t f) = List.length t := List.length_map ..

theorem Table.any_key_iff {α : Type} {t : Table α} {i : Nat} {v : α} (h : Table.get? t i = some v) :
    i ∈ t.map (·.1) := List.mem_map_of_mem (Table.mem_of_get? h)

/-! ## CONFIG LIMITS -/

/-- The state in which CONFIG LIMITS has replaced the limits and lowered what is at or above its own, before the pen hold is
tested. -/
def State.limited (s : State) (l : Limits) : State :=
  (((s.setLimits l).setLoop { s.loop with
    lossCount := belowLimit s.loop.lossCount l.loss
    confirmRun := belowLimit s.loop.confirmRun l.confirm
    mismatchRun := belowLimit s.loop.mismatchRun l.drift }).setChutes
      (s.chutes.mapValues (fun c => { c with failures := belowLimit c.failures l.failure }))).setStore
        { s.store with bags := s.store.bags.mapValues (fun b => { b with laps := min b.laps l.recirc }) }

theorem State.limited_chutes (s : State) (l : Limits) :
    (s.limited l).chutes = s.chutes.mapValues (fun c => { c with failures := belowLimit c.failures l.failure }) := rfl

theorem State.limited_bags (s : State) (l : Limits) :
    (s.limited l).store.bags = s.store.bags.mapValues (fun b => { b with laps := min b.laps l.recirc }) := rfl

theorem State.configLimits_same {s : State} {l : Limits} (h : l.penLow = s.limits.penLow) :
    s.configLimits l = s.limited l := if_pos h

theorem State.configLimits_tested {s : State} {l : Limits} (h : l.penLow ≠ s.limits.penLow) :
    s.configLimits l = (s.limited l).testPenHold := if_neg h

theorem SameHolds.taken (s : State) : SameHolds s s.taken := ⟨rfl, rfl, rfl, rfl, rfl⟩

theorem SameHolds.limited (s : State) (l : Limits) : SameHolds s (s.limited l) := by
  refine ⟨rfl, rfl, ?_, rfl, rfl⟩
  rw [tableLow, State.limited_bags, Table.length_mapValues, tableLow]

theorem State.testPenHold_loop (s : State) :
    s.testPenHold.loop = { s.loop with points := s.testPenHold.loop.points } := by
  unfold State.testPenHold
  split
  · exact State.putCauseAll_loop ..
  · split
    · exact State.putCauseAll_loop ..
    · rfl

theorem State.testPenHold_positions (s : State) : s.testPenHold.pen.positions = s.pen.positions := by
  unfold State.testPenHold
  split
  · change (State.putCauseAll _ _ _).pen.positions = _
    rw [State.putCauseAll_pen]
    rfl
  · split
    · rw [State.putCauseAll_pen]
      rfl
    · rfl

/-- Whatever CONFIG LIMITS leaves, but for the pen hold and its causes, it leaves before the hold is tested. -/
theorem State.configLimits_limited (s : State) (l : Limits) :
    Changes [.pen, .link, .loop, .notices] (s.limited l) (s.configLimits l) ∧
    (s.configLimits l).loop = { (s.limited l).loop with points := (s.configLimits l).loop.points } ∧
    (s.configLimits l).pen.positions = s.pen.positions := by
  by_cases h : l.penLow = s.limits.penLow
  · rw [State.configLimits_same h]
    exact ⟨Changes.refl _ _, rfl, rfl⟩
  · rw [State.configLimits_tested h]
    exact ⟨(Keeps.testPenHold _).changes, State.testPenHold_loop _, State.testPenHold_positions _⟩

/-- The tests of CONFIG LIMITS. -/
def limitTests (t : State) (l : Limits) : List (Bool × Result) :=
  [(l.inRange, .badField), (t.opState != .rest, .wrongState)]

theorem exec_configLimits (h : Head) (body : LimitsBody) (s : State) :
    exec (.configLimits h body) s = request 0x07 h 10 (fun t => guarded (limitTests t (limitsOf body)) t
      (t.configLimits (limitsOf body), Answer.done (.limits (t.configLimits (limitsOf body)).limits))) s := rfl

/-- Settles O10: the limits and what they lower are set first, then the pen hold is tested where its mark has changed. -/
theorem configLimitsSets : Obligations.ConfigLimitsSets := by
  intro h body s hr
  refine ⟨fun hl _ => ?_, fun hl ho => ?_, fun hl ho => ?_⟩
  · have ht : firstFailure (limitTests s.taken (limitsOf body)) = some .badField := by simp [limitTests, firstFailure, hl]
    rw [exec_configLimits, request_ready hr, guarded_fail ht]
  · have ho' : s.taken.opState = .rest := ho
    have ht : firstFailure (limitTests s.taken (limitsOf body)) = some .wrongState := by
      simp [limitTests, firstFailure, hl, ho']
    rw [exec_configLimits, request_ready hr, guarded_fail ht]
  · have ho' : s.taken.opState ≠ .rest := ho
    have ht : firstFailure (limitTests s.taken (limitsOf body)) = none := by simp [limitTests, firstFailure, hl, ho']
    obtain ⟨hc, hloop, hpos⟩ := s.taken.configLimits_limited (limitsOf body)
    have hlim : (s.taken.configLimits (limitsOf body)).limits = limitsOf body := hc .limits (by decide)
    have hch := hc .chutes (by decide)
    have hst := hc .store (by decide)
    refine ⟨s.taken.configLimits (limitsOf body), ?_, ?_, hlim, ?_, ?_, ?_, ?_, ?_, ?_, ?_, hpos, ?_, ?_⟩
    · rw [exec_configLimits, request_ready hr, guarded_pass ht, hlim]
    · exact (Keeps.configLimits s.taken _).changes.ofTaken (by decide) (by decide)
    · rw [hloop]
      rfl
    · rw [hloop]
      rfl
    · rw [hloop]
      rfl
    · rw [hloop]
      rfl
    · rw [hloop]
      rfl
    · intro k c hk
      have hk' : s.taken.chutes.get? k = some c := hk
      have hch' : (s.taken.configLimits (limitsOf body)).chutes = (s.taken.limited (limitsOf body)).chutes := hch
      rw [hch', State.limited_chutes, Table.get?_mapValues, hk']
      rfl
    · intro i b hb
      have hb' : s.taken.store.bags.get? i = some b := hb
      have hst' : (s.taken.configLimits (limitsOf body)).store = (s.taken.limited (limitsOf body)).store := hst
      rw [hst', State.limited_bags, Table.get?_mapValues, hb']
      rfl
    · intro hp
      rw [State.configLimits_same (s := s.taken) (l := limitsOf body) hp]
      exact ⟨rfl, rfl, rfl⟩
    · intro hp
      rw [State.configLimits_tested (s := s.taken) (l := limitsOf body) hp]
      exact ((HoldsFollow.testPenHold _).before (SameHolds.limited s.taken _)).before (SameHolds.taken s)

/-! ## Belts -/

theorem State.beltRuns_running (s : State) (x : Door) (v : Level) : s.beltRuns { x with running := v } = s.beltRuns x := rfl

/-- Each of some doors' belts follows its conditions, which setting belts does not change (R134). -/
theorem State.setBeltsOf_door? (l : List Nat) (s : State) :
    (∀ x, (s.setBeltsOf l).beltRuns x = s.beltRuns x) ∧
    ∀ e, (s.setBeltsOf l).door? e =
      if e ∈ l then (s.door? e).map (fun x => { x with running := s.beltRuns x }) else s.door? e := by
  induction l generalizing s with
  | nil => exact ⟨fun _ => rfl, fun e => (if_neg List.not_mem_nil).symm⟩
  | cons d t ih =>
    obtain ⟨hb, hd⟩ := ih (s.setBelt d)
    refine ⟨fun x => (hb x).trans (s.setBelt_beltRuns d x), fun e => ?_⟩
    change ((s.setBelt d).setBeltsOf t).door? e = _
    simp only [hd, State.setBelt_beltRuns, State.setBelt_door?, List.mem_cons]
    by_cases he : e = d <;> by_cases ht : e ∈ t <;> simp [he, ht, Function.comp_def, State.beltRuns_running]

/-- Every door's belt follows its conditions (R134). -/
theorem State.setBelts_door? (s : State) (d : Nat) :
    s.setBelts.door? d = (s.door? d).map (fun x => { x with running := s.setBelts.beltRuns x }) := by
  obtain ⟨hb, hd⟩ := State.setBeltsOf_door? (s.doors.map (·.1)) s
  simp only [State.setBelts, hb, hd]
  cases hx : s.door? d with
  | none => simp
  | some x => rw [if_pos (Table.any_key_iff hx)]

theorem State.setBelts_loop (s : State) : s.setBelts.loop = s.loop := (Keeps.setBelts s).changes .loop (by decide)

/-! ## The number of nodes -/

theorem State.send_nodes_length (s : State) (r : Role) (object : Nat) (p : OutPayload) :
    (s.send r object p).link.nodes.length = s.link.nodes.length := by
  obtain ⟨k, q, h | h⟩ := s.send_link r object p
  · rw [h]
  · rw [h, List.length_modify]

theorem State.onCauses_nodes_length (s : State) (i : Nat) (f : HoldSet → HoldSet) :
    (s.onCauses i f).link.nodes.length = s.link.nodes.length := by
  unfold State.onCauses
  split
  · rfl
  · dsimp only
    split
    · rfl
    · exact State.send_nodes_length ..

theorem State.putCauses_nodes_length (x : HoldCause) (v : Bool) (l : List Nat) (s : State) :
    (s.putCauses x v l).link.nodes.length = s.link.nodes.length := by
  induction l generalizing s with
  | nil => rfl
  | cons i t ih => exact (ih _).trans (s.onCauses_nodes_length i _)

theorem State.setBelt_nodes_length (s : State) (d : Nat) : (s.setBelt d).link.nodes.length = s.link.nodes.length := by
  unfold State.setBelt
  split
  · rfl
  · dsimp only
    split
    · rfl
    · exact State.send_nodes_length ..

theorem State.setBeltsOf_nodes_length (l : List Nat) (s : State) :
    (s.setBeltsOf l).link.nodes.length = s.link.nodes.length := by
  induction l generalizing s with
  | nil => rfl
  | cons d t ih => exact (ih _).trans (s.setBelt_nodes_length d)

/-! ## RUN: the tests (R177) -/

theorem firstBad_eq_none {α : Type} {kind : ObjectKind} {t : Table α} {ok : Nat → α → Bool} :
    firstBad kind t ok = none ↔ ∀ i v, (i, v) ∈ t → ok i v = true := by
  simp [firstBad]

theorem firstBad_eq_some {α : Type} {kind o : ObjectKind} {t : Table α} {ok : Nat → α → Bool} {i : Nat}
    (h : firstBad kind t ok = some (o, i)) : o = kind ∧ ∃ v, (i, v) ∈ t ∧ ok i v = false := by
  unfold firstBad at h
  cases hf : t.find? (fun e => !ok e.1 e.2) with
  | none => rw [hf] at h; cases h
  | some e =>
    rw [hf] at h
    cases h
    exact ⟨rfl, e.2, List.mem_of_find?_eq_some hf, by simpa using List.find?_some hf⟩

/-- An object of a configured kind that no node of its role serves, or not the one its configuration names (R177, test 1). -/
def Unserved (s : State) (o : ObjectKind) (i : Nat) : Prop :=
  o = .induction ∧ (∃ p, (i, p) ∈ s.loop.points ∧ s.servingNode .induct i ≠ some p.node) ∨
  o = .arch ∧ (∃ a, (i, a) ∈ s.loop.arches ∧ s.servingNode .arch i ≠ some a.node) ∨
  o = .chute ∧ ∃ c, (i, c) ∈ s.chutes ∧ s.servingNode .chute i ≠ some c.node

/-- An object that does not lie on the loop (R177, test 2). -/
def OffLoop (s : State) (o : ObjectKind) (i : Nat) : Prop :=
  o = .induction ∧ (∃ p, (i, p) ∈ s.loop.points ∧ s.loop.carriers.length ≤ p.offset) ∨
  o = .arch ∧ (∃ a, (i, a) ∈ s.loop.arches ∧ s.loop.carriers.length ≤ a.offset) ∨
  o = .chute ∧ ∃ c, (i, c) ∈ s.chutes ∧ s.loop.carriers.length ≤ c.offset + 1

/-- A door that no node serves, or not the one its configuration names (R177, test 5). -/
def UnservedDoor (s : State) (i : Nat) : Prop := ∃ x, (i, x) ∈ s.doors ∧ s.servingNode .door i ≠ some x.node

/-- The first faulty item of three tables in turn is one that is faulty, and there is one where any is. -/
theorem firstBad_three {α β γ : Type} {a b c : ObjectKind} {t : Table α} {u : Table β} {w : Table γ}
    {f : Nat → α → Bool} {g : Nat → β → Bool} {h : Nat → γ → Bool} {P : ObjectKind → Nat → Prop}
    (hP : ∀ o i, P o i ↔ o = a ∧ (∃ v, (i, v) ∈ t ∧ f i v = false) ∨ o = b ∧ (∃ v, (i, v) ∈ u ∧ g i v = false) ∨
      o = c ∧ ∃ v, (i, v) ∈ w ∧ h i v = false) :
    (∀ o i, (firstBad a t f <|> firstBad b u g <|> firstBad c w h) = some (o, i) → P o i) ∧
    ((firstBad a t f <|> firstBad b u g <|> firstBad c w h) = none ↔ ∀ o i, ¬P o i) := by
  constructor
  · intro o i hs
    rw [hP]
    cases ha : firstBad a t f with
    | some e =>
      rw [ha] at hs
      cases hs
      exact .inl (firstBad_eq_some ha)
    | none =>
      cases hb : firstBad b u g with
      | some e =>
        rw [ha, hb] at hs
        cases hs
        exact .inr (.inl (firstBad_eq_some hb))
      | none =>
        rw [ha, hb] at hs
        exact .inr (.inr (firstBad_eq_some hs))
  · have hnone : (firstBad a t f <|> firstBad b u g <|> firstBad c w h) = none ↔
        firstBad a t f = none ∧ firstBad b u g = none ∧ firstBad c w h = none := by
      cases firstBad a t f <;> cases firstBad b u g <;> cases firstBad c w h <;> simp
    rw [hnone, firstBad_eq_none, firstBad_eq_none, firstBad_eq_none]
    constructor
    · rintro ⟨h1, h2, h3⟩ o i hp
      obtain ⟨-, v, hm, hv⟩ | ⟨-, v, hm, hv⟩ | ⟨-, v, hm, hv⟩ := (hP o i).1 hp
      · exact absurd (h1 i v hm) (by simp [hv])
      · exact absurd (h2 i v hm) (by simp [hv])
      · exact absurd (h3 i v hm) (by simp [hv])
    · intro hn
      refine ⟨fun i v hm => ?_, fun i v hm => ?_, fun i v hm => ?_⟩ <;> by_contra hv
      · exact hn a i ((hP a i).2 (.inl ⟨rfl, v, hm, by simpa using hv⟩))
      · exact hn b i ((hP b i).2 (.inr (.inl ⟨rfl, v, hm, by simpa using hv⟩)))
      · exact hn c i ((hP c i).2 (.inr (.inr ⟨rfl, v, hm, by simpa using hv⟩)))

theorem State.unserved_spec (s : State) :
    (∀ o i, s.unserved = some (o, i) → Unserved s o i) ∧ (s.unserved = none ↔ ∀ o i, ¬Unserved s o i) :=
  firstBad_three fun o i => by simp [Unserved, State.bound]

theorem State.offLoop_spec (s : State) :
    (∀ o i, s.offLoop = some (o, i) → OffLoop s o i) ∧ (s.offLoop = none ↔ ∀ o i, ¬OffLoop s o i) := by
  refine firstBad_three fun o i => ?_
  have hn : ∀ a : Nat, decide (a < s.carrierCount) = false ↔ s.loop.carriers.length ≤ a := fun a => by
    rw [decide_eq_false_iff_not, Nat.not_lt]
    rfl
  simp only [OffLoop, hn]

theorem State.unservedDoor_spec (s : State) :
    (∀ o i, s.unservedDoor = some (o, i) → o = .door ∧ UnservedDoor s i) ∧
    (s.unservedDoor = none ↔ ∀ i, ¬UnservedDoor s i) := by
  constructor
  · intro o i h
    obtain ⟨ho, x, hm, hx⟩ := firstBad_eq_some h
    exact ⟨ho, x, hm, by simpa [State.bound] using hx⟩
  · rw [State.unservedDoor, firstBad_eq_none]
    simp [UnservedDoor, State.bound]

/-! ## RUN: the first test that fails (R177) -/

theorem State.badConfig_first {s : State} {o : ObjectKind × Nat} (h : s.unserved = some o) :
    s.badConfig = some (1, some o) := by
  simp [State.badConfig, h]

theorem State.badConfig_second {s : State} {o : ObjectKind × Nat} (h1 : s.unserved = none) (h : s.offLoop = some o) :
    s.badConfig = some (2, some o) := by
  simp [State.badConfig, h1, h]

theorem State.badConfig_third {s : State} (h1 : s.unserved = none) (h2 : s.offLoop = none) (h : s.loop.arches = []) :
    s.badConfig = some (3, none) := by
  simp [State.badConfig, h1, h2, h]

theorem State.badConfig_fourth {s : State} (h1 : s.unserved = none) (h2 : s.offLoop = none) (h3 : s.loop.arches ≠ [])
    (h : s.strayChutes = 0 ∨ 2 < s.strayChutes) : s.badConfig = some (4, none) := by
  have hr : inRange 1 s.strayChutes 2 = false := by
    rw [Bool.eq_false_iff, Ne, inRange_iff]
    omega
  simp [State.badConfig, h1, h2, h3, hr]

theorem State.badConfig_fifth {s : State} (h1 : s.unserved = none) (h2 : s.offLoop = none) (h3 : s.loop.arches ≠ [])
    (h4 : 1 ≤ s.strayChutes) (h4' : s.strayChutes ≤ 2) :
    s.badConfig = s.unservedDoor.map (fun o => (5, some o)) := by
  simp [State.badConfig, h1, h2, h3, inRange_of h4 h4']

/-- RUN in SETUP with no clear walk answers by the five tests. -/
theorem execRun_tested {h : Head} {s : State} (hr : Ready s h 0) (hs : s.opState = .setup) (hw : s.clearWalk = false) :
    (∀ n o, s.badConfig = some (n, o) → exec (.run h) s = answered 0x08 h s.taken ⟨.badConfig, .badConfig n o⟩) ∧
    (s.badConfig = none → exec (.run h) s = answered 0x08 h s.taken.enterRun (Answer.done .empty)) := by
  have hs' : s.taken.opState = .setup := hs
  have hw' : s.taken.clearWalk = false := hw
  have ht : firstFailure [(s.taken.opState == .setup, .wrongState), (!s.taken.clearWalk, .busy)] = none := by
    simp [firstFailure, hs', hw']
  constructor
  · intro n o hb
    have hb' : s.taken.badConfig = some (n, o) := hb
    rw [exec, execRun, request_ready hr, guarded_pass ht, hb']
  · intro hb
    have hb' : s.taken.badConfig = none := hb
    rw [exec, execRun, request_ready hr, guarded_pass ht, hb']

/-! ## RUN: the entry -/

theorem State.enterRun_loop (s : State) :
    s.enterRun.loop = { s.loop.anchor with points := s.enterRun.loop.points } := by
  rw [State.enterRun, State.setBelts_loop, State.putCauseAll_loop]
  rfl

theorem State.enterRun_point (s : State) (i : Nat) :
    s.enterRun.loop.points.get? i =
      (s.loop.points.get? i).map (fun p => p.withCauses (p.causes.put .state false)) := by
  rw [State.enterRun, State.setBelts_loop, State.putCauseAll_get?]
  rfl

theorem State.enterRun_door? (s : State) (d : Nat) :
    s.enterRun.door? d = (s.door? d).map (fun x => { x with running := s.enterRun.beltRuns x }) := by
  rw [State.enterRun, State.setBelts_door?]
  have hd : (((s.setOpState .run).setLoop (s.setOpState .run).loop.anchor).putCauseAll .state false).doors = s.doors :=
    (Keeps.putCauseAll _ _ _).changes .doors (by decide)
  rw [State.door?, hd]
  rfl

theorem State.enterRun_nodes_length (s : State) : s.enterRun.link.nodes.length = s.link.nodes.length :=
  (State.setBeltsOf_nodes_length _ _).trans (State.putCauses_nodes_length _ _ _ _)

/-- What the entry to RUN leaves. -/
theorem enterRun_leaves (s : State) :
    let t := s.enterRun
    t.opState = .run ∧ t.loop.track = .anchoring ∧ t.loop.confirmRun = 0 ∧ t.loop.mismatchRun = 0 ∧
    t.loop.homeMark = false ∧ t.loop.lossCount = s.loop.lossCount ∧ t.loop.carriers = s.loop.carriers ∧
    t.loop.pos = s.loop.pos ∧ t.loop.arches = s.loop.arches ∧
    (∀ i p, t.loop.points.get? i = some p → p.causes.state = false) ∧
    (∀ i p, s.loop.points.get? i = some p → ∃ q, t.loop.points.get? i = some q ∧ q.offset = p.offset ∧
      q.node = p.node ∧ q.causes = { p.causes with state := false }) := by
  have hop : s.enterRun.opState = .run :=
    ((Keeps.setBelts _).changes .opState (by decide)).trans ((Keeps.putCauseAll _ _ _).changes .opState (by decide))
  have hl := s.enterRun_loop
  refine ⟨hop, ?_, ?_, ?_, ?_, ?_, ?_, ?_, ?_, fun i p hp => ?_, fun i p hp => ?_⟩
  any_goals
    rw [hl]
    rfl
  · rw [State.enterRun_point] at hp
    obtain ⟨q, -, rfl⟩ := Option.map_eq_some_iff.1 hp
    rfl
  · exact ⟨p.withCauses (p.causes.put .state false), by rw [State.enterRun_point, hp]; rfl, rfl, rfl, rfl⟩

/-- Settles O11: the five tests in their order name a faulty object of the first that fails, and where all pass RUN is entered. -/
theorem runEnters : Obligations.RunEnters := by
  intro h s hr hs hw n bad1 bad2 strays bad5 refused
  obtain ⟨hbad, hgood⟩ := execRun_tested hr hs hw
  obtain ⟨h1, h1'⟩ := s.unserved_spec
  obtain ⟨h2, h2'⟩ := s.offLoop_spec
  obtain ⟨h5, h5'⟩ := s.unservedDoor_spec
  refine ⟨fun ⟨o, i, hb⟩ => ?_, fun hn1 => ⟨fun ⟨o, i, hb⟩ => ?_, fun hn2 => ⟨fun ha => ?_, fun ha => ⟨fun hc => ?_, ?_⟩⟩⟩⟩
  · cases hu : s.unserved with
    | none => exact absurd hb (h1'.1 hu o i)
    | some e => exact ⟨e.1, e.2, h1 _ _ hu, hbad _ _ (State.badConfig_first hu)⟩
  · cases hu : s.offLoop with
    | none => exact absurd hb (h2'.1 hu o i)
    | some e => exact ⟨e.1, e.2, h2 _ _ hu, hbad _ _ (State.badConfig_second (h1'.2 hn1) hu)⟩
  · exact hbad _ _ (State.badConfig_third (h1'.2 hn1) (h2'.2 hn2) ha)
  · exact hbad _ _ (State.badConfig_fourth (h1'.2 hn1) (h2'.2 hn2) ha hc)
  · intro hc hc'
    have hfifth := State.badConfig_fifth (h1'.2 hn1) (h2'.2 hn2) ha hc hc'
    refine ⟨fun ⟨i, hb⟩ => ?_, fun hn5 => ?_⟩
    · cases hu : s.unservedDoor with
      | none => exact absurd hb (h5'.1 hu i)
      | some e =>
        obtain ⟨o, j⟩ := e
        obtain ⟨rfl, hj⟩ := h5 o j hu
        exact ⟨j, hj, hbad _ _ (by rw [hfifth, hu]; rfl)⟩
    · have hnone : s.badConfig = none := by rw [hfifth, h5'.2 hn5]; rfl
      obtain ⟨hop, htr, hcr, hmr, hhm, hlc, hca, hpo, har, hst, hpt⟩ := enterRun_leaves s.taken
      exact ⟨s.taken.enterRun, hgood hnone, (Keeps.enterRun s.taken).changes.ofTaken (by decide) (by decide), hop, htr, hcr,
        hmr, hhm, hlc, hca, hpo, har, hst, hpt, fun d x hx => by rw [State.enterRun_door?, show s.taken.door? d = _ from hx]; rfl,
        s.taken.enterRun_nodes_length⟩

end Sys2Proof.Machine
end

section
/-! The entries to REST and to RUN from REST: what HALL REST, WAKE and the LOOP frame that wakes the part leave (R45, R63, R77, R78, R81,
R178). -/

namespace Sys2Proof.Machine

/-! ## Causes on every point, and belts -/

theorem SendsOnly.putCauseAll (s : State) (x : HoldCause) (v : Bool) : SendsOnly s (s.putCauseAll x v) :=
  SendsOnly.putCauses ..

theorem SendsOnly.setBeltsOf (l : List Nat) (s : State) : SendsOnly s (s.setBeltsOf l) := by
  induction l generalizing s with
  | nil => exact .same rfl
  | cons d t ih => exact (SendsOnly.setBelt ..).trans (ih _)

theorem SendsOnly.setBelts (s : State) : SendsOnly s s.setBelts := SendsOnly.setBeltsOf ..

/-- Outside RUN no belt runs once the belts are set. -/
theorem State.setBelts_stopped {s : State} (h : s.opState ≠ .run) {d : Nat} {x : Door} (hx : s.setBelts.door? d = some x) :
    x.running = false := by
  rw [State.setBelts_door?] at hx
  obtain ⟨y, -, rfl⟩ := Option.map_eq_some_iff.1 hx
  have ho : s.setBelts.opState ≠ .run := by
    rw [(Keeps.setBelts s).changes .opState (by decide)]
    exact h
  simp [State.beltRuns, ho]

/-! ## HALL REST -/

theorem State.enterRest_loop (s : State) : s.enterRest.loop = { s.loop.anchor with points := s.enterRest.loop.points } := by
  rw [State.enterRest, State.setBelts_loop, State.putCauseAll_loop, State.putCauseAll_loop]
  rfl

theorem State.enterRest_point (s : State) (i : Nat) : s.enterRest.loop.points.get? i =
    (s.loop.points.get? i).map (fun p => p.withCauses { p.causes with state := true, tracking := true }) := by
  rw [State.enterRest, State.setBelts_loop, State.putCauseAll_get?, State.putCauseAll_get?, Option.map_map]
  rfl

theorem State.enterRest_opState (s : State) : s.enterRest.opState = .rest :=
  ((Keeps.setBelts _).changes .opState (by decide)).trans
    (((Keeps.putCauseAll _ _ _).changes .opState (by decide)).trans ((Keeps.putCauseAll _ _ _).changes .opState (by decide)))

theorem State.enterRest_stopped {s : State} {d : Nat} {x : Door} (hx : s.enterRest.door? d = some x) :
    x.running = false := by
  refine State.setBelts_stopped ?_ hx
  rw [(Keeps.putCauseAll _ _ _).changes .opState (by decide), (Keeps.putCauseAll _ _ _).changes .opState (by decide)]
  exact OpState.noConfusion

theorem State.enterRest_sendsOnly (s : State) : SendsOnly s s.enterRest :=
  (SendsOnly.same (s := s) (t := (s.setOpState .rest).setLoop s.loop.anchor) rfl).trans
    ((SendsOnly.putCauseAll _ _ _).trans ((SendsOnly.putCauseAll _ _ _).trans (SendsOnly.setBelts _)))

/-- The tests of HALL REST. -/
def restTests (t : State) : List (Bool × Result) :=
  [(t.opState == .run, .wrongState), (!t.closeWalk, .busy),
    (t.routes.all (fun r => r.state != .loading) && t.loop.carriers.all (fun c => c.armed.isNone), .inUse)]

theorem exec_hallRest (h : Head) (s : State) : exec (.hallRest h) s = request 0x0A h 0 (fun t =>
    guarded (restTests t) t (t.enterRest, Answer.done .empty)) s := rfl

theorem hallRestEnters : Claim.HallRestEnters := by
  intro h s hr ho hw
  have ho' : s.taken.opState = .run := ho
  have hw' : s.taken.closeWalk = false := hw
  constructor
  · intro hbusy
    have ht : firstFailure (restTests s.taken) = some .inUse := by
      have hf : (s.taken.routes.all (fun r => r.state != .loading) &&
          s.taken.loop.carriers.all (fun c => c.armed.isNone)) = false := by
        rw [Bool.and_eq_false_iff]
        refine hbusy.imp (fun ⟨r, hm, hl⟩ => ?_) (fun ⟨c, hm, ha⟩ => ?_)
        · exact List.all_eq_false.2 ⟨r, hm, by simp [hl]⟩
        · exact List.all_eq_false.2 ⟨c, hm, by simpa using ha⟩
      simp only [restTests, firstFailure, ho', hw', hf]
      rfl
    rw [exec_hallRest, request_ready hr, guarded_fail ht]
  · intro hl ha
    have ht : firstFailure (restTests s.taken) = none := by
      have h1 : s.taken.routes.all (fun r => r.state != .loading) = true :=
        List.all_eq_true.2 fun r hm => bne_iff_ne.2 (hl r hm)
      have h2 : s.taken.loop.carriers.all (fun c => c.armed.isNone) = true :=
        List.all_eq_true.2 fun c hm => Option.isNone_iff_eq_none.2 (ha c hm)
      simp only [restTests, firstFailure, ho', hw', h1, h2]
      rfl
    have hloop := s.taken.enterRest_loop
    refine ⟨s.taken.enterRest, by rw [exec_hallRest, request_ready hr, guarded_pass ht],
      (Keeps.enterRest s.taken).changes.ofTaken (by decide) (by decide), s.taken.enterRest_opState, ?_, ?_, ?_, ?_, ?_, ?_, ?_,
      fun i p hp => ?_, ?_, fun d x hx => State.enterRest_stopped hx⟩
    any_goals
      rw [hloop]
      rfl
    · rw [State.enterRest_point] at hp
      obtain ⟨q, -, rfl⟩ := Option.map_eq_some_iff.1 hp
      exact ⟨rfl, rfl⟩
    · obtain ⟨-, hs, -⟩ := s.taken.enterRest_sendsOnly
      exact hs

/-! ## WAKE -/

/-- The part in RUN with its nodes UNHEARD and tracking ANCHORING, before the points' causes and the belts are set (R178). -/
def State.roused (s : State) : State :=
  (((s.setLink s.link.unhear).setOpState .run)).setLoop s.loop.anchor

theorem State.wake_eq (s : State) : s.wake =
    (((s.roused.putCauseAll .tracking true).putCauseAll .node true).putCauseAll .state false).setBelts := rfl

theorem State.roused_node? (s : State) (n : Nat) : s.roused.node? n = (s.node? n).map (fun x =>
    if x.role.isSome then { x with state := .unheard, expected := none, lastHeard := none } else x) := by
  change (if n = 0 then none else (s.link.nodes.map _)[n - 1]?) = Option.map _ (if n = 0 then none else s.link.nodes[n - 1]?)
  split
  · rfl
  · rw [List.getElem?_map]

theorem State.wake_sendsOnly (s : State) : SendsOnly s.roused s.wake :=
  (SendsOnly.putCauseAll _ _ _).trans
    ((SendsOnly.putCauseAll _ _ _).trans ((SendsOnly.putCauseAll _ _ _).trans (SendsOnly.setBelts _)))

theorem State.wake_opState (s : State) : s.wake.opState = .run :=
  ((Keeps.setBelts _).changes .opState (by decide)).trans
    (((Keeps.putCauseAll _ _ _).changes .opState (by decide)).trans
      (((Keeps.putCauseAll _ _ _).changes .opState (by decide)).trans
        ((Keeps.putCauseAll _ _ _).changes .opState (by decide))))

theorem State.wake_loop (s : State) : s.wake.loop = { s.loop.anchor with points := s.wake.loop.points } := by
  rw [State.wake_eq, State.setBelts_loop, State.putCauseAll_loop, State.putCauseAll_loop, State.putCauseAll_loop]
  rfl

theorem State.wake_point (s : State) (i : Nat) : s.wake.loop.points.get? i =
    (s.loop.points.get? i).map
      (fun p => p.withCauses { p.causes with tracking := true, node := true, state := false }) := by
  rw [State.wake_eq, State.setBelts_loop, State.putCauseAll_get?, State.putCauseAll_get?, State.putCauseAll_get?,
    Option.map_map, Option.map_map]
  rfl

theorem State.wake_door? (s : State) (d : Nat) :
    s.wake.door? d = (s.door? d).map (fun x => { x with running := s.wake.beltRuns x }) := by
  have hd : (((s.roused.putCauseAll .tracking true).putCauseAll .node true).putCauseAll .state false).doors = s.doors :=
    ((Keeps.putCauseAll _ _ _).changes .doors (by decide)).trans
      (((Keeps.putCauseAll _ _ _).changes .doors (by decide)).trans ((Keeps.putCauseAll _ _ _).changes .doors (by decide)))
  rw [State.wake_eq, State.setBelts_door?, State.door?, hd]
  rfl

/-- A configured node as WAKE leaves it. -/
theorem State.wake_node? {s : State} {n : Nat} {x : Node} (hx : s.node? n = some x) (hr : x.role ≠ none) :
    ∃ y, s.wake.node? n = some y ∧ y.role = x.role ∧ y.objects = x.objects ∧ y.state = .unheard ∧ y.expected = none := by
  obtain ⟨-, -, -, hn⟩ := s.wake_sendsOnly
  have hy : s.roused.node? n = some { x with state := .unheard, expected := none, lastHeard := none } := by
    rw [State.roused_node?, hx, Option.map_some, if_pos (Option.isSome_iff_ne_none.2 hr)]
  obtain ⟨v, hv⟩ := hn n _ hy
  exact ⟨_, hv, rfl, rfl, rfl, rfl⟩

theorem exec_wake (h : Head) (s : State) : exec (.wake h) s = request 0x0B h 0 (fun t =>
    guarded [(t.opState == .rest, .wrongState)] t (t.wake, Answer.done .empty)) s := rfl

theorem exec_wake_rest {h : Head} {s : State} (hr : Ready s h 0) (ho : s.opState = .rest) :
    exec (.wake h) s = answered 0x0B h s.taken.wake (Answer.done .empty) := by
  have ho' : s.taken.opState = .rest := ho
  have ht : firstFailure [(s.taken.opState == .rest, .wrongState)] = none := by simp [firstFailure, ho']
  rw [exec_wake, request_ready hr, guarded_pass ht]

theorem wakeEnters : Claim.WakeEnters := by
  intro h s hr
  refine ⟨fun ho => ?_, fun ho => ?_⟩
  · have ho' : s.taken.opState ≠ .rest := ho
    have ht : firstFailure [(s.taken.opState == .rest, .wrongState)] = some .wrongState := by simp [firstFailure, ho']
    rw [exec_wake, request_ready hr, guarded_fail ht]
  · have hloop := s.taken.wake_loop
    obtain ⟨-, hstamp, -⟩ := s.taken.wake_sendsOnly
    refine ⟨s.taken.wake, exec_wake_rest hr ho, (Keeps.wake s.taken).changes.ofTaken (by decide) (by decide),
      s.taken.wake_opState, hstamp, fun n x hx hrole => State.wake_node? (s := s.taken) hx hrole, ?_, ?_, ?_, ?_, ?_, ?_, ?_, ?_,
      fun i p hp => ?_, fun i p hp => ?_, fun d x hx => ?_⟩
    any_goals
      rw [hloop]
      rfl
    · rw [State.wake_point] at hp
      obtain ⟨q, -, rfl⟩ := Option.map_eq_some_iff.1 hp
      exact ⟨rfl, rfl⟩
    · have hp' : s.taken.loop.points.get? i = some p := hp
      exact ⟨p.withCauses { p.causes with tracking := true, node := true, state := false },
        by rw [State.wake_point, hp']; rfl, rfl, rfl, rfl, rfl, fun _ _ _ => rfl⟩
    · have hx' : s.taken.door? d = some x := hx
      rw [State.wake_door?, hx']
      rfl

/-! ## The waking frame: the receiver's bytes do not matter to what wakes -/

theorem State.setRx_send (s : State) (l : List Byte) (r : Role) (object : Nat) (p : OutPayload) :
    (s.setRx l).send r object p = (s.send r object p).setRx l := by
  have hn : (s.setRx l).servingNode r object = s.servingNode r object := rfl
  unfold State.send
  rw [hn]
  cases s.servingNode r object with
  | none => rfl
  | some n =>
    have hq : (s.setRx l).link.txQueue = s.link.txQueue := rfl
    dsimp only
    rw [hq]
    split
    · rfl
    · split
      · unfold State.modifyNode
        split <;> rfl
      · rfl

theorem State.setRx_setLoop (s : State) (l : List Byte) (v : Loop) : (s.setRx l).setLoop v = (s.setLoop v).setRx l := rfl

theorem State.setRx_modifyDoor (s : State) (l : List Byte) (d : Nat) (f : Door → Door) :
    (s.setRx l).modifyDoor d f = (s.modifyDoor d f).setRx l := rfl

theorem State.setRx_onCauses (s : State) (l : List Byte) (i : Nat) (f : HoldSet → HoldSet) :
    (s.setRx l).onCauses i f = (s.onCauses i f).setRx l := by
  have hp : (s.setRx l).loop = s.loop := rfl
  unfold State.onCauses
  rw [hp]
  cases s.loop.points.get? i with
  | none => rfl
  | some p =>
    dsimp only
    split
    · rfl
    · simp only [State.sendInduct]
      rw [State.setRx_setLoop]
      exact State.setRx_send ..

theorem State.setRx_putCauses (l : List Byte) (x : HoldCause) (v : Bool) (is : List Nat) (s : State) :
    (s.setRx l).putCauses x v is = (s.putCauses x v is).setRx l := by
  induction is generalizing s with
  | nil => rfl
  | cons i t ih =>
    change ((s.setRx l).onCauses i _).putCauses x v t = _
    rw [State.setRx_onCauses, ih]
    rfl

theorem State.setRx_putCauseAll (s : State) (l : List Byte) (x : HoldCause) (v : Bool) :
    (s.setRx l).putCauseAll x v = (s.putCauseAll x v).setRx l := State.setRx_putCauses ..

theorem State.setRx_setBelt (s : State) (l : List Byte) (d : Nat) : (s.setRx l).setBelt d = (s.setBelt d).setRx l := by
  have hd : (s.setRx l).door? d = s.door? d := rfl
  unfold State.setBelt
  rw [hd]
  cases s.door? d with
  | none => rfl
  | some x =>
    have hb : (s.setRx l).beltRuns x = s.beltRuns x := rfl
    dsimp only
    rw [hb]
    split
    · rfl
    · simp only [State.sendDoor]
      rw [State.setRx_modifyDoor]
      exact State.setRx_send ..

theorem State.setRx_setBeltsOf (l : List Byte) (ds : List Nat) (s : State) :
    (s.setRx l).setBeltsOf ds = (s.setBeltsOf ds).setRx l := by
  induction ds generalizing s with
  | nil => rfl
  | cons d t ih =>
    change ((s.setRx l).setBelt d).setBeltsOf t = _
    rw [State.setRx_setBelt, ih]
    rfl

theorem State.setRx_setBelts (s : State) (l : List Byte) : (s.setRx l).setBelts = s.setBelts.setRx l :=
  State.setRx_setBeltsOf ..

theorem State.setRx_wake (s : State) (l : List Byte) : (s.setRx l).wake = s.wake.setRx l := by
  rw [State.wake_eq, State.wake_eq]
  change (((((s.roused).setRx l).putCauseAll .tracking true).putCauseAll .node true).putCauseAll .state false).setBelts = _
  rw [State.setRx_putCauseAll, State.setRx_putCauseAll, State.setRx_putCauseAll, State.setRx_setBelts]

/-! ## The waking frame (R45) -/

theorem State.wake_nodes_length (s : State) : s.wake.link.nodes.length = s.link.nodes.length := by
  have hr : s.roused.link.nodes.length = s.link.nodes.length := List.length_map ..
  exact ((((State.setBeltsOf_nodes_length _ _).trans (State.putCauses_nodes_length _ _ _ _)).trans
    (State.putCauses_nodes_length _ _ _ _)).trans (State.putCauses_nodes_length _ _ _ _)).trans hr

/-- Waking keeps every node's role. -/
theorem State.wake_role (s : State) (n : Nat) : (s.wake.node? n).map (·.role) = (s.node? n).map (·.role) := by
  obtain ⟨-, -, -, hn⟩ := s.wake_sendsOnly
  cases hx : s.node? n with
  | none =>
    have hw : s.wake.node? n = none := by
      unfold State.node? at hx ⊢
      split at hx
      · next h0 => rw [if_pos h0]
      · next h0 => rw [if_neg h0, List.getElem?_eq_none_iff, State.wake_nodes_length, ← List.getElem?_eq_none_iff, hx]
    rw [hw]
  | some x =>
    obtain ⟨v, hv⟩ := hn n (if x.role.isSome then { x with state := .unheard, expected := none, lastHeard := none } else x)
      (by rw [State.roused_node?, hx]; rfl)
    rw [hv]
    change some (ite _ _ _ : Node).role = some x.role
    split <;> rfl

theorem HoldsNoFrame.wake {s : State} (h : HoldsNoFrame s) : HoldsNoFrame s.wake := by
  obtain ⟨hrx, -⟩ := s.wake_sendsOnly
  intro a m b i f hl hm hf y hy
  have hrole := s.wake_role f.node.toNat
  rw [hy] at hrole
  obtain ⟨x, hx, hxy⟩ := Option.map_eq_some_iff.1 hrole.symm
  have hyx : y.role = x.role := hxy.symm
  rw [hyx]
  exact h a m b i f (hrx.symm.trans hl) hm hf x hx

theorem State.setRx_setRx (s : State) (l m : List Byte) : (s.setRx l).setRx m = s.setRx m := rfl

theorem State.setRx_opState (s : State) (l : List Byte) : (s.setRx l).opState = s.opState := rfl

theorem State.setRx_node? (s : State) (l : List Byte) (n : Nat) : (s.setRx l).node? n = s.node? n := rfl

theorem State.admission_run {s : State} (h : s.opState = .run) : s.admission .loop = some s := by
  simp only [State.admission, h]

theorem State.admission_rest {s : State} (h : s.opState = .rest) : s.admission .loop = some s.wake := by
  simp only [State.admission, h]

/-- The taking of a frame goes through the state its admission gives. -/
theorem takeFrame_of_admission {s t u : State} {f : FrameHead} {role : Role} {r : Report} {act : State → State}
    (hs : (s.node? f.node.toNat).bind (·.role) = some role) (ht : (t.node? f.node.toNat).bind (·.role) = some role)
    (h : (s.setRx []).admission role = some u) (h' : (t.setRx []).admission role = some u) :
    s.takeFrame f r act = t.takeFrame f r act := by
  unfold State.takeFrame
  dsimp only
  rw [hs, ht]
  dsimp only
  rw [h, h']

/-- A frame of the LOOP node is taken in REST as it is once the part has been woken. -/
theorem takeFrame_wakes {s : State} {f : FrameHead} {x : Node} (ho : s.opState = .rest)
    (hx : s.node? f.node.toNat = some x) (hr : x.role = some .loop) (r : Report) (act : State → State) :
    (s.setRx []).takeFrame f r act = (s.wake.setRx []).takeFrame f r act := by
  obtain ⟨y, hy, hyr, -⟩ := State.wake_node? hx (by rw [hr]; exact Option.some_ne_none _)
  refine takeFrame_of_admission (role := .loop) (u := s.wake.setRx []) ?_ ?_ ?_ ?_
  · rw [State.setRx_node?, hx]
    exact hr
  · rw [State.setRx_node?, hy]
    exact hyr.trans hr
  · rw [State.setRx_setRx, State.admission_rest ((State.setRx_opState s []).trans ho), State.setRx_wake]
  · rw [State.setRx_setRx, State.admission_run ((State.setRx_opState s.wake []).trans s.wake_opState)]

/-- A frame of a known node, none held before it, is taken by its kind: by the operation that every frame row shares. -/
theorem exec_frame {i : Instr} {f : FrameHead} (hi : frameHead i = some f) :
    ∃ r act, ∀ s, HoldsNoFrame s → s.knows f = true → exec i s = .next ((s.setRx []).takeFrame f r act) := by
  cases i <;> cases hi
  all_goals exact ⟨_, _, fun s hs hk => congrArg Host.Outcome.next (receive_known hs hk _ _ _)⟩

theorem wakingFrameWakes : Claim.WakingFrameWakes := by
  intro i f x h s hi ho hx hrole hn hr
  refine ⟨exec_wake_rest hr ho, s.wake_opState, ?_⟩
  obtain ⟨r, act, hexec⟩ := exec_frame hi
  have hsome : x.role ≠ none := by rw [hrole]; exact Option.some_ne_none _
  obtain ⟨y, hy, hyr, -⟩ := State.wake_node? hx hsome
  rw [hexec s hn (knows_of_role hx (Option.isSome_iff_ne_none.2 hsome)),
    hexec s.wake hn.wake (knows_of_role hy (by rw [hyr]; exact Option.isSome_iff_ne_none.2 hsome)),
    takeFrame_wakes ho hx hrole]

/-- Settles O13: the entries set the points' causes and the belts, and a frame that wakes finds what WAKE leaves. -/
theorem restAndWake : Obligations.RestAndWake := ⟨hallRestEnters, wakeEnters, wakingFrameWakes⟩

end Sys2Proof.Machine
end

section
/-! The requests on sailings and on cabins, and from them their obligations (R3 to R19). -/

namespace Sys2Proof.Machine

/-! ## Tests in their order -/

theorem firstFailure_pass {c : Bool} {r : Result} {l : List (Bool × Result)} {x : Option Result} (hc : c = true)
    (h : firstFailure l = x) : firstFailure ((c, r) :: l) = x := by
  rw [firstFailure, hc, if_pos rfl, h]

theorem firstFailure_stop {c : Bool} {r : Result} {l : List (Bool × Result)} (hc : c = false) :
    firstFailure ((c, r) :: l) = some r := by
  simp [firstFailure, hc]

/-- The outcome of a request that makes its tests and then takes effect. -/
def ruled (code : Byte) (h : Head) (tests : List (Bool × Result)) (s : State) (act : State × Answer) : Outcome :=
  answered code h (guarded tests s act).1 (guarded tests s act).2

theorem ruled_pass {tests : List (Bool × Result)} (ht : firstFailure tests = none) (code : Byte) (h : Head) (s : State)
    (act : State × Answer) : ruled code h tests s act = answered code h act.1 act.2 := by
  rw [ruled, guarded_pass ht]

theorem ruled_fail {tests : List (Bool × Result)} {r : Result} (ht : firstFailure tests = some r) (code : Byte) (h : Head)
    (s : State) (act : State × Answer) : ruled code h tests s act = answered code h s (Answer.refuse r) := by
  rw [ruled, guarded_fail ht]

theorem onSlot_fields {h : Head} {b : SlotId} (hb : h.key.slot? = some b) (s : State) (act : SlotId → State × Answer) :
    onSlot h true s act = act b := by
  simp only [onSlot, hb, if_true]

theorem ship_inRange {ship : BitVec 16} (h : 1 ≤ ship.toNat) : inRange 1 ship.toNat 65535 = true :=
  inRange_of h (by have := ship.isLt; omega)

theorem SlotOpen.taken {s : State} {h : Head} {b : SlotId} (ho : SlotOpen s h b) : SlotOpen s.taken h b := ho

/-! ## OPEN SAILING (R4) -/

/-- The tests of OPEN SAILING. -/
def openTests (t : State) (b : SlotId) (ship : Nat) : List (Bool × Result) :=
  [(t.opState != .setup, .wrongState), (t.slotState b != .closing, .sailingBusy),
    (if t.slotState b = .free then !t.holdsShip b.other ship else t.holdsShip b ship, .exists_)]

theorem exec_openSailing (h : Head) (ship : BitVec 16) (policy : Option Bool) (s : State) :
    exec (.openSailing h ship policy) s = request 0x10 h 3 (fun t =>
      onSlot h (inRange 1 ship.toNat 65535 && policy.isSome) t (fun b =>
        guarded (openTests t b ship.toNat) t (t.openSlot b ship.toNat (policy.getD false), Answer.done .empty))) s := rfl

theorem exec_openSailing_slot {h : Head} {ship : BitVec 16} {b : SlotId} {s : State} (hr : Ready s h 3)
    (hb : h.key.slot? = some b) (hs : 1 ≤ ship.toNat) (policy : Bool) :
    exec (.openSailing h ship (some policy)) s =
      ruled 0x10 h (openTests s.taken b ship.toNat) s.taken (s.taken.openSlot b ship.toNat policy, Answer.done .empty) := by
  rw [exec_openSailing, request_ready hr, ship_inRange hs]
  exact congrArg (fun r : State × Answer => answered 0x10 h r.1 r.2) (onSlot_fields hb ..)

theorem State.holdsShip_iff {s : State} {b : SlotId} {ship : Nat} :
    s.holdsShip b ship = true ↔ s.slotState b ≠ .free ∧ (s.store.slot b).ship = some ship := by
  simp [State.holdsShip]

theorem openSailingOpens : Claim.OpenSailingOpens := by
  intro h ship policy b s hr hb hs ho
  have ho' : s.taken.opState ≠ .setup := ho
  refine ⟨fun hf hx => ?_, fun hf hother hship => ?_, fun hopen hship => ?_, fun hopen hship => ?_⟩
  · have hf' : s.taken.slotState b = .free := hf
    have hn : s.taken.holdsShip b.other ship.toNat = false := Bool.eq_false_iff.2 fun hh => hx (State.holdsShip_iff.1 hh)
    have ht : firstFailure (openTests s.taken b ship.toNat) = none := by simp [openTests, firstFailure, ho', hf', hn]
    rw [exec_openSailing_slot hr hb hs, ruled_pass ht]
    rfl
  · have hf' : s.taken.slotState b = .free := hf
    have hn : s.taken.holdsShip b.other ship.toNat = true := State.holdsShip_iff.2 ⟨hother, hship⟩
    have ht : firstFailure (openTests s.taken b ship.toNat) = some .exists_ := by
      simp [openTests, firstFailure, ho', hf', hn]
    rw [exec_openSailing_slot hr hb hs, ruled_fail ht]
  · have hf' : s.taken.slotState b = .opened := hopen
    have hn : s.taken.holdsShip b ship.toNat = true := State.holdsShip_iff.2 ⟨by rw [hf']; exact SlotState.noConfusion, hship⟩
    have ht : firstFailure (openTests s.taken b ship.toNat) = none := by simp [openTests, firstFailure, ho', hf', hn]
    have hslot : ({ s.taken.store.slot b with state := .opened, ship := some ship.toNat, boardFirst := policy } : Sailing) =
        { s.store.slot b with boardFirst := policy } := by
      rw [← hship, ← hopen]
      rfl
    rw [exec_openSailing_slot hr hb hs, ruled_pass ht, State.openSlot, hslot]
    rfl
  · have hf' : s.taken.slotState b = .opened := hopen
    have hn : s.taken.holdsShip b ship.toNat = false :=
      Bool.eq_false_iff.2 fun hh => hship (State.holdsShip_iff.1 hh).2
    have ht : firstFailure (openTests s.taken b ship.toNat) = some .exists_ := by
      simp [openTests, firstFailure, ho', hf', hn]
    rw [exec_openSailing_slot hr hb hs, ruled_fail ht]

/-! ## CLOSE SAILING (R8) -/

theorem exec_closeSailing {h : Head} {ship : BitVec 16} {b : SlotId} {s : State} (hr : Ready s h 2) (ho : SlotOpen s h b)
    (hs : 1 ≤ ship.toNat) :
    exec (.closeSailing h ship) s =
      ruled 0x11 h (closeTests s.taken b ship.toNat) s.taken (s.taken.startClose b, ⟨.accepted, .empty⟩) := by
  change request 0x11 h 2 (fun t => onSailing h (inRange 1 ship.toNat 65535) t (fun b => closeTests t b ship.toNat)
    (fun b => (t.startClose b, ⟨.accepted, .empty⟩))) s = _
  rw [request_ready hr, ship_inRange hs, onSailing_open ho.taken]
  rfl

theorem State.routeQuiet_iff {s : State} {k : RouteKey} :
    s.routeQuiet k = true ↔ ∀ r, s.route? k = some r → r.state = .unset ∨ r.state = .idle ∧ r.queue = [] := by
  unfold State.routeQuiet
  cases s.route? k <;> simp

theorem slotRoutes_quiet {s : State} {b : SlotId} : (slotRoutes b).all s.routeQuiet = true ↔
    ∀ i r, i < 12 → s.route? ⟨b, i⟩ = some r → r.state = .unset ∨ r.state = .idle ∧ r.queue = [] := by
  simp only [slotRoutes, List.all_map, List.all_eq_true, List.mem_range, Function.comp_apply, State.routeQuiet_iff]
  exact ⟨fun h i r hi hr => h i hi r hr, fun h i hi r hr => h i r hi hr⟩

theorem berth_clear {s : State} {b : SlotId} : s.doors.all (fun e => e.2.berth != b || e.2.cart.isNone) = true ↔
    ∀ e ∈ s.doors, e.2.berth = b → e.2.cart = none := by
  simp only [List.all_eq_true, Bool.or_eq_true, bne_iff_ne, Option.isNone_iff_eq_none]
  exact forall₂_congr fun e _ => ⟨fun h hb => h.resolve_left (fun hn => hn hb), fun h => or_iff_not_imp_left.2 fun hn => h (not_not.1 hn)⟩

theorem closeSailingStarts : Claim.CloseSailingStarts := by
  intro h ship b s hr hb hs ho hopen c refused quiet
  have hx := exec_closeSailing hr ⟨hb, ho, hopen⟩ hs
  have refuses : ∀ {r}, firstFailure (closeTests s.taken b ship.toNat) = some r → refused r := by
    intro r ht
    change exec _ s = _
    exact hx.trans (ruled_fail ht ..)
  refine ⟨fun hrun => refuses (firstFailure_stop (beq_false_of_ne hrun)), fun hrun => ?_⟩
  have t1 : (s.taken.opState == .run) = true := beq_iff_eq.2 hrun
  refine ⟨fun hship => refuses (firstFailure_pass t1 (firstFailure_stop (beq_false_of_ne hship))), fun hship => ?_⟩
  have t2 : ((s.taken.store.slot b).ship == some ship.toNat) = true := beq_iff_eq.2 hship
  refine ⟨fun hw => refuses (firstFailure_pass t1 (firstFailure_pass t2 (firstFailure_stop ?_))), fun hw => ?_⟩
  · exact Option.isNone_eq_false_iff.2 (Option.isSome_iff_ne_none.2 hw)
  have t3 : s.taken.sweep.walk.isNone = true := Option.isNone_iff_eq_none.2 hw
  refine ⟨fun hc => refuses (firstFailure_pass t1 (firstFailure_pass t2 (firstFailure_pass t3 (firstFailure_stop ?_)))),
    fun h1 h2 h3 h4 => ?_⟩
  · exact decide_eq_false fun ⟨h1, h2, h3, h4⟩ => hc.elim (absurd h1) (Or.elim · (absurd h2) (Or.elim · (absurd h3) (absurd h4)))
  have t4 : decide (c.hall = 0 ∧ c.stray = 0 ∧ c.missing = 0 ∧ c.offload = 0) = true := decide_eq_true ⟨h1, h2, h3, h4⟩
  have past : ∀ {l x}, firstFailure l = x → firstFailure ((s.taken.opState == .run, Result.wrongState) ::
      ((s.taken.store.slot b).ship == some ship.toNat, .notFound) :: (s.taken.sweep.walk.isNone, .busy) ::
      (decide (c.hall = 0 ∧ c.stray = 0 ∧ c.missing = 0 ∧ c.offload = 0), .openBags) :: l) = x :=
    fun hl => firstFailure_pass t1 (firstFailure_pass t2 (firstFailure_pass t3 (firstFailure_pass t4 hl)))
  refine ⟨fun i r hi hir hq => refuses (past (firstFailure_stop ?_)), fun hq => ?_⟩
  · exact Bool.eq_false_iff.2 fun hall => hq (slotRoutes_quiet.1 hall i r hi hir)
  have t5 : (slotRoutes b).all s.taken.routeQuiet = true := slotRoutes_quiet.2 hq
  refine ⟨fun e he heb hec => refuses (past (firstFailure_pass t5 (firstFailure_stop ?_))), fun hd => ?_⟩
  · exact Bool.eq_false_iff.2 fun hall => hec (berth_clear.1 hall e he heb)
  · have ht : firstFailure (closeTests s.taken b ship.toNat) = none :=
      past (firstFailure_pass t5 (firstFailure_pass (berth_clear.2 hd) rfl))
    exact hx.trans (ruled_pass ht ..)

/-! ## ROUTE SET (R7) -/

/-- The tests of ROUTE SET after those of R3. -/
def routeSetTests (t : State) (h : Head) (door : Nat) (b : SlotId) : List (Bool × Result) :=
  [(t.doorOfBerth door b, .badField),
    (t.routeState (Head.routeOf h b) != .loading && (t.routeCart (Head.routeOf h b)).isNone, .inUse)]

theorem exec_routeSet {h : Head} {door : Byte} {all : Bool} {b : SlotId} {s : State} (hr : Ready s h 2)
    (ho : SlotOpen s h b) (hk : h.key.route < 12) (hd : door.toNat < 6) :
    exec (.routeSet h door (some all)) s =
      ruled 0x13 h (routeSetTests s.taken h door.toNat b) s.taken
        (s.taken.modifyRoute (Head.routeOf h b) (fun r => r.bindDoor door.toNat all), Answer.done .empty) := by
  have hf : (Head.routeInRange h && decide (door.toNat < 6) && (some all).isSome) = true := by
    simp [Head.routeInRange, hk, hd]
  change request 0x13 h 2 (fun t => onSailing h _ t (routeSetTests t h door.toNat) _) s = _
  rw [request_ready hr, hf, onSailing_open ho.taken]
  rfl

theorem State.doorOfBerth_iff {s : State} {d : Nat} {b : SlotId} :
    s.doorOfBerth d b = true ↔ ∃ x, s.door? d = some x ∧ x.berth = b := by
  unfold State.doorOfBerth
  cases s.door? d <;> simp

theorem routeSetBinds : Claim.RouteSetBinds := by
  intro h door all b s hr ho hk hd
  have hx := exec_routeSet (all := all) hr ho hk hd
  refine ⟨fun hno => ?_, fun x hdoor hb => ?_⟩
  · have t1 : s.taken.doorOfBerth door.toNat b = false := Bool.eq_false_iff.2 fun hh =>
      let ⟨x, hx, hb⟩ := State.doorOfBerth_iff.1 hh
      hno x hx hb
    exact hx.trans (ruled_fail (firstFailure_stop t1) ..)
  · have t1 : s.taken.doorOfBerth door.toNat b = true := State.doorOfBerth_iff.2 ⟨x, hdoor, hb⟩
    refine ⟨fun hbusy => ?_, fun hl hc => ?_⟩
    · have t2 : (s.taken.routeState (Head.routeOf h b) != .loading && (s.taken.routeCart (Head.routeOf h b)).isNone) = false :=
        Bool.eq_false_iff.2 fun hh => by
          obtain ⟨hl, hc⟩ := Bool.and_eq_true_iff.1 hh
          exact hbusy.elim (bne_iff_ne.1 hl) (· (Option.isNone_iff_eq_none.1 hc))
      exact hx.trans (ruled_fail (firstFailure_pass t1 (firstFailure_stop t2)) ..)
    · have t2 : (s.taken.routeState (Head.routeOf h b) != .loading && (s.taken.routeCart (Head.routeOf h b)).isNone) = true :=
        Bool.and_eq_true_iff.2 ⟨bne_iff_ne.2 hl, Option.isNone_iff_eq_none.2 hc⟩
      exact hx.trans (ruled_pass (firstFailure_pass t1 (firstFailure_pass t2 rfl)) ..)

/-- Settles O14: each request makes its tests in their order, and its effect is written to the slot or the route alone. -/
theorem sailingsOpenAndClose : Obligations.SailingsOpenAndClose := ⟨openSailingOpens, closeSailingStarts, routeSetBinds⟩

end Sys2Proof.Machine
end

section
/-! The requests on cabins, and from them their obligations (R10 to R19). -/

namespace Sys2Proof.Machine

/-- A request on an OPEN slot, its fields in range, makes its own tests and takes effect. -/
theorem request_onSailing {s : State} {h : Head} {len : Nat} {b : SlotId} {fields : Bool} (hr : Ready s h len)
    (ho : SlotOpen s h b) (hf : fields = true) (code : Byte) (own : State → SlotId → List (Bool × Result))
    (act : State → SlotId → State × Answer) :
    request code h len (fun t => onSailing h fields t (own t) (act t)) s = ruled code h (own s.taken b) s.taken (act s.taken b) := by
  rw [request_ready hr, hf, onSailing_open ho.taken]
  rfl

theorem Head.cabinInRange_of {h : Head} (hk : h.key.cabin ≠ 0) : Head.cabinInRange h = true := decide_eq_true hk

theorem State.hasCabin_iff {s : State} {k : CabinKey} : s.hasCabin k = true ↔ ∃ c, s.store.cabin? k = some c :=
  Option.isSome_iff_exists

theorem State.hasCabin_of {s : State} {k : CabinKey} {c : Cabin} (hc : s.store.cabin? k = some c) : s.hasCabin k = true :=
  State.hasCabin_iff.2 ⟨c, hc⟩

theorem State.hasCabin_none {s : State} {k : CabinKey} (hc : s.store.cabin? k = none) : s.hasCabin k = false :=
  Option.isSome_eq_false_iff.2 (Option.isNone_iff_eq_none.2 hc)

theorem CabinKey.code_inj {b : SlotId} {m n : Nat} : CabinKey.code ⟨b, m⟩ = CabinKey.code ⟨b, n⟩ ↔ m = n := by
  simp [CabinKey.code]

/-! ## Guests -/

theorem mem_insertGuest {g x : Guest} {l : List Guest} : x ∈ insertGuest g l ↔ x = g ∨ x ∈ l := by
  induction l with
  | nil => simp [insertGuest]
  | cons y t ih =>
    rw [insertGuest]
    split
    · simp
    · rw [List.mem_cons, ih, List.mem_cons, or_left_comm]

theorem mem_guestList {old : List Guest} {given : List (Byte × BitVec 32)} {g : Guest} :
    g ∈ guestList old given ↔ ∃ e ∈ given, g = ⟨e.1.toNat, e.2, carriedState old e.1.toNat e.2⟩ := by
  unfold guestList
  induction given with
  | nil => simp
  | cons e t ih => rw [List.foldr_cons, mem_insertGuest, ih, List.exists_mem_cons_iff]

theorem carriedState_eq (old : List Guest) (slot : Nat) (number : BitVec 32) : carriedState old slot number =
    ((old.find? (fun o => o.slot == slot && o.number == number)).map (·.state)).getD .expected := by
  unfold carriedState
  split
  · next g hg => rw [hg]; rfl
  · next hg => rw [hg]; rfl

/-! ## The pull state of a cabin that changes (R12, R143, R145) -/

theorem Cabin.settlePull_eq (c : Cabin) (was : Bool) (pos : WalkerPos) : c.settlePull was pos =
    { c with pull := (c.settlePull was pos).pull, pullStart := (c.settlePull was pos).pullStart } := by
  unfold Cabin.settlePull
  split
  · rfl
  · split <;> rfl

theorem Cabin.settlePull_standsVoid (c : Cabin) (was : Bool) (pos : WalkerPos) :
    (c.settlePull was pos).standsVoid = c.standsVoid := by
  rw [Cabin.settlePull_eq]
  rfl

theorem Cabin.settlePull_same {c : Cabin} {was : Bool} (h : was = c.standsVoid) (pos : WalkerPos) :
    c.settlePull was pos = c := by
  subst h
  cases h : c.standsVoid <;> simp [Cabin.settlePull, h]

theorem Cabin.settlePull_starts {c : Cabin} {was : Bool} (h : was = false) (hv : c.standsVoid = true) (pos : WalkerPos) :
    c.settlePull was pos = { c with pull := .pulling, pullStart := some pos } := by
  simp [Cabin.settlePull, h, hv]

theorem Cabin.settlePull_ceases {c : Cabin} {was : Bool} (h : was = true) (hv : c.standsVoid = false) (pos : WalkerPos) :
    c.settlePull was pos = { c with pull := .noPull, pullStart := none } := by
  simp [Cabin.settlePull, h, hv]

/-- A changed cabin's pull state follows whether it stands void. -/
theorem settlePull_follows (c y : Cabin) (hp : y.pull = c.pull) (hs : y.pullStart = c.pullStart) (pos : WalkerPos) :
    let x := y.settlePull c.standsVoid pos
    (c.standsVoid = x.standsVoid → x.pull = c.pull ∧ x.pullStart = c.pullStart) ∧
    (c.standsVoid = false → x.standsVoid = true → x.pull = .pulling ∧ x.pullStart = some pos) ∧
    (c.standsVoid = true → x.standsVoid = false → x.pull = .noPull ∧ x.pullStart = none) := by
  intro x
  have hv : x.standsVoid = y.standsVoid := Cabin.settlePull_standsVoid ..
  rw [hv]
  refine ⟨fun h => ?_, fun h hv => ?_, fun h hv => ?_⟩
  · have hx : x = y := Cabin.settlePull_same h pos
    rw [hx]
    exact ⟨hp, hs⟩
  · have hx : x = _ := Cabin.settlePull_starts h hv pos
    rw [hx]
    exact ⟨rfl, rfl⟩
  · have hx : x = _ := Cabin.settlePull_ceases h hv pos
    rw [hx]
    exact ⟨rfl, rfl⟩

theorem ModeLaw.setMode (s : State) : ModeLaw s.setMode := mode_iff _

theorem State.changeCabin_other (s : State) {k : CabinKey} {n : Nat} (hn : n ≠ k.code) (f : Cabin → Cabin) :
    (s.changeCabin k f).store.cabins.get? n = s.store.cabins.get? n :=
  Table.get?_modify_other s.store.cabins hn (fun c => (f c).settlePull c.standsVoid s.sweep.pos)

/-! ## CABIN PUT (R10, R14) -/

/-- CABIN PUT with its fields in range. -/
structure PutFields (h : Head) (route allowance : Byte) (guests : List (Byte × BitVec 32)) : Prop where
  cabin : h.key.cabin ≠ 0
  route : route.toNat < 12
  low : 1 ≤ allowance.toNat
  high : allowance.toNat ≤ 15
  guests : guestsOk guests = true

theorem exec_cabinPut {h : Head} {route allowance : Byte} {guests : List (Byte × BitVec 32)} {b : SlotId} {s : State}
    (hr : Ready s h (3 + 5 * guests.length)) (ho : SlotOpen s h b) (hf : PutFields h route allowance guests) :
    exec (.cabinPut h route allowance guests) s = answered 0x18 h
      (s.taken.putCabin ⟨b, h.key.cabin⟩ route.toNat allowance.toNat guests).1
      (s.taken.putCabin ⟨b, h.key.cabin⟩ route.toNat allowance.toNat guests).2 := by
  have hfields : (Head.cabinInRange h && decide (route.toNat < 12) && inRange 1 allowance.toNat 15 && guestsOk guests) =
      true := by
    rw [Head.cabinInRange_of hf.cabin, decide_eq_true hf.route, inRange_of hf.low hf.high, hf.guests]
    rfl
  exact (request_onSailing hr ho hfields 0x18 (fun _ _ => []) (fun t b => t.putCabin (Head.cabinOf h b) route.toNat
    allowance.toNat guests)).trans (ruled_pass rfl ..)

theorem exec_cabinPut_new {h : Head} {route allowance : Byte} {guests : List (Byte × BitVec 32)} {b : SlotId} {s : State}
    (hr : Ready s h (3 + 5 * guests.length)) (ho : SlotOpen s h b) (hf : PutFields h route allowance guests)
    (hc : s.store.cabin? ⟨b, h.key.cabin⟩ = none) :
    let t := s.taken.createCabin ⟨b, h.key.cabin⟩ route.toNat allowance.toNat guests
    exec (.cabinPut h route allowance guests) s = ruled 0x18 h
      [(decide (s.store.cabins.length < cabinRecords), .full)] s.taken (t, t.cabinAnswer ⟨b, h.key.cabin⟩) := by
  have hc' : s.taken.store.cabin? ⟨b, h.key.cabin⟩ = none := hc
  rw [exec_cabinPut hr ho hf, State.putCabin, hc']
  rfl

theorem exec_cabinPut_old {h : Head} {route allowance : Byte} {guests : List (Byte × BitVec 32)} {b : SlotId} {s : State}
    {c : Cabin} (hr : Ready s h (3 + 5 * guests.length)) (ho : SlotOpen s h b) (hf : PutFields h route allowance guests)
    (hc : s.store.cabin? ⟨b, h.key.cabin⟩ = some c) :
    let t := s.taken.replaceCabin ⟨b, h.key.cabin⟩ route.toNat allowance.toNat guests
    exec (.cabinPut h route allowance guests) s = ruled 0x18 h
      [(decide (c.liveBags ≤ allowance.toNat), .allowance)] s.taken (t, t.cabinAnswer ⟨b, h.key.cabin⟩) := by
  have hc' : s.taken.store.cabin? ⟨b, h.key.cabin⟩ = some c := hc
  rw [exec_cabinPut hr ho hf, State.putCabin, hc']
  rfl

theorem cabinPutCreates : Claim.CabinPutCreates := by
  intro h route allowance guests b s hr ho hk hroute ha ha' hg hc
  have hx := exec_cabinPut_new hr ho ⟨hk, hroute, ha, ha', hg⟩ hc
  refine ⟨fun hfull => ?_, fun hroom => ?_⟩
  · exact hx.trans (ruled_fail (firstFailure_stop (decide_eq_false (Nat.not_lt.2 hfull))) ..)
  · have hnew := s.taken.createCabin_cabin? ⟨b, h.key.cabin⟩ route.toNat allowance.toNat guests
    refine ⟨_, _, hx.trans ((ruled_pass (firstFailure_pass (decide_eq_true hroom) rfl) ..).trans
        (congrArg (answered 0x18 h _) (State.cabinAnswer_some hnew))),
      (Keeps.createCabin s.taken _ _ _ _ hc).changes.ofTaken (by decide) (by decide), rfl, hnew,
      fun n hn => Table.get?_put_other _ hn _, rfl, rfl, fun g => mem_guestList, rfl, rfl, rfl, rfl, rfl, rfl⟩

theorem cabinPutReplaces : Claim.CabinPutReplaces := by
  intro h route allowance guests b c s hr ho hk hroute ha ha' hg hc
  have hx := exec_cabinPut_old hr ho ⟨hk, hroute, ha, ha', hg⟩ hc
  refine ⟨fun hbelow => ?_, fun hroom => ?_⟩
  · exact hx.trans (ruled_fail (firstFailure_stop (decide_eq_false (Nat.not_le.2 hbelow))) ..)
  · let y : Cabin := { c with route := route.toNat, allowance := allowance.toNat, guests := guestList c.guests guests }
    have hnew : (s.taken.replaceCabin ⟨b, h.key.cabin⟩ route.toNat allowance.toNat guests).store.cabin? ⟨b, h.key.cabin⟩ =
        some (y.settlePull c.standsVoid s.sweep.pos) := by
      have hc' : s.taken.store.cabin? ⟨b, h.key.cabin⟩ = some c := hc
      rw [State.replaceCabin, State.changeCabin_cabin?, hc']
      rfl
    have hkeep := y.settlePull_eq c.standsVoid s.sweep.pos
    refine ⟨_, y.settlePull c.standsVoid s.sweep.pos, hx.trans ((ruled_pass (firstFailure_pass (decide_eq_true hroom) rfl) ..).trans
        (congrArg (answered 0x18 h _) (State.cabinAnswer_some hnew))),
      (Keeps.changeCabin s.taken _ _).changes.ofTaken (by decide) (by decide), rfl, rfl, ModeLaw.setMode _, hnew,
      fun n hn => State.changeCabin_other _ hn _, by rw [hkeep], by rw [hkeep], fun g => ?_, by rw [hkeep], by rw [hkeep],
      by rw [hkeep], by rw [hkeep], by rw [hkeep], ?_⟩
    · rw [hkeep]
      refine mem_guestList.trans (exists_congr fun e => and_congr_right fun _ => ?_)
      rw [carriedState_eq]
    · exact settlePull_follows c y rfl rfl s.sweep.pos

/-! ## CABIN DROP (R16) -/

/-- The tests of CABIN DROP after those of R3. -/
def dropTests (t : State) (k : CabinKey) : List (Bool × Result) :=
  [(t.hasCabin k, .notFound), (t.droppable k, .openBags)]

theorem exec_cabinDrop {h : Head} {b : SlotId} {s : State} (hr : Ready s h 0) (ho : SlotOpen s h b)
    (hk : h.key.cabin ≠ 0) :
    exec (.cabinDrop h) s = ruled 0x1A h (dropTests s.taken ⟨b, h.key.cabin⟩) s.taken
      (s.taken.dropCabin ⟨b, h.key.cabin⟩, Answer.done .empty) :=
  request_onSailing hr ho (Head.cabinInRange_of hk) 0x1A (fun t b => dropTests t (Head.cabinOf h b))
    (fun t b => (t.dropCabin (Head.cabinOf h b), Answer.done .empty))

theorem State.droppable_iff {s : State} {k : CabinKey} {c : Cabin} (hc : s.store.cabin? k = some c) :
    s.droppable k = true ↔ c.liveBags = 0 ∧ c.forward = none ∧ c.forwardedIn = 0 := by
  simp [State.droppable, hc, and_assoc]

theorem cabinDropRetires : Claim.CabinDropRetires := by
  intro h b c s hr ho hk hc
  have hx := exec_cabinDrop hr ho hk
  have hc' : s.taken.store.cabin? ⟨b, h.key.cabin⟩ = some c := hc
  have t1 : s.taken.hasCabin ⟨b, h.key.cabin⟩ = true := State.hasCabin_of hc'
  refine ⟨fun hused => ?_, fun h1 h2 h3 => ?_⟩
  · have t2 : s.taken.droppable ⟨b, h.key.cabin⟩ = false := Bool.eq_false_iff.2 fun hd => by
      obtain ⟨h1, h2, h3⟩ := (State.droppable_iff hc').1 hd
      exact hused.elim (absurd h1) (Or.elim · (absurd h2) (absurd h3))
    exact hx.trans (ruled_fail (firstFailure_pass t1 (firstFailure_stop t2)) ..)
  · have t2 : s.taken.droppable ⟨b, h.key.cabin⟩ = true := (State.droppable_iff hc').2 ⟨h1, h2, h3⟩
    exact ⟨_, hx.trans (ruled_pass (firstFailure_pass t1 (firstFailure_pass t2 rfl)) ..),
      (Keeps.dropCabin s.taken _).changes.ofTaken (by decide) (by decide), rfl, rfl, ModeLaw.setMode _,
      Table.get?_erase_same .., fun n hn => Table.get?_erase_other _ hn⟩

/-- Settles O15: a put at a free key creates, and a drop erases one key of the cabin table. -/
theorem cabinsCreatedAndDropped : Obligations.CabinsCreatedAndDropped := ⟨cabinPutCreates, cabinDropRetires⟩

/-! ## GUEST STATUS (R19) -/

/-- The tests of GUEST STATUS after those of R3. -/
def guestTests (t : State) (k : CabinKey) (guest : Nat) : List (Bool × Result) :=
  [(t.hasCabin k, .notFound), (t.hasGuest k guest, .notFound)]

theorem exec_guestStatus {h : Head} {guest : Byte} {v : GuestState} {b : SlotId} {s : State} (hr : Ready s h 2)
    (ho : SlotOpen s h b) (hk : h.key.cabin ≠ 0) (hl : 1 ≤ guest.toNat) (hh : guest.toNat ≤ 4) :
    exec (.guestStatus h guest (some v)) s = ruled 0x1C h (guestTests s.taken ⟨b, h.key.cabin⟩ guest.toNat) s.taken
      (s.taken.changeCabin ⟨b, h.key.cabin⟩ (fun c => c.setGuest guest.toNat v), Answer.done .empty) := by
  have hf : (Head.cabinInRange h && inRange 1 guest.toNat 4 && (some v).isSome) = true := by
    rw [Head.cabinInRange_of hk, inRange_of hl hh]
    rfl
  exact request_onSailing hr ho hf 0x1C (fun t b => guestTests t (Head.cabinOf h b) guest.toNat)
    (fun t b => (t.changeCabin (Head.cabinOf h b) (fun c => c.setGuest guest.toNat v), Answer.done .empty))

theorem State.hasGuest_iff {s : State} {k : CabinKey} {c : Cabin} (hc : s.store.cabin? k = some c) (slot : Nat) :
    s.hasGuest k slot = true ↔ ∃ g ∈ c.guests, g.slot = slot := by
  simp [State.hasGuest, hc]

theorem guestStatusSets : Claim.GuestStatusSets := by
  intro h guest v b c s hr ho hk hl hh hc
  have hx := exec_guestStatus (v := v) hr ho hk hl hh
  have hc' : s.taken.store.cabin? ⟨b, h.key.cabin⟩ = some c := hc
  have t1 : s.taken.hasCabin ⟨b, h.key.cabin⟩ = true := State.hasCabin_of hc'
  refine ⟨fun hno => ?_, fun hsome => ?_⟩
  · have t2 : s.taken.hasGuest ⟨b, h.key.cabin⟩ guest.toNat = false := Bool.eq_false_iff.2 fun hg =>
      let ⟨g, hm, hs⟩ := (State.hasGuest_iff hc' _).1 hg
      hno g hm hs
    exact hx.trans (ruled_fail (firstFailure_pass t1 (firstFailure_stop t2)) ..)
  · have t2 : s.taken.hasGuest ⟨b, h.key.cabin⟩ guest.toNat = true := (State.hasGuest_iff hc' _).2 hsome
    let y : Cabin := c.setGuest guest.toNat v
    have hnew : (s.taken.changeCabin ⟨b, h.key.cabin⟩ (fun c => c.setGuest guest.toNat v)).store.cabin? ⟨b, h.key.cabin⟩ =
        some (y.settlePull c.standsVoid s.sweep.pos) := by
      rw [State.changeCabin_cabin?, hc']
      rfl
    have hkeep := y.settlePull_eq c.standsVoid s.sweep.pos
    refine ⟨_, y.settlePull c.standsVoid s.sweep.pos,
      hx.trans (ruled_pass (firstFailure_pass t1 (firstFailure_pass t2 rfl)) ..),
      (Keeps.changeCabin s.taken _ _).changes.ofTaken (by decide) (by decide), rfl, rfl, ModeLaw.setMode _, hnew,
      fun n hn => State.changeCabin_other _ hn _, by rw [hkeep]; rfl, by rw [hkeep]; rfl, by rw [hkeep]; rfl,
      by rw [hkeep]; rfl, by rw [hkeep]; rfl, by rw [hkeep]; rfl, by rw [hkeep]; rfl, ?_⟩
    exact settlePull_follows c y rfl rfl s.sweep.pos

/-- Settles O17: a cabin that changes keeps what the change does not name, and its pull state follows whether it stands void. -/
theorem cabinsChange : Obligations.CabinsChange := ⟨cabinPutReplaces, guestStatusSets⟩

end Sys2Proof.Machine
end

section
/-! CABIN FORWARD, and from it its obligation (R18). -/

namespace Sys2Proof.Machine

/-! ## Forwarded-in counts -/

theorem Store.modifyCabin_same (t : Store) (k : CabinKey) (f : Cabin → Cabin) :
    (t.modifyCabin k f).cabin? k = (t.cabin? k).map f := Table.get?_modify_same ..

theorem Store.modifyCabin_other (t : Store) (k : CabinKey) (f : Cabin → Cabin) {m : Nat} (hm : m ≠ k.code) :
    (t.modifyCabin k f).cabins.get? m = t.cabins.get? m := Table.get?_modify_other _ hm _

/-- The old target of a forward, if it has one, loses it. -/
def State.releaseTarget (s : State) (b : SlotId) : Option Nat → State
  | some n => s.loseForward ⟨b, n⟩
  | none => s

theorem State.releaseTarget_store (s : State) (b : SlotId) (o : Option Nat) : (s.releaseTarget b o).store =
    { s.store with cabins := (s.releaseTarget b o).store.cabins } := by cases o <;> rfl

theorem State.releaseTarget_sweep (s : State) (b : SlotId) (o : Option Nat) : (s.releaseTarget b o).sweep = s.sweep := by
  cases o <;> rfl

theorem State.releaseTarget_same (s : State) (b : SlotId) (n : Nat) : (s.releaseTarget b (some n)).store.cabin? ⟨b, n⟩ =
    (s.store.cabin? ⟨b, n⟩).map (fun c => { c with forwardedIn := c.forwardedIn - 1 }) := Store.modifyCabin_same ..

theorem State.releaseTarget_other (s : State) {b : SlotId} {o : Option Nat} {m : Nat}
    (hm : ∀ n, o = some n → m ≠ CabinKey.code ⟨b, n⟩) : (s.releaseTarget b o).store.cabins.get? m = s.store.cabins.get? m := by
  cases o with
  | none => rfl
  | some n => exact Store.modifyCabin_other _ _ _ (hm n rfl)

/-- The new target of a forward, if it has one, gains it. -/
def State.gainTarget (s : State) (b : SlotId) : Option Nat → State
  | some n => s.gainForward ⟨b, n⟩
  | none => s

theorem State.gainTarget_store (s : State) (b : SlotId) (o : Option Nat) : (s.gainTarget b o).store =
    { s.store with cabins := (s.gainTarget b o).store.cabins } := by cases o <;> rfl

theorem State.gainTarget_sweep (s : State) (b : SlotId) (o : Option Nat) : (s.gainTarget b o).sweep = s.sweep := by
  cases o <;> rfl

theorem State.gainTarget_same (s : State) (b : SlotId) (n : Nat) : (s.gainTarget b (some n)).store.cabin? ⟨b, n⟩ =
    (s.store.cabin? ⟨b, n⟩).map (fun c => { c with forwardedIn := c.forwardedIn + 1 }) := Store.modifyCabin_same ..

theorem State.gainTarget_other (s : State) {b : SlotId} {o : Option Nat} {m : Nat}
    (hm : ∀ n, o = some n → m ≠ CabinKey.code ⟨b, n⟩) : (s.gainTarget b o).store.cabins.get? m = s.store.cabins.get? m := by
  cases o with
  | none => rfl
  | some n => exact Store.modifyCabin_other _ _ _ (hm n rfl)

theorem State.changeCabin_sweep (s : State) (k : CabinKey) (f : Cabin → Cabin) :
    (s.changeCabin k f).sweep = { s.sweep with mode := (s.changeCabin k f).sweep.mode } := rfl

theorem ModeLaw.gainTarget {s : State} (h : ModeLaw s) (b : SlotId) (o : Option Nat) : ModeLaw (s.gainTarget b o) := by
  cases o with
  | none => exact h
  | some n => exact (Keeps.gainForward s _).mode h

/-! ## A forward that changes -/

section
variable {s : State} {b : SlotId} {i : Nat} {c : Cabin} {target : Option Nat}

/-- The old target loses the forward, the source has its new target, and the new target gains it. -/
theorem State.forwardCabin_eq (hc : s.store.cabin? ⟨b, i⟩ = some c) (hf : c.forward ≠ target) :
    s.forwardCabin ⟨b, i⟩ target =
      ((s.releaseTarget b c.forward).changeCabin ⟨b, i⟩ (fun c => { c with forward := target })).gainTarget b target := by
  rw [State.forwardCabin, hc]
  dsimp only
  rw [if_neg hf]
  cases c.forward <;> cases target <;> rfl

/-- The source stays as the old target loses the forward: it is another cabin, or its count is 0 already. -/
theorem State.releaseTarget_source (hc : s.store.cabin? ⟨b, i⟩ = some c) (hi : c.forward ≠ some i ∨ c.forwardedIn = 0) :
    (s.releaseTarget b c.forward).store.cabin? ⟨b, i⟩ = some c := by
  by_cases hself : c.forward = some i
  · have hdec : c.forwardedIn - 1 = c.forwardedIn := by
      rw [hi.resolve_left (not_not_intro hself)]
    rw [hself, State.releaseTarget_same, hc, Option.map_some, hdec]
  · exact (State.releaseTarget_other s fun n hn he => hself (by rw [hn, CabinKey.code_inj.1 he])).trans hc

theorem State.forwardCabin_frame (hc : s.store.cabin? ⟨b, i⟩ = some c) (hf : c.forward ≠ target) :
    let t := s.forwardCabin ⟨b, i⟩ target
    t.store = { s.store with cabins := t.store.cabins } ∧ t.sweep = { s.sweep with mode := t.sweep.mode } ∧ ModeLaw t := by
  rw [State.forwardCabin_eq hc hf]
  refine ⟨?_, ?_, (ModeLaw.setMode _).gainTarget ..⟩
  · rw [State.gainTarget_store]
    change ({ (s.releaseTarget b c.forward).store with cabins := _ } : Store) = _
    rw [State.releaseTarget_store]
  · rw [State.gainTarget_sweep, State.changeCabin_sweep, State.releaseTarget_sweep]

theorem State.forwardCabin_source (hc : s.store.cabin? ⟨b, i⟩ = some c) (hf : c.forward ≠ target)
    (hi : c.forward ≠ some i ∨ c.forwardedIn = 0) (ht : target ≠ some i) :
    (s.forwardCabin ⟨b, i⟩ target).store.cabin? ⟨b, i⟩ =
      some (({ c with forward := target } : Cabin).settlePull c.standsVoid s.sweep.pos) := by
  rw [State.forwardCabin_eq hc hf]
  refine (State.gainTarget_other _ fun n hn he => ht (by rw [hn, CabinKey.code_inj.1 he])).trans ?_
  refine (State.changeCabin_cabin? ..).trans ?_
  rw [State.releaseTarget_source hc hi, State.releaseTarget_sweep]
  rfl

theorem State.forwardCabin_target {n : Nat} {x : Cabin} (hc : s.store.cabin? ⟨b, i⟩ = some c) (hf : c.forward ≠ some n)
    (hn : n ≠ i) (hx : s.store.cabin? ⟨b, n⟩ = some x) :
    (s.forwardCabin ⟨b, i⟩ (some n)).store.cabin? ⟨b, n⟩ = some { x with forwardedIn := x.forwardedIn + 1 } := by
  have hcode : CabinKey.code ⟨b, n⟩ ≠ CabinKey.code ⟨b, i⟩ := fun he => hn (CabinKey.code_inj.1 he)
  have hu : ((s.releaseTarget b c.forward).changeCabin ⟨b, i⟩ (fun c => { c with forward := some n })).store.cabin? ⟨b, n⟩ =
      some x :=
    ((State.changeCabin_other _ hcode _).trans (State.releaseTarget_other s fun m hm he => hf (by
      rw [hm, CabinKey.code_inj.1 he]))).trans hx
  rw [State.forwardCabin_eq hc hf, State.gainTarget_same, hu]
  rfl

theorem State.forwardCabin_old {n : Nat} {z : Cabin} (hc : s.store.cabin? ⟨b, i⟩ = some c) (hf : c.forward ≠ target)
    (hn : c.forward = some n) (hni : n ≠ i) (hz : s.store.cabin? ⟨b, n⟩ = some z) :
    (s.forwardCabin ⟨b, i⟩ target).store.cabin? ⟨b, n⟩ = some { z with forwardedIn := z.forwardedIn - 1 } := by
  have hcode : CabinKey.code ⟨b, n⟩ ≠ CabinKey.code ⟨b, i⟩ := fun he => hni (CabinKey.code_inj.1 he)
  rw [State.forwardCabin_eq hc hf]
  refine (State.gainTarget_other _ fun m hm he => hf (by rw [hn, hm, CabinKey.code_inj.1 he])).trans ?_
  refine (State.changeCabin_other _ hcode _).trans ?_
  rw [hn]
  refine (State.releaseTarget_same s b n).trans ?_
  rw [hz]
  rfl

theorem State.forwardCabin_other {m : Nat} (hc : s.store.cabin? ⟨b, i⟩ = some c) (hf : c.forward ≠ target)
    (hm : m ≠ CabinKey.code ⟨b, i⟩) (ht : ∀ n, target = some n → m ≠ CabinKey.code ⟨b, n⟩)
    (ho : ∀ n, c.forward = some n → m ≠ CabinKey.code ⟨b, n⟩) :
    (s.forwardCabin ⟨b, i⟩ target).store.cabins.get? m = s.store.cabins.get? m := by
  rw [State.forwardCabin_eq hc hf]
  exact ((State.gainTarget_other _ ht).trans (State.changeCabin_other _ hm _)).trans (State.releaseTarget_other s ho)

end

theorem State.forwardCabin_same {s : State} {k : CabinKey} {c : Cabin} (hc : s.store.cabin? k = some c) :
    s.forwardCabin k c.forward = s := by
  rw [State.forwardCabin, hc]
  exact if_pos rfl

/-! ## The tests of CABIN FORWARD -/

theorem forwardTests_none (s : State) (k : CabinKey) : forwardTests s k 0 = [(s.hasCabin k, .notFound)] := rfl

theorem forwardTests_target (s : State) (k : CabinKey) {target : Nat} (ht : target ≠ 0) : forwardTests s k target =
    [(s.hasCabin k, .notFound), (s.hasCabin ⟨k.slot, target⟩, .notFound), (decide (target ≠ k.number), .chain),
     ((s.store.cabin? ⟨k.slot, target⟩).all (fun c => c.forward.isNone), .chain),
     ((s.store.cabin? k).all (fun c => decide (c.forwardedIn = 0)), .chain),
     ((s.store.cabin? ⟨k.slot, target⟩).all (fun c => c.status != .void), .voidTarget)] := by
  rw [forwardTests, if_neg ht]
  rfl

/-- The target that CABIN FORWARD names, 0 being none. -/
def targetOf (target : BitVec 16) : Option Nat := if target.toNat = 0 then none else some target.toNat

theorem exec_cabinForward {h : Head} {target : BitVec 16} {b : SlotId} {s : State} (hr : Ready s h 2) (ho : SlotOpen s h b)
    (hk : h.key.cabin ≠ 0) :
    exec (.cabinForward h target) s = ruled 0x1B h (forwardTests s.taken ⟨b, h.key.cabin⟩ target.toNat) s.taken
      (s.taken.forwardCabin ⟨b, h.key.cabin⟩ (targetOf target), Answer.done .empty) :=
  request_onSailing hr ho (Head.cabinInRange_of hk) 0x1B (fun t b => forwardTests t (Head.cabinOf h b) target.toNat)
    (fun t b => (t.forwardCabin (Head.cabinOf h b) (targetOf target), Answer.done .empty))

/-- Every test of CABIN FORWARD with a target passes. -/
theorem forwardTests_pass {s : State} {k : CabinKey} {target : Nat} {c x : Cabin} (ht : target ≠ 0)
    (hc : s.store.cabin? k = some c) (hx : s.store.cabin? ⟨k.slot, target⟩ = some x) (hk : target ≠ k.number)
    (hf : x.forward = none) (hi : c.forwardedIn = 0) (hv : x.status ≠ .void) :
    firstFailure (forwardTests s k target) = none := by
  rw [forwardTests_target s k ht, hc, hx]
  simp [firstFailure, State.hasCabin_of hc, State.hasCabin_of hx, hk, hf, hi, hv]

theorem Cabin.status_congr {c d : Cabin} (h : d.guests = c.guests) : d.status = c.status := by
  rw [Cabin.status, Cabin.status, h]

theorem cabinForwardSets : Claim.CabinForwardSets := by
  intro h target b c x s hr ho hk ht hc hx hne hf hi hv hnew
  have hc' : s.taken.store.cabin? ⟨b, h.key.cabin⟩ = some c := hc
  have hexec := (exec_cabinForward (target := target) hr ho hk).trans (ruled_pass (forwardTests_pass ht hc' hx hne hf hi hv) ..)
  rw [show targetOf target = some target.toNat from if_neg ht] at hexec
  obtain ⟨hstore, hsweep, hmode⟩ := State.forwardCabin_frame hc' hnew
  let y : Cabin := { c with forward := some target.toNat }
  have hy : y.standsVoid = false := Bool.and_false _
  have hkeep := y.settlePull_eq c.standsVoid s.sweep.pos
  refine ⟨_, y.settlePull c.standsVoid s.sweep.pos, hexec, (Keeps.forwardCabin s.taken _ _).changes.ofTaken (by decide)
    (by decide), hstore, State.forwardCabin_source hc' hnew (.inr hi) (fun he => hne (Option.some.inj he)),
    by rw [hkeep], by rw [hkeep], hsweep, hmode, ?_, ?_, ?_, State.forwardCabin_target hc' hnew hne hx,
    fun n z hn hni hz => State.forwardCabin_old hc' hnew hn hni hz,
    fun m hm hmt hmo => State.forwardCabin_other hc' hnew hm (fun n hn => by cases hn; exact hmt) hmo⟩
  · cases hw : c.standsVoid with
    | true => rw [Cabin.settlePull_ceases rfl hy]; rfl
    | false => rw [Cabin.settlePull_same hy.symm]; rfl
  · cases hw : c.standsVoid with
    | true => rw [Cabin.settlePull_ceases rfl hy]; rfl
    | false => rw [Cabin.settlePull_same hy.symm]; rfl
  · exact hkeep.trans (by rw [hkeep])

theorem cabinForwardRemoves : Claim.CabinForwardRemoves := by
  intro h target b c n s hr ho hk ht hc hn hni
  have hc' : s.taken.store.cabin? ⟨b, h.key.cabin⟩ = some c := hc
  have hnew : c.forward ≠ none := by rw [hn]; exact Option.some_ne_none _
  have htest : firstFailure (forwardTests s.taken ⟨b, h.key.cabin⟩ target.toNat) = none := by
    rw [ht]
    exact firstFailure_pass (State.hasCabin_of hc') rfl
  have hexec := (exec_cabinForward (target := target) hr ho hk).trans (ruled_pass htest ..)
  rw [show targetOf target = none from if_pos ht] at hexec
  obtain ⟨hstore, hsweep, hmode⟩ := State.forwardCabin_frame hc' hnew
  let y : Cabin := { c with forward := none }
  have hc0 : c.standsVoid = false := by rw [Cabin.standsVoid, hn]; exact Bool.and_false _
  have hkeep := y.settlePull_eq c.standsVoid s.sweep.pos
  refine ⟨_, y.settlePull c.standsVoid s.sweep.pos, hexec, (Keeps.forwardCabin s.taken _ _).changes.ofTaken (by decide)
    (by decide), hstore, hsweep, hmode, State.forwardCabin_source hc' hnew (.inl fun he => hni ?_) (Option.some_ne_none _).symm,
    by rw [hkeep], by rw [hkeep], ?_, fun hv => ?_, fun hv => ?_,
    fun z hz => State.forwardCabin_old hc' hnew hn hni hz,
    fun m hm hmo => State.forwardCabin_other hc' hnew hm (fun n hn => by cases hn)
      (fun k hk => by cases hn.symm.trans hk; exact hmo)⟩
  · exact Option.some.inj (hn.symm.trans he)
  · exact hkeep.trans (by rw [hkeep])
  · have hy : y.standsVoid = true := Bool.and_eq_true_iff.2 ⟨beq_iff_eq.2 ((Cabin.status_congr rfl).trans hv), rfl⟩
    rw [Cabin.settlePull_starts hc0 hy]
    exact ⟨rfl, rfl⟩
  · have hy : y.standsVoid = false := by
      have hstatus : y.status = c.status := Cabin.status_congr rfl
      rw [Cabin.standsVoid, hstatus, beq_false_of_ne hv]
      rfl
    rw [Cabin.settlePull_same (hc0.trans hy.symm)]
    exact ⟨rfl, rfl⟩

theorem cabinForwardRefused : Claim.CabinForwardRefused := by
  intro h target b s hr ho hk answers
  have hx := exec_cabinForward (target := target) hr ho hk
  have refuses : ∀ {r}, firstFailure (forwardTests s.taken ⟨b, h.key.cabin⟩ target.toNat) = some r →
      answers (Answer.refuse r) := fun ht => hx.trans (ruled_fail ht ..)
  constructor
  · intro hc
    refine refuses ?_
    have t1 : s.taken.hasCabin ⟨b, h.key.cabin⟩ = false := State.hasCabin_none hc
    by_cases ht : target.toNat = 0
    · rw [ht]
      exact firstFailure_stop t1
    · rw [forwardTests_target _ _ ht]
      exact firstFailure_stop t1
  · intro c hc
    have hc' : s.taken.store.cabin? ⟨b, h.key.cabin⟩ = some c := hc
    have t1 : s.taken.hasCabin ⟨b, h.key.cabin⟩ = true := State.hasCabin_of hc'
    have stays : c.forward = targetOf target →
        firstFailure (forwardTests s.taken ⟨b, h.key.cabin⟩ target.toNat) = none → answers (Answer.done .empty) := by
      intro hf ht
      refine (hx.trans (ruled_pass ht ..)).trans ?_
      rw [← hf, State.forwardCabin_same hc']
    refine ⟨fun ht hf => ?_, fun ht hn => ?_, fun x ht hxt => ?_⟩
    · refine stays (hf.trans (if_pos ht).symm) ?_
      rw [ht]
      exact firstFailure_pass t1 rfl
    · refine refuses ?_
      rw [forwardTests_target _ _ ht]
      exact firstFailure_pass t1 (firstFailure_stop (State.hasCabin_none hn))
    have hxt' : s.taken.store.cabin? ⟨b, target.toNat⟩ = some x := hxt
    have t2 : s.taken.hasCabin ⟨b, target.toNat⟩ = true := State.hasCabin_of hxt'
    have htests := forwardTests_target s.taken ⟨b, h.key.cabin⟩ ht
    rw [hc', hxt'] at htests
    refine ⟨fun he => refuses ?_, fun hne => ⟨fun hf => refuses ?_, fun hf hi => refuses ?_, fun hf hi hv => refuses ?_,
      fun hf hi hv hsame => ?_⟩⟩
    · rw [htests]
      exact firstFailure_pass t1 (firstFailure_pass t2 (firstFailure_stop (decide_eq_false (not_not_intro he))))
    · rw [htests]
      exact firstFailure_pass t1 (firstFailure_pass t2 (firstFailure_pass (decide_eq_true hne) (firstFailure_stop
        (Option.isNone_eq_false_iff.2 (Option.isSome_iff_ne_none.2 hf)))))
    · rw [htests]
      exact firstFailure_pass t1 (firstFailure_pass t2 (firstFailure_pass (decide_eq_true hne) (firstFailure_pass
        (Option.isNone_iff_eq_none.2 hf) (firstFailure_stop (decide_eq_false hi)))))
    · rw [htests]
      exact firstFailure_pass t1 (firstFailure_pass t2 (firstFailure_pass (decide_eq_true hne) (firstFailure_pass
        (Option.isNone_iff_eq_none.2 hf) (firstFailure_pass (decide_eq_true hi) (firstFailure_stop (bne_eq_false_iff_eq.2 hv))))))
    · exact stays (hsame.trans (if_neg ht).symm) (forwardTests_pass ht hc' hxt' hne hf hi hv)

/-- Settles O16: the six tests in their order, then the old target, the source and the new target, each written once. -/
theorem cabinsForward : Obligations.CabinsForward := ⟨cabinForwardSets, cabinForwardRemoves, cabinForwardRefused⟩

end Sys2Proof.Machine
end

section
/-! The requests that read, and what their answers hold, and from them their obligations (R6, R15, R37, R79, R125, R141, R163,
R178). -/

namespace Sys2Proof.Machine

/-- A request that makes its tests and takes effect, when it is taken. -/
theorem request_guarded {s : State} {h : Head} {len : Nat} (hr : Ready s h len) (code : Byte)
    (tests : State → List (Bool × Result)) (act : State → State × Answer) :
    request code h len (fun t => guarded (tests t) t (act t)) s = ruled code h (tests s.taken) s.taken (act s.taken) := by
  rw [request_ready hr]
  rfl

/-! ## Sailings and cabins -/

theorem sailingGetReads : Claim.SailingGetReads := by
  intro h b s hr hb ho hc
  have hx : exec (.sailingGet h) s = ruled 0x12 h (slotTests s.taken b) s.taken
      (s.taken, Answer.done (.sailing (s.store.slot b))) := by
    change request 0x12 h 0 (fun t => onSlot h true t _) s = _
    rw [request_ready hr, onSlot_fields hb]
    rfl
  exact hx.trans (ruled_pass (firstFailure_pass (bne_iff_ne.2 ho) (firstFailure_pass (bne_iff_ne.2 hc) rfl)) ..)

theorem exec_cabinGet {h : Head} {b : SlotId} {s : State} (hr : Ready s h 0) (ho : SlotOpen s h b) (hk : h.key.cabin ≠ 0) :
    exec (.cabinGet h) s = ruled 0x19 h [(s.taken.hasCabin ⟨b, h.key.cabin⟩, .notFound)] s.taken
      (s.taken, s.taken.cabinAnswer ⟨b, h.key.cabin⟩) :=
  request_onSailing hr ho (Head.cabinInRange_of hk) 0x19 (fun t b => [(t.hasCabin (Head.cabinOf h b), .notFound)])
    (fun t b => (t, t.cabinAnswer (Head.cabinOf h b)))

theorem cabinGetReads : Claim.CabinGetReads := by
  intro h b s hr ho hk
  have hx := exec_cabinGet hr ho hk
  refine ⟨fun c hc => ?_, fun hc => hx.trans (ruled_fail (firstFailure_stop (State.hasCabin_none hc)) ..)⟩
  have hc' : s.taken.store.cabin? ⟨b, h.key.cabin⟩ = some c := hc
  refine (hx.trans (ruled_pass (firstFailure_pass (State.hasCabin_of hc') rfl) ..)).trans ?_
  rw [State.cabinAnswer_some hc']

/-! ## Bags -/

theorem Ready.forBagGet {s : State} {h : Head} {len : Nat} (hr : Ready s h len) (form : Option BagKeyForm) :
    Ready s (h.forBagGet form) len := by
  refine ⟨hr.1, ?_⟩
  unfold Head.forBagGet
  split <;> exact hr.2

/-- A body of one byte, sent whole, gives its own key form. -/
theorem Head.forBagGet_tag {h : Head} (hl : Head.lengthOk h 1 = true) : h.forBagGet (some .tag) = h := by
  simp only [Head.lengthOk, Bool.and_eq_true, decide_eq_true_eq] at hl
  obtain ⟨⟨hcame, -⟩, hlen⟩ := hl
  have hform : h.bagForm (some .tag) = some .tag := if_neg (by omega)
  rw [Head.forBagGet, hform]

theorem exec_bagGet_handle {h : Head} {b : Bag} {s : State} (hr : Ready s h 1) (hn : Nameable s h.key.handle b) :
    exec (.bagGet h (some .handle)) s =
      answered 0x21 (h.forBagGet (some .handle)) s.taken (s.taken.bagAnswer h.key.handle) := by
  change request 0x21 (h.forBagGet (some .handle)) 1 (fun t => onBag h true t [] t) s = _
  rw [request_ready (hr.forBagGet _), onBag_nameable hn.taken]
  rfl

/-- What BAG GET by tag answers. -/
def State.tagAnswer (s : State) (tag : Nat) : Answer :=
  match s.store.lookup tag with
  | .unknown => Answer.refuse .notFound
  | .closedTag => Answer.refuse .sailingBusy
  | .found g b => Answer.done (.bag (s.bagView g b))

theorem exec_bagGet_tag {h : Head} {s : State} (hr : Ready s h 1) (hl : 1 ≤ h.key.tag) (hh : h.key.tag ≤ 999999999)
    (ho : s.opState ≠ .setup) :
    exec (.bagGet h (some .tag)) s = answered 0x21 h s.taken (s.taken.tagAnswer h.key.tag) := by
  have hx : exec (.bagGet h (some .tag)) s = ruled 0x21 h
      [(tagInRange h.key.tag, .badField), (s.taken.opState != .setup, .wrongState)] s.taken
      (s.taken, s.taken.tagAnswer h.key.tag) := by
    change request 0x21 (h.forBagGet (some .tag)) 1 (fun t => t.getByTag h.key.tag) s = _
    rw [request_ready (hr.forBagGet _), Head.forBagGet_tag hr.2]
    rfl
  have hrange : tagInRange h.key.tag = true := Bool.and_eq_true_iff.2 ⟨decide_eq_true hl, decide_eq_true hh⟩
  exact hx.trans (ruled_pass (firstFailure_pass hrange (firstFailure_pass (bne_iff_ne.2 ho) rfl)) ..)

theorem Store.lookup_none {t : Store} {tag : Nat} (h : t.tagMap.get? tag = none) : t.lookup tag = .unknown := by
  rw [Store.lookup, h]

theorem Store.lookup_found {t : Store} {tag : Nat} {g : Handle} {b : Bag} (h : t.tagMap.get? tag = some g)
    (hb : t.bag? g = some b) (hk : ∀ k, b.home = some k → (t.slot k.slot).state ≠ .closing) :
    t.lookup tag = .found g b := by
  rw [Store.lookup, h]
  dsimp only
  rw [hb]
  dsimp only
  split
  · next k hhome => rw [if_neg (hk k hhome)]
  · rfl

theorem Store.lookup_closed {t : Store} {tag : Nat} {g : Handle} {b : Bag} {k : CabinKey} (h : t.tagMap.get? tag = some g)
    (hb : t.bag? g = some b) (hk : b.home = some k) (hc : (t.slot k.slot).state = .closing) :
    t.lookup tag = .closedTag := by
  rw [Store.lookup, h]
  dsimp only
  rw [hb]
  dsimp only
  rw [hk]
  exact if_pos hc

theorem State.bagAnswer_live {s : State} {h : Handle} {b : Bag} (hb : s.bag? h = some b) :
    s.bagAnswer h = Answer.done (.bag (s.bagView h b)) := by
  rw [State.bagAnswer, hb]

theorem bagGetReads : Claim.BagGetReads := by
  intro h b s hr
  refine ⟨fun hn => ?_, fun hl hh ho => ⟨fun g hg hb hk => ?_, fun g k hg hb hk hc => ?_, fun hg => ?_⟩⟩
  · obtain ⟨-, -, hb, -⟩ := hn.taken
    rw [exec_bagGet_handle hr hn, State.bagAnswer_live hb]
    rfl
  all_goals rw [exec_bagGet_tag hr hl hh ho, State.tagAnswer]
  · rw [Store.lookup_found (t := s.taken.store) hg hb hk]
    rfl
  · rw [Store.lookup_closed (t := s.taken.store) hg hb hk hc]
  · rw [Store.lookup_none (t := s.taken.store) hg]

/-! ## Strays (R163) -/

theorem exec_strayNext {h : Head} {place : Byte} {s : State} (hr : Ready s h 1) :
    exec (.strayNext h place) s = ruled 0x48 h [(inRange 0 place.toNat 127, .badField), (s.taken.opState != .setup, .wrongState)]
      s.taken (s.taken, Answer.done (.strayList s.pen.strays.length (s.pen.strays[place.toNat]?.bind s.taken.strayViewOf))) :=
  request_guarded hr 0x48 (fun t => [(inRange 0 place.toNat 127, .badField), (t.opState != .setup, .wrongState)])
    (fun t => (t, Answer.done (.strayList t.pen.strays.length (t.pen.strays[place.toNat]?.bind t.strayViewOf))))

theorem exec_strayGet {h : Head} {s : State} (hr : Ready s h 0) :
    exec (.strayGet h) s = ruled 0x49 h [(s.taken.isPosition h.key.number, .badField), (s.taken.opState != .setup, .wrongState)]
      s.taken (s.taken, s.taken.strayAnswer h.key.number) :=
  request_guarded hr 0x49 (fun t => [(t.isPosition h.key.number, .badField), (t.opState != .setup, .wrongState)])
    (fun t => (t, t.strayAnswer h.key.number))

theorem strayGetReads : Claim.StrayGetReads := by
  intro h s ho
  have t2 : (s.taken.opState != .setup) = true := bne_iff_ne.2 ho
  refine ⟨fun place hr hp => ?_, fun place hr hp => ?_, fun hr => ⟨fun hp => ?_, fun hp hn => ?_, fun g b hp hg hb => ?_⟩⟩
  · have t1 : inRange 0 place.toNat 127 = false := Bool.eq_false_iff.2 fun hh => Nat.not_le.2 hp (inRange_iff.1 hh).2
    exact (exec_strayNext hr).trans (ruled_fail (firstFailure_stop t1) ..)
  · have hx := (exec_strayNext hr).trans (ruled_pass (firstFailure_pass (inRange_of (Nat.zero_le _) hp)
      (firstFailure_pass t2 rfl)) ..)
    refine ⟨fun hlen => hx.trans ?_, fun g b hg hb => hx.trans ?_⟩
    · rw [List.getElem?_eq_none hlen]
      rfl
    · have hb' : s.taken.bag? g = some b := hb
      rw [hg, Option.bind_some, State.strayViewOf, hb']
      rfl
  · exact (exec_strayGet hr).trans (ruled_fail (firstFailure_stop (decide_eq_false (Nat.not_lt.2 hp))) ..)
  all_goals
    refine ((exec_strayGet hr).trans (ruled_pass (firstFailure_pass (decide_eq_true hp) (firstFailure_pass t2 rfl)) ..)).trans ?_
  · have hn' : s.taken.pen.positions.get? h.key.number = none := hn
    rw [State.strayAnswer, hn']
    rfl
  · have hg' : s.taken.pen.positions.get? h.key.number = some g := hg
    have hb' : s.taken.bag? g = some b := hb
    rw [State.strayAnswer, hg', Option.bind_some, State.strayViewOf, hb']
    rfl

/-! ## What the answers hold -/

theorem Store.governing_of_home {t : Store} {b : Bag} {k : CabinKey} {c : Cabin} (hk : b.home = some k)
    (hc : t.cabin? k = some c) : (c.forward = none → t.governingKey b = some k ∧ t.governing b = some c) ∧
    ∀ n z, c.forward = some n → t.cabin? ⟨k.slot, n⟩ = some z →
      t.governingKey b = some ⟨k.slot, n⟩ ∧ t.governing b = some z := by
  refine ⟨fun hf => ?_, fun n z hf hz => ?_⟩
  · have hkey : t.governingKey b = some k := by simp [Store.governingKey, hk, hc, hf]
    exact ⟨hkey, by simp [Store.governing, hkey, hc]⟩
  · have hkey : t.governingKey b = some ⟨k.slot, n⟩ := by simp [Store.governingKey, hk, hc, hf]
    exact ⟨hkey, by simp [Store.governing, hkey, hz]⟩

theorem Store.governing_of_no_home {t : Store} {b : Bag} (hk : b.home = none) : t.governing b = none := by
  simp [Store.governing, Store.governingKey, hk]

theorem Store.governing_home {t : Store} {b : Bag} {g : Cabin} (h : t.governing b = some g) : ∃ k, b.home = some k := by
  cases hk : b.home with
  | none => rw [Store.governing_of_no_home hk] at h; cases h
  | some k => exact ⟨k, rfl⟩

theorem State.governingView_of {s : State} {b : Bag} {k : CabinKey} {g : Cabin}
    (h : s.store.governingKey b = some k ∧ s.store.governing b = some g) : s.governingView b = some (k.number, g.status) := by
  obtain ⟨hk, hg⟩ := h
  rw [State.governingView, hk, hg]

theorem State.governingView_none {s : State} {b : Bag} (h : s.store.governing b = none) : s.governingView b = none := by
  rw [State.governingView, h]
  split
  · next hk => cases hk
  · rfl

theorem Cabin.status_sailing {c : Cabin} (h : ∃ g ∈ c.guests, g.state = .boarded) : c.status = .sailing := by
  rw [Cabin.status, if_pos]
  simpa using h

theorem Cabin.status_pending {c : Cabin} (hb : ∀ g ∈ c.guests, g.state ≠ .boarded) (he : ∃ g ∈ c.guests, g.state = .expected) :
    c.status = .pending := by
  rw [Cabin.status, if_neg, if_pos]
  · simpa using he
  · simpa using hb

theorem Cabin.status_void {c : Cabin} (h : ∀ g ∈ c.guests, g.state = .notSailing) : c.status = .void := by
  have hno : ∀ v, v ≠ .notSailing → ¬c.guests.any (fun g => g.state == v) = true := fun v hv hany => by
    obtain ⟨g, hm, hg⟩ := List.any_eq_true.1 hany
    exact hv ((beq_iff_eq.1 hg).symm.trans (h g hm))
  rw [Cabin.status, if_neg (hno _ GuestState.noConfusion), if_neg (hno _ GuestState.noConfusion)]

theorem viewsGiveFields : Claim.ViewsGiveFields := by
  refine ⟨fun s h b => ⟨s.governingView b, rfl, fun hk => ?_, fun k c hk hc => ⟨fun hf => ?_, fun n z hf hz => ?_⟩⟩,
    fun c k => ⟨rfl, Cabin.status_sailing, Cabin.status_pending, Cabin.status_void⟩,
    fun s h b => ⟨b.penPosition, rfl, fun p hp => ?_⟩⟩
  · exact State.governingView_none (Store.governing_of_no_home hk)
  · exact State.governingView_of ((Store.governing_of_home hk hc).1 hf)
  · exact State.governingView_of ((Store.governing_of_home hk hc).2 n z hf hz)
  · rw [Bag.penPosition, hp]

theorem State.linesHeld_eq_none {s : State} {b : Bag} : s.linesHeld b = none ↔
    b.hold = false ∧ s.bagClosing b = false ∧ b.pull = none ∧ s.store.governedStandsVoid b = false := by
  unfold State.linesHeld
  cases b.hold <;> cases s.bagClosing b <;> cases b.pull <;> cases s.store.governedStandsVoid b <;> simp

theorem State.routable_iff {s : State} {b : Bag} {r : RouteKey} :
    s.routable b = some r ↔ s.linesHeld b = none ∧ s.store.bagRoute b = some r := by
  unfold State.routable State.penDestination State.linesRoute
  cases s.linesHeld b <;> cases s.store.bagRoute b <;> simp

theorem Store.bagRoute_iff {t : Store} {b : Bag} {r : RouteKey} :
    t.bagRoute b = some r ↔ ∃ k c, b.home = some k ∧ t.governing b = some c ∧ r = ⟨k.slot, c.route⟩ := by
  simp only [Store.bagRoute, bind, Option.bind_eq_some_iff, Option.some.injEq]
  constructor
  · rintro ⟨k, hk, c, hc, rfl⟩
    exact ⟨k, c, hk, hc, rfl⟩
  · rintro ⟨k, c, hk, hc, rfl⟩
    exact ⟨k, hk, c, hc, rfl⟩

theorem routableConditions : Claim.RoutableConditions := by
  intro s b r
  rw [State.routable_iff, State.linesHeld_eq_none, Store.bagRoute_iff]
  constructor
  · rintro ⟨⟨hh, hc, hp, hv⟩, k, c, hk, hg, rfl⟩
    refine ⟨hh, hp, k, c, hk, fun hcl => ?_, hg, fun hvoid => ?_, rfl⟩
    · exact Bool.false_ne_true (hc.symm.trans ((State.bagClosing_iff s b).2 ⟨k, hk, hcl⟩))
    · exact Bool.false_ne_true (hv.symm.trans ((Store.governedStandsVoid_iff _ b).2 ⟨c, hg, hvoid⟩))
  · rintro ⟨hh, hp, k, c, hk, hcl, hg, hvoid, rfl⟩
    refine ⟨⟨hh, Bool.eq_false_iff.2 fun h => ?_, hp, Bool.eq_false_iff.2 fun h => ?_⟩, k, c, hk, hg, rfl⟩
    · obtain ⟨j, hj, hjc⟩ := (State.bagClosing_iff s b).1 h
      cases hk.symm.trans hj
      exact hcl hjc
    · obtain ⟨d, hd, hv⟩ := (Store.governedStandsVoid_iff _ b).1 h
      cases hg.symm.trans hd
      exact hvoid hv

/-- Settles O33: each read answers from the record it finds, and the views are the records' fields. -/
theorem recordsRead : Obligations.RecordsRead :=
  ⟨sailingGetReads, cabinGetReads, bagGetReads, strayGetReads, viewsGiveFields, routableConditions⟩

/-! ## The hall -/

theorem hallTimeReads : Claim.HallTimeReads := by
  intro h s hr
  change request 0x0C h 0 _ s = _
  rw [request_ready hr]
  rfl

theorem loopGetReads : Claim.LoopGetReads := by
  intro h s hr
  have hstamp : s.loopView.stampRef = s.link.stampRef.map (·.toNat) := by
    unfold State.loopView
    cases s.link.stampRef <;> rfl
  refine ⟨s.loopView, ?_, rfl, rfl, hstamp, rfl, rfl, rfl, rfl, rfl, rfl, rfl, rfl, rfl, rfl⟩
  change request 0x30 h 0 _ s = _
  rw [request_ready hr]
  rfl

/-! ## Chutes and carts -/

theorem request_onChute {s : State} {h : Head} {len : Nat} {c : Chute} (hr : Ready s h len)
    (hc : s.chute? h.key.number = some c) (code : Byte) (own : State → Chute → List (Bool × Result))
    (act : State → Chute → State × Answer) :
    request code h len (fun t => onChute h t (own t) (act t)) s = ruled code h (own s.taken c) s.taken (act s.taken c) := by
  have hc' : s.taken.chute? h.key.number = some c := hc
  rw [request_ready hr, onChute, hc']
  rfl

theorem request_onChute_none {s : State} {h : Head} {len : Nat} (hr : Ready s h len) (hc : s.chute? h.key.number = none)
    (code : Byte) (own : State → Chute → List (Bool × Result)) (act : State → Chute → State × Answer) :
    request code h len (fun t => onChute h t (own t) (act t)) s = answered code h s.taken (Answer.refuse .badField) := by
  have hc' : s.taken.chute? h.key.number = none := hc
  rw [request_ready hr, onChute, hc']

theorem exec_cartGet {h : Head} {first : Byte} {s : State} (hr : Ready s h 1) :
    exec (.cartGet h first) s = ruled 0x3D h [(inRange 0 first.toNat 47, .badField), (s.taken.opState != .setup, .wrongState)]
      s.taken (s.taken, s.taken.cartAnswer h.key.number first.toNat) :=
  request_guarded hr 0x3D (fun t => [(inRange 0 first.toNat 47, .badField), (t.opState != .setup, .wrongState)])
    (fun t => (t, t.cartAnswer h.key.number first.toNat))

theorem chuteAndCartGetRead : Claim.ChuteAndCartGetRead := by
  intro h s
  refine ⟨fun c hr hc => ?_, fun first x hr hf ho hx => ?_, fun hr hc => ?_, fun first hr => ⟨fun hf => ?_, fun hf ho => ?_,
    fun hf ho hx => ?_⟩⟩
  · refine ⟨s.chuteView c, ?_, rfl, rfl, rfl, rfl, rfl, rfl, rfl, rfl, rfl, rfl, rfl, rfl, rfl, rfl, rfl, rfl, rfl⟩
    exact (request_onChute hr hc 0x3B (fun _ _ => []) (fun t c => (t, Answer.done (.chute (t.chuteView c))))).trans
      (ruled_pass rfl ..)
  · refine ((exec_cartGet hr).trans (ruled_pass (firstFailure_pass (inRange_of (Nat.zero_le _) hf)
      (firstFailure_pass (bne_iff_ne.2 ho) rfl)) ..)).trans ?_
    have hx' : s.taken.cart? h.key.number = some x := hx
    rw [State.cartAnswer, hx']
    rfl
  · exact request_onChute_none hr hc 0x3B (fun _ _ => []) (fun t c => (t, Answer.done (.chute (t.chuteView c))))
  · have t1 : inRange 0 first.toNat 47 = false := Bool.eq_false_iff.2 fun hh => Nat.not_le.2 hf (inRange_iff.1 hh).2
    exact (exec_cartGet hr).trans (ruled_fail (firstFailure_stop t1) ..)
  · exact (exec_cartGet hr).trans (ruled_fail (firstFailure_pass (inRange_of (Nat.zero_le _) hf)
      (firstFailure_stop (bne_eq_false_iff_eq.2 ho))) ..)
  · refine ((exec_cartGet hr).trans (ruled_pass (firstFailure_pass (inRange_of (Nat.zero_le _) hf)
      (firstFailure_pass (bne_iff_ne.2 ho) rfl)) ..)).trans ?_
    have hx' : s.taken.cart? h.key.number = none := hx
    rw [State.cartAnswer, hx']

/-! ## Routes and doors -/

/-- A request on a route of an OPEN slot makes its own tests and takes effect. -/
theorem request_onRoute {s : State} {h : Head} {len : Nat} {b : SlotId} {fields : Bool} (hr : Ready s h len)
    (ho : SlotOpen s h b) (hk : h.key.route < 12) (hf : fields = true) (code : Byte)
    (own : State → RouteKey → List (Bool × Result)) (act : State → RouteKey → State × Answer) :
    request code h len (fun t => onRoute h fields t (own t) (act t)) s =
      ruled code h (own s.taken ⟨b, h.key.route⟩) s.taken (act s.taken ⟨b, h.key.route⟩) := by
  have hfields : (Head.routeInRange h && fields) = true := Bool.and_eq_true_iff.2 ⟨decide_eq_true hk, hf⟩
  exact request_onSailing hr ho hfields code (fun t b => own t (Head.routeOf h b)) (fun t b => act t (Head.routeOf h b))

theorem request_onDoor {s : State} {h : Head} {len : Nat} {x : Door} (hr : Ready s h len) (hx : s.door? h.key.number = some x)
    (code : Byte) (own : State → List (Bool × Result)) (act : State → Door → State × Answer) :
    request code h len (fun t => onDoor h t (own t) (act t)) s = ruled code h (own s.taken) s.taken (act s.taken x) := by
  have hx' : s.taken.door? h.key.number = some x := hx
  rw [request_ready hr, onDoor, hx']
  rfl

theorem request_onDoor_none {s : State} {h : Head} {len : Nat} (hr : Ready s h len) (hx : s.door? h.key.number = none)
    (code : Byte) (own : State → List (Bool × Result)) (act : State → Door → State × Answer) :
    request code h len (fun t => onDoor h t (own t) (act t)) s = answered code h s.taken (Answer.refuse .badField) := by
  have hx' : s.taken.door? h.key.number = none := hx
  rw [request_ready hr, onDoor, hx']

theorem State.mem_servedRoutes {s : State} {d : Nat} {x : Door} {i : Nat} {q : RouteState} : (i, q) ∈ s.servedRoutes d x ↔
    i < 12 ∧ s.doorServes d ⟨x.berth, i⟩ = true ∧ q = s.routeState ⟨x.berth, i⟩ := by
  simp only [State.servedRoutes, slotRoutes, List.mem_map, List.mem_filter, List.mem_range, Prod.mk.injEq]
  constructor
  · rintro ⟨k, ⟨⟨j, hj, rfl⟩, hs⟩, rfl, rfl⟩
    exact ⟨hj, hs, rfl⟩
  · rintro ⟨hi, hs, rfl⟩
    exact ⟨⟨x.berth, i⟩, ⟨⟨i, hi, rfl⟩, hs⟩, rfl, rfl⟩

theorem State.nodeStateOf_some {s : State} {n : Nat} {y : Node} (h : s.node? n = some y) : s.nodeStateOf n = y.state := by
  rw [State.nodeStateOf, h]

theorem routeAndDoorGetRead : Claim.RouteAndDoorGetRead := by
  intro h s hr
  refine ⟨fun b r ho hk hroute => ?_, fun hx => ?_, fun x hx => ?_⟩
  · refine ((request_onRoute hr ho hk rfl 0x43 (fun _ _ => []) (fun t k => (t, t.routeAnswer k))).trans
      (ruled_pass rfl ..)).trans ?_
    have hroute' : s.taken.route? ⟨b, h.key.route⟩ = some r := hroute
    rw [State.routeAnswer, hroute']
    rfl
  · exact request_onDoor_none hr hx 0x44 (fun _ => []) (fun t x => (t, Answer.done (.door (t.doorView h.key.number x))))
  · refine ⟨s.doorView h.key.number x, ?_, rfl, rfl, fun y hy => State.nodeStateOf_some hy, rfl, rfl, rfl, rfl,
      fun i q => State.mem_servedRoutes⟩
    exact (request_onDoor hr hx 0x44 (fun _ => []) (fun t x => (t, Answer.done (.door (t.doorView h.key.number x))))).trans
      (ruled_pass rfl ..)

/-- Settles O55: each read answers a view of the record it finds. -/
theorem hallRead : Obligations.HallRead := ⟨hallTimeReads, loopGetReads, chuteAndCartGetRead, routeAndDoorGetRead⟩

end Sys2Proof.Machine
end

section
/-! STRAY RESOLVE and the requests on notices, and from them their obligations (R158, R164, R179 to R181). -/

namespace Sys2Proof.Machine

/-! ## STRAY RESOLVE (R164) -/

theorem State.bagIn_single {s : State} {h : Handle} {b : Bag} (hb : s.bag? h = some b) (st : BagState) :
    s.bagIn h [st] = true ↔ b.state = st := by
  rw [State.bagIn_live hb]
  simp

theorem State.routableBag_live {s : State} {h : Handle} {b : Bag} (hb : s.bag? h = some b) :
    s.routableBag h = (s.routable b).isSome := by
  rw [State.routableBag, hb]
  rfl

/-- Settles O34: the tests of R164 in their order, then one field of the bag's record. -/
theorem strayResolveActs : Obligations.StrayResolveActs := by
  intro h b s hr hn
  obtain ⟨-, -, hb, -⟩ := hn.taken
  refine ⟨fun hst => ?_, fun hst => ?_⟩
  · have t1 : s.taken.bagIn h.key.handle [.stray] = false := Bool.eq_false_iff.2 (mt (State.bagIn_single hb _).1 hst)
    exact ⟨request_onBag_fail hr hn 0x4A
        (own := fun t => [strayTest t h.key.handle, (t.routableBag h.key.handle, .notRoutable)]) (firstFailure_stop t1)
        (fun t => t.modifyBag h.key.handle (fun b => { b with reinduct := true })),
      request_onBag_fail hr hn 0x4A (own := fun t => [strayTest t h.key.handle]) (firstFailure_stop t1)
        (fun t => t.modifyBag h.key.handle (fun b => { b with reason := some .held, reinduct := false }))⟩
  · have t1 : s.taken.bagIn h.key.handle [.stray] = true := (State.bagIn_single hb _).2 hst
    have t2 := State.routableBag_live hb
    refine ⟨fun hno => ?_, fun hyes => ?_, ?_⟩
    · have hno' : s.taken.routable b = none := hno
      exact request_onBag_fail hr hn 0x4A
        (own := fun t => [strayTest t h.key.handle, (t.routableBag h.key.handle, .notRoutable)])
        (firstFailure_pass t1 (firstFailure_stop (t2.trans (by rw [hno']; rfl))))
        (fun t => t.modifyBag h.key.handle (fun b => { b with reinduct := true }))
    · exact request_onBag_modifies hr hn 0x4A
        (own := fun t => [strayTest t h.key.handle, (t.routableBag h.key.handle, .notRoutable)])
        (firstFailure_pass t1 (firstFailure_pass (t2.trans (Option.isSome_iff_ne_none.2 hyes)) rfl))
        (fun _ b => { b with reinduct := true })
    · exact request_onBag_modifies hr hn 0x4A (own := fun t => [strayTest t h.key.handle]) (firstFailure_pass t1 rfl)
        (fun _ b => { b with reason := some .held, reinduct := false })

/-! ## The source that NOTICE READ chooses (R180) -/

theorem firstPending_none {p : Nat → Notice → Bool} (l : List Notice) (i : Nat)
    (h : ∀ j m, l[j]? = some m → m.enabled = true → m.subjects ≠ [] → p (i + j) m = false) : firstPending p l i = none := by
  induction l generalizing i with
  | nil => rfl
  | cons n t ih =>
    rw [firstPending, if_neg]
    · exact ih (i + 1) fun j m hm he hs => by
        rw [Nat.add_right_comm, Nat.add_assoc]
        exact h (j + 1) m hm he hs
    · simp only [Bool.and_eq_true, not_and, Bool.not_eq_true]
      rintro ⟨he, hs⟩
      exact h 0 n rfl he (by simpa using hs)

theorem firstPending_some {p : Nat → Notice → Bool} {l : List Notice} {i k : Nat} {n : Notice} (hn : l[k]? = some n)
    (he : n.enabled = true) (hs : n.subjects ≠ []) (hp : p (i + k) n = true)
    (h : ∀ j m, j < k → l[j]? = some m → m.enabled = true → m.subjects ≠ [] → p (i + j) m = false) :
    firstPending p l i = some (i + k) := by
  induction l generalizing i k with
  | nil => cases hn
  | cons m t ih =>
    cases k with
    | zero =>
      cases hn
      rw [firstPending, if_pos]
      · rfl
      · simpa [he, hs] using hp
    | succ k =>
      rw [firstPending, if_neg]
      · rw [ih (i := i + 1) (k := k) hn (by rw [Nat.add_right_comm, Nat.add_assoc]; exact hp) fun j m hj hm he hs => by
            rw [Nat.add_right_comm, Nat.add_assoc]
            exact h (j + 1) m (Nat.succ_lt_succ hj) hm he hs]
        rw [Nat.add_right_comm, Nat.add_assoc]
      · simp only [Bool.and_eq_true, not_and, Bool.not_eq_true]
        rintro ⟨he, hs⟩
        exact h 0 m (Nat.succ_pos k) rfl he (by simpa using hs)

/-- The order in which NOTICE READ prefers sources. -/
def noticeRank (i : Nat) (n : Notice) : Nat := (if sticky i then 2 else 0) + (if n.priority = .low then 1 else 0)

theorem noticeRank_lt (i : Nat) (n : Notice) : noticeRank i n < 4 := by
  unfold noticeRank
  split <;> split <;> omega

/-- The first enabled pending source of a rank. -/
def NoticeUnit.ranked (u : NoticeUnit) (r : Nat) : Option Nat := firstPending (fun i n => noticeRank i n == r) u.sources 0

theorem NoticeUnit.choose_eq (u : NoticeUnit) :
    u.choose = (u.ranked 0 <|> u.ranked 1 <|> u.ranked 2 <|> u.ranked 3) := by
  have rank : ∀ (i : Nat) (n : Notice), (!sticky i && n.priority == .high) = (noticeRank i n == 0) ∧
      (!sticky i && n.priority == .low) = (noticeRank i n == 1) ∧ (sticky i && n.priority == .high) = (noticeRank i n == 2) ∧
      (sticky i && n.priority == .low) = (noticeRank i n == 3) := by
    intro i n
    unfold noticeRank
    cases sticky i <;> cases n.priority <;> decide
  unfold NoticeUnit.choose NoticeUnit.ranked
  congr 1
  · exact congrArg (firstPending · u.sources 0) (funext₂ fun i n => (rank i n).1)
  funext _
  congr 1
  · exact congrArg (firstPending · u.sources 0) (funext₂ fun i n => (rank i n).2.1)
  funext _
  congr 1
  · exact congrArg (firstPending · u.sources 0) (funext₂ fun i n => (rank i n).2.2.1)
  funext _
  exact congrArg (firstPending · u.sources 0) (funext₂ fun i n => (rank i n).2.2.2)

theorem NoticeUnit.choose_none {u : NoticeUnit} (h : ∀ n ∈ u.sources, n.enabled = true → n.subjects = []) :
    u.choose = none := by
  have hnone : ∀ r, u.ranked r = none := fun r => firstPending_none _ _ fun j m hm he hs =>
    absurd (h m (List.mem_of_getElem? hm) he) hs
  rw [NoticeUnit.choose_eq, hnone, hnone, hnone, hnone]
  rfl

theorem NoticeUnit.choose_some {u : NoticeUnit} {i : Nat} {n : Notice} (hn : u.sources[i]? = some n) (he : n.enabled = true)
    (hs : n.subjects ≠ []) (hmin : ∀ j m, u.sources[j]? = some m → m.enabled = true → m.subjects ≠ [] →
      noticeRank i n < noticeRank j m ∨ noticeRank i n = noticeRank j m ∧ i ≤ j) : u.choose = some i := by
  have hlow : ∀ r, r < noticeRank i n → u.ranked r = none := by
    intro r hr
    refine firstPending_none _ _ fun j m hm he hs => beq_false_of_ne ?_
    have := hmin j m hm he hs
    rw [Nat.zero_add]
    omega
  have hown : u.ranked (noticeRank i n) = some i := by
    rw [← Nat.zero_add i, NoticeUnit.ranked, Nat.zero_add i]
    refine (firstPending_some hn he hs ?_ fun j m hj hm he hs => beq_false_of_ne ?_).trans (by rw [Nat.zero_add])
    · rw [Nat.zero_add]
      exact beq_self_eq_true _
    · have := hmin j m hm he hs
      rw [Nat.zero_add]
      omega
  have hlt := noticeRank_lt i n
  rw [NoticeUnit.choose_eq]
  generalize noticeRank i n = r at hlow hown hlt
  match r, hlt with
  | 0, _ => rw [hown]; rfl
  | 1, _ => rw [hlow 0 (by omega), hown]; rfl
  | 2, _ => rw [hlow 0 (by omega), hlow 1 (by omega), hown]; rfl
  | 3, _ => rw [hlow 0 (by omega), hlow 1 (by omega), hlow 2 (by omega), hown]; rfl

/-! ## NOTICE READ, NOTICE MASK, NOTICE CLEAR -/

/-- What NOTICE READ does. -/
def State.readNotice (s : State) : State × Answer :=
  match s.notices.choose with
  | none => (s, Answer.done (.notice none))
  | some i => (s.setNotices (s.notices.read i), Answer.done (.notice (some (i, s.notices.lowest i))))

theorem exec_noticeRead {h : Head} {s : State} (hr : Ready s h 0) :
    exec (.noticeRead h) s = answered 0x50 h s.taken.readNotice.1 s.taken.readNotice.2 := by
  change request 0x50 h 0 State.readNotice s = _
  rw [request_ready hr]

theorem NoticeUnit.lowest_eq {u : NoticeUnit} {i : Nat} {n : Notice} (hn : u.sources[i]? = some n) :
    u.lowest i = if i < 3 then none else n.subjects.head? := by
  unfold NoticeUnit.lowest withoutSubjects
  rw [hn]
  by_cases hi : i < 3
  · rw [decide_eq_true hi, if_pos hi]
    rfl
  · rw [decide_eq_false hi, if_neg hi]
    rfl

theorem NoticeUnit.onNumber_sources {u : NoticeUnit} {i : Nat} {n : Notice} (hn : u.sources[i]? = some n)
    (f : List Nat → List Nat) : (u.onNumber i f).sources = u.sources.set i { n with subjects := f n.subjects } := by
  obtain ⟨hi, rfl⟩ := List.getElem?_eq_some_iff.1 hn
  exact List.modify_eq_set_get _ hi

theorem noticeReadChooses : Claim.NoticeReadChooses := by
  intro h s hr rank
  have hx := exec_noticeRead hr
  refine ⟨fun hnone => ?_, fun i n hn he hs hmin => ?_⟩
  · have hc : s.taken.notices.choose = none := NoticeUnit.choose_none hnone
    rw [hx, State.readNotice, hc]
  · have hc : s.taken.notices.choose = some i := NoticeUnit.choose_some hn he hs hmin
    have hlow : s.taken.notices.lowest i = if i < 3 then none else n.subjects.head? := NoticeUnit.lowest_eq hn
    refine ⟨s.taken.setNotices (s.taken.notices.read i), ?_, (Keeps.readNotice s.taken i).changes.ofTaken (by decide) (by decide),
      fun hst => if_pos hst, fun hst => ?_⟩
    · rw [hx, State.readNotice, hc]
      dsimp only
      rw [hlow]
    · have hread : s.taken.notices.read i = s.notices.onNumber i List.tail := by
        rw [NoticeUnit.read, hst]
        rfl
      rw [hread]
      exact ⟨rfl, NoticeUnit.onNumber_sources hn _, NoticeUnit.drive_pin _⟩

theorem noticeMaskAndClear : Claim.NoticeMaskAndClear := by
  intro h s
  constructor
  · intro l g hr hl
    have hok : maskOk (l.map (fun e => (some e.1, some e.2))) (some g) = true := by
      simp [maskOk, noticeSources, hl]
    refine ⟨s.taken.setNotices (s.notices.mask (l.map (fun e => (some e.1, some e.2))) g), ?_,
      (Keeps.maskNotices s.taken _ g (by rw [List.length_map, hl])).changes.ofTaken (by decide) (by decide), rfl,
      NoticeUnit.drive_pin _, ?_⟩
    · exact (request_guarded hr 0x51 (fun _ => [(maskOk (l.map (fun e => (some e.1, some e.2))) (some g), .badField)])
        (fun t => (t.setNotices (t.notices.mask (l.map (fun e => (some e.1, some e.2))) g), Answer.done .empty))).trans
        (ruled_pass (firstFailure_pass hok rfl) ..)
    · exact List.zipWith_map_right ..
  · intro hr hk
    have hx := request_guarded hr 0x52
      (fun t => [(Key.below h.key noticeSources, .badField), (!t.stillActive h.key.number, .stillActive)])
      (fun t => (t.setNotices (t.notices.onNumber h.key.number (fun _ => [])), Answer.done .empty))
    have t1 : Key.below h.key noticeSources = true := decide_eq_true hk
    refine ⟨fun hst => ?_, fun hst => ?_⟩
    · have t2 : (!s.taken.stillActive h.key.number) = false := by
        rw [show s.taken.stillActive h.key.number = true from hst]
        rfl
      exact hx.trans (ruled_fail (firstFailure_pass t1 (firstFailure_stop t2)) ..)
    · have t2 : (!s.taken.stillActive h.key.number) = true := by
        rw [show s.taken.stillActive h.key.number = false from hst]
        rfl
      exact ⟨_, hx.trans (ruled_pass (firstFailure_pass t1 (firstFailure_pass t2 rfl)) ..),
        (Keeps.onNumber s.taken h.key.number fun _ _ => .nil).changes.ofTaken (by decide) (by decide), rfl,
        NoticeUnit.drive_pin _, rfl⟩

/-! ## The conditions of the sticky sources (R179) -/

theorem State.poolShort_iff {s : State} :
    s.poolShort = true ↔ ∃ k c, (k, c) ∈ s.chutes ∧ (c.posX = .marked ∨ c.posY = .marked) := by
  simp [State.poolShort, List.any_eq_true]

theorem Store.low_iff {t : Store} : t.low = true ↔ 16384 - t.bags.length < 64 := decide_eq_true_iff

theorem stickyConditions : Claim.StickyConditions := by
  intro s i
  unfold State.stillActive
  by_cases h0 : i = Source.number .loopFailed
  · subst h0
    simp [Source.number]
  · rw [if_neg h0]
    have hi0 : ¬i = 0 := h0
    by_cases h3 : i = Source.number .capacity
    · subst h3
      rw [if_pos rfl, Bool.or_eq_true, Bool.or_eq_true, Store.low_iff, State.poolShort_iff, or_assoc]
      simp [Source.number]
    · have hi3 : ¬i = 3 := h3
      rw [if_neg h3]
      simp [hi0, hi3]

/-- Settles O35: the choice is the first source of the least rank, and every change of the unit drives its pin. -/
theorem noticesReadAndSet : Obligations.NoticesReadAndSet := ⟨noticeReadChooses, noticeMaskAndClear, stickyConditions⟩

end Sys2Proof.Machine
end

section
/-! The record store: what creating, moving, assigning and retiring a bag record leave of the bag table, the tag map, the cabins and
the counters (R2, R13, R20, R21, R30, R32, R38). -/

namespace Sys2Proof.Machine

/-! ## Tables -/

theorem Table.le_lowestFree {α : Type} (t : Table α) (n : Nat) : n ≤ Table.lowestFree t n := by
  induction t generalizing n with
  | nil => exact Nat.le_refl n
  | cons a t ih =>
    rw [Table.lowestFree]
    split
    · exact Nat.le_trans (Nat.le_succ n) (ih (n + 1))
    · exact Nat.le_refl n

theorem Table.get?_none_below {α : Type} {t : Table α} {n : Nat} (h : ∀ e ∈ t, n < e.1) : Table.get? t n = none := by
  induction t with
  | nil => rfl
  | cons a t ih =>
    rw [Table.get?, if_neg (Nat.ne_of_lt (h a List.mem_cons_self))]
    exact ih fun e he => h e (List.mem_cons_of_mem _ he)

theorem Table.length_put_new {α : Type} {t : Table α} {i : Nat} (h : Table.get? t i = none) (v : α) :
    List.length (Table.put t i v) = List.length t + 1 := by
  induction t with
  | nil => rfl
  | cons a t ih =>
    rw [Table.get?] at h
    split at h
    · cases h
    · next hne =>
      rw [Table.put, if_neg hne]
      split
      · rfl
      · exact congrArg (· + 1) (ih h)

/-- The lowest free number of a canonical table is free, and every lower one from the start is held. -/
theorem Table.lowestFree_spec {α : Type} {t : Table α} (h : Table.wf t = true) (n : Nat) (hn : ∀ e ∈ t, n ≤ e.1) :
    Table.get? t (Table.lowestFree t n) = none ∧
    ∀ j, n ≤ j → j < Table.lowestFree t n → ∃ v, Table.get? t j = some v := by
  induction t generalizing n with
  | nil => exact ⟨rfl, fun j h1 h2 => absurd h2 (Nat.not_lt.2 h1)⟩
  | cons a t ih =>
    obtain ⟨k, w⟩ := a
    obtain ⟨hlt, hwf⟩ := (Table.wf_cons k w t).1 h
    have hk : n ≤ k := hn (k, w) List.mem_cons_self
    rw [Table.lowestFree]
    split
    · next hkn =>
      obtain ⟨h1, h2⟩ := ih hwf (n + 1) fun e he => by rw [← hkn]; exact hlt e he
      have hle : n + 1 ≤ Table.lowestFree t (n + 1) := Table.le_lowestFree t (n + 1)
      refine ⟨?_, fun j hj hlow => ?_⟩
      · rw [Table.get?, if_neg (by omega)]
        exact h1
      · rw [Table.get?]
        split
        · exact ⟨w, rfl⟩
        · exact h2 j (by omega) hlow
    · next hkn =>
      refine ⟨?_, fun j h1 h2 => absurd h2 (Nat.not_lt.2 h1)⟩
      rw [Table.get?, if_neg (Ne.symm hkn)]
      exact Table.get?_none_below fun e he => Nat.lt_of_le_of_lt hk (hlt e he)

/-! ## Counters -/

theorem Store.slot_putSlot (t : Store) (b v : SlotId) (x : Sailing) :
    (t.putSlot b x).slot v = if v = b then x else t.slot v := by
  cases b <;> cases v <;> rfl

theorem Store.counts_count (t : Store) (b v : SlotId) (f : Counters → Counters) :
    ((t.count b f).slot v).counts = if v = b then f (t.slot v).counts else (t.slot v).counts := by
  rw [Store.count, Store.slot_putSlot]
  split
  · next h => rw [h]
  · rfl

theorem Store.state_count (t : Store) (b v : SlotId) (f : Counters → Counters) :
    ((t.count b f).slot v).state = (t.slot v).state := by
  rw [Store.count, Store.slot_putSlot]
  split
  · next h => rw [h]
  · rfl

/-- A slot that counts a home, by whether the home is of the slot. -/
theorem home_any (k : CabinKey) (v : SlotId) : (some k : Option CabinKey).any (fun k => k.slot == v) = true ↔ v = k.slot := by
  rw [Option.any_some, beq_iff_eq]
  exact eq_comm

/-- What a store keeps as records are counted: the bag table, the generations, the tag map and the state of each slot. -/
structure Store.Counts (t u : Store) : Prop where
  bags : u.bags = t.bags
  gens : u.gens = t.gens
  tagMap : u.tagMap = t.tagMap
  state : ∀ v, (u.slot v).state = (t.slot v).state

theorem Store.Counts.trans {t u v : Store} (h : Store.Counts t u) (k : Store.Counts u v) : Store.Counts t v :=
  ⟨k.bags.trans h.bags, k.gens.trans h.gens, k.tagMap.trans h.tagMap, fun b => (k.state b).trans (h.state b)⟩

theorem Store.Counts.refl (t : Store) : Store.Counts t t := ⟨rfl, rfl, rfl, fun _ => rfl⟩

theorem Store.Counts.count (t : Store) (b : SlotId) (f : Counters → Counters) : Store.Counts t (t.count b f) := by
  refine ⟨?_, ?_, ?_, fun v => Store.state_count ..⟩ <;> cases b <;> rfl

theorem Store.Counts.modifyCabin (t : Store) (k : CabinKey) (f : Cabin → Cabin) : Store.Counts t (t.modifyCabin k f) :=
  ⟨rfl, rfl, rfl, fun v => by cases v <;> rfl⟩

theorem Store.cabins_count (t : Store) (b : SlotId) (f : Counters → Counters) : (t.count b f).cabins = t.cabins := by
  cases b <;> rfl

theorem Store.counts_modifyCabin (t : Store) (k : CabinKey) (f : Cabin → Cabin) (v : SlotId) :
    (t.modifyCabin k f).slot v = t.slot v := by
  cases v <;> rfl

/-- A record counted at its home: its slot's counters change by one function, its cabin by another. -/
def Store.recount (t : Store) (home : Option CabinKey) (f : Counters → Counters) (g : Cabin → Cabin) : Store :=
  match home with
  | none => t
  | some k => (t.count k.slot f).modifyCabin k g

theorem Store.Counts.recount (t : Store) (home : Option CabinKey) (f : Counters → Counters) (g : Cabin → Cabin) :
    Store.Counts t (t.recount home f g) := by
  cases home with
  | none => exact Store.Counts.refl t
  | some k => exact (Store.Counts.count ..).trans (Store.Counts.modifyCabin ..)

theorem Store.recount_counts (t : Store) (home : Option CabinKey) (f : Counters → Counters) (g : Cabin → Cabin) (v : SlotId) :
    ((t.recount home f g).slot v).counts =
      if home.any (fun k => k.slot == v) = true then f (t.slot v).counts else (t.slot v).counts := by
  cases home with
  | none => rfl
  | some k =>
    rw [Store.recount, Store.counts_modifyCabin, Store.counts_count]
    exact if_congr (home_any k v).symm rfl rfl

theorem Store.recount_home (t : Store) (k : CabinKey) (f : Counters → Counters) (g : Cabin → Cabin) :
    (t.recount (some k) f g).cabin? k = (t.cabin? k).map g := by
  rw [Store.recount, Store.modifyCabin_same, Store.cabin?, Store.cabins_count]
  rfl

theorem Store.recount_other (t : Store) {home : Option CabinKey} {n : Nat} (hn : ∀ k, home = some k → n ≠ k.code)
    (f : Counters → Counters) (g : Cabin → Cabin) : (t.recount home f g).cabins.get? n = t.cabins.get? n := by
  cases home with
  | none => rfl
  | some k => rw [Store.recount, Store.modifyCabin_other _ _ _ (hn k rfl), Store.cabins_count]

theorem Store.countMove_eq (t : Store) (home : Option CabinKey) (p q : BagState) :
    t.countMove home p q = t.recount home (fun c => c.move p q) (fun c => c.aboardMove p q) := by
  cases home <;> rfl

theorem Store.countIn_eq (t : Store) (home : Option CabinKey) (st : BagState) : t.countIn home st = t.recount home
    (fun c => c.inc st) (fun c => { c with
      liveBags := c.liveBags + 1, aboard := if st = .aboard then c.aboard + 1 else c.aboard }) := by
  cases home <;> rfl

theorem Store.countOut_eq (t : Store) (home : Option CabinKey) (st : BagState) : t.countOut home st = t.recount home
    (fun c => c.dec st) (fun c => { c with
      liveBags := c.liveBags - 1, aboard := if st = .aboard then c.aboard - 1 else c.aboard }) := by
  cases home <;> rfl

/-! ## Cabins that differ in their counts alone -/

/-- A cabin without its counts of bags. -/
def Cabin.uncounted (c : Cabin) : Cabin := { c with liveBags := 0, aboard := 0 }

/-- The cabins of two stores differ in their counts of bags alone. -/
def Store.Alike (t u : Store) : Prop :=
  ∀ n, (u.cabins.get? n).map Cabin.uncounted = (t.cabins.get? n).map Cabin.uncounted

theorem Store.Alike.same {t u : Store} (h : u.cabins = t.cabins) : Store.Alike t u := fun n => by rw [h]

theorem Store.Alike.trans {t u v : Store} (h : Store.Alike t u) (k : Store.Alike u v) : Store.Alike t v :=
  fun n => (k n).trans (h n)

theorem Store.Alike.modifyCabin (t : Store) (k : CabinKey) {f : Cabin → Cabin}
    (hf : ∀ c, (f c).uncounted = c.uncounted) : Store.Alike t (t.modifyCabin k f) := by
  intro n
  by_cases hn : n = k.code
  · subst hn
    have hsame : (t.modifyCabin k f).cabins.get? k.code = (t.cabins.get? k.code).map f := Store.modifyCabin_same ..
    rw [hsame, Option.map_map]
    exact congrArg (Option.map · _) (funext hf)
  · rw [Store.modifyCabin_other _ _ _ hn]

theorem Store.Alike.recount (t : Store) (home : Option CabinKey) (f : Counters → Counters) {g : Cabin → Cabin}
    (hg : ∀ c, (g c).uncounted = c.uncounted) : Store.Alike t (t.recount home f g) := by
  cases home with
  | none => exact Store.Alike.same rfl
  | some k => exact (Store.Alike.same (Store.cabins_count ..)).trans (Store.Alike.modifyCabin _ _ hg)

theorem Cabin.aboardMove_uncounted (c : Cabin) (p q : BagState) : (c.aboardMove p q).uncounted = c.uncounted := by
  unfold Cabin.aboardMove
  repeat' split
  all_goals rfl

theorem Store.Alike.cabin? {t u : Store} (h : Store.Alike t u) {k : CabinKey} {c : Cabin} (hc : t.cabin? k = some c) :
    ∃ d, u.cabin? k = some d ∧ d.uncounted = c.uncounted := by
  have hk := h k.code
  rw [show t.cabins.get? k.code = some c from hc] at hk
  exact Option.map_eq_some_iff.1 hk

theorem Store.Alike.cabin?_none {t u : Store} (h : Store.Alike t u) {k : CabinKey} (hc : t.cabin? k = none) :
    u.cabin? k = none := by
  have hk := h k.code
  rw [show t.cabins.get? k.code = none from hc] at hk
  exact Option.map_eq_none_iff.1 hk

theorem Cabin.forward_of_uncounted {c d : Cabin} (h : d.uncounted = c.uncounted) : d.forward = c.forward :=
  (congrArg Cabin.forward h : d.uncounted.forward = c.uncounted.forward)

theorem Cabin.status_of_uncounted {c d : Cabin} (h : d.uncounted = c.uncounted) : d.status = c.status :=
  Cabin.status_congr (congrArg Cabin.guests h : d.uncounted.guests = c.uncounted.guests)

/-- The governing cabin of a bag is the same, its counts aside. -/
theorem Store.Alike.governing {t u : Store} (h : Store.Alike t u) (b : Bag) :
    u.governingKey b = t.governingKey b ∧
    ((t.governing b = none ∧ u.governing b = none) ∨
      ∃ c d, t.governing b = some c ∧ u.governing b = some d ∧ d.uncounted = c.uncounted) := by
  have hkey : u.governingKey b = t.governingKey b := by
    unfold Store.governingKey
    cases b.home with
    | none => rfl
    | some k =>
      simp only [bind, Option.bind_some]
      cases hc : t.cabin? k with
      | none => rw [h.cabin?_none hc]
      | some c =>
        obtain ⟨d, hd, hcd⟩ := h.cabin? hc
        rw [hd, Option.bind_some, Option.bind_some, Cabin.forward_of_uncounted hcd]
  refine ⟨hkey, ?_⟩
  unfold Store.governing
  rw [hkey]
  cases t.governingKey b with
  | none => exact .inl ⟨rfl, rfl⟩
  | some k =>
    simp only [bind, Option.bind_some]
    cases hc : t.cabin? k with
    | none => exact .inl ⟨rfl, h.cabin?_none hc⟩
    | some c =>
      obtain ⟨d, hd, hcd⟩ := h.cabin? hc
      exact .inr ⟨c, d, rfl, hd, hcd⟩

/-- What is read of the governing cabin's status is the same. -/
theorem Store.Alike.anyStatus {t u : Store} (h : Store.Alike t u) (b : Bag) (p : CabinStatus → Bool) :
    (u.governing b).any (fun g => p g.status) = (t.governing b).any (fun g => p g.status) := by
  obtain ⟨-, ⟨h1, h2⟩ | ⟨c, d, hc, hd, hcd⟩⟩ := h.governing b
  · rw [h1, h2]
  · rw [hc, hd]
    exact congrArg p (Cabin.status_of_uncounted hcd)

theorem Store.Alike.checked {t u : Store} (h : Store.Alike t u) (b : Bag) : u.checked b = t.checked b := by
  unfold Store.checked
  obtain ⟨-, ⟨h1, h2⟩ | ⟨c, d, hc, hd, hcd⟩⟩ := h.governing b
  · rw [h1, h2]
  · rw [hc, hd]
    dsimp only
    rw [Cabin.status_of_uncounted hcd]

theorem Store.Alike.governedStandsVoid {t u : Store} (h : Store.Alike t u) (b : Bag) :
    u.governedStandsVoid b = t.governedStandsVoid b := by
  unfold Store.governedStandsVoid
  obtain ⟨-, ⟨h1, h2⟩ | ⟨c, d, hc, hd, hcd⟩⟩ := h.governing b
  · rw [h1, h2]
  · rw [hc, hd]
    dsimp only
    rw [Cabin.standsVoid, Cabin.standsVoid, Cabin.status_of_uncounted hcd, Cabin.forward_of_uncounted hcd]

/-! ## The demand check (R148) -/

theorem State.checked_eq (s : State) (b : Bag) : s.store.checked b = { b with pull := demanded s b } := by
  unfold Store.checked demanded
  cases s.store.governing b with
  | none => rfl
  | some c =>
    dsimp only
    by_cases hv : c.status = .void
    · rw [if_pos hv, if_pos hv]
    · rw [if_neg hv, if_neg hv]
      by_cases hp : b.pull = some .cabin
      · rw [if_pos hp, if_pos hp]
      · rw [if_neg hp, if_neg hp]

/-- The demand check reads of a bag its home and its PULL flag. -/
theorem Store.governing_congr (t : Store) {a b : Bag} (h : a.home = b.home) : t.governing a = t.governing b := by
  unfold Store.governing Store.governingKey
  rw [h]

theorem demanded_congr {s t : State} (h : Store.Alike s.store t.store) {a b : Bag} (hh : a.home = b.home)
    (hp : a.pull = b.pull) : demanded t a = demanded s b := by
  unfold demanded
  rw [t.store.governing_congr hh]
  obtain ⟨-, ⟨h1, h2⟩ | ⟨c, d, hc, hd, hcd⟩⟩ := h.governing b
  · rw [h1, h2]
    exact hp
  · rw [hc, hd]
    dsimp only
    rw [Cabin.status_of_uncounted hcd, hp]

theorem State.demandCheck_bag? {s : State} {h : Handle} {b : Bag} (hb : s.bag? h = some b) :
    (s.demandCheck h).bag? h = some { b with pull := demanded s b } := by
  rw [State.demandCheck, State.modifyBag_bag?, if_pos rfl, hb]
  exact congrArg some (s.checked_eq b)

/-- A demand check of a bag changes its record alone. -/
theorem State.modifyBag_frame (s : State) (h : Handle) (f : Bag → Bag) :
    (s.modifyBag h f).store = { s.store with bags := (s.modifyBag h f).store.bags } ∧
    (∀ i, i ≠ h.index → (s.modifyBag h f).store.bags.get? i = s.store.bags.get? i) :=
  ⟨(State.modifyBag_store s h f).1, fun i hi => (State.modifyBag_store s h f).2 i (Ne.symm hi)⟩

theorem Store.slot_of_bags {t u : Store} (h : u = { t with bags := u.bags }) (v : SlotId) : u.slot v = t.slot v := by
  rw [h]
  cases v <;> rfl

theorem State.modifyBag_slot (s : State) (h : Handle) (f : Bag → Bag) (v : SlotId) :
    (s.modifyBag h f).store.slot v = s.store.slot v := Store.slot_of_bags (State.modifyBag_store s h f).1 v

theorem State.modifyBag_alike (s : State) (h : Handle) (f : Bag → Bag) :
    Store.Alike s.store (s.modifyBag h f).store := Store.Alike.same (by rw [(State.modifyBag_store s h f).1])

theorem Table.length_put_old {α : Type} {t : Table α} {i : Nat} {w : α} (hw : Table.wf t = true)
    (h : Table.get? t i = some w) (v : α) : List.length (Table.put t i v) = List.length t := by
  induction t with
  | nil => cases h
  | cons a t ih =>
    obtain ⟨k, x⟩ := a
    obtain ⟨hlt, hwf⟩ := (Table.wf_cons k x t).1 hw
    rw [Table.put]
    split
    · next hik =>
      rw [Table.get?, if_neg (Nat.ne_of_lt hik), Table.get?_none_below fun e he => Nat.lt_trans hik (hlt e he)] at h
      cases h
    · split
      · rfl
      · next hne =>
        rw [Table.get?, if_neg hne] at h
        exact congrArg (· + 1) (ih hwf h)

/-- Rewriting live records keeps the number of records, and so the bag-table low condition. -/
theorem State.modifyBag_length {s : State} (hl : BagTableLaw s) (h : Handle) (f : Bag → Bag) :
    (s.modifyBag h f).store.bags.length = s.store.bags.length := by
  obtain ⟨hw, -⟩ := hl
  cases hb : s.store.bag? h with
  | none => rw [State.modifyBag, Store.modifyBag, hb]; rfl
  | some b =>
    rw [State.modifyBag_live hb]
    exact Table.length_put_old hw (Store.bag?_eq_some.1 hb).2 _

theorem tableLow_of_length {s t : State} (h : t.store.bags.length = s.store.bags.length) : tableLow t = tableLow s := by
  rw [tableLow, tableLow, h]

theorem SameHolds.modifyBag {s : State} (hl : BagTableLaw s) (h : Handle) (f : Bag → Bag) :
    SameHolds s (s.modifyBag h f) := ⟨rfl, rfl, tableLow_of_length (State.modifyBag_length hl h f), rfl, rfl⟩

/-! ## Moves (R2, R13, R25) -/

/-- The store of a move: the record rewritten, and then its counts moved. -/
theorem Store.moveBag_live {t : Store} {h : Handle} {b : Bag} (hb : t.bag? h = some b) (st : BagState)
    (loc : Option Location) (now : Nat) : t.moveBag h st loc now =
      ({ t with bags := t.bags.put h.index (b.enter st loc now) } : Store).recount b.home (fun c => c.move b.state st)
        (fun c => c.aboardMove b.state st) := by
  rw [Store.moveBag, hb]
  exact Store.countMove_eq ..

theorem State.moveBag_stale {s : State} {h : Handle} (hb : s.bag? h = none) (st : BagState) (loc : Option Location) :
    s.moveBag h st loc = s := by
  have hb' : s.store.bag? h = none := hb
  rw [State.moveBag, Store.moveBag, hb']
  rfl

theorem State.moveBag_alike (s : State) (h : Handle) (st : BagState) (loc : Option Location) :
    Store.Alike s.store (s.moveBag h st loc).store := by
  cases hb : s.store.bag? h with
  | none => exact Store.Alike.same (by rw [State.moveBag_stale hb])
  | some b =>
    rw [State.moveBag, State.setStore_store, Store.moveBag_live hb]
    exact Store.Alike.recount (t := { s.store with bags := s.store.bags.put h.index (b.enter st loc s.hallSecond) }) _ _
      fun c => Cabin.aboardMove_uncounted ..

theorem State.moveBag_length {s : State} (hl : BagTableLaw s) (h : Handle) (st : BagState) (loc : Option Location) :
    (s.moveBag h st loc).store.bags.length = s.store.bags.length := by
  obtain ⟨hw, -⟩ := hl
  cases hb : s.store.bag? h with
  | none => rw [State.moveBag_stale hb]
  | some b =>
    rw [State.moveBag, State.setStore_store, Store.moveBag_live hb, (Store.Counts.recount ..).bags]
    exact Table.length_put_old hw (Store.bag?_eq_some.1 hb).2 _

theorem SameHolds.moveBag {s : State} (hl : BagTableLaw s) (h : Handle) (st : BagState) (loc : Option Location) :
    SameHolds s (s.moveBag h st loc) := ⟨rfl, rfl, tableLow_of_length (State.moveBag_length hl h st loc), rfl, rfl⟩

/-- A move of a bag between cabins' counts, at its own cabin. -/
theorem State.moveBag_home {s : State} {h : Handle} {b : Bag} {k : CabinKey} {c : Cabin} (hb : s.bag? h = some b)
    (hk : b.home = some k) (hc : s.store.cabin? k = some c) (st : BagState) (loc : Option Location) :
    (s.moveBag h st loc).store.cabin? k = some (c.aboardMove b.state st) := by
  rw [State.moveBag, State.setStore_store, Store.moveBag_live hb, hk, Store.recount_home]
  change Option.map _ (s.store.cabin? k) = _
  rw [hc]
  rfl

theorem State.moveBag_other {s : State} {h : Handle} {b : Bag} {n : Nat} (hb : s.bag? h = some b)
    (hn : ∀ k, b.home = some k → n ≠ k.code) (st : BagState) (loc : Option Location) :
    (s.moveBag h st loc).store.cabins.get? n = s.store.cabins.get? n := by
  rw [State.moveBag, State.setStore_store, Store.moveBag_live hb]
  exact Store.recount_other _ hn _ _

theorem State.moveBag_slotState (s : State) (h : Handle) (st : BagState) (loc : Option Location) (v : SlotId) :
    (s.moveBag h st loc).slotState v = s.slotState v := by
  cases hb : s.store.bag? h with
  | none => rw [State.moveBag_stale hb]
  | some b =>
    rw [State.slotState, State.moveBag, State.setStore_store, Store.moveBag_live hb, (Store.Counts.recount ..).state]
    cases v <;> rfl

end Sys2Proof.Machine
end

section
/-! What a door leaves when it settles, over however many turns (R131, R133, R134, R140). -/

namespace Sys2Proof.Machine

/-! ## Routes and subjects under a change -/

theorem State.modifyRoute_route? (s : State) (k j : RouteKey) (f : Route → Route) :
    (s.modifyRoute k f).route? j = if j.subject = k.subject then (s.route? j).map f else s.route? j := by
  change (s.routes.modify k.subject f)[j.subject]? = _
  rw [List.getElem?_modify]
  split
  · next h => rw [if_pos h.symm]; rfl
  · next h => rw [if_neg (Ne.symm h)]; exact Option.map_id'

theorem State.modifyRoute_same {s : State} {k : RouteKey} {r : Route} (hr : s.route? k = some r) (f : Route → Route) :
    (s.modifyRoute k f).route? k = some (f r) := by
  rw [State.modifyRoute_route?, if_pos rfl, hr]
  rfl

/-- A subject stays as any source takes another. -/
theorem State.mem_raise {s : State} {v : Source} {m : Nat} (h : m ∈ s.subjects v) (w : Source) (n : Nat) :
    m ∈ (s.raise w n).subjects v := by
  by_cases hw : v = w
  · subst hw
    unfold State.subjects at h ⊢
    change m ∈ match (s.notices.sources.modify v.number _)[v.number]? with | some n => n.subjects | none => []
    rw [List.getElem?_modify_eq]
    cases hs : s.notices.sources[v.number]? with
    | none => rw [hs] at h; cases h
    | some x => rw [hs] at h; exact (mem_insertSubject ..).2 (.inr h)
  · rw [State.subjects_raise_other s hw]
    exact h

/-- What turns of a door do to notices: no subject goes, and only DOOR_STOPPED, ROUTE_IDLE and CART_DONE take any. -/
structure Tells (s t : State) : Prop where
  stay : ∀ w m, m ∈ s.subjects w → m ∈ t.subjects w
  quiet : ∀ w, w ≠ .doorStopped → w ≠ .routeIdle → w ≠ .cartDone → t.subjects w = s.subjects w
  sources : t.notices.sources.length = s.notices.sources.length

theorem Tells.same {s t : State} (h : t.notices = s.notices) : Tells s t where
  stay w m hm := by rw [State.subjects_congr h]; exact hm
  quiet w _ _ _ := State.subjects_congr h w
  sources := by rw [h]

theorem Tells.trans {s t u : State} (h : Tells s t) (k : Tells t u) : Tells s u where
  stay w m hm := k.stay w m (h.stay w m hm)
  quiet w h1 h2 h3 := (k.quiet w h1 h2 h3).trans (h.quiet w h1 h2 h3)
  sources := k.sources.trans h.sources

theorem Tells.raise (s : State) {v : Source} (hv : v = .doorStopped ∨ v = .routeIdle ∨ v = .cartDone) (n : Nat) :
    Tells s (s.raise v n) where
  stay w m hm := State.mem_raise hm v n
  quiet w h1 h2 h3 := by
    refine State.subjects_raise_other s (fun he => ?_) n
    subst he
    rcases hv with hv | hv | hv
    · exact h1 hv
    · exact h2 hv
    · exact h3 hv
  sources := List.length_modify ..

/-! ## What turns leave -/

/-- A route over some turns: only its queue loses carts, and LOADING without the stay option it may become IDLE. -/
def RouteTurned (r x : Route) : Prop :=
  x = { r with queue := x.queue, state := x.state } ∧ (∀ m ∈ x.queue, m ∈ r.queue) ∧
  (x.state = r.state ∨ r.state = .loading ∧ x.state = .idle ∧ r.stay = false)

theorem RouteTurned.refl (r : Route) : RouteTurned r r := ⟨rfl, fun _ h => h, .inl rfl⟩

theorem RouteTurned.trans {r x y : Route} (h : RouteTurned r x) (k : RouteTurned x y) : RouteTurned r y := by
  obtain ⟨hx, hq, hs⟩ := h
  obtain ⟨hy, kq, ks⟩ := k
  have hstay : x.stay = r.stay := by rw [hx]
  refine ⟨by rw [hy, hx], fun m hm => hq m (kq m hm), ?_⟩
  rcases ks with ks | ⟨k1, k2, k3⟩
  · rw [ks]
    exact hs
  · rcases hs with hs | ⟨-, h2, -⟩
    · exact .inr ⟨hs.symm.trans k1, k2, hstay.symm.trans k3⟩
    · exact absurd (h2.symm.trans k1) RouteState.noConfusion

/-- A record over some turns: it stays, or, of a bag that a cart holds, loses its location. -/
def BagTurned (s t : State) (i : Nat) (o : Bag) : Prop :=
  ∃ l, t.store.bags.get? i = some { o with location := l } ∧
    (l = o.location ∨ l = none ∧ ∃ n c, s.cart? n = some c ∧ ∃ e ∈ c.entries, e.bag = ⟨i, s.store.gen i⟩)

theorem BagTurned.same {s t : State} {i : Nat} {o : Bag} (h : t.store.bags.get? i = some o) : BagTurned s t i o :=
  ⟨o.location, h, .inl rfl⟩

/-- What the turns of a door leave of carts, bags, subjects and routes. -/
structure Turned (s t : State) : Prop where
  carts : ∀ n c, t.cart? n = some c → ∃ d, s.cart? n = some d ∧ c = { d with state := c.state }
  store : t.store = { s.store with bags := t.store.bags }
  bags : ∀ i o, s.store.bags.get? i = some o → BagTurned s t i o
  size : BagTableLaw s → BagTableLaw t ∧ t.store.bags.length = s.store.bags.length
  tells : Tells s t
  routes : ∀ k r, s.route? k = some r → ∃ x, t.route? k = some x ∧ RouteTurned r x

theorem Turned.gen {s t : State} (h : Turned s t) (i : Nat) : t.store.gen i = s.store.gen i := by
  rw [h.store]
  rfl

theorem Turned.trans {s t u : State} (h : Turned s t) (k : Turned t u) : Turned s u where
  carts n c hc := by
    obtain ⟨d, hd, hcd⟩ := k.carts n c hc
    obtain ⟨e, he, hde⟩ := h.carts n d hd
    exact ⟨e, he, by rw [hcd, hde]⟩
  store := by rw [k.store, h.store]
  bags i o ho := by
    obtain ⟨l, hl, hol⟩ := h.bags i o ho
    obtain ⟨m, hm, hom⟩ := k.bags i _ hl
    refine ⟨m, hm, ?_⟩
    rcases hom with rfl | ⟨rfl, n, c, hc, e, he, hei⟩
    · exact hol
    · obtain ⟨d, hd, hcd⟩ := h.carts n c hc
      exact .inr ⟨rfl, n, d, hd, e, by rw [hcd] at he; exact he, by rw [hei, h.gen]⟩
  size hl := by
    obtain ⟨h1, h2⟩ := h.size hl
    obtain ⟨k1, k2⟩ := k.size h1
    exact ⟨k1, k2.trans h2⟩
  tells := h.tells.trans k.tells
  routes j r hr := by
    obtain ⟨x, hx, hrx⟩ := h.routes j r hr
    obtain ⟨y, hy, hxy⟩ := k.routes j x hx
    exact ⟨y, hy, hrx.trans hxy⟩

/-- The operations that leave carts, bags and routes as they are. -/
theorem Turned.same {s t : State} (hc : t.carts = s.carts) (hs : t.store = s.store) (hr : t.routes = s.routes)
    (hn : Tells s t) : Turned s t where
  carts n c h := ⟨c, by unfold State.cart? at h ⊢; rw [← hc]; exact h, rfl⟩
  store := by rw [hs]
  bags i o ho := .same (by rw [hs]; exact ho)
  size hl := ⟨by unfold BagTableLaw at hl ⊢; rw [hs]; exact hl, by rw [hs]⟩
  tells := hn
  routes k r h := ⟨r, by unfold State.route? at h ⊢; rw [hr]; exact h, RouteTurned.refl r⟩

theorem Turned.refl (s : State) : Turned s s := Turned.same rfl rfl rfl (Tells.same rfl)

theorem Turned.raise (s : State) {v : Source} (hv : v = .doorStopped ∨ v = .routeIdle ∨ v = .cartDone) (n : Nat) :
    Turned s (s.raise v n) :=
  Turned.same rfl rfl rfl (Tells.raise s hv n)

theorem Turned.modifyDoor (s : State) (d : Nat) (f : Door → Door) : Turned s (s.modifyDoor d f) :=
  Turned.same rfl rfl rfl (Tells.same rfl)

theorem Turned.setBelt (s : State) (d : Nat) : Turned s (s.setBelt d) := by
  have h := (Keeps.setBelt s d).changes
  exact Turned.same (h .carts (by decide)) (h .store (by decide)) (h .routes (by decide))
    (Tells.same (h .notices (by decide)))

theorem Turned.addHalt (s : State) (d : Nat) (w : HaltReason) : Turned s (s.addHalt d w) := by
  unfold State.addHalt
  split
  · exact Turned.refl s
  · exact (Turned.modifyDoor ..).trans ((Turned.raise _ (.inl rfl) d).trans (Turned.setBelt ..))

theorem Turned.modifyRoute (s : State) (k : RouteKey) {f : Route → Route}
    (hf : ∀ r, s.route? k = some r → RouteTurned r (f r)) : Turned s (s.modifyRoute k f) where
  carts n c h := ⟨c, h, rfl⟩
  store := rfl
  bags i o ho := .same ho
  size hl := ⟨hl, rfl⟩
  tells := .same rfl
  routes j r hr := by
    rw [State.modifyRoute_route?]
    split
    · next hj =>
      refine ⟨f r, by rw [hr]; rfl, hf r ?_⟩
      rw [State.route?, ← hj]
      exact hr
    · exact ⟨r, hr, RouteTurned.refl r⟩

theorem Turned.cartState (s : State) (n : Nat) (v : CartState) :
    Turned s (s.modifyCart n (fun c => { c with state := v })) where
  carts m c h := by
    rw [State.modifyCart_cart?] at h
    split at h
    · obtain ⟨d, hd, rfl⟩ := Option.map_eq_some_iff.1 h
      exact ⟨d, hd, rfl⟩
    · exact ⟨c, h, rfl⟩
  store := rfl
  bags i o ho := .same ho
  size hl := ⟨hl, rfl⟩
  tells := .same rfl
  routes _ r hr := ⟨r, hr, RouteTurned.refl r⟩

/-- A bag of a cart's entry loses its location. -/
theorem Turned.unlocate (s : State) {n : Nat} {c : Cart} {e : Entry} (hc : s.cart? n = some c) (he : e ∈ c.entries) :
    Turned s (s.modifyBag e.bag (fun b => { b with location := none })) where
  carts m c h := ⟨c, h, rfl⟩
  store := (State.modifyBag_store ..).1
  bags i o ho := by
    by_cases hi : e.bag.index = i
    · cases hg : s.store.bag? e.bag with
      | none => exact .same (by rw [State.modifyBag, Store.modifyBag, hg]; exact ho)
      | some b =>
        obtain ⟨hgen, hget⟩ := Store.bag?_eq_some.1 hg
        subst hi
        cases hget.symm.trans ho
        refine ⟨none, ?_, .inr ⟨rfl, n, c, hc, e, he, by rw [hgen]⟩⟩
        rw [State.modifyBag_live hg]
        exact Table.get?_put_same ..
    · exact .same (((State.modifyBag_store ..).2 i hi).trans ho)
  size hl := ⟨(Keeps.modifyBag s e.bag _).bags hl, State.modifyBag_length hl ..⟩
  tells := .same rfl
  routes _ r hr := ⟨r, hr, RouteTurned.refl r⟩

theorem Turned.leaveCart (l : List Entry) {s : State} {n : Nat} {c : Cart} (hc : s.cart? n = some c)
    (hl : ∀ e ∈ l, e ∈ c.entries) (h : ∀ e ∈ l, e.aboard = true) : Turned s (s.leaveCart l) := by
  induction l generalizing s with
  | nil => exact Turned.refl s
  | cons e t ih =>
    rw [State.leaveCart, if_pos (h e List.mem_cons_self)]
    exact (Turned.unlocate s hc (hl e List.mem_cons_self)).trans
      (ih hc (fun x hx => hl x (List.mem_cons_of_mem _ hx)) fun x hx => h x (List.mem_cons_of_mem _ hx))

theorem Turned.eraseCart (s : State) (n : Nat) : Turned s (s.setCarts (s.carts.erase n)) where
  carts m c h := by
    by_cases hm : m = n
    · subst hm
      exact absurd ((Table.get?_erase_same ..).symm.trans h) (Option.some_ne_none c).symm
    · exact ⟨c, (Table.get?_erase_other _ hm).symm.trans h, rfl⟩
  store := rfl
  bags i o ho := .same ho
  size hl := ⟨hl, rfl⟩
  tells := .same rfl
  routes _ r hr := ⟨r, hr, RouteTurned.refl r⟩

theorem Cart.done_iff {c : Cart} : c.done = true ↔ (∀ e ∈ c.entries, e.aboard = true) ∧ c.unidentified = 0 := by
  simp [Cart.done]

theorem Turned.retireCart {s : State} {n : Nat} {c : Cart} (h : s.cart? n = some c) (he : ∀ e ∈ c.entries, e.aboard = true) :
    Turned s (s.retireCart n) := by
  have hc : (s.leaveCart c.entries).carts = s.carts := (Keeps.leaveCart _ s).changes .carts (by decide)
  have hr : s.retireCart n = (s.leaveCart c.entries).setCarts ((s.leaveCart c.entries).carts.erase n) := by
    rw [State.retireCart, h, hc]
  rw [hr]
  exact (Turned.leaveCart _ h (fun _ hm => hm) he).trans (Turned.eraseCart ..)

theorem Turned.tellCartDone (s : State) (c : Cart) : Turned s (s.tellCartDone c) := by
  unfold State.tellCartDone
  split
  · exact Turned.refl s
  · split
    · exact Turned.refl s
    · split
      · exact Turned.raise s (.inr (.inr rfl)) _
      · exact Turned.refl s

theorem Turned.testIdle (s : State) (k : RouteKey) : Turned s (s.testIdle k) := by
  unfold State.testIdle
  split
  · exact Turned.refl s
  · next r hr =>
    split
    · next hi =>
      refine (Turned.modifyRoute s k fun r' hr' => ?_).trans (Turned.raise _ (.inr (.inl rfl)) _)
      cases hr.symm.trans hr'
      simp only [Bool.and_eq_true, beq_iff_eq, Bool.not_eq_true'] at hi
      obtain ⟨⟨⟨hl, -⟩, hstay⟩, -⟩ := hi
      exact ⟨rfl, fun _ h => h, .inr ⟨hl, rfl, hstay⟩⟩
    · exact Turned.refl s

theorem Turned.completeCart {s : State} {d n : Nat} {c : Cart} (h : s.cart? n = some c) (hd : c.done = true) :
    Turned s (s.completeCart d n c) := by
  obtain ⟨he, -⟩ := Cart.done_iff.1 hd
  have h1 : Turned s (((s.retireCart n).modifyDoor d (fun x => { x with cart := none })).tellCartDone c) :=
    (Turned.retireCart h he).trans ((Turned.modifyDoor ..).trans (Turned.tellCartDone ..))
  unfold State.completeCart
  split
  · exact h1
  · exact h1.trans (Turned.testIdle ..)

theorem Turned.broughtUp {s : State} {d : Nat} {k : RouteKey} {r : Route} {n : Nat} {rest : List Nat}
    (hr : s.route? k = some r) (hq : r.queue = n :: rest) : Turned s (s.broughtUp d k n rest) := by
  refine ((Turned.modifyRoute s k (f := fun r => { r with queue := rest }) fun r' hr' => ?_).trans (Turned.cartState _ n .atDoor)).trans
    (Turned.modifyDoor _ d (fun x => { x with cart := some n, lastServed := some k.route }))
  cases hr.symm.trans hr'
  exact ⟨rfl, fun m hm => by rw [hq]; exact List.mem_cons_of_mem _ hm, .inl rfl⟩

theorem Turned.doorTurn {s t : State} {d : Nat} (ht : s.doorTurn d = some t) : Turned s t := by
  unfold State.doorTurn at ht
  split at ht
  · cases ht
  · split at ht
    · split at ht
      · cases ht
      · next n _ c hc =>
        split at ht
        · next hd =>
          cases ht
          exact Turned.completeCart hc hd
        · cases ht
    · obtain ⟨k, hw, rfl⟩ := Option.map_eq_some_iff.1 ht
      obtain ⟨_, r, _, hr, _, _, _, hq⟩ := State.offering_of_winner hw
      obtain ⟨n, rest, hq⟩ := List.exists_cons_of_ne_nil hq
      rw [State.takeToDoor_eq hr hq]
      split
      · exact (Turned.broughtUp hr hq).trans (Turned.addHalt ..)
      · exact Turned.broughtUp hr hq

theorem Turned.settleDoor (d : Nat) (s : State) : Turned s (s.settleDoor d) := by
  induction hn : s.turnsLeft d using Nat.strongRecOn generalizing s with
  | _ n ih =>
    rw [State.settleDoor_eq]
    cases ht : s.doorTurn d with
    | none => exact Turned.setBelt s d
    | some t => exact (Turned.doorTurn ht).trans (ih _ (hn ▸ State.turnsLeft_lt ht) t rfl)

/-- A cart that is gone stays gone. -/
theorem Turned.cart?_none {s t : State} (h : Turned s t) {n : Nat} (hn : s.cart? n = none) : t.cart? n = none := by
  cases ht : t.cart? n with
  | none => rfl
  | some c =>
    obtain ⟨d, hd, -⟩ := h.carts n c ht
    cases hn.symm.trans hd

theorem Turned.of_gen {s t : State} (h : Turned s t) {g : Handle} {b : Bag} (hgen : s.store.gen g.index = g.gen)
    (hb : t.store.bags.get? g.index = some b) : t.bag? g = some b :=
  Store.bag?_eq_some.2 ⟨(h.gen _).trans hgen, hb⟩

/-- A bag over some turns, by its handle. -/
theorem Turned.bag? {s t : State} (h : Turned s t) {g : Handle} {b : Bag} (hb : s.bag? g = some b) :
    ∃ l, t.bag? g = some { b with location := l } ∧
      (l = b.location ∨ l = none ∧ ∃ n c, s.cart? n = some c ∧ ∃ e ∈ c.entries, e.bag = g) := by
  obtain ⟨hgen, hget⟩ := Store.bag?_eq_some.1 hb
  obtain ⟨l, hl, hol⟩ := h.bags _ _ hget
  exact ⟨l, h.of_gen hgen hl, hol.imp_right fun ⟨h1, n, c, hc, e, he, hei⟩ => ⟨h1, n, c, hc, e, he, by rw [hei, hgen]⟩⟩

/-- A bag without location stays as it is. -/
theorem Turned.bag?_unlocated {s t : State} (h : Turned s t) {g : Handle} {b : Bag} (hb : s.bag? g = some b)
    (hl : b.location = none) : t.bag? g = some b := by
  obtain ⟨l, ht, hol⟩ := h.bag? hb
  have hl' : l = b.location := hol.elim id fun he => he.1.trans hl.symm
  rw [ht, hl']

/-- A bag that no cart holds stays as it is. -/
theorem Turned.bag?_apart {s t : State} (h : Turned s t) {g : Handle} {b : Bag} (hb : s.bag? g = some b)
    (hno : ∀ n c, s.cart? n = some c → ∀ e ∈ c.entries, e.bag ≠ g) : t.bag? g = some b := by
  obtain ⟨l, ht, hol⟩ := h.bag? hb
  have hl' : l = b.location := hol.elim id fun ⟨_, n, c, hc, e, he, heg⟩ => absurd heg (hno n c hc e he)
  rw [ht, hl']

/-! ## Carts that lose an entry or their unidentified items (R127, R140) -/

theorem Cart.isEmpty_iff {c : Cart} : c.isEmpty = true ↔ c.entries = [] ∧ c.unidentified = 0 := by
  simp [Cart.isEmpty]

theorem Turned.retireQueued {s : State} {n : Nat} {c : Cart} (h : s.cart? n = some c) (he : c.entries = []) :
    Turned s (s.retireQueued n) := by
  have hall : ∀ e ∈ c.entries, e.aboard = true := by rw [he]; exact fun _ h => absurd h List.not_mem_nil
  unfold State.retireQueued
  rw [h]
  dsimp only
  split
  · exact Turned.retireCart h hall
  · next k _ =>
    have hq : Turned s (s.modifyRoute k (fun r => { r with queue := r.queue.filter (· != n) })) :=
      Turned.modifyRoute s k fun r _ => ⟨rfl, fun _ hm => List.mem_of_mem_filter hm, .inl rfl⟩
    have hc : (s.modifyRoute k (fun r => { r with queue := r.queue.filter (· != n) })).cart? n = some c := h
    exact hq.trans ((Turned.retireCart hc hall).trans ((Turned.tellCartDone ..).trans (Turned.testIdle ..)))

theorem Turned.testCart (s : State) (n : Nat) : Turned s (s.testCart n) := by
  unfold State.testCart
  split
  · exact Turned.refl s
  · next c hc =>
    split
    · split
      · next he => exact Turned.retireQueued hc (Cart.isEmpty_iff.1 he).1
      · exact Turned.refl s
    · split
      · exact Turned.settleDoor ..
      · exact Turned.refl s
    · exact Turned.refl s

/-! ## Arbitration and completion (R133, R140) -/

theorem exec_doorArbitrate (d : Nat) (s : State) :
    exec (.doorArbitrate d) s = .next (if s.doorFree d then s.settleDoor d else s) := rfl

theorem exec_cartComplete (d : Nat) (s : State) :
    exec (.cartComplete d) s = .next (if s.doorDone d then s.settleDoor d else s) := rfl

theorem arbitrationTakesTurns : Claim.ArbitrationTakesTurns := by
  intro d s
  refine ⟨fun hbusy => ?_, fun x hx hc => ⟨_, execDoorArbitrate_free hx hc, Arbitrates.settleDoor hx hc⟩⟩
  have hf : s.doorFree d = false := by
    rw [State.doorFree]
    cases hx : s.door? d with
    | none => rfl
    | some x => exact Option.isNone_eq_false_iff.2 (Option.isSome_iff_ne_none.2 (hbusy x hx))
  rw [exec_doorArbitrate, hf]
  rfl

theorem State.doorDone_iff {s : State} {d : Nat} : s.doorDone d = true ↔ ∃ x n c, s.door? d = some x ∧ x.cart = some n ∧
    s.cart? n = some c ∧ (∀ e ∈ c.entries, e.aboard = true) ∧ c.unidentified = 0 := by
  rw [State.doorDone, Option.any_eq_true]
  simp only [Option.bind_eq_some_iff, Cart.done_iff]
  constructor
  · rintro ⟨c, ⟨n, ⟨x, hx, hn⟩, hc⟩, hd⟩
    exact ⟨x, n, c, hx, hn, hc, hd⟩
  · rintro ⟨x, n, c, hx, hn, hc, hd⟩
    exact ⟨c, ⟨n, ⟨x, hx, hn⟩, hc⟩, hd⟩

theorem completeCartRetires : Claim.CompleteCartRetires := by
  intro d s complete
  refine ⟨fun hno => ?_, fun x n c hcomplete => ?_⟩
  · have hd : s.doorDone d = false := Bool.eq_false_iff.2 fun h =>
      let ⟨x, n, c, hxnc⟩ := State.doorDone_iff.1 h
      hno x n c hxnc
    rw [exec_cartComplete, hd]
    rfl
  · obtain ⟨hx, hn, hc, he, hu⟩ := hcomplete
    have hdone : c.done = true := Cart.done_iff.2 ⟨he, hu⟩
    have hcompletes := CartCompletes.completeCart (d := d) hc hdone
    obtain ⟨-, hcarts, hdoors, -, hbags, -, -, -, htold, -⟩ := id hcompletes
    have hv : (s.completeCart d n c).door? d = some { x with cart := none } := by
      rw [State.door?, hdoors, Table.get?_modify_same]
      change Option.map _ (s.door? d) = _
      rw [hx]
      rfl
    have hgone : (s.completeCart d n c).cart? n = none := by
      rw [State.cart?, hcarts]
      exact Table.get?_erase_same ..
    have hturned := Turned.settleDoor d (s.completeCart d n c)
    refine ⟨s.completeCart d n c, (s.completeCart d n c).settleDoor d, ?_,
      ((Keeps.completeCart s d n c).comp (Keeps.settleDoor _ d) (by decide) (by decide)).changes, hcompletes,
      execDoorArbitrate_free hv rfl, Arbitrates.settleDoor hv rfl, hturned.cart?_none hgone,
      fun e hm b hb => hturned.bag?_unlocated (hbags e hm b hb) rfl, fun k r h15 hk hr hflag => ?_⟩
    · rw [exec_cartComplete, if_pos (State.doorDone_iff.2 ⟨x, n, c, hx, hn, hc, he, hu⟩),
        State.settleDoor_done hx hn hc hdone]
    · exact hturned.tells.stay _ _ (((htold h15).2 _).2 (.inr ⟨k, r, hk, hr, hflag, rfl⟩))

/-- Settles O32: a free door settles by its arbitration, and one that holds a done cart by the completion and then the arbitration. -/
theorem doorTurns : Obligations.DoorTurns := ⟨arbitrationTakesTurns, completeCartRetires⟩

end Sys2Proof.Machine
end

section
/-! DOOR RELEASE, the conditions of a running belt, and ROUTE START, PAUSE and CONTINUE, and from them their obligations (R129 to
R131, R134, R138). -/

namespace Sys2Proof.Machine

/-! ## DOOR RELEASE (R138) -/

/-- The halt set that DOOR RELEASE leaves, by whether the cart at the door holds unidentified items. -/
def releasedHalts (x : Door) (unidentified : Bool) : HaltSet :=
  ⟨false, false, false, false, false, false, unidentified, x.halts.node⟩

theorem HaltSet.isEmpty_iff {h : HaltSet} : h.isEmpty = true ↔ h = HaltSet.empty := beq_iff_eq

theorem State.beltRuns_halted {s : State} {x : Door} (h : x.halts.isEmpty = false) : s.beltRuns x = false := by
  rw [State.beltRuns, h]
  simp

theorem State.releaseDoor_door? {s : State} {d : Nat} {x : Door} (hx : s.door? d = some x) :
    ∃ y, (s.releaseDoor d x).door? d = some y ∧ y.halts = releasedHalts x (s.doorUnidentified x) ∧
      y = { x with halts := y.halts, running := (s.releaseDoor d x).beltRuns y } := by
  have hu : (s.modifyDoor d (fun x => { x with halts := x.halts.release })).door? d =
      some { x with halts := x.halts.release } := by
    rw [State.modifyDoor_door?, if_pos rfl, hx]
    rfl
  unfold State.releaseDoor
  dsimp only
  cases hd : s.doorUnidentified x with
  | true =>
    rw [if_pos rfl]
    refine ⟨{ x with halts := releasedHalts x true, running := false }, ?_, rfl, ?_⟩
    · rw [State.addHalt_door?, if_pos rfl, hu]
      rfl
    · rw [State.beltRuns_halted]
      exact Bool.eq_false_iff.2 fun h => absurd (congrArg HaltSet.unidentified (HaltSet.isEmpty_iff.1 h)) Bool.noConfusion
  | false =>
    rw [if_neg Bool.false_ne_true]
    refine ⟨_, by rw [State.setBelt_door?, if_pos rfl, hu]; rfl, rfl, ?_⟩
    rw [State.setBelt_beltRuns]
    rfl

theorem State.releaseDoor_other {s : State} {d e : Nat} (he : e ≠ d) (x : Door) :
    (s.releaseDoor d x).door? e = s.door? e := by
  have hu : (s.modifyDoor d (fun x => { x with halts := x.halts.release })).door? e = s.door? e := by
    rw [State.modifyDoor_door?, if_neg he]
  unfold State.releaseDoor
  dsimp only
  split
  · rw [State.addHalt_door?, if_neg he, hu]
  · rw [State.setBelt_door?, if_neg he, hu]

theorem State.addHalt_notices {s : State} {d : Nat} {x : Door} (hx : s.door? d = some x) (w : HaltReason) :
    (s.addHalt d w).notices = (s.raise .doorStopped d).notices := by
  rw [State.addHalt, hx]
  exact (Keeps.setBelt ..).changes .notices (by decide)

theorem State.releaseDoor_notices {s : State} {d : Nat} {x : Door} (hx : s.door? d = some x) :
    (s.releaseDoor d x).notices =
      if s.doorUnidentified x = true then (s.raise .doorStopped d).notices else s.notices := by
  unfold State.releaseDoor
  dsimp only
  split
  · have hu : (s.modifyDoor d (fun x => { x with halts := x.halts.release })).door? d =
        some { x with halts := x.halts.release } := by
      rw [State.modifyDoor_door?, if_pos rfl, hx]
      rfl
    exact State.addHalt_notices hu _
  · exact (Keeps.setBelt ..).changes .notices (by decide)

theorem doorReleaseLeaves : Claim.DoorReleaseReleases := by
  intro h x s hr ho hx
  have hx' : s.taken.door? h.key.number = some x := hx
  obtain ⟨y, hy, hhalts, hbelt⟩ := State.releaseDoor_door? hx'
  have hnotices := State.releaseDoor_notices hx'
  refine ⟨s.taken.releaseDoor h.key.number x, y, ?_,
    (Keeps.releaseDoor s.taken _ x).changes.ofTaken (by decide) (by decide), hy, hhalts, hbelt, fun hu => ?_, fun hu => ?_,
    fun e he => State.releaseDoor_other he x⟩
  · refine ((request_onDoor hr hx 0x45 (fun t => [(t.opState != .setup, .wrongState)]) (fun t x =>
      (t.releaseDoor h.key.number x, Answer.done (.halts ((t.releaseDoor h.key.number x).haltsOf h.key.number))))).trans
      (ruled_pass (firstFailure_pass (bne_iff_ne.2 ho) rfl) ..)).trans ?_
    rw [State.haltsOf, hy]
  · exact hnotices.trans (if_neg (Bool.eq_false_iff.1 hu))
  · have hn : (s.taken.releaseDoor h.key.number x).notices = (s.raise .doorStopped h.key.number).notices :=
      hnotices.trans (if_pos hu)
    refine ⟨hn, fun h15 => ?_⟩
    rw [State.subjects_congr hn]
    exact (State.mem_subjects_raise h15 ..).2 (.inl rfl)

theorem State.doorLoading_iff {s : State} {x : Door} : s.doorLoading x = true ↔
    ∃ n c k, x.cart = some n ∧ s.cart? n = some c ∧ c.route = some k ∧ s.routeState k = .loading := by
  unfold State.doorLoading
  constructor
  · intro h
    split at h
    · cases h
    · next n hn =>
      split at h
      · cases h
      · next c hc =>
        split at h
        · cases h
        · next k hk => exact ⟨n, c, k, hn, hc, hk, beq_iff_eq.1 h⟩
  · rintro ⟨n, c, k, hn, hc, hk, hl⟩
    simp [hn, hc, hk, hl]

theorem State.nodeLive_iff {s : State} {n : Nat} : s.nodeLive n = true ↔ ∃ y, s.node? n = some y ∧ y.state = .live := by
  unfold State.nodeLive
  cases s.node? n <;> simp

theorem beltConditions : Claim.BeltConditions := by
  intro s x
  rw [State.beltRuns, Bool.and_eq_true, Bool.and_eq_true, Bool.and_eq_true, State.doorLoading_iff, HaltSet.isEmpty_iff,
    State.nodeLive_iff, beq_iff_eq, and_assoc, and_assoc]
  rfl

/-- Settles O31: a release rewrites one door's halt set, adds UNIDENTIFIED again where it is due, and sets the belt. -/
theorem doorReleaseReleases : Obligations.DoorReleaseReleases := ⟨doorReleaseLeaves, beltConditions⟩

/-! ## ROUTE PAUSE and ROUTE CONTINUE (R130, R131) -/

theorem State.routeState_eq {s : State} {k : RouteKey} {r : Route} (hr : s.route? k = some r) : s.routeState k = r.state := by
  rw [State.routeState, hr]

theorem State.routeDoor_eq {s : State} {k : RouteKey} {r : Route} (hr : s.route? k = some r) : s.routeDoor k = r.door := by
  rw [State.routeDoor, hr]
  rfl

theorem State.setBelt_at {s : State} {d : Nat} {x : Door} (hx : s.door? d = some x) :
    (s.setBelt d).door? d = some { x with running := (s.setBelt d).beltRuns x } := by
  rw [State.setBelt_door?, if_pos rfl, hx, State.setBelt_beltRuns]
  rfl

theorem State.setBelt_other {s : State} {d e : Nat} (he : e ≠ d) : (s.setBelt d).door? e = s.door? e := by
  rw [State.setBelt_door?, if_neg he]

theorem exec_routePause {h : Head} {b : SlotId} {s : State} (hr : Ready s h 0) (ho : SlotOpen s h b) (hk : h.key.route < 12) :
    exec (.routePause h) s = ruled 0x41 h [setTest s.taken ⟨b, h.key.route⟩] s.taken
      (s.taken.pauseRoute ⟨b, h.key.route⟩, Answer.done .empty) :=
  request_onRoute hr ho hk rfl 0x41 (fun t k => [setTest t k]) (fun t k => (t.pauseRoute k, Answer.done .empty))

theorem routePausePauses : Claim.RoutePausePauses := by
  intro h b s hr ho hk
  have hx := exec_routePause hr ho hk
  refine ⟨fun hu => hx.trans (ruled_fail (firstFailure_stop (bne_eq_false_iff_eq.2 hu)) ..), fun d hu hd => ?_⟩
  have hpause : s.taken.pauseRoute ⟨b, h.key.route⟩ = s.taken.pauseDoor d := by
    have hd' : s.taken.routeDoor ⟨b, h.key.route⟩ = some d := hd
    rw [State.pauseRoute, hd']
  refine ⟨s.taken.pauseDoor d, ?_, ?_, ?_, fun x hdoor => State.setBelt_at hdoor, fun e he => State.setBelt_other he⟩
  · rw [← hpause]
    exact hx.trans (ruled_pass (firstFailure_pass (bne_iff_ne.2 hu) rfl) ..)
  · rw [← hpause]
    exact (Keeps.pauseRoute s.taken _).changes.ofTaken (by decide) (by decide)
  · exact (Keeps.setBelt ..).changes .routes (by decide)

theorem exec_routeContinue {h : Head} {b : SlotId} {s : State} (hr : Ready s h 0) (ho : SlotOpen s h b)
    (hk : h.key.route < 12) :
    let k : RouteKey := ⟨b, h.key.route⟩
    exec (.routeContinue h) s = ruled 0x42 h
      [setTest s.taken k, (s.taken.routeState k != .loading, .wrongState), ((s.taken.routeCart k).isSome, .notAtDoor)]
      s.taken (s.taken.continueRoute k, Answer.done .empty) :=
  request_onRoute hr ho hk rfl 0x42
    (fun t k => [setTest t k, (t.routeState k != .loading, .wrongState), ((t.routeCart k).isSome, .notAtDoor)])
    (fun t k => (t.continueRoute k, Answer.done .empty))

theorem routeContinueLoads : Claim.RouteContinueLoads := by
  intro h b r s hr ho hk hroute
  have hx := exec_routeContinue hr ho hk
  have hroute' : s.taken.route? ⟨b, h.key.route⟩ = some r := hroute
  have hstate : s.taken.routeState ⟨b, h.key.route⟩ = r.state := State.routeState_eq hroute'
  have t1 (hs : r.state ≠ .unset) : (s.taken.routeState ⟨b, h.key.route⟩ != .unset) = true :=
    bne_iff_ne.2 (by rw [hstate]; exact hs)
  refine ⟨fun hs => ?_, fun hs hc => ?_, fun d hs hc hd => ?_⟩
  · rcases hs with hs | hs
    · exact hx.trans (ruled_fail (firstFailure_stop (bne_eq_false_iff_eq.2 (hstate.trans hs))) ..)
    · exact hx.trans (ruled_fail (firstFailure_pass (t1 (by rw [hs]; exact RouteState.noConfusion))
        (firstFailure_stop (bne_eq_false_iff_eq.2 (hstate.trans hs)))) ..)
  all_goals
    have t2 : (s.taken.routeState ⟨b, h.key.route⟩ != .loading) = true := by
      rw [hstate, hs]
      rfl
    have t1' := t1 (by rw [hs]; exact RouteState.noConfusion)
  · exact hx.trans (ruled_fail (firstFailure_pass t1' (firstFailure_pass t2 (firstFailure_stop
      (Option.isSome_eq_false_iff.2 (Option.isNone_iff_eq_none.2 hc))))) ..)
  · let u := s.taken.modifyRoute ⟨b, h.key.route⟩ (fun r => { r with state := .loading })
    have hu : u.route? ⟨b, h.key.route⟩ = some { r with state := .loading } := State.modifyRoute_same hroute' _
    have hcont : s.taken.continueRoute ⟨b, h.key.route⟩ = u.setBelt d := by
      have hud : u.routeDoor ⟨b, h.key.route⟩ = some d := (State.routeDoor_eq hu).trans hd
      change (match u.routeDoor ⟨b, h.key.route⟩ with | some d => u.setBelt d | none => u) = _
      rw [hud]
    have hroutes : (u.setBelt d).routes = u.routes := (Keeps.setBelt ..).changes .routes (by decide)
    refine ⟨u.setBelt d, ?_, ?_, ?_, fun i hi => ?_, fun x hdoor => State.setBelt_at hdoor,
      fun e he => State.setBelt_other he⟩
    · rw [← hcont]
      exact hx.trans (ruled_pass (firstFailure_pass t1' (firstFailure_pass t2 (firstFailure_pass
        (Option.isSome_iff_ne_none.2 hc) rfl))) ..)
    · rw [← hcont]
      exact (Keeps.continueRoute s.taken _).changes.ofTaken (by decide) (by decide)
    · rw [State.route?, hroutes]
      exact hu
    · rw [hroutes]
      exact List.getElem?_modify_ne _ _ (Ne.symm hi)

/-! ## ROUTE START (R129) -/

theorem exec_routeStart {h : Head} {b : SlotId} {s : State} (hr : Ready s h 1) (ho : SlotOpen s h b)
    (hk : h.key.route < 12) (stay : Bool) :
    let k : RouteKey := ⟨b, h.key.route⟩
    exec (.routeStart h (some stay)) s = ruled 0x40 h
      [setTest s.taken k, (s.taken.routeState k == .idle, .wrongState), ((s.taken.routeCart k).isNone, .atDoor),
        (!s.taken.queueEmpty k || stay, .emptyQueue)]
      s.taken (s.taken.startRoute k stay, Answer.done .empty) :=
  request_onRoute hr ho hk rfl 0x40
    (fun t k => [setTest t k, (t.routeState k == .idle, .wrongState), ((t.routeCart k).isNone, .atDoor),
      (!t.queueEmpty k || stay, .emptyQueue)])
    (fun t k => (t.startRoute k stay, Answer.done .empty))

theorem State.queueEmpty_eq {s : State} {k : RouteKey} {r : Route} (hr : s.route? k = some r) :
    s.queueEmpty k = r.queue.isEmpty := by
  rw [State.queueEmpty, hr]

theorem Turned.settleRoute (k : RouteKey) (s : State) : Turned s (s.settleRoute k) := by
  unfold State.settleRoute
  split
  · exact Turned.settleDoor ..
  · exact Turned.refl s

theorem State.settleRoute_eq {s : State} {k : RouteKey} {r : Route} (hr : s.route? k = some r) :
    s.settleRoute k = match r.door with
      | some d => s.settleDoor d
      | none => s := by
  rw [State.settleRoute, State.routeDoor_eq hr] <;> rfl

theorem State.settleDoor_none {s : State} {d : Nat} (h : s.door? d = none) : s.settleDoor d = s := by
  have ht : s.doorTurn d = none := by rw [State.doorTurn, h]
  rw [State.settleDoor_eq, ht]
  exact State.setBelt_none h

theorem RouteKey.eq_of_subject {b c : SlotId} {i j : Nat} (hi : i < 12) (hj : j < 12)
    (h : RouteKey.subject ⟨b, i⟩ = RouteKey.subject ⟨c, j⟩) : (⟨b, i⟩ : RouteKey) = ⟨c, j⟩ := by
  cases b <;> cases c <;> simp only [RouteKey.subject, SlotId.toNat] at h
  · rw [show i = j by omega]
  · omega
  · omega
  · rw [show i = j by omega]

theorem routeStartLoads : Claim.RouteStartLoads := by
  intro h stay b r s hr ho hk hroute k refused loading u
  have hx := exec_routeStart hr ho hk stay
  have hroute' : s.taken.route? k = some r := hroute
  have hstate : s.taken.routeState k = r.state := State.routeState_eq hroute'
  have t1 (hs : r.state ≠ .unset) : (s.taken.routeState k != .unset) = true := bne_iff_ne.2 (by rw [hstate]; exact hs)
  have t2 (hs : r.state = .idle) : (s.taken.routeState k == .idle) = true := beq_iff_eq.2 (hstate.trans hs)
  have past {l : List (Bool × Result)} {x : Option Result} (hs : r.state = .idle) (hl : firstFailure l = x) :
      firstFailure ((s.taken.routeState k != .unset, Result.wrongState) :: (s.taken.routeState k == .idle, .wrongState) :: l) =
        x :=
    firstFailure_pass (t1 (by rw [hs]; exact RouteState.noConfusion)) (firstFailure_pass (t2 hs) hl)
  refine ⟨fun hs => ?_, fun hs hc => ?_, fun hs hc hq hst => ?_, fun hs hc hq => ?_⟩
  · by_cases hu : r.state = .unset
    · exact hx.trans (ruled_fail (firstFailure_stop (bne_eq_false_iff_eq.2 (hstate.trans hu))) ..)
    · exact hx.trans (ruled_fail (firstFailure_pass (t1 hu) (firstFailure_stop (beq_false_of_ne (by
        rw [hstate]; exact hs)))) ..)
  · exact hx.trans (ruled_fail (past hs (firstFailure_stop (Option.isNone_eq_false_iff.2 (Option.isSome_iff_ne_none.2 hc)))) ..)
  all_goals
    have t3 : (s.taken.routeCart k).isNone = true := Option.isNone_iff_eq_none.2 hc
    have hqueue := State.queueEmpty_eq hroute'
  · refine hx.trans (ruled_fail (past hs (firstFailure_pass t3 (firstFailure_stop ?_))) ..)
    rw [hqueue, hq, hst]
    rfl
  · have t4 : (!s.taken.queueEmpty k || stay) = true := by
      rw [hqueue, Bool.or_eq_true, Bool.not_eq_true', List.isEmpty_eq_false_iff]
      exact hq
    have hu : u.route? k = some loading := State.modifyRoute_same hroute' (fun r => { r with state := .loading, stay := stay })
    have hstart : s.taken.startRoute k stay = u.settleRoute k := rfl
    have hsettle := State.settleRoute_eq hu
    obtain ⟨x, hxr, hx1, -, hx3⟩ := (Turned.settleRoute k u).routes k _ hu
    have heq {z : Route} (hz : (u.settleRoute k).route? k = some z) : x = z := Option.some.inj (hxr.symm.trans hz)
    refine ⟨u.settleRoute k, x, ?_, ?_, hxr, by rw [hx1], by rw [hx1], by rw [hx1], by rw [hx1], ?_, fun hno => ?_,
      fun d y m c hd hy hm hc hnd => ?_, fun d y hd hy hm => ?_⟩
    · exact hx.trans (ruled_pass (past hs (firstFailure_pass t3 (firstFailure_pass t4 rfl))) ..)
    · exact (Keeps.startRoute s.taken k stay).changes.ofTaken (by decide) (by decide)
    · exact hx3.imp (fun h => h) fun ⟨_, h1, h2⟩ => ⟨h1, h2⟩
    · rw [hsettle]
      cases hd : loading.door with
      | none => rfl
      | some d => exact State.settleDoor_none (hno d hd)
    all_goals
      have hst : u.settleRoute k = u.settleDoor d := by
        rw [hsettle, show loading.door = some d from hd]
      have hy' : u.door? d = some y := hy
    · have hbusy : u.settleDoor d = u.setBelt d := State.settleDoor_busy hy' hm hc hnd
      have hkeep := (Keeps.setBelt u d).changes
      rw [hst, hbusy]
      refine ⟨hkeep, heq ?_, State.setBelt_at hy', fun e he => State.setBelt_other he⟩
      rw [hst, hbusy, State.route?, hkeep .routes (by decide)]
      exact hu
    · have harb := Arbitrates.settleDoor hy' hm
      obtain ⟨hidle, hwins⟩ := id harb
      rw [hst]
      refine ⟨harb, fun hno => ?_, fun w v n rest c hw hnd => ?_⟩
      · obtain ⟨hkeep, hdoor, -, -⟩ := hidle hno
        refine ⟨heq ?_, _, hdoor, hm⟩
        rw [hst, State.route?, hkeep .routes (by decide)]
        exact hu
      · have hcome := (hwins w v n rest c hw).1 hnd
        refine ⟨hcome, heq ?_⟩
        obtain ⟨-, -, -, hwr, -, -, hothers, -⟩ := hcome
        obtain ⟨⟨i, hi, hwk, -⟩, hv, -⟩ := hw
        rw [hst]
        by_cases hsame : w = k
        · subst hsame
          cases hu.symm.trans hv
          rw [if_pos rfl]
          exact hwr
        · rw [if_neg hsame]
          refine (hothers k.subject fun he => hsame ?_).trans hu
          rw [hwk] at he ⊢
          exact (RouteKey.eq_of_subject hk (Nat.mod_lt _ (by decide)) he).symm

/-- Settles O30: each request's tests in their order, and its effect on the routes and, by the settling of the door, on the rest. -/
theorem routesLoad : Obligations.RoutesLoad := ⟨routeStartLoads, routePausePauses, routeContinueLoads⟩

end Sys2Proof.Machine
end

section
/-! CHUTE ASSIGN, CHUTE OPEN and CHUTE CLOSE, and from them their obligations (R109 to R112). -/

namespace Sys2Proof.Machine

/-! ## CHUTE ASSIGN (R110) -/

theorem execChuteAssign_slot {h : Head} {slot route : Byte} {b : SlotId} {s : State} (hr : Ready s h 2)
    (hb : SlotId.ofNat? slot.toNat = some b) :
    exec (.chuteAssign h slot route) s = ruled 0x38 h ((decide (route.toNat < 12), .badField) :: sailingTests s.taken b) s.taken
      (onChute h s.taken (fun c => assignTests s.taken h.key.number c ⟨b, route.toNat⟩)
        (fun c => (s.taken.assignChute h.key.number c ⟨b, route.toNat⟩, Answer.done .empty))) := by
  change request 0x38 h 2 (fun t => match SlotId.ofNat? slot.toNat with | none => _ | some b => _) s = _
  rw [hb, request_ready hr]
  rfl

/-- The tests of R3 that CHUTE ASSIGN makes pass. -/
theorem assignSlot_pass {s : State} {b : SlotId} {n : Nat} (hn : n < 12) (ho : s.opState ≠ .setup)
    (hb : s.slotState b = .opened) : firstFailure ((decide (n < 12), .badField) :: sailingTests s b) = none :=
  firstFailure_pass (decide_eq_true hn) (sailingTests_pass ho hb)

theorem execChuteAssign_chute {h : Head} {slot route : Byte} {b : SlotId} {c : Chute} {s : State} (hr : Ready s h 2)
    (hb : SlotId.ofNat? slot.toNat = some b) (hn : route.toNat < 12) (ho : s.opState ≠ .setup) (hs : s.slotState b = .opened)
    (hc : s.chute? h.key.number = some c) :
    exec (.chuteAssign h slot route) s = ruled 0x38 h (assignTests s.taken h.key.number c ⟨b, route.toNat⟩) s.taken
      (s.taken.assignChute h.key.number c ⟨b, route.toNat⟩, Answer.done .empty) := by
  have hc' : s.taken.chute? h.key.number = some c := hc
  refine ((execChuteAssign_slot hr hb).trans (ruled_pass (assignSlot_pass (s := s.taken) hn ho hs) ..)).trans ?_
  rw [onChute, hc']
  rfl

theorem State.giveRoute_cart? (k : RouteKey) (l : List Nat) (s : State) (n : Nat) : (s.giveRoute k l).cart? n =
    if n ∈ l then (s.cart? n).map (fun c => { c with route := some k }) else s.cart? n := by
  induction l generalizing s with
  | nil => rfl
  | cons m t ih =>
    rw [State.giveRoute, ih, State.modifyCart_cart?]
    by_cases hm : n = m
    · subst hm
      rw [if_pos rfl, if_pos List.mem_cons_self]
      split
      · rw [Option.map_map]
        rfl
      · rfl
    · rw [if_neg hm]
      exact if_congr (by rw [List.mem_cons, or_iff_right hm]) rfl rfl

theorem Position.serial?_iff {p : Position} {n : Nat} : n ∈ p.serial?.toList ↔ p = .cart n := by
  cases p <;> simp [Position.serial?, eq_comm]

theorem Chute.mem_serials {c : Chute} {n : Nat} : n ∈ c.serials ↔ c.posX = .cart n ∨ c.posY = .cart n := by
  rw [Chute.serials, List.mem_append, Position.serial?_iff, Position.serial?_iff]

theorem State.routeChutes_eq {s : State} {k : RouteKey} {r : Route} (hr : s.route? k = some r) :
    s.routeChutes k = r.chutes := by
  rw [State.routeChutes, hr]

/-- The state CHUTE ASSIGN leaves where the chute has no route. -/
theorem State.assignChute_new {s : State} {n : Nat} {c : Chute} {k : RouteKey} {r : Route} (hc : s.chute? n = some c)
    (hr : s.route? k = some r) (ha : c.assigned = none) :
    let t := s.assignChute n c k
    t.chute? n = some { c with assigned := some k } ∧ (∀ j, j ≠ n → t.chute? j = s.chute? j) ∧
    t.route? k = some { r with chutes := insertChute n r.chutes } ∧
    ∀ m x, s.cart? m = some x →
      t.cart? m = some (if c.posX = .cart m ∨ c.posY = .cart m then { x with route := some k } else x) := by
  intro t
  let u := s.modifyChute n (fun c => { c with assigned := some k })
  let v := u.modifyRoute k (fun r => { r with chutes := insertChute n r.chutes })
  have ht : t = v.giveRoute k c.serials := if_neg (by rw [ha]; exact (Option.some_ne_none k).symm)
  have hkeep := (Keeps.giveRoute k c.serials v).changes
  have hchute (j : Nat) : t.chute? j = u.chute? j := by
    rw [ht, State.chute?, hkeep .chutes (by decide)]
    rfl
  refine ⟨?_, fun j hj => ?_, ?_, fun m x hx => ?_⟩
  · rw [hchute, State.modifyChute_chute?, if_pos rfl, hc]
    rfl
  · rw [hchute, State.modifyChute_chute?, if_neg hj]
  · rw [ht, State.route?, hkeep .routes (by decide)]
    exact State.modifyRoute_same (s := u) hr _
  · have hx' : v.cart? m = some x := hx
    rw [ht, State.giveRoute_cart?, hx']
    simp only [Chute.mem_serials]
    split <;> rfl

/-- Settles O26: the tests of R3, of the chute and of R110 in their order, and what the assignment writes. -/
theorem chuteAssignBinds : Obligations.ChuteAssignBinds := by
  intro h slot route b s hr hb hn
  have hx := execChuteAssign_slot (route := route) hr hb
  have t0 : decide (route.toNat < 12) = true := decide_eq_true hn
  refine ⟨fun ho => ?_, fun ho hs => ?_, fun ho hs => ?_, fun ho hs hc => ?_, fun c r ho hs hc hkind hroute => ?_⟩
  · exact hx.trans (ruled_fail (firstFailure_pass t0 (firstFailure_stop (bne_eq_false_iff_eq.2 ho))) ..)
  · exact hx.trans (ruled_fail (firstFailure_pass t0 (firstFailure_pass (bne_iff_ne.2 ho)
      (firstFailure_stop (bne_eq_false_iff_eq.2 hs)))) ..)
  · have t2 : (s.taken.slotState b != .closing) = true :=
      bne_iff_ne.2 (by rw [show s.taken.slotState b = .free from hs]; exact SlotState.noConfusion)
    exact hx.trans (ruled_fail (firstFailure_pass t0 (firstFailure_pass (bne_iff_ne.2 ho) (firstFailure_pass t2
      (firstFailure_stop (bne_eq_false_iff_eq.2 hs))))) ..)
  · have hc' : s.taken.chute? h.key.number = none := hc
    refine (hx.trans (ruled_pass (assignSlot_pass (s := s.taken) hn ho hs) ..)).trans ?_
    rw [onChute, hc']
  · have hx := execChuteAssign_chute hr hb hn ho hs hc
    have hchutes : s.taken.routeChutes ⟨b, route.toNat⟩ = r.chutes := State.routeChutes_eq (s := s.taken) hroute
    have t1 : (c.kind == .deck) = true := beq_iff_eq.2 hkind
    have room : ((s.taken.routeChutes ⟨b, route.toNat⟩).contains h.key.number ||
        decide ((s.taken.routeChutes ⟨b, route.toNat⟩).length < 4)) = true ↔
        h.key.number ∈ r.chutes ∨ r.chutes.length < 4 := by
      rw [hchutes]
      simp
    refine ⟨fun ha => ?_, fun k ha hk => ?_, fun ha hin hlen => ?_, fun ha hlen => ?_⟩
    · have t2 : c.assigned.all (· == (⟨b, route.toNat⟩ : RouteKey)) = true := by
        rw [ha]
        exact beq_self_eq_true _
      have hstay : s.taken.assignChute h.key.number c ⟨b, route.toNat⟩ = s.taken := if_pos ha
      split
      · next hroom =>
        refine (hx.trans (ruled_pass (firstFailure_pass t1 (firstFailure_pass t2 (firstFailure_pass (room.2 hroom) rfl))) ..)).trans ?_
        rw [hstay]
      · next hroom =>
        exact hx.trans (ruled_fail (firstFailure_pass t1 (firstFailure_pass t2 (firstFailure_stop
          (Bool.eq_false_iff.2 (mt room.1 hroom))))) ..)
    · have t2 : c.assigned.all (· == (⟨b, route.toNat⟩ : RouteKey)) = false := by
        rw [ha]
        exact beq_false_of_ne hk
      exact hx.trans (ruled_fail (firstFailure_pass t1 (firstFailure_stop t2)) ..)
    all_goals
      have t2 : c.assigned.all (· == (⟨b, route.toNat⟩ : RouteKey)) = true := by
        rw [ha]
        rfl
    · exact hx.trans (ruled_fail (firstFailure_pass t1 (firstFailure_pass t2 (firstFailure_stop
        (Bool.eq_false_iff.2 (mt room.1 (not_or_intro hin (Nat.not_lt.2 hlen))))))) ..)
    · obtain ⟨h1, h2, h3, h4⟩ := State.assignChute_new (s := s.taken) hc hroute ha
      exact ⟨_, insertChute h.key.number r.chutes,
        hx.trans (ruled_pass (firstFailure_pass t1 (firstFailure_pass t2 (firstFailure_pass (room.2 (.inr hlen)) rfl))) ..),
        (Keeps.assignChute s.taken _ c _).changes.ofTaken (by decide) (by decide), h1, h2, h3,
        fun k => mem_insertSubject .., h4⟩

/-! ## CHUTE OPEN and CHUTE CLOSE (R111, R112) -/

theorem exec_chuteOpen {h : Head} {c : Chute} {s : State} (hr : Ready s h 0) (hc : s.chute? h.key.number = some c) :
    exec (.chuteOpen h) s = ruled 0x39 h
      [(s.taken.opState != .setup, .wrongState), (!s.taken.nodeDown? c.node, .wrongState)] s.taken
      (s.taken.openChute h.key.number c, Answer.done .empty) :=
  request_onChute hr hc 0x39 (fun t c => [(t.opState != .setup, .wrongState), (!t.nodeDown? c.node, .wrongState)])
    (fun t c => (t.openChute h.key.number c, Answer.done .empty))

theorem State.nodeDown?_iff {s : State} {n : Nat} : s.nodeDown? n = true ↔ ∃ x, s.node? n = some x ∧ x.state = .down := by
  unfold State.nodeDown?
  cases s.node? n <;> simp

theorem shut_iff {x : ChuteState} : shut x = true ↔ x = .closed ∨ ∃ f, x = .fault f := by
  cases x <;> simp [shut]

/-- A chute as CHUTE OPEN leaves it. -/
def Chute.opened (c : Chute) : Chute :=
  { c with
    failures := 0
    state := match c.state with
      | .opened => .opened
      | .blocked => .blocked
      | _ => if c.kind = .deck ∧ c.active = none then .blocked else .opened }

theorem Chute.opened_shut {c : Chute} (h : shut c.state = true) : c.opened =
    { c with failures := 0, state := if c.kind = .deck ∧ c.active = none then .blocked else .opened } := by
  rcases shut_iff.1 h with hs | ⟨f, hs⟩ <;> rw [Chute.opened, hs]

theorem Chute.opened_open {c : Chute} (h : shut c.state = false) : c.opened = { c with failures := 0 } := by
  obtain hs | hs : c.state = .opened ∨ c.state = .blocked := by
    cases hs : c.state <;> simp [hs, shut] at h ⊢
  all_goals
    rw [Chute.opened, hs]

theorem State.modifyChute_at {s : State} {n : Nat} {c : Chute} (hc : s.chute? n = some c) (f : Chute → Chute) (j : Nat) :
    (s.modifyChute n f).chute? j = if j = n then some (f c) else s.chute? j := by
  rw [State.modifyChute_chute?]
  split
  · next h => rw [h, hc]; rfl
  · rfl

theorem State.openChute_chute? {s : State} {n : Nat} {c : Chute} (hc : s.chute? n = some c) (j : Nat) :
    (s.openChute n c).chute? j = if j = n then some c.opened else s.chute? j := by
  have h1 := State.modifyChute_at hc (fun c => { c with failures := 0 })
  have h2 (x : ChuteState) : ((s.modifyChute n (fun c => { c with failures := 0 })).modifyChute n
      (fun c => { c with state := x })).chute? j = if j = n then some { c with failures := 0, state := x } else s.chute? j := by
    rw [State.modifyChute_at ((h1 n).trans (if_pos rfl)), h1]
    split <;> rfl
  unfold State.openChute
  dsimp only
  cases hs : shut c.state with
  | false =>
    rw [if_neg Bool.false_ne_true, Chute.opened_open hs]
    exact h1 j
  | true =>
    rw [if_pos rfl, Chute.opened_shut hs]
    split
    · exact h2 .blocked
    · exact h2 .opened

theorem State.openChute_notices (s : State) (n : Nat) (c : Chute) : (s.openChute n c).notices =
    if shut c.state = true ∧ c.kind = .deck ∧ c.active = none then (s.raise .chuteBlocked n).notices else s.notices := by
  unfold State.openChute
  dsimp only
  by_cases hs : shut c.state = true
  · rw [if_pos hs]
    by_cases hk : c.kind = .deck ∧ c.active = none
    · rw [if_pos hk, if_pos ⟨hs, hk⟩]
      rfl
    · rw [if_neg hk, if_neg (not_and_of_not_right _ hk)]
      rfl
  · rw [if_neg hs, if_neg (not_and_of_not_left _ hs)]
    rfl

theorem chuteOpenOpens : Claim.ChuteOpenOpens := by
  intro h s hr
  refine ⟨fun hc => ?_, fun c hc hbad => ?_, fun c hc ho hn => ?_⟩
  · exact request_onChute_none hr hc 0x39
      (fun t c => [(t.opState != .setup, .wrongState), (!t.nodeDown? c.node, .wrongState)])
      (fun t c => (t.openChute h.key.number c, Answer.done .empty))
  · have hx := exec_chuteOpen hr hc
    by_cases ho : s.opState = .setup
    · exact hx.trans (ruled_fail (firstFailure_stop (bne_eq_false_iff_eq.2 ho)) ..)
    · have t2 : (!s.taken.nodeDown? c.node) = false := by
        have hdown : s.taken.nodeDown? c.node = true := State.nodeDown?_iff.2 (hbad.resolve_left ho)
        rw [hdown]
        rfl
      exact hx.trans (ruled_fail (firstFailure_pass (bne_iff_ne.2 ho) (firstFailure_stop t2)) ..)
  · have t2 : (!s.taken.nodeDown? c.node) = true := by
      have hdown : s.taken.nodeDown? c.node = false := Bool.eq_false_iff.2 fun h =>
        let ⟨x, hx, hd⟩ := State.nodeDown?_iff.1 h
        hn x hx hd
      rw [hdown]
      rfl
    have hnotices := s.taken.openChute_notices h.key.number c
    refine ⟨s.taken.openChute h.key.number c,
      (exec_chuteOpen hr hc).trans (ruled_pass (firstFailure_pass (bne_iff_ne.2 ho) (firstFailure_pass t2 rfl)) ..),
      (Keeps.openChute s.taken _ c).changes.ofTaken (by decide) (by decide), fun k hk => ?_, ?_, fun hs hk ha => ?_,
      fun hno => hnotices.trans (if_neg fun h => hno ⟨shut_iff.1 h.1, h.2⟩)⟩
    · exact (State.openChute_chute? (s := s.taken) hc k).trans (if_neg hk)
    · exact (State.openChute_chute? (s := s.taken) hc _).trans (if_pos rfl)
    · have hraised : (s.taken.openChute h.key.number c).notices = (s.raise .chuteBlocked h.key.number).notices :=
        hnotices.trans (if_pos ⟨shut_iff.2 hs, hk, ha⟩)
      refine ⟨hraised, fun h15 => ?_⟩
      rw [State.subjects_congr hraised]
      exact (State.mem_subjects_raise h15 ..).2 (.inl rfl)

theorem chuteCloseCloses : Claim.ChuteCloseCloses := by
  intro h s hr
  refine ⟨fun hc => ?_, fun c hc => ?_⟩
  · exact request_onChute_none hr hc 0x3A (fun t _ => [(t.opState != .setup, .wrongState)])
      (fun t _ => (t.modifyChute h.key.number (fun c => { c with state := .closed }), Answer.done .empty))
  · have hx := request_onChute hr hc 0x3A (fun t _ => [(t.opState != .setup, .wrongState)])
      (fun t _ => (t.modifyChute h.key.number (fun c => { c with state := .closed }), Answer.done .empty))
    refine ⟨fun ho => hx.trans (ruled_fail (firstFailure_stop (bne_eq_false_iff_eq.2 ho)) ..), fun ho =>
      ⟨_, hx.trans (ruled_pass (firstFailure_pass (bne_iff_ne.2 ho) rfl) ..),
        (Keeps.modifyChute s.taken _ _).changes.ofTaken (by decide) (by decide), fun k hk => ?_, ?_, ?_⟩⟩
    · exact (State.modifyChute_chute? ..).trans (if_neg hk)
    · refine (State.modifyChute_chute? ..).trans ?_
      have hc' : s.taken.chute? h.key.number = some c := hc
      rw [if_pos rfl, hc']
      rfl
    · exact if_neg ChuteState.noConfusion

/-- Settles O27: one chute's record is rewritten, and a chute that opens without an active cart raises its notice. -/
theorem chutesOpenAndClose : Obligations.ChutesOpenAndClose := ⟨chuteOpenOpens, chuteCloseCloses⟩

end Sys2Proof.Machine
end

section
/-! The creation of a bag record, and BAG REGISTER, and from them its obligation (R21, R31, R32, R36). -/

namespace Sys2Proof.Machine

/-! ## Creation (R21) -/

/-- The store that a creation leaves, with the handle of the new record. -/
def Store.withBag (t : Store) (b : Bag) : Store :=
  (Store.mapTag { t with bags := t.bags.put (t.bags.lowestFree 0) b } b.tag ⟨t.bags.lowestFree 0, t.gen (t.bags.lowestFree 0)⟩).countIn
    b.home b.state

/-- The handle of the record that a creation takes. -/
def Store.newHandle (t : Store) : Handle := ⟨t.bags.lowestFree 0, t.gen (t.bags.lowestFree 0)⟩

theorem Store.create_eq (t : Store) (b : Bag) : t.create b =
    if t.bags.length < bagRecords then some (t.newHandle, t.withBag b) else none := rfl

theorem Store.mapTag_bags (t : Store) (tag : Option Nat) (h : Handle) : (t.mapTag tag h).bags = t.bags := by
  cases tag <;> rfl

theorem Store.mapTag_gens (t : Store) (tag : Option Nat) (h : Handle) : (t.mapTag tag h).gens = t.gens := by
  cases tag <;> rfl

theorem Store.mapTag_cabins (t : Store) (tag : Option Nat) (h : Handle) : (t.mapTag tag h).cabins = t.cabins := by
  cases tag <;> rfl

theorem Store.mapTag_slot (t : Store) (tag : Option Nat) (h : Handle) (v : SlotId) : (t.mapTag tag h).slot v = t.slot v := by
  cases tag <;> cases v <;> rfl

theorem Store.withBag_bags (t : Store) (b : Bag) : (t.withBag b).bags = t.bags.put (t.bags.lowestFree 0) b := by
  rw [Store.withBag, Store.countIn_bags, Store.mapTag_bags]

theorem Store.withBag_gens (t : Store) (b : Bag) : (t.withBag b).gens = t.gens := by
  rw [Store.withBag, Store.countIn_eq, (Store.Counts.recount ..).gens, Store.mapTag_gens]

theorem Store.withBag_tagMap (t : Store) (b : Bag) : (t.withBag b).tagMap = (t.mapTag b.tag t.newHandle).tagMap := by
  rw [Store.withBag, Store.countIn_eq, (Store.Counts.recount ..).tagMap]
  cases b.tag <;> rfl

theorem Store.withBag_bag? (t : Store) (b : Bag) : (t.withBag b).bag? t.newHandle = some b := by
  refine Store.bag?_eq_some.2 ⟨?_, ?_⟩
  · rw [Store.gen, Store.withBag_gens]
    rfl
  · rw [Store.withBag_bags]
    exact Table.get?_put_same ..

theorem Store.withBag_alike (t : Store) (b : Bag) : Store.Alike t (t.withBag b) := by
  rw [Store.withBag, Store.countIn_eq]
  have hmap : Store.Alike t (({ t with bags := t.bags.put (t.bags.lowestFree 0) b } : Store).mapTag b.tag t.newHandle) :=
    Store.Alike.same (Store.mapTag_cabins ..)
  exact hmap.trans (Store.Alike.recount _ _ _ fun _ => rfl)

theorem Store.withBag_counts (t : Store) (b : Bag) (v : SlotId) : ((t.withBag b).slot v).counts =
    if b.home.any (fun k => k.slot == v) = true then (t.slot v).counts.inc b.state else (t.slot v).counts := by
  rw [Store.withBag, Store.countIn_eq, Store.recount_counts, Store.mapTag_slot]
  cases v <;> rfl

theorem Store.withBag_state (t : Store) (b : Bag) (v : SlotId) : ((t.withBag b).slot v).state = (t.slot v).state := by
  rw [Store.withBag, Store.countIn_eq, (Store.Counts.recount ..).state, Store.mapTag_slot]
  cases v <;> rfl

theorem Store.withBag_home (t : Store) {b : Bag} {k : CabinKey} {c : Cabin} (hk : b.home = some k)
    (hc : t.cabin? k = some c) : (t.withBag b).cabin? k = some { c with
      liveBags := c.liveBags + 1, aboard := if b.state = .aboard then c.aboard + 1 else c.aboard } := by
  rw [Store.withBag, Store.countIn_eq, hk, Store.recount_home, Store.cabin?, Store.mapTag_cabins]
  change Option.map _ (t.cabin? k) = _
  rw [hc]
  rfl

/-- The state that a creation leaves, by whether it declares the low condition. -/
def State.withBag (s : State) (b : Bag) : State :=
  if !s.store.low && (s.store.withBag b).low then
    ((s.setStore (s.store.withBag b)).raise .capacity 0).putCauseAll .table true
  else s.setStore (s.store.withBag b)

theorem State.createBag_eq (s : State) (b : Bag) : s.createBag b =
    if s.store.bags.length < bagRecords then some (s.store.newHandle, s.withBag b) else none := by
  rw [State.createBag, Store.create_eq]
  split
  · next h =>
    split at h
    · cases h
    · next hn => rw [if_neg hn]
  · next h =>
    split at h
    · next hl =>
      cases h
      rw [if_pos hl]
      rfl
    · cases h

theorem State.withBag_store (s : State) (b : Bag) : (s.withBag b).store = s.store.withBag b := by
  unfold State.withBag
  split
  · exact State.putCauseAll_store ..
  · rfl

/-- What a creation leaves. -/
theorem Created.withBag (s : State) (b : Bag) (hlen : s.store.bags.length < bagRecords) :
    Created s (s.withBag b) s.store.newHandle none b := by
  refine ⟨?_, rfl, fun i hi _ => ?_, fun ht => ?_, fun n ht => ?_, fun hl => ?_⟩
  · rw [State.bag?, State.withBag_store]
    exact Store.withBag_bag? ..
  · rw [State.withBag_store, Store.withBag_bags]
    exact Table.get?_put_other _ hi _
  · rw [State.withBag_store, Store.withBag_tagMap, ht]
    rfl
  · rw [State.withBag_store, Store.withBag_tagMap, ht]
    rfl
  · obtain ⟨hw, -⟩ := hl
    obtain ⟨h1, h2⟩ := Table.lowestFree_spec hw 0 fun _ _ => Nat.zero_le _
    have hle := Table.lowestFree_le s.store.bags 0
    rw [Nat.zero_add] at hle
    exact ⟨Nat.lt_of_le_of_lt hle hlen, h1, fun j hj => Option.isSome_iff_exists.2 (h2 j (Nat.zero_le _) hj)⟩

theorem State.withBag_length {s : State} (hl : BagTableLaw s) (b : Bag) :
    (s.withBag b).store.bags.length = s.store.bags.length + 1 := by
  obtain ⟨hw, -⟩ := hl
  rw [State.withBag_store, Store.withBag_bags]
  exact Table.length_put_new (Table.lowestFree_spec hw 0 fun _ _ => Nat.zero_le _).1 _

theorem State.withBag_loop (s : State) (b : Bag) :
    (s.withBag b).loop = { s.loop with points := (s.withBag b).loop.points } := by
  unfold State.withBag
  split
  · exact State.putCauseAll_loop ..
  · rfl

theorem State.withBag_quiet {s : State} (hl : BagTableLaw s) (b : Bag) (hn : 16384 - s.store.bags.length ≠ 64) :
    s.withBag b = s.setStore (s.store.withBag b) := by
  refine if_neg fun h => ?_
  rw [Bool.and_eq_true, Bool.not_eq_true', ← State.withBag_store] at h
  obtain ⟨h1, h2⟩ := h
  have h2' := Store.low_iff.1 h2
  have h1' := mt Store.low_iff.2 (Bool.eq_false_iff.1 h1)
  rw [State.withBag_length hl] at h2'
  omega

/-! ## BAG REGISTER (R36) -/

theorem exec_bagRegister {h : Head} {tag : BitVec 32} {b : SlotId} {s : State} (hr : Ready s h 4) (ho : SlotOpen s h b)
    (hk : h.key.cabin ≠ 0) :
    exec (.bagRegister h tag) s = ruled 0x20 h (registerTests s.taken ⟨b, h.key.cabin⟩ tag.toNat) s.taken
      (s.taken.register ⟨b, h.key.cabin⟩ tag.toNat) :=
  request_onSailing hr ho (Head.cabinInRange_of hk) 0x20 (fun t b => registerTests t (Head.cabinOf h b) tag.toNat)
    (fun t b => t.register (Head.cabinOf h b) tag.toNat)

theorem State.register_eq {s : State} {k : CabinKey} {tag : Nat} (hlen : s.store.bags.length < bagRecords) :
    s.register k tag = ((s.withBag (registeredBag tag k)).demandCheck s.store.newHandle,
      Answer.done (.handle s.store.newHandle)) := by
  rw [State.register, State.createBag_eq, if_pos hlen]

theorem tagInRange_iff {n : Nat} : tagInRange n = true ↔ 1 ≤ n ∧ n ≤ 999999999 := by
  rw [tagInRange, Bool.and_eq_true, decide_eq_true_iff, decide_eq_true_iff]
  rfl

/-- A demand check leaves a bag without PULL flag one of origin CABIN under a VOID governing cabin, else none. -/
theorem demanded_unflagged {s : State} {b : Bag} (hp : b.pull = none) : demanded s b =
    if (s.store.governing b).any (fun g => g.status == .void) then some .cabin else none := by
  unfold demanded
  cases s.store.governing b with
  | none => exact hp
  | some c =>
    rw [hp]
    dsimp only
    by_cases hv : c.status = .void <;> simp [hv]

/-- Settles O18: the tests of R36 in their order, and the record created at the lowest free index. -/
theorem bagRegisterCreates : Obligations.BagRegisterCreates := by
  intro h tag b s hr ho hk refused
  have hx := exec_bagRegister (tag := tag) hr ho hk
  have refuses {r : Result} (ht : firstFailure (registerTests s.taken ⟨b, h.key.cabin⟩ tag.toNat) = some r) : refused r :=
    hx.trans (ruled_fail ht ..)
  refine ⟨fun ht => refuses (firstFailure_stop (Bool.eq_false_iff.2 fun hh => ?_)), fun hlow hhigh => ⟨fun hc => ?_, fun c hc =>
    ⟨fun hm => ?_, fun hm => ⟨fun ha => ?_, fun ha => ⟨fun hf => ?_, fun hf hl => ?_⟩⟩⟩⟩⟩
  · obtain ⟨h1, h2⟩ := tagInRange_iff.1 hh
    omega
  all_goals have t1 : tagInRange tag.toNat = true := tagInRange_iff.2 ⟨hlow, hhigh⟩
  · exact refuses (firstFailure_pass t1 (firstFailure_stop (State.hasCabin_none (s := s.taken) hc)))
  all_goals
    have hc' : s.taken.store.cabin? ⟨b, h.key.cabin⟩ = some c := hc
    have t2 : s.taken.hasCabin ⟨b, h.key.cabin⟩ = true := State.hasCabin_of hc'
  · have t3 : (!s.taken.store.tagMap.has tag.toNat) = false := by
      rw [Bool.not_eq_false']
      exact Option.isSome_iff_ne_none.2 hm
    exact refuses (firstFailure_pass t1 (firstFailure_pass t2 (firstFailure_stop t3)))
  all_goals
    have t3 : (!s.taken.store.tagMap.has tag.toNat) = true := by
      rw [Bool.not_eq_true']
      exact Option.isSome_eq_false_iff.2 (Option.isNone_iff_eq_none.2 hm)
  · have t4 : (s.taken.store.cabin? ⟨b, h.key.cabin⟩).all (fun c => decide (c.liveBags < c.allowance)) = false := by
      rw [hc']
      exact decide_eq_false (Nat.not_lt.2 ha)
    exact refuses (firstFailure_pass t1 (firstFailure_pass t2 (firstFailure_pass t3 (firstFailure_stop t4))))
  all_goals
    have t4 : (s.taken.store.cabin? ⟨b, h.key.cabin⟩).all (fun c => decide (c.liveBags < c.allowance)) = true := by
      rw [hc']
      exact decide_eq_true ha
  · exact refuses (firstFailure_pass t1 (firstFailure_pass t2 (firstFailure_pass t3 (firstFailure_pass t4
      (firstFailure_stop (decide_eq_false (Nat.not_lt.2 hf)))))))
  · have hl' : BagTableLaw s.taken := hl
    have htests : firstFailure (registerTests s.taken ⟨b, h.key.cabin⟩ tag.toNat) = none :=
      firstFailure_pass t1 (firstFailure_pass t2 (firstFailure_pass t3 (firstFailure_pass t4
        (firstFailure_pass (decide_eq_true hf) rfl))))
    generalize hnew : registeredBag tag.toNat ⟨b, h.key.cabin⟩ = new
    have hhome : new.home = some ⟨b, h.key.cabin⟩ := by rw [← hnew]; rfl
    have hpull : new.pull = none := by rw [← hnew]; rfl
    have htag : new.tag = some tag.toNat := by rw [← hnew]; rfl
    have hstate : new.state = .registered := by rw [← hnew]; rfl
    have hreg : s.taken.register ⟨b, h.key.cabin⟩ tag.toNat = ((s.taken.withBag new).demandCheck s.store.newHandle,
        Answer.done (.handle s.store.newHandle)) := by
      rw [← hnew]
      exact State.register_eq hf
    obtain ⟨hbag, -, hothers, -, hmap, hlowest⟩ := Created.withBag s.taken new hf
    obtain ⟨hi, hfree, hheld⟩ := hlowest hl'
    have hcreate : s.taken.createBag new = some (s.taken.store.newHandle, s.taken.withBag new) :=
      (State.createBag_eq ..).trans (if_pos hf)
    have hl2 : BagTableLaw (s.taken.withBag new) := (Keeps.createBag hcreate).bags hl'
    have hsame : SameHolds (s.taken.withBag new) ((s.taken.withBag new).demandCheck s.store.newHandle) :=
      SameHolds.modifyBag hl2 ..
    have hfollow : HoldsFollow s ((s.taken.withBag new).demandCheck s.store.newHandle) False :=
      ((HoldsFollow.createBag hcreate).after hsame rfl rfl).before (SameHolds.taken s)
    obtain ⟨hframe, hkeeps⟩ := State.modifyBag_frame (s.taken.withBag new) s.store.newHandle (s.taken.withBag new).store.checked
    have hstore := s.taken.withBag_store new
    have hdemand : demanded (s.taken.withBag new) new =
        if (s.store.governing new).any (fun g => g.status == .void) then some .cabin else none := by
      have halike : Store.Alike s.taken.store (s.taken.withBag new).store := by
        rw [hstore]
        exact Store.withBag_alike s.taken.store new
      rw [demanded_congr halike rfl rfl, demanded_unflagged hpull]
      rfl
    have hcabins : ((s.taken.withBag new).demandCheck s.store.newHandle).store.cabins = (s.store.withBag new).cabins :=
      (congrArg Store.cabins hframe).trans
        (congrArg Store.cabins hstore : (s.taken.withBag new).store.cabins = (s.taken.store.withBag new).cabins)
    refine ⟨(s.taken.withBag new).demandCheck s.store.newHandle, s.store.newHandle.index, ?_, ?_, hi, hfree, hheld, ?_,
      fun j hj => ?_, ?_, ?_, ?_, ?_, hfollow, fun h64 i p hp => ?_, fun hn64 => ?_⟩
    · refine hx.trans ((ruled_pass htests ..).trans ?_)
      rw [hreg]
      rfl
    · have hkeep := (Keeps.register s.taken ⟨b, h.key.cabin⟩ tag.toNat).changes
      rw [hreg] at hkeep
      exact hkeep.ofTaken (by decide) (by decide)
    · refine (State.demandCheck_bag? hbag).trans ?_
      rw [hdemand, ← hnew]
      rfl
    · exact (hkeeps j hj).trans (hothers j hj (Option.some_ne_none _).symm)
    · have hmap' : ((s.taken.withBag new).demandCheck s.store.newHandle).store.tagMap = _ :=
        (congrArg Store.tagMap hframe).trans (hmap _ htag)
      rw [hmap']
      exact Table.get?_put_same ..
    · refine (congrArg Sailing.counts (State.modifyBag_slot ..)).trans ?_
      rw [hstore, Store.withBag_counts, hhome, hstate]
      exact if_pos ((home_any _ _).2 rfl)
    · rw [Store.cabin?, hcabins]
      refine (Store.withBag_home s.store hhome hc).trans ?_
      rw [hstate]
      rfl
    · exact s.taken.withBag_loop new
    · have hlen : tableLow ((s.taken.withBag new).demandCheck s.store.newHandle) = true := by
        rw [hsame.low, tableLow, State.withBag_length hl']
        have h64' : 16384 - s.taken.store.bags.length = 64 := h64
        exact decide_eq_true (by omega)
      have hlow0 : tableLow s = false := decide_eq_false (by omega)
      obtain ⟨-, -, hnone, hsome, -⟩ := hfollow
      cases hp0 : s.loop.points.get? i with
      | none => rw [hnone i hp0] at hp; cases hp
      | some p0 =>
        obtain ⟨q, hq, -, -, hcauses⟩ := hsome i p0 hp0
        cases hq.symm.trans hp
        rw [hcauses, hlen, hlow0]
        rfl
    · rw [State.withBag_quiet hl' new hn64]
      exact ⟨rfl, rfl, rfl⟩

end Sys2Proof.Machine
end

section
/-! BAG REASSIGN, and from it its obligation (R26, R38, R146, R147). -/

namespace Sys2Proof.Machine

theorem Changes.setStore (s : State) (t : Store) : Changes [.store] s (s.setStore t) := by
  intro b hb
  cases b
  case store => exact absurd List.mem_cons_self hb
  all_goals rfl

/-! ## Rewriting one bag's record -/

/-- From one state to another only the record of one handle's index changes. -/
structure Rewrites (s t : State) (h : Handle) : Prop where
  eq : t = s.setStore { s.store with bags := t.store.bags }
  others : ∀ i, i ≠ h.index → t.store.bags.get? i = s.store.bags.get? i

theorem Rewrites.refl (s : State) (h : Handle) : Rewrites s s h := ⟨rfl, fun _ _ => rfl⟩

theorem Rewrites.trans {s t u : State} {h : Handle} (k : Rewrites s t h) (l : Rewrites t u h) : Rewrites s u h := by
  refine ⟨?_, fun i hi => (l.others i hi).trans (k.others i hi)⟩
  rw [l.eq, k.eq]
  rfl

theorem Rewrites.modifyBag (s : State) (h : Handle) (f : Bag → Bag) : Rewrites s (s.modifyBag h f) h := by
  obtain ⟨hstore, hothers⟩ := State.modifyBag_frame s h f
  refine ⟨?_, hothers⟩
  rw [← hstore]
  rfl

theorem Rewrites.store {s t : State} {h : Handle} (k : Rewrites s t h) :
    t.store = { s.store with bags := t.store.bags } := congrArg State.store k.eq

theorem Rewrites.changes {s t : State} {h : Handle} (k : Rewrites s t h) : Changes [.store] s t := by
  rw [k.eq]
  exact Changes.setStore _ _

theorem Rewrites.slot {s t : State} {h : Handle} (k : Rewrites s t h) (v : SlotId) : t.store.slot v = s.store.slot v :=
  Store.slot_of_bags k.store v

theorem Rewrites.cabins {s t : State} {h : Handle} (k : Rewrites s t h) : t.store.cabins = s.store.cabins := by
  rw [k.store]

/-! ## The reconcile visit after an assignment (R146, R147) -/

theorem demanded_void {s : State} {b : Bag} {g : Cabin} (hg : s.store.governing b = some g) (hv : g.status = .void) :
    demanded s b = some (b.pull.getD .cabin) := by
  rw [demanded, hg]
  exact if_pos hv

theorem demanded_sails {s : State} {b : Bag} {g : Cabin} (hg : s.store.governing b = some g) (hv : g.status ≠ .void) :
    demanded s b = if b.pull = some .cabin then none else b.pull := by
  rw [demanded, hg]
  exact if_neg hv

/-- A second demand check changes nothing. -/
theorem demanded_again {s t : State} (h : Store.Alike s.store t.store) (b : Bag) :
    demanded t { b with pull := demanded s b } = demanded s b := by
  have hsame : demanded t { b with pull := demanded s b } = demanded s { b with pull := demanded s b } :=
    demanded_congr h rfl rfl
  rw [hsame]
  have hgov : s.store.governing { b with pull := demanded s b } = s.store.governing b := Store.governing_congr _ rfl
  cases hg : s.store.governing b with
  | none => rw [demanded, hgov, hg]
  | some g =>
    by_cases hv : g.status = .void
    · rw [demanded_void (hgov.trans hg) hv, demanded_void hg hv]
      rfl
    · rw [demanded_sails (hgov.trans hg) hv, demanded_sails hg hv]
      split
      · rfl
      · rfl

/-- A bag that a demand check and a reconcile visit leave, where its state is one that BAG REASSIGN takes. -/
def reconciled (s : State) (b : Bag) (g : Cabin) : Bag :=
  { b with pull := demanded s b, reason := if g.status = .void ∧ b.state = .stray then some .pulled else b.reason }

theorem State.reconcile_movable {s : State} {h : Handle} {b : Bag} {g : Cabin} (hb : s.bag? h = some b)
    (hg : s.store.governing b = some g)
    (hm : b.state = .registered ∨ b.state = .onLoop ∨ b.state = .stray ∨ b.state = .missing) :
    Rewrites s ((s.demandCheck h).reconcile h) h ∧
      ((s.demandCheck h).reconcile h).bag? h = some (reconciled s b g) := by
  let u := s.demandCheck h
  let y : Bag := { b with pull := demanded s b }
  have hu : u.bag? h = some y := State.demandCheck_bag? hb
  have halike : Store.Alike s.store u.store := State.modifyBag_alike _ _ _
  have hrw : Rewrites s u h := Rewrites.modifyBag ..
  have hagain : (u.demandCheck h).bag? h = some y := by
    rw [State.demandCheck_bag? hu, demanded_again halike]
  have hrw' : Rewrites s (u.demandCheck h) h := hrw.trans (Rewrites.modifyBag ..)
  have hug : ∃ d, u.store.governing y = some d ∧ d.status = g.status := by
    obtain ⟨-, ⟨h1, -⟩ | ⟨c, d, hc, hd, hcd⟩⟩ := halike.governing y
    · exact absurd (h1.symm.trans ((Store.governing_congr _ rfl).trans hg)) (Option.some_ne_none g).symm
    · cases hc.symm.trans ((Store.governing_congr _ rfl).trans hg)
      exact ⟨d, hd, Cabin.status_of_uncounted hcd⟩
  obtain ⟨d, hd, hstatus⟩ := hug
  have hrec : u.reconcile h = if g.status = .void then u.reconcileVoid h y else u.reconcileSailing h y := by
    rw [State.reconcile, hu]
    dsimp only
    rw [hd]
    dsimp only
    rw [hstatus]
  have hoff : y.state ≠ .offload := by
    change b.state ≠ .offload
    rcases hm with hm | hm | hm | hm <;> rw [hm] <;> exact BagState.noConfusion
  change Rewrites s (u.reconcile h) h ∧ (u.reconcile h).bag? h = _
  by_cases hv : g.status = .void
  · rw [hrec, if_pos hv]
    have plain (hs : b.state ≠ .stray) : reconciled s b g = y := by
      rw [reconciled, if_neg fun hc => hs hc.2]
    rcases hm with hm | hm | hm | hm
    · have hx : u.reconcileVoid h y = u.demandCheck h := by rw [State.reconcileVoid, show y.state = .registered from hm]
      rw [hx, plain (by rw [hm]; exact BagState.noConfusion)]
      exact ⟨hrw', hagain⟩
    · have hx : u.reconcileVoid h y = u := by rw [State.reconcileVoid, show y.state = .onLoop from hm]
      rw [hx, plain (by rw [hm]; exact BagState.noConfusion)]
      exact ⟨hrw, hu⟩
    · have hx : u.reconcileVoid h y = (u.demandCheck h).modifyBag h (fun b => { b with reason := some .pulled }) := by
        rw [State.reconcileVoid, show y.state = .stray from hm]
      rw [hx]
      refine ⟨hrw'.trans (Rewrites.modifyBag ..), ?_⟩
      rw [State.modifyBag_bag?, if_pos rfl, hagain, reconciled, if_pos ⟨hv, hm⟩]
      rfl
    · have hx : u.reconcileVoid h y = u.demandCheck h := by rw [State.reconcileVoid, show y.state = .missing from hm]
      rw [hx, plain (by rw [hm]; exact BagState.noConfusion)]
      exact ⟨hrw', hagain⟩
  · rw [hrec, if_neg hv]
    have hx : u.reconcileSailing h y = u.demandCheck h := if_neg fun hc => hoff hc.1
    rw [hx, reconciled, if_neg fun hc => hv hc.1]
    exact ⟨hrw', hagain⟩

/-! ## The assignment (R38) -/

theorem CabinKey.code_ne {k o : CabinKey} (hk : k.number < 65536) (ho : o.number < 65536) (h : o ≠ k) : o.code ≠ k.code := by
  intro he
  obtain ⟨b, n⟩ := k
  obtain ⟨c, m⟩ := o
  refine h ?_
  cases b <;> cases c <;> simp only [CabinKey.code, SlotId.toNat] at he hk ho
  · rw [show m = n by omega]
  · omega
  · omega
  · rw [show m = n by omega]

theorem reassignTarget_number {slot : Byte} {cabin : BitVec 16} {k : CabinKey} (h : reassignTarget slot cabin = some k) :
    k.number < 65536 := by
  unfold reassignTarget at h
  split at h
  · cases h
  · obtain ⟨b, -, rfl⟩ := Option.map_eq_some_iff.1 h
    exact cabin.isLt

/-- The cabin that a bag leaves counts one bag less. -/
def Store.loseBag (t : Store) (home : Option CabinKey) : Store :=
  match home with
  | none => t
  | some o => t.modifyCabin o (fun c => { c with liveBags := c.liveBags - 1 })

/-- The store of an assignment: the record, the slots' counters, the old cabin's count and the new one's. -/
theorem Store.assign_live {t : Store} {h : Handle} {b : Bag} (hb : t.bag? h = some b) (k : CabinKey) : t.assign h k =
    ((({ t with bags := t.bags.put h.index { b with home := some k } } : Store).countAssign b.home k.slot b.state).loseBag
      b.home).modifyCabin k (fun c => { c with liveBags := c.liveBags + 1 }) := by
  have hm : t.modifyBag h (fun b => { b with home := some k }) =
      { t with bags := t.bags.put h.index { b with home := some k } } := by
    rw [Store.modifyBag, hb]
  rw [Store.assign, hb]
  dsimp only
  rw [hm]
  cases b.home <;> rfl

theorem Store.Counts.countAssign (t : Store) (old : Option CabinKey) (b : SlotId) (st : BagState) :
    Store.Counts t (t.countAssign old b st) := by
  unfold Store.countAssign
  split
  · exact Store.Counts.count ..
  · split
    · exact Store.Counts.refl t
    · exact (Store.Counts.count ..).trans (Store.Counts.count ..)

theorem Store.cabins_countAssign (t : Store) (old : Option CabinKey) (b : SlotId) (st : BagState) :
    (t.countAssign old b st).cabins = t.cabins := by
  unfold Store.countAssign
  split
  · exact Store.cabins_count ..
  · split
    · rfl
    · rw [Store.cabins_count, Store.cabins_count]

theorem Store.Counts.loseBag (t : Store) (home : Option CabinKey) : Store.Counts t (t.loseBag home) := by
  cases home with
  | none => exact Store.Counts.refl t
  | some k => exact Store.Counts.modifyCabin ..

theorem Store.slot_loseBag (t : Store) (home : Option CabinKey) (v : SlotId) : (t.loseBag home).slot v = t.slot v := by
  cases home with
  | none => rfl
  | some k => exact Store.counts_modifyCabin ..

theorem Store.Alike.loseBag (t : Store) (home : Option CabinKey) : Store.Alike t (t.loseBag home) := by
  cases home with
  | none => exact Store.Alike.same rfl
  | some k => exact Store.Alike.modifyCabin _ _ fun _ => rfl

theorem Store.loseBag_other (t : Store) {home : Option CabinKey} {n : Nat} (hn : ∀ o, home = some o → n ≠ o.code) :
    (t.loseBag home).cabins.get? n = t.cabins.get? n := by
  cases home with
  | none => rfl
  | some o => exact Store.modifyCabin_other _ _ _ (hn o rfl)

section
variable {t : Store} {h : Handle} {b : Bag} (hb : t.bag? h = some b) (k : CabinKey)
include hb

theorem Store.assign_counts : Store.Counts { t with bags := t.bags.put h.index { b with home := some k } } (t.assign h k) := by
  rw [Store.assign_live hb]
  exact (Store.Counts.countAssign ..).trans ((Store.Counts.loseBag ..).trans (Store.Counts.modifyCabin ..))

theorem Store.assign_bag? : (t.assign h k).bag? h = some { b with home := some k } := by
  obtain ⟨hbags, hgens, -, -⟩ := Store.assign_counts hb k
  refine Store.bag?_eq_some.2 ⟨?_, ?_⟩
  · rw [Store.gen, hgens]
    exact (Store.bag?_eq_some.1 hb).1
  · rw [hbags]
    exact Table.get?_put_same ..

theorem Store.assign_alike : Store.Alike t (t.assign h k) := by
  rw [Store.assign_live hb]
  have h1 : Store.Alike t (({ t with bags := t.bags.put h.index { b with home := some k } } : Store).countAssign b.home
      k.slot b.state) := Store.Alike.same (Store.cabins_countAssign ..)
  exact h1.trans ((Store.Alike.loseBag _ _).trans (Store.Alike.modifyCabin _ _ fun _ => rfl))

/-- The new cabin counts one bag more, and the old one less. -/
theorem Store.assign_new {c : Cabin} (hc : t.cabin? k = some c) (hne : ∀ o, b.home = some o → k.code ≠ o.code) :
    (t.assign h k).cabin? k = some { c with liveBags := c.liveBags + 1 } := by
  rw [Store.assign_live hb, Store.modifyCabin_same, Store.cabin?, Store.loseBag_other _ hne, Store.cabins_countAssign]
  change Option.map _ (t.cabin? k) = _
  rw [hc]
  rfl

theorem Store.assign_old {o : CabinKey} {d : Cabin} (ho : b.home = some o) (hd : t.cabin? o = some d)
    (hne : o.code ≠ k.code) : (t.assign h k).cabin? o = some { d with liveBags := d.liveBags - 1 } := by
  rw [Store.assign_live hb, Store.cabin?, Store.modifyCabin_other _ _ _ hne, ho]
  refine (Store.modifyCabin_same _ o _).trans ?_
  rw [Store.cabin?, Store.cabins_countAssign]
  change Option.map _ (t.cabin? o) = _
  rw [hd]
  rfl

theorem Store.assign_other {m : Nat} (hm : m ≠ k.code) (ho : ∀ o, b.home = some o → m ≠ o.code) :
    (t.assign h k).cabins.get? m = t.cabins.get? m := by
  rw [Store.assign_live hb, Store.modifyCabin_other _ _ _ hm, Store.loseBag_other _ ho, Store.cabins_countAssign]

theorem Store.assign_slot (v : SlotId) : ((t.assign h k).slot v).counts =
    (({ t with bags := t.bags.put h.index { b with home := some k } } : Store).countAssign b.home k.slot b.state |>.slot
      v).counts := by
  rw [Store.assign_live hb, Store.counts_modifyCabin, Store.slot_loseBag]

end

/-- The counters of an assignment from another slot, or from none. -/
theorem Store.countAssign_moved {t : Store} {old : Option CabinKey} {b : SlotId}
    (h : old = none ∨ ∃ o, old = some o ∧ o.slot ≠ b) (st : BagState) :
    ((t.countAssign old b st).slot b).counts = (t.slot b).counts.inc st := by
  rcases h with rfl | ⟨o, rfl, ho⟩
  · exact (Store.counts_count ..).trans (if_pos rfl)
  · rw [Store.countAssign, if_neg ho, Store.counts_count, if_pos rfl, Store.counts_count, if_neg (Ne.symm ho)]

theorem Store.countAssign_left {t : Store} {o : CabinKey} {b : SlotId} (ho : o.slot ≠ b) (st : BagState) :
    ((t.countAssign (some o) b st).slot o.slot).counts = (t.slot o.slot).counts.dec st := by
  rw [Store.countAssign, if_neg ho, Store.counts_count, if_neg ho, Store.counts_count, if_pos rfl]

theorem Store.slot_bags (t : Store) (v : Table Bag) (b : SlotId) : ({ t with bags := v } : Store).slot b = t.slot b := by
  cases b <;> rfl

/-! ## BAG REASSIGN -/

theorem reassign_movable_iff {s : State} {h : Handle} {b : Bag} (hb : s.bag? h = some b) :
    s.bagIn h [.registered, .onLoop, .stray, .missing] = true ↔
      b.state = .registered ∨ b.state = .onLoop ∨ b.state = .stray ∨ b.state = .missing := by
  rw [State.bagIn_live hb]
  exact holdable_iff b.state

theorem State.roomFor_iff {s : State} {h : Handle} {b : Bag} {k : CabinKey} {c : Cabin} (hb : s.bag? h = some b)
    (hc : s.store.cabin? k = some c) : s.roomFor h k = true ↔ b.home = some k ∨ c.liveBags < c.allowance := by
  rw [State.roomFor, hb, hc]
  simp

theorem State.reassign_home {s : State} {h : Handle} {b : Bag} {k : CabinKey} (hb : s.bag? h = some b)
    (hk : b.home = some k) : s.reassign h k = s := by
  rw [State.reassign, if_pos]
  rw [hb]
  exact beq_iff_eq.2 hk

theorem State.reassign_away {s : State} {h : Handle} {b : Bag} {k : CabinKey} (hb : s.bag? h = some b)
    (hk : b.home ≠ some k) : s.reassign h k = ((s.setStore (s.store.assign h k)).demandCheck h).reconcile h := by
  rw [State.reassign, if_neg]
  rw [hb]
  exact fun h => hk (beq_iff_eq.1 h)

/-- Settles O19: the tests of R38 in their order, and the assignment with the demand check and the reconcile visit after it. -/
theorem bagReassignMoves : Obligations.BagReassignMoves := by
  intro h slot cabin k b s hr hn hk hopen movable answers
  obtain ⟨-, hsetup, hb, -⟩ := hn.taken
  have hx := execBagReassign_target h hk s
  have hslot : firstFailure (sailingTests s.taken k.slot) = none := sailingTests_pass hsetup hopen
  have past {l : List (Bool × Result)} {x : Option Result} (hl : firstFailure l = x) :
      firstFailure (sailingTests s.taken k.slot ++ l) = x := by
    rw [firstFailure_append, hslot]
    exact hl
  have refuses {r : Result} (ht : firstFailure (reassignTests s.taken h.key.handle k) = some r) :
      answers (Answer.refuse r) :=
    hx.trans (request_onBag_fail hr hn 0x22 (own := fun t => reassignTests t h.key.handle k) ht
      (fun t => t.reassign h.key.handle k))
  have passes (ht : firstFailure (reassignTests s.taken h.key.handle k) = none) :
      exec (.bagReassign h slot cabin) s = answered 0x22 h (s.taken.reassign h.key.handle k)
        ((s.taken.reassign h.key.handle k).bagAnswer h.key.handle) :=
    hx.trans (request_onBag_pass hr hn 0x22 (own := fun t => reassignTests t h.key.handle k) ht
      (fun t => t.reassign h.key.handle k))
  refine ⟨fun hm => ?_, fun hm hc => ?_, fun hm hc hh => ?_, fun c hm hc hh ha => ?_, fun c g hm hc hh hnum hg ha => ?_⟩
  · exact refuses (past (firstFailure_stop (Bool.eq_false_iff.2 (mt (reassign_movable_iff hb).1 hm))))
  all_goals have t1 := (reassign_movable_iff hb).2 hm
  · exact refuses (past (firstFailure_pass t1 (firstFailure_stop (State.hasCabin_none (s := s.taken) hc))))
  · obtain ⟨c, hc⟩ := Option.ne_none_iff_exists'.1 hc
    have hc' : s.taken.store.cabin? k = some c := hc
    have htests : firstFailure (reassignTests s.taken h.key.handle k) = none :=
      past (firstFailure_pass t1 (firstFailure_pass (State.hasCabin_of hc')
        (firstFailure_pass ((State.roomFor_iff hb hc').2 (.inl hh)) rfl)))
    refine (passes htests).trans ?_
    rw [State.reassign_home hb hh, State.bagAnswer_live hb]
    rfl
  · have hc' : s.taken.store.cabin? k = some c := hc
    have t3 : s.taken.roomFor h.key.handle k = false := Bool.eq_false_iff.2 fun hroom =>
      ((State.roomFor_iff hb hc').1 hroom).elim hh (Nat.not_lt.2 ha)
    exact refuses (past (firstFailure_pass t1 (firstFailure_pass (State.hasCabin_of hc') (firstFailure_stop t3))))
  · intro x
    have hc' : s.taken.store.cabin? k = some c := hc
    have htests : firstFailure (reassignTests s.taken h.key.handle k) = none :=
      past (firstFailure_pass t1 (firstFailure_pass (State.hasCabin_of hc')
        (firstFailure_pass ((State.roomFor_iff hb hc').2 (.inr ha)) rfl)))
    have hb' : s.taken.store.bag? h.key.handle = some b := hb
    let y : Bag := { b with home := some k }
    let u := s.taken.setStore (s.taken.store.assign h.key.handle k)
    have hu : u.bag? h.key.handle = some y := Store.assign_bag? hb' k
    have halike : Store.Alike s.taken.store u.store := Store.assign_alike hb' k
    obtain ⟨d, hd, hstatus⟩ : ∃ d, u.store.governing y = some d ∧ d.status = g.status := by
      obtain ⟨-, ⟨h1, -⟩ | ⟨c', d, hc', hd, hcd⟩⟩ := halike.governing y
      · exact absurd (h1.symm.trans hg) (Option.some_ne_none g).symm
      · cases hc'.symm.trans hg
        exact ⟨d, hd, Cabin.status_of_uncounted hcd⟩
    obtain ⟨hrw, hbag⟩ := State.reconcile_movable hu hd hm
    have hrec : reconciled u y d = x := by
      have hpull : demanded u y = if g.status = .void then some (b.pull.getD .cabin)
          else if b.pull = some .cabin then none else b.pull := by
        rw [demanded, hd]
        dsimp only
        rw [hstatus]
      rw [reconciled, hpull, hstatus]
    rw [hrec] at hbag
    have hcodes (o : CabinKey) (ho : b.home = some o) : o.code ≠ k.code :=
      CabinKey.code_ne (reassignTarget_number hk) (hnum o ho) fun he => hh (by rw [ho, he])
    obtain ⟨hubags, hugens, hutags, -⟩ := Store.assign_counts hb' k
    have hslots (v : SlotId) : ((u.demandCheck h.key.handle).reconcile h.key.handle).store.slot v =
        (s.taken.store.assign h.key.handle k).slot v := hrw.slot v
    have hcab : ((u.demandCheck h.key.handle).reconcile h.key.handle).store.cabins =
        (s.taken.store.assign h.key.handle k).cabins := hrw.cabins
    refine ⟨(u.demandCheck h.key.handle).reconcile h.key.handle, ?_, ?_, hbag, fun i hi => ?_, ?_, ?_, fun o d ho hd => ?_,
      fun m hm ho => ?_, fun ho => ?_, fun o ho hos => ?_, fun o ho hos e => ?_⟩
    · refine (passes htests).trans ?_
      rw [State.reassign_away hb hh, State.bagAnswer_live hbag]
    · exact ((Changes.setStore s.taken _).comp hrw.changes (n := [.store]) (by decide) (by decide)).ofTaken (by decide) (by decide)
    · refine (hrw.others i hi).trans ?_
      change (s.taken.store.assign h.key.handle k).bags.get? i = _
      rw [hubags]
      exact Table.get?_put_other _ hi _
    · exact (congrArg Store.tagMap hrw.store).trans hutags
    · rw [Store.cabin?, hcab]
      exact Store.assign_new hb' k hc' fun o ho => (hcodes o ho).symm
    · rw [Store.cabin?, hcab]
      exact Store.assign_old hb' k ho hd (hcodes o ho)
    · rw [hcab]
      exact Store.assign_other hb' k hm ho
    · rw [hslots, Store.assign_slot hb' k, Store.countAssign_moved ho, Store.slot_bags]
      rfl
    · rw [hslots, Store.assign_slot hb' k, ho, Store.countAssign_left hos, Store.slot_bags]
      rfl
    · rw [hslots, Store.assign_slot hb' k, ho, Store.countAssign, if_pos hos, Store.slot_bags]
      rfl

end Sys2Proof.Machine
end

section
/-! A cart that lost an entry or its unidentified items is tested, and a bag becomes OFFLOAD; from that BAG PULL (R127, R140, R149,
R150). -/

namespace Sys2Proof.Machine

/-! ## A cart is tested (R127, R140) -/

section
variable {s : State} {n : Nat} {c : Cart} (hc : s.cart? n = some c)
include hc

theorem State.testCart_elsewhere (hq : c.state ≠ .queued) (hd : c.state ≠ .atDoor) : s.testCart n = s := by
  unfold State.testCart
  rw [hc]
  dsimp only
  split
  · next h => exact absurd h hq
  · next h => exact absurd h hd
  · rfl

theorem State.testCart_queued (hq : c.state = .queued) : s.testCart n = if c.isEmpty then s.retireQueued n else s := by
  unfold State.testCart
  rw [hc]
  dsimp only
  rw [hq]

theorem State.testCart_atDoor (hd : c.state = .atDoor) : s.testCart n = match s.doorOfCart n with
    | some d => s.settleDoor d
    | none => s := by
  unfold State.testCart
  rw [hc]
  dsimp only
  rw [hd] <;> rfl

/-- A queued cart that holds anything stays. -/
theorem State.testCart_holds (hq : c.state = .queued) (he : c.entries ≠ [] ∨ c.unidentified ≠ 0) : s.testCart n = s := by
  have hne : c.isEmpty = false := Bool.eq_false_iff.2 fun h => by
    obtain ⟨h1, h2⟩ := Cart.isEmpty_iff.1 h
    exact he.elim (· h1) (· h2)
  rw [State.testCart_queued hc hq, hne]
  rfl

/-- A cart at a door that is not done waits; the belt is set. -/
theorem State.testCart_waits (hd : c.state = .atDoor) (hdone : c.done = false)
    (hdoor : ∀ d, s.doorOfCart n = some d → ∃ y, s.door? d = some y ∧ y.cart = some n) :
    Changes [.doors, .link] s (s.testCart n) := by
  rw [State.testCart_atDoor hc hd]
  split
  · next d h =>
    obtain ⟨y, hy, hyn⟩ := hdoor d h
    rw [State.settleDoor_busy hy hyn hc hdone]
    exact (Keeps.setBelt s d).changes
  · exact Changes.refl _ _

/-- A cart at a door that is done completes. -/
theorem State.testCart_completes {d : Nat} {y : Door} (hd : c.state = .atDoor) (hdone : c.done = true)
    (hdoor : s.doorOfCart n = some d) (hy : s.door? d = some y) (hyn : y.cart = some n) :
    (s.testCart n).cart? n = none ∧
    (∀ e ∈ c.entries, ∀ o, s.bag? e.bag = some o → (s.testCart n).bag? e.bag = some { o with location := none }) ∧
    (∀ k r, s.notices.sources.length = 15 → c.route = some k → s.route? k = some r →
      (c.notify = true ∨ r.notifyAll = true) → k.subject ∈ (s.testCart n).subjects .cartDone) := by
  have ht : s.testCart n = (s.completeCart d n c).settleDoor d := by
    rw [State.testCart_atDoor hc hd, hdoor]
    exact State.settleDoor_done hy hyn hc hdone
  obtain ⟨-, hcarts, -, -, hbags, -, -, -, htold, -⟩ := CartCompletes.completeCart (d := d) hc hdone
  have hgone : (s.completeCart d n c).cart? n = none := by
    rw [State.cart?, hcarts]
    exact Table.get?_erase_same ..
  have hturned := Turned.settleDoor d (s.completeCart d n c)
  rw [ht]
  exact ⟨hturned.cart?_none hgone, fun e he o ho => hturned.bag?_unlocated (hbags e he o ho) rfl,
    fun k r h15 hk hr hflag => hturned.tells.stay _ _ (((htold h15).2 _).2 (.inr ⟨k, r, hk, hr, hflag, rfl⟩))⟩

end

theorem State.testIdle_route? {s : State} {k : RouteKey} (j : RouteKey) :
    ∀ r, (s.testIdle k).route? j = some r → ∃ x, s.route? j = some x ∧ r.queue = x.queue := by
  intro r hr
  unfold State.testIdle at hr
  split at hr
  · exact ⟨r, hr, rfl⟩
  · split at hr
    · have hr' : (s.modifyRoute k (fun r => { r with state := .idle })).route? j = some r := hr
      rw [State.modifyRoute_route?] at hr'
      split at hr'
      · obtain ⟨x, hx, rfl⟩ := Option.map_eq_some_iff.1 hr'
        exact ⟨x, hx, rfl⟩
      · exact ⟨r, hr', rfl⟩
    · exact ⟨r, hr, rfl⟩

theorem State.retireCart_empty {s : State} {n : Nat} {c : Cart} (hc : s.cart? n = some c) (he : c.entries = []) :
    s.retireCart n = s.setCarts (s.carts.erase n) := by
  rw [State.retireCart, hc]
  dsimp only
  rw [he]
  rfl

/-- A queued cart that is left empty retires (R127, R140). -/
theorem State.testCart_retires {s : State} {n : Nat} {c : Cart} (hc : s.cart? n = some c) (hq : c.state = .queued)
    (he : c.entries = []) (hu : c.unidentified = 0) :
    Changes [.carts, .routes, .notices] s (s.testCart n) ∧ (s.testCart n).carts = s.carts.erase n ∧
    (∀ k r, s.notices.sources.length = 15 → c.route = some k → s.route? k = some r →
      (c.notify = true ∨ r.notifyAll = true) → k.subject ∈ (s.testCart n).subjects .cartDone) ∧
    (∀ k r, c.route = some k → (s.testCart n).route? k = some r → n ∉ r.queue) := by
  rw [State.testCart_queued hc hq, if_pos (Cart.isEmpty_iff.2 ⟨he, hu⟩)]
  unfold State.retireQueued
  rw [hc]
  dsimp only
  cases hk : c.route with
  | none =>
    dsimp only
    rw [State.retireCart_empty hc he]
    refine ⟨fun b hb => ?_, rfl, fun k r _ h => (Option.some_ne_none k h.symm).elim, fun k r h => (Option.some_ne_none k h.symm).elim⟩
    cases b
    case carts => exact absurd List.mem_cons_self hb
    all_goals rfl
  | some k =>
    dsimp only
    have hc' : (s.modifyRoute k (fun r => { r with queue := r.queue.filter (· != n) })).cart? n = some c := hc
    rw [State.retireCart_empty hc' he]
    set u := (s.modifyRoute k (fun r => { r with queue := r.queue.filter (· != n) })).setCarts (s.carts.erase n) with hu'
    have hbase : Changes [.carts, .routes, .notices] s u := by
      intro b hb
      cases b
      case carts => exact absurd List.mem_cons_self hb
      case routes => exact absurd (List.mem_cons_of_mem _ List.mem_cons_self) hb
      all_goals rfl
    have htell := Keeps.tellCartDone u c
    have hroutes : (u.tellCartDone c).routes = u.routes := htell.changes .routes (by decide)
    refine ⟨hbase.comp (htell.comp (Keeps.testIdle _ k) (by decide) (by decide)).changes (by decide)
      (show [Block.routes, .notices] ⊆ _ by decide), ?_, fun j r h15 hj hr hflag => ?_, fun j r hj hr => ?_⟩
    · exact ((htell.comp (Keeps.testIdle _ k) (by decide) (by decide) : Keeps [.routes, .notices] _ _).changes
        .carts (by decide)).trans rfl
    · cases hj
      refine (Turned.testIdle (u.tellCartDone c) k).tells.stay _ _ ?_
      refine (((State.tellCartDone_subjects (s := u) c).1 h15) _).2 (.inr ⟨k, { r with queue := r.queue.filter (· != n) }, hk, ?_, hflag, rfl⟩)
      exact State.modifyRoute_same hr _
    · cases hj
      obtain ⟨x, hx, hxr⟩ := State.testIdle_route? k r hr
      have hx' : (s.modifyRoute k (fun r => { r with queue := r.queue.filter (· != n) })).route? k = some x := by
        exact (congrArg (fun l => l[k.subject]?) hroutes).symm.trans hx
      rw [State.modifyRoute_route?, if_pos rfl] at hx'
      obtain ⟨y, -, rfl⟩ := Option.map_eq_some_iff.1 hx'
      rw [hxr]
      exact fun hm => absurd rfl (bne_iff_ne.1 (List.mem_filter.1 hm).2)

/-! ## An ABOARD bag becomes OFFLOAD (R149) -/

theorem Bag.cart?_eq_some {b : Bag} {n : Nat} : b.cart? = some n ↔ b.location = some (.cart n) := by
  unfold Bag.cart?
  cases b.location with
  | none => simp
  | some l => cases l <;> simp

/-- A bag as it becomes OFFLOAD, before the cart at the door is tested: its record and counters, its entry and the notice. -/
def State.offloadOut (s : State) (h : Handle) (b : Bag) : State :=
  match b.cart? with
  | none => (s.moveBag h .offload none).tellOffload b
  | some n => ((s.moveBag h .offload none).dropEntry n h).tellOffload b

theorem State.offloadBag_cart {s : State} {h : Handle} {b : Bag} {n : Nat} (hb : s.bag? h = some b)
    (hn : b.location = some (.cart n)) : s.offloadBag h = (s.offloadOut h b).testCart n := by
  have hc : b.cart? = some n := Bag.cart?_eq_some.2 hn
  rw [State.offloadBag, State.offloadOut, hb, hc]
  dsimp only
  rw [hc]

theorem Turned.offloadBag {s : State} {h : Handle} {b : Bag} (hb : s.bag? h = some b) :
    Turned (s.offloadOut h b) (s.offloadBag h) := by
  rw [State.offloadBag, State.offloadOut, hb]
  dsimp only
  cases b.cart? with
  | none => exact Turned.refl _
  | some n => exact Turned.testCart ..

theorem State.offloadOut_fields (s : State) (h : Handle) (b : Bag) :
    (s.offloadOut h b).store = (s.moveBag h .offload none).store ∧
    Changes [.store, .carts, .notices] s (s.offloadOut h b) := by
  have htell := fun u : State => (Keeps.tellOffload u b).changes
  unfold State.offloadOut
  split
  · exact ⟨htell _ .store (by decide), (Keeps.moveBag s h .offload none).changes.comp (htell _) (by decide) (by decide)⟩
  · next n _ =>
    exact ⟨(htell _ .store (by decide)).trans ((Keeps.dropEntry _ n h).changes .store (by decide)),
      ((Keeps.moveBag s h .offload none).comp (n := [.store, .carts]) (Keeps.dropEntry _ n h) (by decide) (by decide)).changes.comp
        (htell _) (by decide) (by decide)⟩

theorem State.dropEntry_cart? (s : State) (n m : Nat) (h : Handle) : (s.dropEntry n h).cart? m = if m = n then
    (s.cart? m).map (fun c => { c with entries := c.entries.filter (fun e => e.bag != h) }) else s.cart? m :=
  State.modifyCart_cart? ..

theorem State.offloadOut_cart? {s : State} {h : Handle} {b : Bag} {n : Nat} {c : Cart} (hn : b.location = some (.cart n))
    (hc : s.cart? n = some c) :
    (s.offloadOut h b).cart? n = some { c with entries := c.entries.filter (fun e => e.bag != h) } := by
  rw [State.offloadOut, Bag.cart?_eq_some.2 hn]
  dsimp only
  have hcarts : (((s.moveBag h .offload none).dropEntry n h).tellOffload b).carts =
      ((s.moveBag h .offload none).dropEntry n h).carts := (Keeps.tellOffload _ b).changes .carts (by decide)
  rw [State.cart?, hcarts]
  have hdrop := State.dropEntry_cart? (s.moveBag h .offload none) n n h
  rw [if_pos rfl] at hdrop
  refine hdrop.trans ?_
  change Option.map _ (s.cart? n) = _
  rw [hc]
  rfl

theorem State.offloadOut_told {s : State} {h : Handle} {b : Bag} {k : CabinKey} (h15 : s.notices.sources.length = 15)
    (hk : b.home = some k) : k.slot.toNat ∈ (s.offloadOut h b).subjects .offload := by
  unfold State.offloadOut
  split
  all_goals
    unfold State.tellOffload
    rw [hk]
    exact (State.mem_subjects_raise (by exact h15) ..).2 (.inl rfl)

/-- What becomes of the record, the counters and the notice of an ABOARD bag that becomes OFFLOAD. -/
theorem State.offloadBag_aboard {s : State} {h : Handle} {b : Bag} (hb : s.bag? h = some b) (hst : b.state = .aboard) :
    (s.offloadBag h).bag? h = some { b with state := .offload, location := none, entered := none } ∧
    (∀ v, ((s.offloadBag h).store.slot v).counts = if b.home.any (fun k => k.slot == v) = true then
      (s.store.slot v).counts.move .aboard .offload else (s.store.slot v).counts) ∧
    (∀ m, (s.offloadBag h).store.cabins.get? m = (s.moveBag h .offload none).store.cabins.get? m) ∧
    (∀ k, s.notices.sources.length = 15 → b.home = some k → k.slot.toNat ∈ (s.offloadBag h).subjects .offload) := by
  obtain ⟨hstore, -⟩ := State.offloadOut_fields s h b
  obtain ⟨hbag, -, -, -, hcounts⟩ := State.moveBag_store hb .offload none
  have hturned := Turned.offloadBag hb
  have hout : (s.offloadOut h b).bag? h = some { b with state := .offload, location := none, entered := none } := by
    rw [State.bag?, hstore]
    refine (hbag h).trans ?_
    rw [if_pos rfl, Bag.enter, hst]
    simp
  refine ⟨hturned.bag?_unlocated hout rfl, fun v => ?_, fun m => ?_,
    fun k h15 hk => hturned.tells.stay _ _ (State.offloadOut_told h15 hk)⟩
  · rw [Store.slot_of_bags hturned.store, hstore, hcounts, hst]
  · rw [hturned.store, hstore]

/-! ## BAG PULL (R150) -/

theorem exec_bagPull (h : Head) (s : State) : exec (.bagPull h) s = execBagPull h s := rfl

theorem State.pullBag_again {s : State} {h : Handle} {b : Bag} (hb : s.bag? h = some b) (hp : b.pull = some .request) :
    s.pullBag h = s := by
  rw [State.pullBag, hb]
  exact if_pos hp

theorem State.pullBag_live {s : State} {h : Handle} {b : Bag} (hb : s.bag? h = some b) (hp : b.pull ≠ some .request) :
    s.pullBag h = if b.state = .aboard then (s.modifyBag h (fun b => { b with pull := some .request })).offloadBag h
      else s.modifyBag h (fun b => { b with pull := some .request }) := by
  rw [State.pullBag, hb]
  exact if_neg hp

/-- Settles O21: by its flag and its state, an ABOARD bag by the offload of its flagged record. -/
theorem bagPullSets : Obligations.BagPullSets := by
  intro h b s hr hn
  have hb : s.taken.bag? h.key.handle = some b := hn.2.2.1
  have hx : ∀ t, s.taken.pullBag h.key.handle = t →
      exec (.bagPull h) s = answered 0x25 h t (t.bagAnswer h.key.handle) := fun t ht => by
    rw [exec_bagPull]
    have hpass := request_onBag_pass hr hn 0x25 (own := fun _ => []) rfl (fun t => t.pullBag h.key.handle)
    rw [ht] at hpass
    exact hpass
  refine ⟨fun hp => ?_, fun hp hst => ?_, fun hp hst => ?_⟩
  · exact (hx _ (State.pullBag_again hb hp)).trans (by rw [State.bagAnswer_live hb]; rfl)
  · have ht := State.pullBag_live hb hp
    rw [if_neg hst] at ht
    rw [hx _ ht, State.bagAnswer_modifyBag hb, State.modifyBag_live hb]
    rfl
  · set u := s.taken.modifyBag h.key.handle (fun b => { b with pull := some .request }) with hu
    have hub : u.bag? h.key.handle = some { b with pull := some .request } := by
      rw [hu, State.modifyBag_bag?, if_pos rfl, hb]
      rfl
    have ht := State.pullBag_live hb hp
    rw [if_pos hst, ← hu] at ht
    obtain ⟨hbag, hcounts, hcabins, htold⟩ := State.offloadBag_aboard hub hst
    refine ⟨u.offloadBag h.key.handle, (hx _ ht).trans (by rw [State.bagAnswer_live hbag]), ?_, hbag, fun k hk => ?_,
      fun k c hk hc => ?_, fun n c hloc hc e he heq => ?_, fun k h15 hk => htold k h15 hk⟩
    · rw [← ht]
      exact (Keeps.pullBag s.taken h.key.handle).changes.ofTaken (by decide) (by decide)
    · rw [hcounts, if_pos ((home_any k k.slot).2 rfl ▸ hk ▸ rfl), hu, State.modifyBag_slot]
      rfl
    · have hc' : u.store.cabin? k = some c := by
        rw [Store.cabin?, hu, (State.modifyBag_store ..).1]
        exact hc
      refine (hcabins _).trans ((State.moveBag_home hub hk hc' .offload none).trans ?_)
      rw [show ({ b with pull := some .request } : Bag).state = .aboard from hst]
      rfl
    · obtain ⟨d, hd, hcd⟩ := (Turned.offloadBag hub).carts n c hc
      obtain ⟨z, hz⟩ : ∃ z, u.cart? n = some z := by
        cases hz : u.cart? n with
        | some z => exact ⟨z, rfl⟩
        | none =>
          rw [State.offloadOut, Bag.cart?_eq_some.2 (show ({ b with pull := some .request } : Bag).location = _ from hloc)] at hd
          dsimp only at hd
          rw [State.cart?, (Keeps.tellOffload _ _).changes .carts (by decide)] at hd
          have hdrop := State.dropEntry_cart? (u.moveBag h.key.handle .offload none) n n h.key.handle
          rw [if_pos rfl, show (u.moveBag h.key.handle .offload none).cart? n = none from hz] at hdrop
          cases hd.symm.trans hdrop
      rw [hcd] at he
      cases hd.symm.trans (State.offloadOut_cart? (b := { b with pull := some .request }) hloc hz)
      exact absurd heq (bne_iff_ne.1 (List.mem_filter.1 he).2)

end Sys2Proof.Machine
end

section
/-! A bag retires, and from that BAG RETIRE, OFFLOAD CONFIRM with RETIRE and STRAY RESOLVE with RETURN (R30, R41, R151, R164). -/

namespace Sys2Proof.Machine

/-! ## The hold conditions over two operations (R31, R157) -/

theorem HoldsFollow.congr {s t : State} {a b : Prop} (h : a ↔ b) (k : HoldsFollow s t a) : HoldsFollow s t b :=
  propext h ▸ k

/-- The pen hold is tested, and the bag table settles after it. -/
theorem HoldsFollow.thenTable {s u t : State} (h : HoldsFollow s u True) (k : HoldsFollow u t False)
    (hlow : tableLow u = tableLow s) (hpen : t.pen = u.pen) (hlim : t.limits = u.limits)
    (hsrc : u.notices.sources.length = s.notices.sources.length) : HoldsFollow s t True := by
  obtain ⟨htest, -, hnone, hsome, hsub⟩ := h
  obtain ⟨-, -, knone, ksome, ksub⟩ := k
  refine ⟨fun _ => ?_, fun hn => absurd trivial hn, fun i hi => knone i (hnone i hi), fun i p hp => ?_, fun h15 m => ?_⟩
  · have hf : penFree t = penFree u := by rw [penFree, penFree, hpen]
    rw [hpen, hf, hlim]
    exact htest trivial
  · obtain ⟨q, hq, ho, hn, hc⟩ := hsome i p hp
    obtain ⟨r, hr, ko, kn, kc⟩ := ksome i q hq
    refine ⟨r, hr, ko.trans ho, kn.trans hn, ?_⟩
    rw [kc, hc, hlow, hpen]
    simp
  · rw [ksub (hsrc.trans h15), hsub h15, hlow, hpen]
    simp only [Bool.eq_false_iff]
    tauto

/-- The bag table settles, and the pen hold is tested after it. -/
theorem HoldsFollow.thenPen {s u t : State} (h : HoldsFollow s u False) (k : HoldsFollow u t True)
    (hlow : tableLow t = tableLow u) (hsrc : u.notices.sources.length = s.notices.sources.length) : HoldsFollow s t True := by
  obtain ⟨-, hstill, hnone, hsome, hsub⟩ := h
  obtain ⟨ktest, -, knone, ksome, ksub⟩ := k
  have hold : u.pen.hold = s.pen.hold := hstill id
  refine ⟨fun _ => ?_, fun hn => absurd trivial hn, fun i hi => knone i (hnone i hi), fun i p hp => ?_, fun h15 m => ?_⟩
  · rw [← hold]
    exact ktest trivial
  · obtain ⟨q, hq, ho, hn, hc⟩ := hsome i p hp
    obtain ⟨r, hr, ko, kn, kc⟩ := ksome i q hq
    refine ⟨r, hr, ko.trans ho, kn.trans hn, ?_⟩
    rw [kc, hc, hlow, hold]
    simp
  · rw [ksub (hsrc.trans h15), hsub h15, hlow, hold]
    simp only [Bool.eq_false_iff]
    tauto

/-! ## The pen under its test (R157) -/

theorem State.testPenHold_pen (s : State) : s.testPenHold.pen = { s.pen with hold := s.testPenHold.pen.hold } := by
  unfold State.testPenHold
  split
  · have hp : (((s.setPen { s.pen with hold := true }).putCauseAll .pen true).raise .capacity 1).pen =
        { s.pen with hold := true } := State.putCauseAll_pen ..
    rw [hp]
  · split
    · have hp : ((s.setPen { s.pen with hold := false }).putCauseAll .pen false).pen = { s.pen with hold := false } :=
        State.putCauseAll_pen ..
      rw [hp]
    · rfl

theorem State.testPenHold_sources (s : State) : s.testPenHold.notices.sources.length = s.notices.sources.length := by
  unfold State.testPenHold
  split
  · refine (List.length_modify ..).trans ?_
    rw [State.putCauseAll_notices]
    rfl
  · split
    · rw [State.putCauseAll_notices]
      rfl
    · rfl

theorem State.testPenHold_subjects (s : State) {w : Source} (h : w ≠ .capacity) :
    s.testPenHold.subjects w = s.subjects w := by
  unfold State.testPenHold
  split
  · refine (State.subjects_raise_other _ h 1).trans ?_
    rw [State.subjects_congr (State.putCauseAll_notices ..)]
    rfl
  · split
    · rw [State.subjects_congr (State.putCauseAll_notices ..)]
      rfl
    · rfl

theorem State.freePosition_loop (s : State) (h : Handle) (p : Nat) :
    (s.freePosition h p).loop = { s.loop with points := (s.freePosition h p).loop.points } :=
  State.testPenHold_loop _

theorem State.freePosition_sources (s : State) (h : Handle) (p : Nat) :
    (s.freePosition h p).notices.sources.length = s.notices.sources.length :=
  (State.testPenHold_sources _).trans (List.length_modify ..)

theorem State.freePosition_pen (s : State) (h : Handle) (p : Nat) : (s.freePosition h p).pen = { s.pen with
    positions := s.pen.positions.erase p, strays := s.pen.strays.filter (· != h)
    hold := (s.freePosition h p).pen.hold } :=
  State.testPenHold_pen _

theorem State.occupy_pen (s : State) (h : Handle) (p : Nat) : (s.occupy h p).pen = { s.pen with
    positions := s.pen.positions.put p h, strays := s.pen.strays ++ [h], hold := (s.occupy h p).pen.hold } :=
  State.testPenHold_pen _

theorem State.occupy_loop (s : State) (h : Handle) (p : Nat) :
    (s.occupy h p).loop = { s.loop with points := (s.occupy h p).loop.points } :=
  State.testPenHold_loop _

/-! ## A record retires (R30) -/

theorem Store.gen_setGen (t : Store) (i j : Nat) (g : BitVec 8) : (t.setGen i g).gen j = if j = i then g else t.gen j := by
  unfold Store.setGen Store.gen
  dsimp only
  by_cases hj : j = i
  · subst hj
    rw [if_pos rfl]
    split
    · next hg => rw [Table.get?_erase_same, hg]; rfl
    · rw [Table.get?_put_same]; rfl
  · rw [if_neg hj]
    split
    · rw [Table.get?_erase_other _ hj]
    · rw [Table.get?_put_other _ hj]

/-- The tag map that a retiring record leaves. -/
def Store.untag (t : Store) (tag : Option Nat) : Store :=
  match tag with
  | none => t
  | some n => { t with tagMap := t.tagMap.erase n }

theorem Store.untag_frame (t : Store) (tag : Option Nat) : t.untag tag = { t with tagMap := (t.untag tag).tagMap } := by
  cases tag with
  | none => rfl
  | some n => rfl

theorem Store.retire_live {t : Store} {h : Handle} {b : Bag} (hb : t.bag? h = some b) : t.retire h =
    Store.setGen { (t.untag b.tag).countOut b.home b.state with
      bags := ((t.untag b.tag).countOut b.home b.state).bags.erase h.index } h.index (h.gen + 1) := by
  obtain ⟨hgen, -⟩ := Store.bag?_eq_some.1 hb
  rw [Store.retire, hb]
  dsimp only
  rw [hgen]
  rfl

theorem Store.slot_untag (t : Store) (tag : Option Nat) (v : SlotId) : (t.untag tag).slot v = t.slot v := by
  rw [Store.untag_frame]
  cases v <;> rfl

/-- What becomes of the store as a record retires (R2, R13, R30). -/
theorem Store.retire_store {t : Store} {h : Handle} {b : Bag} (hb : t.bag? h = some b) :
    (t.retire h).bags = t.bags.erase h.index ∧
    (∀ j, (t.retire h).gen j = if j = h.index then h.gen + 1 else t.gen j) ∧
    (t.retire h).tagMap = (t.untag b.tag).tagMap ∧
    (∀ v, ((t.retire h).slot v).counts =
      if b.home.any (fun k => k.slot == v) = true then (t.slot v).counts.dec b.state else (t.slot v).counts) ∧
    (∀ k c, b.home = some k → t.cabin? k = some c → (t.retire h).cabin? k = some { c with
      liveBags := c.liveBags - 1, aboard := if b.state = .aboard then c.aboard - 1 else c.aboard }) ∧
    (∀ n, (∀ k, b.home = some k → n ≠ k.code) → (t.retire h).cabins.get? n = t.cabins.get? n) := by
  have hu := Store.untag_frame t b.tag
  rw [Store.retire_live hb, Store.countOut_eq]
  have hcounts := Store.recount_counts (t.untag b.tag) b.home (fun c => c.dec b.state) (fun c => { c with
    liveBags := c.liveBags - 1, aboard := if b.state = .aboard then c.aboard - 1 else c.aboard })
  have hkeep := Store.Counts.recount (t.untag b.tag) b.home (fun c => c.dec b.state) (fun c => { c with
    liveBags := c.liveBags - 1, aboard := if b.state = .aboard then c.aboard - 1 else c.aboard })
  generalize hw : (t.untag b.tag).recount b.home (fun c => c.dec b.state) (fun c => { c with
    liveBags := c.liveBags - 1, aboard := if b.state = .aboard then c.aboard - 1 else c.aboard }) = w at hcounts hkeep
  have hbags : w.bags = t.bags := hkeep.bags.trans (by rw [hu])
  have hgens : w.gens = t.gens := hkeep.gens.trans (by rw [hu])
  refine ⟨congrArg (fun l : Table Bag => l.erase h.index) hbags, fun j => ?_, hkeep.tagMap, fun v => ?_, fun k c hk hc => ?_, fun n hn => ?_⟩
  · rw [Store.gen_setGen]
    split
    · rfl
    · exact congrArg (fun g : Table (BitVec 8) => (g.get? j).getD 0) hgens
  · simp only [Store.slot_untag] at hcounts
    refine Eq.trans ?_ (hcounts v)
    cases v <;> rfl
  · have hc' : (t.untag b.tag).cabin? k = some c := by rw [hu]; exact hc
    have hwk : w.cabin? k = some { c with
        liveBags := c.liveBags - 1, aboard := if b.state = .aboard then c.aboard - 1 else c.aboard } := by
      rw [← hw, hk, Store.recount_home, hc']
      rfl
    exact hwk
  · have hwn : w.cabins.get? n = (t.untag b.tag).cabins.get? n := by rw [← hw]; exact Store.recount_other _ hn _ _
    exact hwn.trans (by rw [hu])

theorem State.retireRecord_frame (s : State) (h : Handle) : (s.retireRecord h).store = s.store.retire h ∧
    (s.retireRecord h).loop = { s.loop with points := (s.retireRecord h).loop.points } := by
  unfold State.retireRecord
  dsimp only
  split
  · exact ⟨State.putCauseAll_store .., State.putCauseAll_loop (s.setStore (s.store.retire h)) .table false⟩
  · exact ⟨rfl, rfl⟩

/-! ## A bag leaves its holder (R30, R62, R108) -/

theorem State.leaveHolder_unheld {s : State} {h : Handle} {b : Bag}
    (hst : b.state = .registered ∨ b.state = .missing ∨ b.state = .offload) : s.leaveHolder h b = s := by
  unfold State.leaveHolder
  rcases hst with hst | hst | hst <;> rw [hst]

/-- A STRAY bag leaves a position of the pen, or, where it stands in none, nothing. -/
theorem State.leaveHolder_stray {s : State} {h : Handle} {b : Bag} (hst : b.state = .stray) :
    (∃ p, b.location = some (.pen p) ∧ s.leaveHolder h b = s.freePosition h p) ∨ ¬InPen b ∧ s.leaveHolder h b = s := by
  by_cases hp : ∃ p, b.location = some (.pen p)
  · obtain ⟨p, hp⟩ := hp
    exact .inl ⟨p, hp, by rw [State.leaveHolder, hst, hp]⟩
  · refine .inr ⟨fun hin => hp hin.2, ?_⟩
    unfold State.leaveHolder
    rw [hst]
    split <;> simp_all

theorem State.setContent_carrier? (s : State) (c i : Nat) (x : Content) :
    (s.setContent c x).carrier? i = if i = c then (s.carrier? i).map (fun e => { e with content := x }) else s.carrier? i := by
  change (s.loop.carriers.modify c _)[i]? = _
  rw [List.getElem?_modify]
  split
  · next h => rw [if_pos h.symm]; rfl
  · next h => rw [if_neg (Ne.symm h)]; exact Option.map_id'

theorem State.modifyChute_same {s : State} {k : Nat} {c : Chute} (hk : s.chute? k = some c) (f : Chute → Chute) :
    (s.modifyChute k f).chute? k = some (f c) := by
  rw [State.modifyChute_chute?, if_pos rfl, hk]
  rfl

theorem LeftHolder.leaveHolder {s : State} {h : Handle} {b : Bag} : LeftHolder s (s.leaveHolder h b) h b := by
  refine ⟨fun i e hst hl he => ?_, fun k c hst hl hk => ?_, fun k c hst hl hk => ?_, fun n x hst hl hx => ?_, fun p hst hl => ?_⟩
  · rw [State.leaveHolder, hst, hl]
    change (s.setContent i .empty).carrier? i = _
    rw [State.setContent_carrier?, if_pos rfl, he]
    rfl
  · rw [State.leaveHolder, hst, hl]
    obtain ⟨d, hd, hdc, -⟩ := CutSettled.settleCut (State.modifyChute_same hk
      (fun c => { c with landing := c.landing.filter (fun e => e.bag != h) }))
    exact ⟨d, hd, by rw [hdc], by rw [hdc]⟩
  · rw [State.leaveHolder, hst, hl]
    obtain ⟨d, hd, hdc, -⟩ := CutSettled.settleCut (State.modifyChute_same hk
      (fun c => { c with jams := c.jams.filter (· != h) }))
    exact ⟨d, hd, by rw [hdc], by rw [hdc]⟩
  · have hdrop : s.leaveHolder h b = s.dropEntry n h := by
      rw [State.leaveHolder, hl]
      rcases hst with hst | hst <;> rw [hst]
    rw [hdrop, State.dropEntry_cart?, if_pos rfl, hx]
    rfl
  · rw [State.leaveHolder, hst, hl]
    change (s.freePosition h p).pen.positions.get? p = none ∧ h ∉ (s.freePosition h p).pen.strays
    rw [State.freePosition_pen]
    exact ⟨Table.get?_erase_same .., fun hm => absurd rfl (bne_iff_ne.1 (List.mem_filter.1 hm).2)⟩

theorem State.raise_sources (s : State) (v : Source) (n : Nat) :
    (s.raise v n).notices.sources.length = s.notices.sources.length := List.length_modify ..

theorem State.swap_sources (s : State) (k : Nat) : (s.swap k).notices.sources.length = s.notices.sources.length := by
  unfold State.swap
  split
  · rfl
  · split
    · rfl
    · split
      · rfl
      · split
        · exact State.raise_sources ..
        · rfl

theorem State.settleCut_sources (s : State) (k : Nat) :
    (s.settleCut k).notices.sources.length = s.notices.sources.length := by
  unfold State.settleCut
  split
  · rfl
  · split
    · rfl
    · split
      · exact State.swap_sources ..
      · rfl

theorem SameHolds.settleCut (s : State) (k : Nat) : SameHolds s (s.settleCut k) := by
  have hsame := (Keeps.settleCut s k).changes
  have hstore : (s.settleCut k).store = s.store := hsame .store (by decide)
  have hloop : (s.settleCut k).loop = s.loop := hsame .loop (by decide)
  have hpen : (s.settleCut k).pen = s.pen := hsame .pen (by decide)
  exact ⟨by rw [hloop], by rw [hpen], by rw [tableLow, tableLow, hstore], State.settleCut_subjects_other s k (by decide),
    State.settleCut_sources s k⟩

/-- A bag that stands in no position leaves its holder without a change to the hold conditions. -/
theorem SameHolds.leaveHolder {s : State} {h : Handle} {b : Bag} (hno : ¬InPen b) : SameHolds s (s.leaveHolder h b) := by
  have hrefl : SameHolds s s := ⟨rfl, rfl, rfl, rfl, rfl⟩
  have hcut : ∀ k f, SameHolds s ((s.modifyChute k f).settleCut k) := fun k f => by
    obtain ⟨h1, h2, h3, h4, h5⟩ := SameHolds.settleCut (s.modifyChute k f) k
    exact ⟨h1, h2, h3, h4, h5⟩
  unfold State.leaveHolder
  split
  · exact ⟨rfl, rfl, rfl, rfl, rfl⟩
  · exact hcut ..
  · exact hcut ..
  · exact ⟨rfl, rfl, rfl, rfl, rfl⟩
  · exact ⟨rfl, rfl, rfl, rfl, rfl⟩
  · next p hst hl => exact absurd ⟨hst, p, hl⟩ hno
  · exact hrefl

theorem State.leaveHolder_pen {s : State} {h : Handle} {b : Bag} {p : Nat} (hst : b.state = .stray)
    (hl : b.location = some (.pen p)) : s.leaveHolder h b = s.freePosition h p := by
  rw [State.leaveHolder, hst, hl]

/-! ## A bag retires (R30) -/

section
variable {s : State} {h : Handle} {b : Bag} (hb : s.bag? h = some b)
include hb

theorem State.retireBag_live : s.retireBag h = (s.leaveHolder h b).retireRecord h := by
  rw [State.retireBag, hb]

theorem State.retireBag_store : (s.retireBag h).store = s.store.retire h := by
  have hstore : (s.leaveHolder h b).store = s.store := (Keeps.leaveHolder s h b).changes .store (by decide)
  rw [State.retireBag_live hb, (State.retireRecord_frame ..).1, hstore]

theorem LeftHolder.retireBag : LeftHolder s (s.retireBag h) h b := by
  obtain ⟨hcarrier, hlanding, hjammed, hcart, hpen⟩ := LeftHolder.leaveHolder (s := s) (h := h) (b := b)
  have hsame := (Keeps.retireRecord (s.leaveHolder h b) h).changes
  rw [State.retireBag_live hb]
  generalize hu : s.leaveHolder h b = u at hcarrier hlanding hjammed hcart hpen hsame
  have hchutes : (u.retireRecord h).chutes = u.chutes := hsame .chutes (by decide)
  have hcarts : (u.retireRecord h).carts = u.carts := hsame .carts (by decide)
  have hpens : (u.retireRecord h).pen = u.pen := hsame .pen (by decide)
  have hloop : (u.retireRecord h).loop.carriers = u.loop.carriers := by rw [(State.retireRecord_frame ..).2]
  unfold LeftHolder State.carrier? State.chute? State.cart? at *
  rw [hchutes, hcarts, hpens, hloop]
  exact ⟨hcarrier, hlanding, hjammed, hcart, hpen⟩

theorem Retired.retireBag : Retired s (s.retireBag h) h b := by
  obtain ⟨hbags, hgens, htags, hcounts, hcabin, -⟩ := Store.retire_store (t := s.store) hb
  have hstore := State.retireBag_store hb
  have hgone : (s.retireBag h).store.bags.get? h.index = none := by
    rw [hstore, hbags]
    exact Table.get?_erase_same ..
  refine ⟨?_, hgone, ?_, fun n hn => ?_, fun i hi => ⟨?_, ?_⟩, fun v => ?_, fun k c hk hc => ?_, LeftHolder.retireBag hb⟩
  · cases hx : (s.retireBag h).bag? h with
    | none => rfl
    | some x => cases hgone.symm.trans (Store.bag?_eq_some.1 hx).2
  · rw [hstore, hgens, if_pos rfl]
  · rw [hstore, htags, hn]
    exact Table.get?_erase_same ..
  · rw [hstore, hbags]
    exact Table.get?_erase_other _ hi
  · rw [hstore, hgens, if_neg hi]
  · rw [hstore]
    exact hcounts v
  · rw [hstore]
    exact hcabin k c hk hc

theorem HoldsFollow.retireBag : HoldsFollow s (s.retireBag h) (InPen b) := by
  have hrecord := HoldsFollow.retireRecord (s.leaveHolder h b) h
  rw [State.retireBag_live hb]
  by_cases hin : InPen b
  · obtain ⟨hst, p, hp⟩ := hin
    have hsame := (Keeps.retireRecord (s.leaveHolder h b) h).changes
    refine HoldsFollow.congr ⟨fun _ => ⟨hst, p, hp⟩, fun _ => trivial⟩ (HoldsFollow.thenTable (u := s.leaveHolder h b) ?_ hrecord ?_
      (hsame .pen (by decide)) (hsame .limits (by decide)) ?_)
    · rw [State.leaveHolder_pen hst hp]
      exact HoldsFollow.freePosition ..
    · have hstore : (s.leaveHolder h b).store = s.store := (Keeps.leaveHolder s h b).changes .store (by decide)
      rw [tableLow, tableLow, hstore]
    · rw [State.leaveHolder_pen hst hp]
      exact State.freePosition_sources ..
  · exact HoldsFollow.congr ⟨False.elim, hin⟩ (hrecord.before (SameHolds.leaveHolder hin))

theorem State.retireBag_stray (hst : b.state = .stray) :
    Changes [.store, .pen, .link, .loop, .notices] s (s.retireBag h) ∧
    (s.retireBag h).loop = { s.loop with points := (s.retireBag h).loop.points } := by
  rw [State.retireBag_live hb]
  obtain ⟨-, hloop⟩ := State.retireRecord_frame (s.leaveHolder h b) h
  have hrecord := (Keeps.retireRecord (s.leaveHolder h b) h).changes
  rw [hloop]
  obtain ⟨p, -, hp⟩ | ⟨-, hp⟩ := State.leaveHolder_stray (s := s) (h := h) hst
  · rw [hp] at hrecord ⊢
    exact ⟨(Keeps.freePosition s h p).changes.comp hrecord (by decide) (by decide), by rw [State.freePosition_loop]⟩
  · rw [hp] at hrecord ⊢
    exact ⟨hrecord.mono (by decide), rfl⟩

theorem State.retireBag_unheld (hst : b.state = .registered ∨ b.state = .missing ∨ b.state = .offload) :
    Changes [.store, .link, .loop] s (s.retireBag h) ∧
    (s.retireBag h).loop = { s.loop with points := (s.retireBag h).loop.points } := by
  rw [State.retireBag_live hb, State.leaveHolder_unheld hst]
  exact ⟨(Keeps.retireRecord s h).changes, (State.retireRecord_frame s h).2⟩

end

/-! ## The requests (R41, R151, R164) -/

theorem exec_bagRetire (h : Head) (s : State) : exec (.bagRetire h) s = execBagRetire h s := rfl

theorem exec_offloadConfirmRetire (h : Head) (known : Bool) (p : Byte) (s : State) :
    exec (.offloadConfirmRetire h known p) s = execOffloadConfirmRetire h known p s := rfl

theorem exec_strayResolveReturn (h : Head) (s : State) : exec (.strayResolveReturn h) s = execStrayResolveReturn h s := rfl

theorem request_retiring {s : State} {h : Head} {b : Bag} {len : Nat} (hr : Ready s h len) (hn : Nameable s h.key.handle b)
    (code : Byte) (l : List BagState) :
    request code h len (fun t => retiring h true t [(t.bagIn h.key.handle l, .wrongState)]) s =
      if l.contains b.state = true
      then answered code h (s.taken.retireBag h.key.handle) (Answer.done (.handle h.key.handle))
      else answered code h s.taken (Answer.refuse .wrongState) := by
  have hin : s.taken.bagIn h.key.handle l = l.contains b.state := State.bagIn_live hn.taken.2.2.1 l
  rw [request_ready hr, retiring_nameable hn.taken, hin]
  split
  · next hl => rw [guarded_pass (by rw [hl]; rfl)]
  · next hl => rw [guarded_fail (r := .wrongState) (by rw [Bool.eq_false_iff.2 hl]; rfl)]

theorem Retired.taken {s t : State} {h : Handle} {b : Bag} (k : Retired s.taken t h b) : Retired s t h b := k

theorem HoldsFollow.taken {s t : State} {a : Prop} (k : HoldsFollow s.taken t a) : HoldsFollow s t a := k

/-- Settles O22: each request retires the bag it names, from the pen or from no holder. -/
theorem bagsRetire : Obligations.BagsRetire := by
  intro h position b s hn
  have hb : s.taken.bag? h.key.handle = some b := hn.2.2.1
  have hretired := (Retired.retireBag hb).taken
  have hholds := (HoldsFollow.retireBag hb).taken
  refine ⟨fun hr => ?_, fun hr => ?_, fun hr => ?_⟩
  · have hx : exec (.bagRetire h) s = _ := request_retiring hr hn 0x26 [.registered, .missing, .stray, .offload]
    refine ⟨fun hst => ?_, fun hst => ?_⟩
    · refine ⟨_, hx.trans (if_pos (by simpa using hst)), ?_, hretired, ?_, fun _ => hholds⟩
      · by_cases hs : b.state = .stray
        · exact (State.retireBag_stray hb hs).1.ofTaken (by decide) (by decide)
        · exact (State.retireBag_unheld hb (by tauto)).1.ofTaken (by decide) (by decide)
      · by_cases hs : b.state = .stray
        · exact (State.retireBag_stray hb hs).2
        · exact (State.retireBag_unheld hb (by tauto)).2
    · exact hx.trans (if_neg (by simpa using hst))
  · have hx : exec (.offloadConfirmRetire h true position) s = _ := request_retiring hr hn 0x27 [.offload]
    refine ⟨fun hst => ?_, fun hst => ?_⟩
    · obtain ⟨hch, hloop⟩ := State.retireBag_unheld hb (.inr (.inr hst))
      have hno : ¬InPen b := fun hin => BagState.noConfusion (hst.symm.trans hin.1)
      exact ⟨_, hx.trans (if_pos (by simpa using hst)), hch.ofTaken (by decide) (by decide), hretired, hloop,
        fun _ => HoldsFollow.congr ⟨hno, False.elim⟩ hholds⟩
    · exact hx.trans (if_neg (by simpa using hst))
  · have hx : exec (.strayResolveReturn h) s = _ := request_retiring hr hn 0x4A [.stray]
    refine ⟨fun hst => ?_, fun hst => ?_⟩
    · obtain ⟨hch, hloop⟩ := State.retireBag_stray hb hst
      exact ⟨_, hx.trans (if_pos (by simpa using hst)), hch.ofTaken (by decide) (by decide), hretired, hloop,
        fun _ => hholds⟩
    · exact hx.trans (if_neg (by simpa using hst))

end Sys2Proof.Machine
end

section
/-! A bag enters the pen, and from that OFFLOAD CONFIRM with PEN and BAG UNLOAD (R127, R139, R140, R151, R155). -/

namespace Sys2Proof.Machine

/-! ## Intake (R155) -/

/-- A bag's record as it enters the pen at a position. -/
def Bag.penned (b : Bag) (p now : Nat) : Bag :=
  { b with
    state := .stray, location := some (.pen p), recheck := b.recheck && b.state != .onLoop, aged := false
    reinduct := false, entered := some now }

theorem Bag.enter_penned {b : Bag} (hst : b.state ≠ .stray) (p now : Nat) :
    { b.enter .stray (some (.pen p)) now with aged := false, reinduct := false } = b.penned p now := by
  have hloop : (!(b.state == .onLoop && BagState.stray != .onLoop)) = (b.state != .onLoop) := by
    cases b.state <;> rfl
  rw [Bag.enter, Bag.penned, hloop, if_pos rfl, if_neg hst]

theorem State.intake_store (s : State) (h : Handle) (p : Nat) : (s.intake h p).store =
    ((s.moveBag h .stray (some (.pen p))).modifyBag h (fun b => { b with aged := false, reinduct := false })).store :=
  (Keeps.occupy _ h p).changes .store (by decide)

section
variable {s : State} {h : Handle} {b : Bag} (hb : s.bag? h = some b) (p : Nat)
include hb

theorem State.intake_bag? (hst : b.state ≠ .stray) : (s.intake h p).bag? h = some (b.penned p s.hallSecond) := by
  have hmove := (State.moveBag_store hb .stray (some (.pen p))).1 h
  rw [if_pos rfl] at hmove
  have hmod := State.modifyBag_bag? (s.moveBag h .stray (some (.pen p))) h h (fun b => { b with aged := false, reinduct := false })
  rw [if_pos rfl, hmove] at hmod
  rw [State.bag?, State.intake_store]
  exact hmod.trans (congrArg some (Bag.enter_penned hst p s.hallSecond))

theorem State.intake_others {i : Nat} (hi : i ≠ h.index) : (s.intake h p).store.bags.get? i = s.store.bags.get? i := by
  rw [State.intake_store, (State.modifyBag_frame ..).2 i hi]
  exact (State.moveBag_store hb .stray (some (.pen p))).2.1 i (Ne.symm hi)

theorem State.intake_counts (v : SlotId) : ((s.intake h p).store.slot v).counts =
    if b.home.any (fun k => k.slot == v) = true then (s.store.slot v).counts.move b.state .stray
    else (s.store.slot v).counts := by
  rw [State.intake_store, State.modifyBag_slot]
  exact (State.moveBag_store hb .stray (some (.pen p))).2.2.2.2 v

theorem State.intake_gen (i : Nat) : (s.intake h p).store.gen i = s.store.gen i := by
  have hgens := (State.moveBag_store hb .stray (some (.pen p))).2.2.2.1
  rw [State.intake_store, (State.modifyBag_store ..).1]
  exact congrArg (fun g : Table (BitVec 8) => (g.get? i).getD 0) hgens

end

theorem State.intake_pen (s : State) (h : Handle) (p : Nat) : (s.intake h p).pen = { s.pen with
    positions := s.pen.positions.put p h, strays := s.pen.strays ++ [h], hold := (s.intake h p).pen.hold } :=
  State.occupy_pen _ h p

theorem State.intake_loop (s : State) (h : Handle) (p : Nat) :
    (s.intake h p).loop = { s.loop with points := (s.intake h p).loop.points } := State.occupy_loop _ h p

theorem State.intake_sources (s : State) (h : Handle) (p : Nat) :
    (s.intake h p).notices.sources.length = s.notices.sources.length := State.testPenHold_sources _

theorem State.intake_subjects (s : State) (h : Handle) (p : Nat) {w : Source} (hw : w ≠ .capacity) :
    (s.intake h p).subjects w = s.subjects w := State.testPenHold_subjects _ hw

theorem HoldsFollow.intake {s : State} (hl : BagTableLaw s) (h : Handle) (p : Nat) :
    HoldsFollow s (s.intake h p) True := by
  refine HoldsFollow.before ?_ (HoldsFollow.occupy _ h p)
  have hmove := SameHolds.moveBag hl h .stray (some (.pen p))
  have hmod := SameHolds.modifyBag ((Keeps.moveBag s h .stray (some (.pen p))).bags hl) h
    (fun b => { b with aged := false, reinduct := false })
  exact ⟨rfl, rfl, hmod.low.trans hmove.low, rfl, rfl⟩

/-- The hold conditions do not rest on a bag's other fields. -/
theorem HoldsFollow.modifyBag {s t : State} {a : Prop} (k : HoldsFollow s t a) (hl : BagTableLaw t) (h : Handle)
    (f : Bag → Bag) : HoldsFollow s (t.modifyBag h f) a :=
  k.after (SameHolds.modifyBag hl h f) rfl rfl

/-! ## Bags that enter the pen with a reason (R123, R139, R151) -/

/-- A bag enters the pen at a position with a reason. -/
def State.penIn (s : State) (h : Handle) (p : Nat) (r : StrayReason) : State := (s.intake h p).setReason h r

section
variable {s : State} {h : Handle} {b : Bag} (hb : s.bag? h = some b) (p : Nat) (r : StrayReason)
include hb

theorem State.penIn_bag? (hst : b.state ≠ .stray) :
    (s.penIn h p r).bag? h = some { b.penned p s.hallSecond with reason := some r } := by
  rw [State.penIn, State.setReason, State.modifyBag_bag?, if_pos rfl, State.intake_bag? hb p hst]
  rfl

theorem State.penIn_others {i : Nat} (hi : i ≠ h.index) : (s.penIn h p r).store.bags.get? i = s.store.bags.get? i := by
  rw [State.penIn, State.setReason, (State.modifyBag_frame ..).2 i hi, State.intake_others hb p hi]

theorem State.penIn_counted {f : Counters → Counters} (hf : ∀ c : Counters, c.move b.state .stray = f c) :
    Counted s (s.penIn h p r) b f := by
  intro v
  rw [State.penIn, State.setReason, State.modifyBag_slot, State.intake_counts hb p, hf]

theorem State.penIn_gen (i : Nat) : (s.penIn h p r).store.gen i = s.store.gen i := by
  rw [State.penIn, State.setReason, (State.modifyBag_store ..).1]
  exact State.intake_gen hb p i

end

theorem Keeps.penIn (s : State) (h : Handle) (p : Nat) (r : StrayReason) : Keeps [.store, .pen, .link, .loop, .notices] s (s.penIn h p r) :=
  (Keeps.intake s h p).comp (Keeps.modifyBag _ h _) (by decide) (by decide)

theorem HoldsFollow.penIn {s : State} (hl : BagTableLaw s) (h : Handle) (p : Nat) (r : StrayReason) : HoldsFollow s (s.penIn h p r) True :=
  (HoldsFollow.intake hl h p).modifyBag ((Keeps.intake s h p).bags hl) h _

theorem State.penIn_pen (s : State) (h : Handle) (p : Nat) (r : StrayReason) :
    (s.penIn h p r).pen.positions.get? p = some h ∧ (s.penIn h p r).pen.strays = s.pen.strays ++ [h] := by
  change (s.intake h p).pen.positions.get? p = some h ∧ (s.intake h p).pen.strays = _
  rw [State.intake_pen]
  exact ⟨Table.get?_put_same .., rfl⟩

theorem State.penIn_loop (s : State) (h : Handle) (p : Nat) (r : StrayReason) :
    (s.penIn h p r).loop = { s.loop with points := (s.penIn h p r).loop.points } := State.intake_loop s h p

/-! ## The request tests (R139, R151) -/

theorem exec_offloadConfirmPen (h : Head) (p : Byte) (s : State) :
    exec (.offloadConfirmPen h p) s = execOffloadConfirmPen h p s := rfl

theorem exec_bagUnload (h : Head) (p : Byte) (s : State) : exec (.bagUnload h p) s = execBagUnload h p s := rfl

theorem penTests_pass {s : State} {p : Nat} (hp : p < s.pen.size) (hfree : s.pen.positions.has p = false)
    (hroom : 1 ≤ s.penRoom) : firstFailure (penTests s p true) = none :=
  firstFailure_pass (decide_eq_true hp) (firstFailure_pass rfl (firstFailure_pass (by rw [State.positionFree, hfree]; rfl)
    (firstFailure_pass (decide_eq_true hroom) rfl)))

/-! ## The cart that BAG UNLOAD takes the entry from (R127, R139, R140) -/

theorem State.doorOfCart_congr {s t : State} (h : t.doors = s.doors) (n : Nat) : t.doorOfCart n = s.doorOfCart n := by
  unfold State.doorOfCart
  rw [h]

/-- Live handles of one index are one handle. -/
theorem Store.live_index {t : Store} {g h : Handle} {a b : Bag} (hg : t.bag? g = some a) (hh : t.bag? h = some b)
    (hi : g.index = h.index) : g = h := by
  obtain ⟨hgg, -⟩ := Store.bag?_eq_some.1 hg
  obtain ⟨hgh, -⟩ := Store.bag?_eq_some.1 hh
  obtain ⟨i, x⟩ := g
  obtain ⟨j, y⟩ := h
  cases hi
  rw [show x = y from hgg.symm.trans hgh]

theorem SameHolds.testCart {s : State} (hl : BagTableLaw s) (n : Nat) : SameHolds s (s.testCart n) := by
  have hch := (Keeps.testCart s n).changes
  have hturned := Turned.testCart s n
  have hloop : (s.testCart n).loop = s.loop := hch .loop (by decide)
  have hpen : (s.testCart n).pen = s.pen := hch .pen (by decide)
  exact ⟨by rw [hloop], by rw [hpen], tableLow_of_length (hturned.size hl).2,
    hturned.tells.quiet .capacity (by decide) (by decide) (by decide), hturned.tells.sources⟩

theorem HoldsFollow.testCart {s t : State} {a : Prop} (k : HoldsFollow s t a) (hl : BagTableLaw t) (n : Nat) :
    HoldsFollow s (t.testCart n) a := by
  have hch := (Keeps.testCart t n).changes
  have hpen : (t.testCart n).pen = t.pen := hch .pen (by decide)
  have hlim : (t.testCart n).limits = t.limits := hch .limits (by decide)
  exact k.after (SameHolds.testCart hl n) (by rw [penFree, penFree, hpen]) (by rw [hlim])

/-- The state of BAG UNLOAD before the cart is tested. -/
def State.unloaded (s : State) (n : Nat) (h : Handle) (p : Nat) : State := (s.dropEntry n h).penIn h p .pulled

theorem State.unload_eq {s : State} {h : Handle} {b : Bag} {n : Nat} (hb : s.bag? h = some b)
    (hn : b.location = some (.cart n)) (p : Nat) : s.unload h p = (s.unloaded n h p).testCart n := by
  have hc : (s.bag? h).bind Bag.cart? = some n := by rw [hb]; exact Bag.cart?_eq_some.2 hn
  rw [State.unload, hc]
  rfl

theorem State.unloaded_changes (s : State) (n : Nat) (h : Handle) (p : Nat) :
    Changes [.store, .carts, .pen, .link, .loop, .notices] s (s.unloaded n h p) :=
  (Keeps.dropEntry s n h).changes.comp (Keeps.penIn _ h p .pulled).changes (by decide) (by decide)

theorem State.unloaded_cart? (s : State) (n m : Nat) (h : Handle) (p : Nat) : (s.unloaded n h p).cart? m =
    if m = n then (s.cart? m).map (fun c => { c with entries := c.entries.filter (fun e => e.bag != h) }) else s.cart? m := by
  have hcarts : (s.unloaded n h p).carts = (s.dropEntry n h).carts := (Keeps.penIn _ h p .pulled).changes .carts (by decide)
  rw [State.cart?, hcarts]
  exact State.dropEntry_cart? s n m h

theorem State.unloaded_apart {s : State} {n : Nat} {h : Handle} {p : Nat}
    (hno : ∀ m c, s.cart? m = some c → m ≠ n → ∀ e ∈ c.entries, e.bag ≠ h) (m : Nat) (c : Cart)
    (hc : (s.unloaded n h p).cart? m = some c) : ∀ e ∈ c.entries, e.bag ≠ h := by
  rw [State.unloaded_cart?] at hc
  split at hc
  · obtain ⟨d, -, rfl⟩ := Option.map_eq_some_iff.1 hc
    exact fun e he => bne_iff_ne.1 (List.mem_filter.1 he).2
  · next hm => exact hno m c hc hm

section
variable {s : State} {h : Handle} {b : Bag} {n : Nat} (hb : s.bag? h = some b) (hst : b.state = .inCart)
  (hn : b.location = some (.cart n)) (p : Nat)

include hb hst hn in
theorem State.unload_bag? : ∃ x, (s.unload h p).bag? h = some x ∧ x = { b with
      state := .stray, location := x.location, reason := some .pulled, aged := false, reinduct := false
      entered := some s.hallSecond } ∧
    ((∀ m c, s.cart? m = some c → m ≠ n → ∀ e ∈ c.entries, e.bag ≠ h) → x.location = some (.pen p)) := by
  have hb' : (s.dropEntry n h).bag? h = some b := hb
  have hin : (s.unloaded n h p).bag? h = some { b.penned p s.hallSecond with reason := some .pulled } :=
    State.penIn_bag? hb' p .pulled (by rw [hst]; decide)
  have hturned := Turned.testCart (s.unloaded n h p) n
  rw [State.unload_eq hb hn]
  obtain ⟨l, hl, -⟩ := hturned.bag? hin
  refine ⟨_, hl, ?_, fun hno => ?_⟩
  · simp [Bag.penned, hst]
  · have hap := hturned.bag?_apart hin (State.unloaded_apart hno)
    cases hl.symm.trans hap
    rfl

include hb hn in
theorem State.unload_entries {c : Cart} (hc : (s.unload h p).cart? n = some c) : ∀ e ∈ c.entries, e.bag ≠ h := by
  rw [State.unload_eq hb hn] at hc
  obtain ⟨d, hd, hcd⟩ := (Turned.testCart (s.unloaded n h p) n).carts n c hc
  rw [State.unloaded_cart?, if_pos rfl] at hd
  obtain ⟨z, -, rfl⟩ := Option.map_eq_some_iff.1 hd
  rw [hcd]
  exact fun e he => bne_iff_ne.1 (List.mem_filter.1 he).2

include hb in
theorem State.unloaded_others {i : Nat} (hi : i ≠ h.index) :
    (s.unloaded n h p).store.bags.get? i = s.store.bags.get? i :=
  State.penIn_others (s := s.dropEntry n h) hb p .pulled hi

include hb in
theorem State.unloaded_bag? {g : Handle} {o : Bag} (hg : g ≠ h) (ho : s.bag? g = some o) :
    (s.unloaded n h p).bag? g = some o := by
  have hi : g.index ≠ h.index := fun hi => hg (Store.live_index ho hb hi)
  obtain ⟨hgen, hget⟩ := Store.bag?_eq_some.1 ho
  exact Store.bag?_eq_some.2 ⟨(State.penIn_gen (s := s.dropEntry n h) hb p .pulled _).trans hgen,
    (State.unloaded_others hb p hi).trans hget⟩

end

/-! ## The requests -/

/-- What BAG UNLOAD leaves of the cart it takes the entry from. -/
theorem State.unload_cart {s : State} {h : Handle} {b : Bag} {n : Nat} {c : Cart} (hb : s.bag? h = some b)
    (hn : b.location = some (.cart n)) (p : Nat) (hc : s.cart? n = some c) :
    let t := s.unload h p
    let left := c.entries.filter (fun e => e.bag != h)
    let others := ∀ i, i ≠ h.index → t.store.bags.get? i = s.store.bags.get? i
    let told := ∀ k r, s.notices.sources.length = 15 → c.route = some k → s.route? k = some r →
      (c.notify = true ∨ r.notifyAll = true) → k.subject ∈ t.subjects .cartDone
    ((c.state ≠ .queued ∨ left ≠ [] ∨ c.unidentified ≠ 0) → c.state ≠ .atDoor →
      t.cart? n = some { c with entries := left } ∧ t.routes = s.routes ∧ t.doors = s.doors ∧ others) ∧
    (c.state = .queued → left = [] → c.unidentified = 0 → t.cart? n = none ∧ t.doors = s.doors ∧ others ∧ told ∧
      ∀ k r, c.route = some k → t.route? k = some r → n ∉ r.queue) ∧
    (c.state = .atDoor → ((∃ e ∈ left, e.aboard = false) ∨ c.unidentified ≠ 0) →
      (∀ d, s.doorOfCart n = some d → ∃ y, s.door? d = some y ∧ y.cart = some n) →
      t.cart? n = some { c with entries := left } ∧ t.routes = s.routes ∧ others) ∧
    (∀ d y, c.state = .atDoor → s.doorOfCart n = some d → s.door? d = some y → y.cart = some n →
      (∀ e ∈ left, e.aboard = true) → c.unidentified = 0 → t.cart? n = none ∧ told ∧
      ∀ e ∈ left, ∀ o, s.bag? e.bag = some o → t.bag? e.bag = some { o with location := none }) := by
  intro t left others told
  have ht : t = (s.unloaded n h p).testCart n := State.unload_eq hb hn p
  have hcart : (s.unloaded n h p).cart? n = some { c with entries := left } := by
    rw [State.unloaded_cart?, if_pos rfl, hc]
    rfl
  have hch := State.unloaded_changes s n h p
  have hroutes : (s.unloaded n h p).routes = s.routes := hch .routes (by decide)
  have hdoors : (s.unloaded n h p).doors = s.doors := hch .doors (by decide)
  have hsources : (s.unloaded n h p).notices.sources.length = s.notices.sources.length :=
    State.intake_sources (s.dropEntry n h) h p
  have hbags := fun i (hi : i ≠ h.index) => State.unloaded_others (n := n) hb p hi
  have hroute : ∀ k, (s.unloaded n h p).route? k = s.route? k := fun k => by rw [State.route?, hroutes]; rfl
  have hdoor : ∀ d, (s.unloaded n h p).door? d = s.door? d := fun d => by rw [State.door?, hdoors]; rfl
  have hat := State.doorOfCart_congr hdoors n
  refine ⟨fun hstays hd => ?_, fun hq he hu => ?_, fun hd hleft hds => ?_, fun d y hd hdn hy hyn hall hu => ?_⟩
  · have hsame : t = s.unloaded n h p := by
      rw [ht]
      by_cases hq : c.state = .queued
      · exact State.testCart_holds hcart hq (hstays.resolve_left (absurd hq))
      · exact State.testCart_elsewhere hcart hq hd
    rw [hsame]
    exact ⟨hcart, hroutes, hdoors, fun i hi => by rw [hsame]; exact hbags i hi⟩
  · obtain ⟨hkeep, hgone, htold, hqueue⟩ := State.testCart_retires hcart hq he hu
    rw [← ht] at hkeep hgone htold hqueue
    have hstore : t.store = (s.unloaded n h p).store := hkeep .store (by decide)
    refine ⟨by rw [State.cart?, hgone]; exact Table.get?_erase_same .., (hkeep .doors (by decide)).trans hdoors,
      fun i hi => by rw [hstore]; exact hbags i hi, fun k r h15 hk hr hflag => ?_, hqueue⟩
    exact htold k r (hsources.trans h15) hk ((hroute k).trans hr) hflag
  · have hdone : ({ c with entries := left } : Cart).done = false := Bool.eq_false_iff.2 fun hx => by
      obtain ⟨h1, h2⟩ := Cart.done_iff.1 hx
      obtain ⟨e, he, hea⟩ | hu := hleft
      · exact Bool.false_ne_true (hea.symm.trans (h1 e he))
      · exact hu h2
    have hkeep := State.testCart_waits hcart hd hdone fun d hdn => by
      obtain ⟨y, hy, hyn⟩ := hds d (hat.symm.trans hdn)
      exact ⟨y, (hdoor d).trans hy, hyn⟩
    rw [← ht] at hkeep
    have hstore : t.store = (s.unloaded n h p).store := hkeep .store (by decide)
    have hcarts : t.carts = (s.unloaded n h p).carts := hkeep .carts (by decide)
    exact ⟨by rw [State.cart?, hcarts]; exact hcart, (hkeep .routes (by decide)).trans hroutes,
      fun i hi => by rw [hstore]; exact hbags i hi⟩
  · have hdone : ({ c with entries := left } : Cart).done = true := Cart.done_iff.2 ⟨hall, hu⟩
    obtain ⟨hgone, hbag, htold⟩ := State.testCart_completes hcart hd hdone (hat.trans hdn) ((hdoor d).trans hy) hyn
    rw [← ht] at hgone hbag htold
    exact ⟨hgone, fun k r h15 hk hr hflag => htold k r (hsources.trans h15) hk ((hroute k).trans hr) hflag,
      fun e he o ho => hbag e he o (State.unloaded_bag? hb p (bne_iff_ne.1 (List.mem_filter.1 he).2) ho)⟩

/-- Settles O23: both requests pull their bag into the pen, and BAG UNLOAD tests the cart it came from. -/
theorem bagsEnterPen : Obligations.BagsEnterPen := by
  intro h position b s hn hp hfree hroom
  have hb : s.taken.bag? h.key.handle = some b := hn.2.2.1
  have hpass : ∀ l : List BagState, l.contains b.state = true →
      firstFailure (penTests s.taken position.toNat (s.taken.bagIn h.key.handle l)) = none := fun l hl => by
    rw [State.bagIn_live hb, hl]
    exact penTests_pass (s := s.taken) hp hfree hroom
  refine ⟨fun hr hst => ?_, fun n hr hst hloc => ?_⟩
  · have hx : exec (.offloadConfirmPen h position) s = answered 0x27 h (s.taken.penIn h.key.handle position.toNat .pulled)
        ((s.taken.penIn h.key.handle position.toNat .pulled).bagAnswer h.key.handle) := by
      rw [exec_offloadConfirmPen]
      exact request_onBag_pass hr hn 0x27
        (own := fun t => penTests t position.toNat (t.bagIn h.key.handle [.offload])) (hpass _ (by rw [hst]; rfl))
        (fun t => t.penIn h.key.handle position.toNat .pulled)
    obtain ⟨hpos, hstrays⟩ := State.penIn_pen s.taken h.key.handle position.toNat .pulled
    refine ⟨_, hx, (Keeps.penIn s.taken _ _ _).changes.ofTaken (by decide) (by decide), ?_, fun i hi => ?_, hpos, hstrays, ?_,
      State.penIn_loop .., fun hl => (HoldsFollow.penIn (s := s.taken) hl _ _ _).taken⟩
    · rw [State.penIn_bag? hb _ _ (by rw [hst]; decide)]
      simp only [Bag.penned, hst]
      rw [show (BagState.offload != .onLoop) = true from rfl, Bool.and_true]
      rfl
    · exact State.penIn_others hb _ _ hi
    · exact State.penIn_counted hb _ _ fun c => congrArg (fun st => c.move st .stray) hst
  · set u := s.taken.unloaded n h.key.handle position.toNat with hu
    have ht : s.taken.unload h.key.handle position.toNat = u.testCart n := State.unload_eq hb hloc _
    have hx : exec (.bagUnload h position) s = answered 0x28 h (s.taken.unload h.key.handle position.toNat)
        ((s.taken.unload h.key.handle position.toNat).bagAnswer h.key.handle) := by
      rw [exec_bagUnload]
      exact request_onBag_pass hr hn 0x28
        (own := fun t => penTests t position.toNat (t.bagIn h.key.handle [.inCart])) (hpass _ (by rw [hst]; rfl))
        (fun t => t.unload h.key.handle position.toNat)
    obtain ⟨x, hxb, hxeq, hxloc⟩ := State.unload_bag? hb hst hloc position.toNat
    obtain ⟨hpos, hstrays⟩ := State.penIn_pen (s.taken.dropEntry n h.key.handle) h.key.handle position.toNat .pulled
    have hkeep := (Keeps.testCart u n).changes
    have hturned := Turned.testCart u n
    have hpen : (u.testCart n).pen = u.pen := hkeep .pen (by decide)
    have hloop : (u.testCart n).loop = u.loop := hkeep .loop (by decide)
    refine ⟨_, x, hx, ?_, hxb, hxeq, ?_, ?_, hxloc, fun c hc => State.unload_entries hb hloc _ hc, fun v => ?_,
      fun i o hi ho => ?_, fun c hc => State.unload_cart hb hloc _ hc, ?_, fun hl => ?_⟩
    · rw [ht]
      exact ((State.unloaded_changes s.taken n _ _).comp hkeep (n := [.store, .carts, .routes, .doors, .pen, .link, .loop, .notices])
        (by decide) (by decide)).ofTaken (by decide) (by decide)
    · rw [ht, hpen]
      exact hpos
    · rw [ht, hpen]
      exact hstrays
    · rw [ht, Store.slot_of_bags hturned.store]
      exact State.penIn_counted (s := s.taken.dropEntry n h.key.handle) hb _ _ (fun c => congrArg (fun st => c.move st .stray) hst) v
    · obtain ⟨l, hl, hol⟩ := hturned.bags i o ((State.unloaded_others hb _ hi).trans ho)
      rw [ht]
      exact ⟨l, hl, hol.imp_right And.left⟩
    · rw [ht, hloop]
      exact State.penIn_loop (s.taken.dropEntry n h.key.handle) ..
    · have hlu : BagTableLaw u := (Keeps.penIn _ _ _ _).bags (s := s.taken.dropEntry n h.key.handle) hl
      rw [ht]
      have hin := HoldsFollow.penIn (s := s.taken.dropEntry n h.key.handle) hl h.key.handle position.toNat .pulled
      exact (HoldsFollow.before (s := s) ⟨rfl, rfl, rfl, rfl, rfl⟩ hin).testCart hlu n

end Sys2Proof.Machine
end

section
/-! Bags that land in carts or in the pen, and from that JAM CLEAR (R118 to R123, R155). -/

namespace Sys2Proof.Machine

/-! ## Full carts and cuts are settled (R118, R119) -/

/-- A chute's record with its carts, the active one and its state as they were. -/
structure Chute.SameCarts (c e : Chute) : Prop where
  active : e.active = c.active
  position : ∀ p, e.position p = c.position p
  state : e.state = c.state

theorem SameHolds.trans {s t u : State} (h : SameHolds s t) (k : SameHolds t u) : SameHolds s u :=
  ⟨k.points.trans h.points, k.hold.trans h.hold, k.low.trans h.low, k.subjects.trans h.subjects, k.sources.trans h.sources⟩

theorem State.settleFull_sources (s : State) (k : Nat) :
    (s.settleFull k).notices.sources.length = s.notices.sources.length := by
  unfold State.settleFull
  split
  · rfl
  · split
    · rfl
    · split
      · exact State.swap_sources ..
      · rfl

theorem SameHolds.settleFull (s : State) (k : Nat) : SameHolds s (s.settleFull k) := by
  have hsame := (Keeps.settleFull s k).changes
  have hstore : (s.settleFull k).store = s.store := hsame .store (by decide)
  have hloop : (s.settleFull k).loop = s.loop := hsame .loop (by decide)
  have hpen : (s.settleFull k).pen = s.pen := hsame .pen (by decide)
  exact ⟨by rw [hloop], by rw [hpen], by rw [tableLow, tableLow, hstore], State.settleFull_subjects_other s k (by decide),
    State.settleFull_sources s k⟩

/-- The carts of a chute are settled as a landing ends. -/
def State.settles (s : State) (k : Nat) : State := (s.settleFull k).settleCut k

theorem Keeps.settles (s : State) (k : Nat) : Keeps [.chutes, .carts, .notices] s (s.settles k) :=
  (Keeps.settleFull s k).trans (Keeps.settleCut _ k)

theorem SameHolds.settles (s : State) (k : Nat) : SameHolds s (s.settles k) :=
  (SameHolds.settleFull s k).trans (SameHolds.settleCut _ k)

theorem State.settles_subjects_other (s : State) (k : Nat) {w : Source} (h : w ≠ .chuteBlocked) :
    (s.settles k).subjects w = s.subjects w :=
  (State.settleCut_subjects_other _ k h).trans (State.settleFull_subjects_other s k h)

theorem State.settleFull_idle {s : State} {k : Nat} {c : Chute} (hk : s.chute? k = some c) (hc : s.activeCart c = none) :
    s.settleFull k = s := by
  rw [State.settleFull, hk]
  dsimp only
  rw [hc]

theorem State.settleCut_idle {s : State} {k : Nat} {c : Chute} (hk : s.chute? k = some c) (hc : s.activeCart c = none) :
    s.settleCut k = s := by
  rw [State.settleCut, hk]
  dsimp only
  rw [hc]

theorem State.settles_idle {s : State} {k : Nat} {c : Chute} (hk : s.chute? k = some c) (hc : s.activeCart c = none) :
    s.settles k = s := by
  rw [State.settles, State.settleFull_idle hk hc, State.settleCut_idle hk hc]

theorem State.activeCart_none {s : State} {c : Chute} (h : c.active = none) : s.activeCart c = none := by
  rw [State.activeCart, Chute.active?, h]
  rfl

theorem State.settles_chute? {s : State} {k : Nat} {c : Chute} (hk : s.chute? k = some c) :
    ∃ d, (s.settles k).chute? k = some d ∧ d = { c with active := d.active, state := d.state } := by
  cases hc : s.activeCart c with
  | none => exact ⟨c, by rw [State.settles_idle hk hc]; exact hk, rfl⟩
  | some nx =>
    obtain ⟨d, hd, hdc, -⟩ := SwapsIf.settle hk hc
    exact ⟨d, hd, hdc⟩

/-- The settling of carts leaves the hold conditions as they follow. -/
theorem HoldsFollow.settled {s u t : State} {a : Prop} (k : HoldsFollow s u a) (h : SameHolds u t)
    (hch : Changes [.chutes, .carts, .notices] u t) : HoldsFollow s t a := by
  have hpen : t.pen = u.pen := hch .pen (by decide)
  have hlim : t.limits = u.limits := hch .limits (by decide)
  exact k.after h (by rw [penFree, penFree, hpen]) (by rw [hlim])

/-! ## A bag lands in the active cart (R120) -/

section
variable {s : State} {g : Handle} {b : Bag} (hb : s.bag? g = some b) (n : Nat)
include hb

theorem State.landInCart_bag? : (s.landInCart g n).bag? g =
    some { b.enter .inCart (some (.cart n)) s.hallSecond with pull := demanded s b } := by
  have hmove := (State.moveBag_store hb .inCart (some (.cart n))).1 g
  rw [if_pos rfl] at hmove
  have hsame : demanded (s.moveBag g .inCart (some (.cart n))) (b.enter .inCart (some (.cart n)) s.hallSecond) = demanded s b :=
    demanded_congr (State.moveBag_alike s g .inCart (some (.cart n))) rfl rfl
  refine Eq.trans ?_ (congrArg (fun q => some { b.enter .inCart (some (.cart n)) s.hallSecond with pull := q }) hsame)
  exact State.demandCheck_bag? (s := (s.moveBag g .inCart (some (.cart n))).modifyCart n
    (fun x => { x with entries := x.entries ++ [⟨g, false⟩] })) hmove

theorem State.landInCart_others {i : Nat} (hi : i ≠ g.index) :
    (s.landInCart g n).store.bags.get? i = s.store.bags.get? i := by
  rw [State.landInCart, State.demandCheck, (State.modifyBag_frame ..).2 i hi]
  exact (State.moveBag_store hb .inCart (some (.cart n))).2.1 i (Ne.symm hi)

theorem State.landInCart_counted {f : Counters → Counters} (hf : ∀ c : Counters, c.move b.state .inCart = f c) :
    Counted s (s.landInCart g n) b f := by
  intro v
  rw [State.landInCart, State.demandCheck, State.modifyBag_slot]
  refine ((State.moveBag_store hb .inCart (some (.cart n))).2.2.2.2 v).trans ?_
  rw [hf]

end

theorem State.landInCart_cart? (s : State) (g : Handle) (n m : Nat) : (s.landInCart g n).cart? m =
    if m = n then (s.cart? m).map (fun x => { x with entries := x.entries ++ [⟨g, false⟩] }) else s.cart? m :=
  State.modifyCart_cart? (s.moveBag g .inCart (some (.cart n))) n m fun x => { x with entries := x.entries ++ [⟨g, false⟩] }

section
variable {s : State} {k n : Nat} {c : Chute} {x : Cart} {g : Handle} {b : Bag} {f : Chute → Chute}
  (hk : s.chute? k = some c) (hf : Chute.SameCarts c (f c)) (hb : s.bag? g = some b)

include hk hf in
/-- What a landing in the active cart leaves of the chute and its carts (R118 to R120). -/
theorem State.landInCart_settles (hc : s.activeCart c = some (n, x)) :
    let t := ((s.modifyChute k f).landInCart g n).settles k
    ∃ d, t.chute? k = some d ∧ d = { f c with active := d.active, state := d.state } ∧
      (∀ j, j ≠ k → t.chute? j = s.chute? j) ∧
      t.cart? n = some { x with
        entries := x.entries ++ [⟨g, false⟩]
        state := if x.capacity ≤ x.entries.length + 1 + x.unidentified then .full
          else if x.state = .closing ∧ d.reserved + d.landing.length + d.jams.length = 0 then .cut else x.state } ∧
      SwapsIf (x.capacity ≤ x.entries.length + 1 + x.unidentified ∨
        x.state = .closing ∧ d.reserved + d.landing.length + d.jams.length = 0) s t k n c d c.state := by
  intro t
  have hv : ((s.modifyChute k f).landInCart g n).chute? k = some (f c) := State.modifyChute_same hk f
  obtain ⟨p, ha, hp, hx⟩ := State.activeCart_eq hc
  have hcart : ((s.modifyChute k f).landInCart g n).cart? n = some { x with entries := x.entries ++ [⟨g, false⟩] } := by
    have hx' : (s.modifyChute k f).cart? n = some x := hx
    rw [State.landInCart_cart?, if_pos rfl, hx']
    rfl
  have hact : ((s.modifyChute k f).landInCart g n).activeCart (f c) = some (n, _) :=
    State.activeCart_of (hf.active.trans ha) ((hf.position p).trans hp) hcart
  obtain ⟨d, hd, hdc, hothers, hdn, hswap⟩ := SwapsIf.settle hv hact
  rw [hf.state] at hswap
  simp only [List.length_append, List.length_cons, List.length_nil, Nat.zero_add] at hdn hswap
  refine ⟨d, hd, hdc, fun j hj => (hothers j hj).trans ?_, hdn,
    SwapsIf.before (u := (s.modifyChute k f).landInCart g n) (fun m hm => ?_) rfl rfl hf.active hf.position hswap⟩
  · change (s.modifyChute k f).chute? j = _
    rw [State.modifyChute_chute?, if_neg hj]
  · rw [State.landInCart_cart?, if_neg hm]
    rfl

include hb in
/-- What a landing in the active cart leaves of the records and the notices (R2, R120, R148). -/
theorem State.landInCart_records :
    let t := ((s.modifyChute k f).landInCart g n).settles k
    Changes [.store, .chutes, .carts, .notices] s t ∧
    t.bag? g = some { b.enter .inCart (some (.cart n)) s.hallSecond with pull := demanded s b } ∧
    (∀ i, i ≠ g.index → t.store.bags.get? i = s.store.bags.get? i) ∧
    (∀ w, (∀ z : Counters, z.move b.state .inCart = w z) → Counted s t b w) ∧
    (∀ w, w ≠ .chuteBlocked → t.subjects w = s.subjects w) := by
  intro t
  have hb' : (s.modifyChute k f).bag? g = some b := hb
  have hkeep := (Keeps.settles ((s.modifyChute k f).landInCart g n) k).changes
  have hstore : t.store = ((s.modifyChute k f).landInCart g n).store := hkeep .store (by decide)
  refine ⟨((Keeps.modifyChute s k f).comp (n := [.store, .chutes, .carts]) (Keeps.landInCart _ g n) (by decide) (by decide)).changes.comp hkeep
    (by decide) (by decide), ?_, fun i hi => ?_, fun w hw v => ?_, fun w hw => State.settles_subjects_other _ k hw⟩
  · rw [State.bag?, hstore]
    exact State.landInCart_bag? hb' n
  · rw [hstore]
    exact State.landInCart_others hb' n hi
  · rw [hstore]
    exact State.landInCart_counted hb' n hw v

end

/-- A bag in the hall that lands in a cart is counted as it was. -/
theorem Counters.move_hall {p q : BagState} (hp : p.inHall = true) (hq : q.inHall = true) (z : Counters) : z.move p q = id z := by
  unfold Counters.move BagState.sameCounter
  rw [hp, hq, Bool.and_self, Bool.or_true]
  rfl

/-! ## A bag lands in the pen (R121, R155) -/

/-- A bag has entered the pen at a position, at the tail of the stray list, with a reason or none, counted in its new state; the
pen hold follows, and no other record changes. -/
structure Pens (s t : State) (g : Handle) (b : Bag) (p : Nat) (r : Option StrayReason) : Prop where
  bag : t.bag? g = some { b.penned p s.hallSecond with reason := r }
  others : ∀ i, i ≠ g.index → t.store.bags.get? i = s.store.bags.get? i
  counted : ∀ w, (∀ z : Counters, z.move b.state .stray = w z) → Counted s t b w
  position : t.pen.positions.get? p = some g
  strays : t.pen.strays = s.pen.strays ++ [g]
  loop : t.loop = { s.loop with points := t.loop.points }
  holds : BagTableLaw s → HoldsFollow s t True

section
variable {s : State} {g : Handle} {b : Bag} (hb : s.bag? g = some b) (hst : b.state ≠ .stray) (p : Nat)
include hb hst

theorem Pens.intake : Pens s (s.intake g p) g b p b.reason where
  bag := State.intake_bag? hb p hst
  others _ hi := State.intake_others hb p hi
  counted w hw v := by rw [State.intake_counts hb p, hw]
  position := by rw [State.intake_pen]; exact Table.get?_put_same ..
  strays := by rw [State.intake_pen]
  loop := State.intake_loop s g p
  holds hl := HoldsFollow.intake hl g p

theorem Pens.penIn (r : StrayReason) : Pens s (s.penIn g p r) g b p (some r) where
  bag := State.penIn_bag? hb p r hst
  others _ hi := State.penIn_others hb p r hi
  counted _ hw := State.penIn_counted hb p r hw
  position := (State.penIn_pen s g p r).1
  strays := (State.penIn_pen s g p r).2
  loop := State.penIn_loop s g p r
  holds hl := HoldsFollow.penIn hl g p r

end

/-- After a change to the chute that it lands at. -/
theorem Pens.before {s t : State} {k : Nat} {f : Chute → Chute} {g : Handle} {b : Bag} {p : Nat} {r : Option StrayReason}
    (h : Pens (s.modifyChute k f) t g b p r) : Pens s t g b p r where
  bag := h.bag
  others := h.others
  counted := h.counted
  position := h.position
  strays := h.strays
  loop := h.loop
  holds hl := (h.holds hl).before ⟨rfl, rfl, rfl, rfl, rfl⟩

/-- Before the settling of the chute's carts. -/
theorem Pens.settled {s u t : State} {g : Handle} {b : Bag} {p : Nat} {r : Option StrayReason} (h : Pens s u g b p r)
    (hsame : SameHolds u t) (hch : Changes [.chutes, .carts, .notices] u t) : Pens s t g b p r := by
  have hstore : t.store = u.store := hch .store (by decide)
  have hpen : t.pen = u.pen := hch .pen (by decide)
  have hloop : t.loop = u.loop := hch .loop (by decide)
  exact {
    bag := by rw [State.bag?, hstore]; exact h.bag
    others := by rw [hstore]; exact h.others
    counted := fun w hw v => by rw [hstore]; exact h.counted w hw v
    position := by rw [hpen]; exact h.position
    strays := by rw [hpen]; exact h.strays
    loop := by rw [hloop]; exact h.loop
    holds := fun hl => (h.holds hl).settled hsame hch }

theorem Bag.penned_hall {b : Bag} (hst : b.state ≠ .onLoop) (p now : Nat) : b.penned p now = { b with
    state := .stray, location := some (.pen p), aged := false, reinduct := false, entered := some now } := by
  rw [Bag.penned, bne_iff_ne.2 hst, Bool.and_true]

theorem Counters.move_pen {p : BagState} (hp : p = .landing ∨ p = .jammed) (z : Counters) :
    z.move p .stray = { z with hall := z.hall - 1, stray := z.stray + 1 } := by
  rcases hp with rfl | rfl
  · rfl
  · rfl

/-! ## The lowest free position (R154, R155) -/

theorem lowestPosition : Claim.LowestPosition := by
  intro s hw
  obtain ⟨hfree, hlow⟩ := Table.lowestFree_spec hw 0 fun _ _ => Nat.zero_le _
  refine ⟨hfree, fun p hp => hlow p (Nat.zero_le _) hp, fun hroom => ?_⟩
  have hle := Table.lowestFree_le s.pen.positions 0
  rw [State.lowestPosition]
  omega

/-! ## JAM CLEAR (R123) -/

theorem exec_jamClearLanded (h : Head) (known : Bool) (chute position : Byte) (s : State) :
    exec (.jamClearLanded h known chute position) s = execJamClearLanded h known chute position s := rfl

theorem exec_jamClearRemoved (h : Head) (chute position : Byte) (s : State) :
    exec (.jamClearRemoved h chute position) s = execJamClearRemoved h chute position s := rfl

theorem State.jammedIn_of {s : State} {h : Handle} {b : Bag} {k : Nat} {c : Chute} (hb : s.bag? h = some b)
    (hk : s.chute? k = some c) (hst : b.state = .jammed) (hm : h ∈ c.jams) : s.jammedIn h k = true := by
  rw [State.jammedIn, State.bagIn_live hb, hk, hst]
  simpa using hm

/-- The chute without a bag's jam entry. -/
def Chute.unjam (h : Handle) (c : Chute) : Chute := { c with jams := c.jams.filter (· != h) }

theorem Chute.SameCarts.unjam (h : Handle) (c : Chute) : Chute.SameCarts c (Chute.unjam h c) :=
  ⟨rfl, fun p => by cases p <;> rfl, rfl⟩

section
variable {s : State} {g : Handle} {k : Nat} {c : Chute} (hk : s.chute? k = some c)
include hk

theorem State.jamLanded_stray (hkind : c.kind = .stray) :
    s.jamLanded g k = ((s.modifyChute k (Chute.unjam g)).intake g s.lowestPosition).settles k := by
  rw [State.jamLanded, hk]
  dsimp only
  rw [State.landBag, hkind]
  rfl

theorem State.jamLanded_deck {n : Nat} {x : Cart} (hkind : c.kind = .deck) (hc : s.activeCart c = some (n, x)) :
    s.jamLanded g k = ((s.modifyChute k (Chute.unjam g)).landInCart g n).settles k := by
  have hc' : (s.unjam g k).activeCart c = some (n, x) := hc
  rw [State.jamLanded, hk]
  dsimp only
  rw [State.landBag, hkind]
  dsimp only
  rw [hc']
  rfl

end

theorem jamClearLands : Claim.JamClearLands := by
  intro h chute position b c s hr hn hk hst hm
  have hb : s.taken.bag? h.key.handle = some b := hn.2.2.1
  have hk' : s.taken.chute? chute.toNat = some c := hk
  have hx : ∀ t, s.taken.jamLanded h.key.handle chute.toNat = t →
      exec (.jamClearLanded h true chute position) s = answered 0x3F h t (t.bagAnswer h.key.handle) := fun t ht => by
    have hpass := request_onBag_pass hr hn 0x3F
      (own := fun t => [((t.chute? chute.toNat).isSome, .badField), (t.jammedIn h.key.handle chute.toNat, .wrongState)])
      (firstFailure_pass (by rw [hk']; rfl) (firstFailure_pass (State.jammedIn_of hb hk' hst hm) rfl))
      (fun t => t.jamLanded h.key.handle chute.toNat)
    rw [ht] at hpass
    exact hpass
  refine ⟨fun hkind => ?_, fun n x hkind hc => ?_⟩
  · have ht := State.jamLanded_stray (g := h.key.handle) hk' hkind
    set v := (s.taken.modifyChute chute.toNat (Chute.unjam h.key.handle)).intake h.key.handle s.taken.lowestPosition with hv
    have hvk : v.chute? chute.toNat = some (Chute.unjam h.key.handle c) := by
      have hch : v.chutes = _ := (Keeps.intake _ h.key.handle s.taken.lowestPosition).changes .chutes (by decide)
      rw [State.chute?, hch]
      exact State.modifyChute_same hk' _
    have hpens := ((Pens.intake (s := s.taken.modifyChute chute.toNat (Chute.unjam h.key.handle)) hb
      (by rw [hst]; decide) s.taken.lowestPosition).before).settled (SameHolds.settles v chute.toNat)
        (Keeps.settles v chute.toNat).changes
    obtain ⟨d, hd, hdc⟩ := State.settles_chute? hvk
    refine ⟨_, hx _ ht, ?_, ?_, hpens.others, hpens.counted _ (Counters.move_pen (.inr hst)), hpens.position, hpens.strays,
      ⟨d, hd, by rw [hdc]; rfl, by rw [hdc]; rfl⟩, fun ha => ?_, hpens.loop, fun hl => (hpens.holds hl).taken⟩
    · rw [← ht]
      exact (Keeps.jamLanded s.taken h.key.handle chute.toNat).changes.ofTaken (by decide) (by decide)
    · rw [hpens.bag, Bag.penned_hall (by rw [hst]; decide)]
      rfl
    · rw [State.settles_idle hvk (State.activeCart_none ha)]
      exact ⟨(Keeps.intake _ h.key.handle s.taken.lowestPosition).changes .chutes (by decide),
        (Keeps.intake _ h.key.handle s.taken.lowestPosition).changes .carts (by decide)⟩
  · have ht := State.jamLanded_deck (g := h.key.handle) hk' hkind hc
    obtain ⟨hch, hbag, hothers, hcounted, hsubjects⟩ :=
      State.landInCart_records (k := chute.toNat) (n := n) (f := Chute.unjam h.key.handle) hb
    obtain ⟨d, hd, hdc, hdo, hdn, hswap⟩ := State.landInCart_settles (g := h.key.handle) hk' (Chute.SameCarts.unjam h.key.handle c) hc
    exact ⟨_, _, d, _, hx _ ht, (hch.mono (by decide)).ofTaken (l := [.store, .notices, .carts, .chutes]) (by decide) (by decide),
      hbag, rfl, rfl, rfl, rfl, hcounted id (Counters.move_hall (by rw [hst]; rfl) rfl), hothers, hd, hdc, hdo, hdn, rfl, rfl,
      hswap, hsubjects⟩

theorem State.jamRemoved_eq {s : State} {g : Handle} {b : Bag} (hb : s.bag? g = some b) (k p : Nat) :
    s.jamRemoved g k p = ((s.modifyChute k (Chute.unjam g)).penIn g p (s.jamReason b)).settleCut k := by
  rw [State.jamRemoved, hb]
  rfl

theorem State.jamReason_eq (s : State) (b : Bag) : s.jamReason b =
    b.reason.getD (if b.pull.isSome || s.store.governedStandsVoid b then .pulled else .held) := by
  unfold State.jamReason
  cases b.reason with
  | none => rfl
  | some r => rfl

/-- The tests of JAM CLEAR with REMOVED, after those of R35 (R123). -/
def removedTests (g : Handle) (k p : Nat) (t : State) : List (Bool × Result) :=
  [((t.chute? k).isSome && t.isPosition p, .badField), (t.jammedIn g k, .wrongState), (t.positionFree p, .inUse),
   (t.strayChute k || decide (1 ≤ t.penRoom), .full)]

theorem jamClearRemoves : Claim.JamClearRemoves := by
  intro h chute position b c s hr hn hk hp hst hm
  have hb : s.taken.bag? h.key.handle = some b := hn.2.2.1
  have hk' : s.taken.chute? chute.toNat = some c := hk
  have hfound : ((s.taken.chute? chute.toNat).isSome && s.taken.isPosition position.toNat) = true := by
    rw [hk']
    exact decide_eq_true hp
  have hin := State.jammedIn_of hb hk' hst hm
  have hstray : s.taken.strayChute chute.toNat = (c.kind == .stray) := by rw [State.strayChute, hk']; rfl
  refine ⟨fun hused => ?_, fun hfree hkind hroom => ?_, fun hfree hroom => ?_⟩
  · refine request_onBag_fail hr hn 0x3F (own := removedTests h.key.handle chute.toNat position.toNat)
      (firstFailure_pass hfound (firstFailure_pass hin (firstFailure_stop ?_))) _
    exact congrArg not hused
  · refine request_onBag_fail hr hn 0x3F (own := removedTests h.key.handle chute.toNat position.toNat)
      (firstFailure_pass hfound (firstFailure_pass hin (firstFailure_pass (congrArg not hfree) (firstFailure_stop ?_)))) _
    rw [hstray, hkind, show s.taken.penRoom = 0 from hroom]
    rfl
  · have hlast : (s.taken.strayChute chute.toNat || decide (1 ≤ s.taken.penRoom)) = true := by
      rw [hstray, Bool.or_eq_true, beq_iff_eq, decide_eq_true_iff]
      exact hroom
    have hx := request_onBag_pass hr hn 0x3F (own := removedTests h.key.handle chute.toNat position.toNat)
      (firstFailure_pass hfound (firstFailure_pass hin (firstFailure_pass (congrArg not hfree) (firstFailure_pass hlast rfl))))
      (fun t => t.jamRemoved h.key.handle chute.toNat position.toNat)
    have ht := State.jamRemoved_eq hb chute.toNat position.toNat
    set v := (s.taken.modifyChute chute.toNat (Chute.unjam h.key.handle)).penIn h.key.handle position.toNat (s.taken.jamReason b) with hv
    have hpen := (Keeps.penIn (s.taken.modifyChute chute.toNat (Chute.unjam h.key.handle)) h.key.handle position.toNat
      (s.taken.jamReason b)).changes
    have hvk : v.chute? chute.toNat = some (Chute.unjam h.key.handle c) := by
      have hch : v.chutes = _ := hpen .chutes (by decide)
      rw [State.chute?, hch]
      exact State.modifyChute_same hk' _
    have hpens := ((Pens.penIn (s := s.taken.modifyChute chute.toNat (Chute.unjam h.key.handle)) hb
      (by rw [hst]; decide) position.toNat (s.taken.jamReason b)).before).settled (SameHolds.settleCut v chute.toNat)
        ((Keeps.settleCut v chute.toNat).changes)
    obtain ⟨d, hd, hdc, hdo, hcut⟩ := CutSettled.settleCut hvk
    have hsame := Chute.SameCarts.unjam h.key.handle c
    refine ⟨_, d, (show exec (.jamClearRemoved h chute position) s = _ from hx.trans (by rw [ht])), ?_, ?_, hpens.others, hpens.counted _ (Counters.move_pen (.inr hst)),
      hpens.position, hpens.strays, hd, hdc, fun j hj => (hdo j hj).trans ?_,
      CutSettled.before (u := v) ?_ ?_ ?_ hsame.active hsame.position hcut, hpens.loop, fun hl => (hpens.holds hl).taken⟩
    · rw [← ht]
      exact (Keeps.jamRemoved s.taken h.key.handle chute.toNat position.toNat).changes.ofTaken (by decide) (by decide)
    · rw [hpens.bag, Bag.penned_hall (by rw [hst]; decide), State.jamReason_eq]
      rfl
    · have hch : v.chutes = _ := hpen .chutes (by decide)
      rw [State.chute?, hch]
      exact (State.modifyChute_chute? ..).trans (if_neg hj)
    · exact hpen .carts (by decide)
    · exact State.intake_subjects (s.taken.modifyChute chute.toNat (Chute.unjam h.key.handle)) _ _ (by decide)
    · exact State.intake_sources (s.taken.modifyChute chute.toNat (Chute.unjam h.key.handle)) h.key.handle position.toNat

/-- Settles O29: a jammed bag lands as by a LAND, or enters the pen where it is put. -/
theorem jamsClear : Obligations.JamsClear := ⟨jamClearLands, jamClearRemoves, lowestPosition⟩

end Sys2Proof.Machine
end

section
/-! CART CUT with its completion and CART CLEAR UNIDENTIFIED (R118, R119, R124, R127, R137, R140). -/

namespace Sys2Proof.Machine

/-! ## The completion of a cut (R119) -/

theorem exec_cutComplete (k : Nat) (s : State) : exec (.cutComplete k) s = .next (s.settleCut k) := rfl

theorem exec_cartCut (h : Head) (s : State) : exec (.cartCut h) s = execCartCut h s := rfl

section
variable {s : State} {k n : Nat} {c : Chute} {x : Cart} (hk : s.chute? k = some c) (hc : s.activeCart c = some (n, x))
include hk hc

theorem State.settleCut_due (hdue : x.state = .closing ∧ c.claims = 0) :
    s.settleCut k = (s.modifyCart n (fun x => { x with state := .cut })).swap k := by
  rw [State.settleCut, hk]
  dsimp only
  rw [hc]
  exact if_pos hdue

theorem State.settleCut_early (hdue : ¬(x.state = .closing ∧ c.claims = 0)) : s.settleCut k = s := by
  rw [State.settleCut, hk]
  dsimp only
  rw [hc]
  exact if_neg hdue

end

/-- The active cart of a chute is cut, and the chute swaps: what is left of the chute, the cart and the notices. -/
structure CutDone (s t : State) (k n : Nat) (c : Chute) (x : Cart) : Prop where
  changes : Changes [.carts, .chutes, .notices] s t
  cart : t.cart? n = some { x with state := .cut }
  chute : ∃ d, t.chute? k = some d ∧ d = { c with active := d.active, state := d.state } ∧
    (∀ j, j ≠ k → t.chute? j = s.chute? j) ∧ SwapsIf True s t k n c d c.state ∧
    ∀ w, w ≠ .chuteBlocked → t.subjects w = s.subjects w

theorem CutDone.settleCut {s : State} {k n : Nat} {c : Chute} {p : PosName} {x : Cart} (hk : s.chute? k = some c)
    (ha : c.active = some p) (hp : c.position p = .cart n) (hx : s.cart? n = some x)
    (hdue : x.state = .closing ∧ c.claims = 0) : CutDone s (s.settleCut k) k n c x := by
  have hsubjects := fun w hw => State.settleCut_subjects_other s k (w := w) hw
  have hch := (Keeps.settleCut s k).changes
  rw [State.settleCut_due hk (State.activeCart_of ha hp hx) hdue] at hsubjects hch ⊢
  obtain ⟨d, hd, hdc, hothers, hn, hswap⟩ := SwapsIf.leave hk ha hx (v := .cut) (by decide)
  exact ⟨hch.mono (by decide), hn, d, hd, hdc, hothers, hswap, hsubjects⟩

/-- The cart that CART CUT leaves to be cut. -/
def Cart.closing (x : Cart) (notify : Bool) : Cart := { x with state := .closing, notify := x.notify || notify }

theorem State.cutCart_eq (s : State) (k n : Nat) (notify : Bool) :
    s.cutCart k n notify = (s.modifyCart n (fun x => x.closing notify)).settleCut k := rfl

theorem State.modifyCart_same {s : State} {n : Nat} {x : Cart} (hx : s.cart? n = some x) (f : Cart → Cart) :
    (s.modifyCart n f).cart? n = some (f x) := by
  rw [State.modifyCart_cart?, if_pos rfl, hx]
  rfl

theorem State.modifyCart_other (s : State) {n m : Nat} (hm : m ≠ n) (f : Cart → Cart) :
    (s.modifyCart n f).cart? m = s.cart? m := by
  rw [State.modifyCart_cart?, if_neg hm]

theorem cartCutCloses : Claim.CartCutCloses := by
  intro h c p n x s hk hkind ha hp hx
  have hact : s.taken.activeCart c = some (n, x) := State.activeCart_of ha hp hx
  refine ⟨fun hr hst => ?_, fun hst hclaims => ?_, fun hearly => ?_⟩
  · have hrun := request_onChute hr hk 0x3C
      (fun t (c : Chute) => [(t.opState != .setup, .wrongState), (c.kind == .deck, .wrongState), (t.cuttable c, .wrongState)])
      (fun t c => (match t.activeCart c with
        | some (n, _) => t.cutCart h.key.number n (Head.notify h)
        | none => t, Answer.done .empty))
    have hst' : (s.taken.opState != .setup) = true := bne_iff_ne.2 hst
    have hdeck : (c.kind == .deck) = true := beq_iff_eq.2 hkind
    have hcut : s.taken.cuttable c = !x.isEmpty := by rw [State.cuttable, hact]
    have hcart : s.taken.cart? n = some x := hx
    have hpass : ¬(x.entries = [] ∧ x.unidentified = 0) → exec (.cartCut h) s =
        answered 0x3C h (s.taken.cutCart h.key.number n (Head.notify h)) (Answer.done .empty) := fun hne => by
      have hne' : s.taken.cuttable c = true := by
        rw [hcut, Bool.not_eq_true']
        exact Bool.eq_false_iff.2 fun he => hne (Cart.isEmpty_iff.1 he)
      refine hrun.trans ((ruled_pass (firstFailure_pass hst' (firstFailure_pass hdeck (firstFailure_pass hne' rfl))) ..).trans ?_)
      rw [hact]
    set u := s.taken.modifyCart n (fun x => x.closing (Head.notify h)) with hu
    have hun : u.cart? n = some (x.closing (Head.notify h)) := State.modifyCart_same hcart _
    refine ⟨fun he => ?_, fun hne hclaims => ?_, fun hne hclaims => ?_⟩
    · have he' : s.taken.cuttable c = false := by rw [hcut, Cart.isEmpty_iff.2 he]; rfl
      exact hrun.trans (ruled_fail (firstFailure_pass hst' (firstFailure_pass hdeck (firstFailure_stop he'))) ..)
    · refine (hpass hne).trans ?_
      rw [State.cutCart_eq, ← hu, State.settleCut_early (s := u) hk (State.activeCart_of ha hp hun) fun hdue => hclaims hdue.2]
      rfl
    · obtain ⟨hch, hcn, d, hd, hdc, hothers, hswap, hsubjects⟩ :=
        CutDone.settleCut (s := u) hk ha hp hun ⟨rfl, hclaims⟩
      have hmod : Changes [.carts, .chutes, .notices] s.taken u := ((Keeps.modifyCart s.taken n _).changes).mono (by decide)
      exact ⟨_, (hpass hne).trans (by rw [State.cutCart_eq]), (hmod.comp hch (n := [.carts, .chutes, .notices]) (by decide) (by decide)).ofTaken (by decide) (by decide),
        hcn, d, hd, hdc, hothers, SwapsIf.before (u := u) (fun m hm => State.modifyCart_other s.taken hm _) rfl rfl rfl
          (fun _ => rfl) hswap, hsubjects⟩
  · obtain ⟨hch, hcn, hchute⟩ := CutDone.settleCut hk ha hp hx ⟨hst, hclaims⟩
    exact ⟨_, exec_cutComplete .., hch, hcn, hchute⟩
  · rw [exec_cutComplete, State.settleCut_early hk (State.activeCart_of ha hp hx) hearly]

/-! ## CART CLEAR UNIDENTIFIED (R124, R127, R137, R140) -/

theorem exec_cartClearUnidentified (h : Head) (s : State) :
    exec (.cartClearUnidentified h) s = execCartClearUnidentified h s := rfl

/-- A cart without its unidentified items. -/
def Cart.identified (c : Cart) : Cart := { c with unidentified := 0 }

/-- The state in which a cart's unidentified items are gone. -/
def State.cleared (s : State) (n : Nat) : State := s.modifyCart n Cart.identified

/-- A door without the halt for unidentified items. -/
def Door.identified (x : Door) : Door := { x with halts := x.halts.put .unidentified false }

section
variable {s : State} {n : Nat} {c : Cart} (hc : s.cart? n = some c)
include hc

theorem State.clearUnidentified_none (hu : c.unidentified = 0) : s.clearUnidentified n = s := by
  rw [State.clearUnidentified, hc]
  exact if_pos hu

theorem State.clearUnidentified_apart (hu : c.unidentified ≠ 0) (hd : s.doorOfCart n = none) :
    s.clearUnidentified n = (s.cleared n).testCart n := by
  rw [State.clearUnidentified, hc]
  refine (if_neg hu).trans ?_
  have hd' : (s.cleared n).doorOfCart n = none := hd
  change (match (s.cleared n).doorOfCart n with | some d => _ | none => (s.cleared n).testCart n) = _
  rw [hd']

theorem State.clearUnidentified_door (hu : c.unidentified ≠ 0) {d : Nat} (hd : s.doorOfCart n = some d) :
    s.clearUnidentified n = ((s.cleared n).modifyDoor d Door.identified).settleDoor d := by
  rw [State.clearUnidentified, hc]
  refine (if_neg hu).trans ?_
  have hd' : (s.cleared n).doorOfCart n = some d := hd
  change (match (s.cleared n).doorOfCart n with
    | some d => ((s.cleared n).modifyDoor d Door.identified).settleDoor d
    | none => _) = _
  rw [hd']

theorem State.cleared_cart? : (s.cleared n).cart? n = some c.identified := State.modifyCart_same hc _

/-- Whatever the test or the door does, a cart that stays live has none left. -/
theorem State.clearUnidentified_cart (hu : c.unidentified ≠ 0) {x : Cart} (hx : (s.clearUnidentified n).cart? n = some x) :
    x.unidentified = 0 := by
  have hturned : Turned (s.cleared n) (s.clearUnidentified n) := by
    cases hd : s.doorOfCart n with
    | none => rw [State.clearUnidentified_apart hc hu hd]; exact Turned.testCart ..
    | some d =>
      rw [State.clearUnidentified_door hc hu hd]
      exact (Turned.modifyDoor ..).trans (Turned.settleDoor ..)
  obtain ⟨y, hy, hxy⟩ := hturned.carts n x hx
  cases hy.symm.trans (State.cleared_cart? hc)
  rw [hxy]
  rfl

/-- At no door, a cart that is neither queued nor empty changes in nothing else. -/
theorem State.clearUnidentified_still (hu : c.unidentified ≠ 0) (hd : s.doorOfCart n = none)
    (hst : c.state ≠ .queued ∨ c.entries ≠ []) : s.clearUnidentified n = s.cleared n := by
  have hn := State.cleared_cart? hc
  rw [State.clearUnidentified_apart hc hu hd]
  by_cases hq : c.state = .queued
  · exact State.testCart_holds hn hq (.inl (hst.resolve_left (absurd hq)))
  · by_cases hat : c.state = .atDoor
    · have hd' : (s.cleared n).doorOfCart n = none := hd
      rw [State.testCart_atDoor hn hat, hd']
    · exact State.testCart_elsewhere hn hq hat

/-- At a door, a cart with an unmarked entry waits, the halt gone and the belt set. -/
theorem State.clearUnidentified_waits (hu : c.unidentified ≠ 0) {d : Nat} {x : Door} (hd : s.doorOfCart n = some d)
    (hx : s.door? d = some x) (hn : x.cart = some n) (he : ∃ e ∈ c.entries, e.aboard = false) :
    ∃ y, (s.clearUnidentified n).cart? n = some c.identified ∧ (s.clearUnidentified n).store = s.store ∧
      (s.clearUnidentified n).door? d = some y ∧
      y = { x with halts := { x.halts with unidentified := false }, running := (s.clearUnidentified n).beltRuns y } := by
  have hdoor : ((s.cleared n).modifyDoor d Door.identified).door? d = some x.identified := by
    rw [State.modifyDoor_door?, if_pos rfl, show (s.cleared n).door? d = some x from hx]
    rfl
  have hcart : ((s.cleared n).modifyDoor d Door.identified).cart? n = some c.identified := State.cleared_cart? hc
  have hbusy : c.identified.done = false := Bool.eq_false_iff.2 fun h => by
    obtain ⟨e, hm, hea⟩ := he
    exact Bool.false_ne_true (hea.symm.trans ((Cart.done_iff.1 h).1 e hm))
  have hset := State.setBelt_door? ((s.cleared n).modifyDoor d Door.identified) d d
  rw [if_pos rfl, hdoor] at hset
  have hkeep := (Keeps.setBelt ((s.cleared n).modifyDoor d Door.identified) d).changes
  have hcarts : (((s.cleared n).modifyDoor d Door.identified).setBelt d).carts = (s.cleared n).carts := hkeep .carts (by decide)
  rw [State.clearUnidentified_door hc hu hd, State.settleDoor_busy hdoor hn hcart hbusy]
  refine ⟨_, ?_, hkeep .store (by decide), hset, ?_⟩
  · rw [State.cart?, hcarts]
    exact State.cleared_cart? hc
  · rw [State.setBelt_beltRuns]
    rfl

/-- At a door, a cart whose entries are all marked completes. -/
theorem State.clearUnidentified_completes (hu : c.unidentified ≠ 0) {d : Nat} {x : Door} (hd : s.doorOfCart n = some d)
    (hx : s.door? d = some x) (hn : x.cart = some n) (he : ∀ e ∈ c.entries, e.aboard = true) :
    (s.clearUnidentified n).cart? n = none ∧
    (∀ k r, s.notices.sources.length = 15 → c.route = some k → s.route? k = some r →
      (c.notify = true ∨ r.notifyAll = true) → k.subject ∈ (s.clearUnidentified n).subjects .cartDone) ∧
    ∀ e ∈ c.entries, ∀ b, s.bag? e.bag = some b → (s.clearUnidentified n).bag? e.bag = some { b with location := none } := by
  have hdoor : ((s.cleared n).modifyDoor d Door.identified).door? d = some x.identified := by
    rw [State.modifyDoor_door?, if_pos rfl, show (s.cleared n).door? d = some x from hx]
    rfl
  have hcart : ((s.cleared n).modifyDoor d Door.identified).cart? n = some c.identified := State.cleared_cart? hc
  have hdone : c.identified.done = true := Cart.done_iff.2 ⟨he, rfl⟩
  obtain ⟨-, hcarts, -, -, hbags, -, -, -, htold, -⟩ := CartCompletes.completeCart (d := d) hcart hdone
  rw [State.clearUnidentified_door hc hu hd, State.settleDoor_done hdoor hn hcart hdone]
  generalize ((s.cleared n).modifyDoor d Door.identified).completeCart d n c.identified = u at hcarts hbags htold ⊢
  have hturned := Turned.settleDoor d u
  have hgone : u.cart? n = none := by
    rw [State.cart?, hcarts]
    exact Table.get?_erase_same ..
  exact ⟨hturned.cart?_none hgone, fun k r h15 hk hr hflag =>
    hturned.tells.stay _ _ (((htold h15).2 _).2 (.inr ⟨k, r, hk, hr, hflag, rfl⟩)),
    fun e hm b hb => hturned.bag?_unlocated (hbags e hm b hb) rfl⟩

end

theorem unidentifiedCleared : Claim.UnidentifiedCleared := by
  intro h s hr hst
  have hst' : (s.taken.opState != .setup) = true := bne_iff_ne.2 hst
  have hrun := request_guarded hr 0x3E
    (fun t => [(t.opState != .setup, .wrongState), ((t.cart? h.key.number).isSome, .notFound)])
    (fun t => (t.clearUnidentified h.key.number, Answer.done .empty))
  have hpass : ∀ c, s.cart? h.key.number = some c → exec (.cartClearUnidentified h) s =
      answered 0x3E h (s.taken.clearUnidentified h.key.number) (Answer.done .empty) := fun c hc => by
    have hc' : (s.taken.cart? h.key.number).isSome = true := by rw [show s.taken.cart? _ = some c from hc]; rfl
    exact hrun.trans (ruled_pass (firstFailure_pass hst' (firstFailure_pass hc' rfl)) ..)
  refine ⟨fun hc => ?_, fun c hc hu => ?_, fun c hc hu => ?_⟩
  · have hc' : (s.taken.cart? h.key.number).isSome = false := by rw [show s.taken.cart? _ = none from hc]; rfl
    exact hrun.trans (ruled_fail (firstFailure_pass hst' (firstFailure_stop hc')) ..)
  · rw [hpass c hc, State.clearUnidentified_none (s := s.taken) hc hu]
  · refine ⟨_, hpass c hc, (Keeps.clearUnidentified s.taken h.key.number).changes.ofTaken (by decide) (by decide),
      fun x hx => State.clearUnidentified_cart (s := s.taken) hc hu hx,
      fun hq hd => State.clearUnidentified_still (s := s.taken) hc hu hd hq, fun hq he hd => ?_,
      fun d x hd hx hn => ⟨State.clearUnidentified_waits (s := s.taken) hc hu hd hx hn,
        State.clearUnidentified_completes (s := s.taken) hc hu hd hx hn⟩⟩
    have hgone := State.testCart_retires (State.cleared_cart? (s := s.taken) hc) hq he rfl
    rw [← State.clearUnidentified_apart (s := s.taken) hc hu hd] at hgone
    obtain ⟨-, hcarts, htold, -⟩ := hgone
    refine ⟨?_, htold⟩
    rw [State.cart?, hcarts]
    exact Table.get?_erase_same ..

/-- Settles O28: a cut by its claims, and the unidentified items by where the cart stands. -/
theorem cartsCutAndCleared : Obligations.CartsCutAndCleared := ⟨cartCutCloses, unidentifiedCleared⟩

end Sys2Proof.Machine
end

section
/-! Bags that become MISSING one after another, repeats among them, and how their slots count them (R2, R92). -/

namespace Sys2Proof.Machine

/-! ## Records that meet a condition, under a put -/

/-- How many values of a table meet a condition by their keys. -/
def Table.count {α : Type} (t : Table α) (p : Nat → α → Bool) : Nat := (t.filter (fun e => p e.1 e.2)).length

theorem Table.count_cons {α : Type} (a : Nat × α) (t : Table α) (p : Nat → α → Bool) :
    Table.count (a :: t) p = (if p a.1 a.2 = true then 1 else 0) + Table.count t p := by
  unfold Table.count
  rw [List.filter_cons]
  split
  · rw [List.length_cons, Nat.add_comm]
  · rw [Nat.zero_add]

theorem Table.count_congr {α : Type} {t : Table α} {p q : Nat → α → Bool}
    (h : ∀ e ∈ t, p e.1 e.2 = q e.1 e.2) : Table.count t p = Table.count t q :=
  congrArg List.length (List.filter_congr h)

/-- A put over a value takes the old one's count and gives the new one's. -/
theorem Table.count_put {α : Type} {t : Table α} {i : Nat} {w : α} (hw : Table.wf t = true)
    (h : Table.get? t i = some w) (v : α) (p : Nat → α → Bool) :
    Table.count (Table.put t i v) p + (if p i w = true then 1 else 0) =
      Table.count t p + if p i v = true then 1 else 0 := by
  induction t with
  | nil => cases h
  | cons a t ih =>
    obtain ⟨k, x⟩ := a
    obtain ⟨hlt, hwf⟩ := (Table.wf_cons k x t).1 hw
    unfold Table.get? at h
    unfold Table.put
    by_cases hik : k = i
    · subst hik
      rw [if_pos rfl] at h
      cases h
      rw [if_neg (Nat.lt_irrefl _), if_pos rfl, Table.count_cons, Table.count_cons]
      dsimp only
      omega
    · rw [if_neg (Ne.symm hik)] at h
      have hki : k < i := hlt _ (Table.mem_of_get? h)
      rw [if_neg (Nat.lt_asymm hki), if_neg (Ne.symm hik), Table.count_cons, Table.count_cons]
      have := ih hwf h
      omega

/-! ## Bags that become MISSING (R2) -/

/-- The records of a slot whose state meets a condition and whose handle is listed. -/
def State.listed (s : State) (l : List Handle) (v : SlotId) (q : BagState → Bool) : Nat :=
  Table.count s.store.bags fun i b =>
    q b.state && b.home.any (fun k => k.slot == v) && decide ((⟨i, s.store.gen i⟩ : Handle) ∈ l)

theorem State.listed_nil (s : State) (v : SlotId) (q : BagState → Bool) : s.listed [] v q = 0 := by
  unfold State.listed Table.count
  simp

section
variable {s : State} {h : Handle} {l : List Handle} {v : SlotId} {q : BagState → Bool}

/-- A stale handle lists no record. -/
theorem State.listed_stale (hl : BagTableLaw s) (hb : s.bag? h = none) : s.listed (h :: l) v q = s.listed l v q := by
  refine Table.count_congr fun e he => ?_
  have hget : s.store.bags.get? e.1 = some e.2 := Table.get?_of_mem hl.1 he
  have hne : (⟨e.1, s.store.gen e.1⟩ : Handle) ≠ h := fun heq => by
    subst heq
    have hlive : s.bag? ⟨e.1, s.store.gen e.1⟩ = some e.2 := Store.bag?_eq_some.2 ⟨rfl, hget⟩
    cases hb.symm.trans hlive
  rw [decide_eq_decide.2 (List.mem_cons.trans (or_iff_right hne))]

/-- A bag that becomes MISSING is listed no more, where MISSING bags do not count. -/
theorem State.listed_missing {b : Bag} (hl : BagTableLaw s) (hb : s.bag? h = some b) (hq : q .missing = false) :
    s.listed (h :: l) v q = (s.makeMissing h).listed l v q +
      if (q b.state && b.home.any (fun k => k.slot == v)) = true then 1 else 0 := by
  obtain ⟨hgen, hget⟩ := Store.bag?_eq_some.1 hb
  have hself : (⟨h.index, s.store.gen h.index⟩ : Handle) = h := by rw [hgen]
  have hbags : (s.makeMissing h).store.bags = s.store.bags.put h.index b.lost := by
    change (s.store.moveBag h .missing none s.hallSecond).bags = _
    rw [Store.moveBag_live hb, Bag.enter_missing, (Store.Counts.recount _ _ _ _).bags]
  have hgens : ∀ i, (s.makeMissing h).store.gen i = s.store.gen i := fun i =>
    congrArg (fun g : Table (BitVec 8) => (g.get? i).getD 0) (State.moveBag_store hb .missing none).2.2.2.1
  have hput := Table.count_put hl.1 hget b.lost (fun i b =>
    q b.state && b.home.any (fun k => k.slot == v) && decide ((⟨i, s.store.gen i⟩ : Handle) ∈ h :: l))
  have hlost : (q b.lost.state && b.lost.home.any (fun k => k.slot == v) &&
      decide ((⟨h.index, s.store.gen h.index⟩ : Handle) ∈ h :: l)) = false := by
    rw [show b.lost.state = .missing from rfl, hq]
    rfl
  have hown : (q b.state && b.home.any (fun k => k.slot == v) &&
      decide ((⟨h.index, s.store.gen h.index⟩ : Handle) ∈ h :: l)) = (q b.state && b.home.any (fun k => k.slot == v)) := by
    rw [hself, decide_eq_true List.mem_cons_self, Bool.and_true]
  rw [hlost, hown, if_neg Bool.false_ne_true, Nat.add_zero] at hput
  have hrest : (s.makeMissing h).listed l v q = Table.count (s.store.bags.put h.index b.lost) (fun i b =>
      q b.state && b.home.any (fun k => k.slot == v) && decide ((⟨i, s.store.gen i⟩ : Handle) ∈ h :: l)) := by
    unfold State.listed
    rw [hbags]
    refine Table.count_congr fun e he => ?_
    rw [hgens]
    by_cases hi : e.1 = h.index
    · have hval := Table.get?_of_mem (Table.wf_put hl.1 h.index b.lost) he
      rw [hi, Table.get?_put_same] at hval
      rw [show e.2 = b.lost from (Option.some.inj hval).symm, show b.lost.state = .missing from rfl, hq]
      rfl
    · have hne : (⟨e.1, s.store.gen e.1⟩ : Handle) ≠ h := fun heq => hi (congrArg Handle.index heq)
      rw [decide_eq_decide.2 (List.mem_cons.trans (or_iff_right hne))]
  rw [hrest, hput]
  rfl

end

/-- The counter of the hall and that of the missing as a bag becomes MISSING (R2). -/
theorem Counters.move_missing (c : Counters) (p : BagState) :
    (c.move p .missing).hall = c.hall - (if p.inHall = true then 1 else 0) ∧
    (c.move p .missing).missing = c.missing + if (p != .missing) = true then 1 else 0 := by
  cases p <;> exact ⟨rfl, rfl⟩

/-- How a slot counts bags that become MISSING one after another. -/
theorem State.makeAllMissing_counts (l : List Handle) {s : State} (hl : BagTableLaw s) (v : SlotId) :
    ((s.makeAllMissing l).store.slot v).counts.hall =
      (s.store.slot v).counts.hall - s.listed l v BagState.inHall ∧
    ((s.makeAllMissing l).store.slot v).counts.missing =
      (s.store.slot v).counts.missing + s.listed l v (fun st => st != .missing) := by
  induction l generalizing s with
  | nil => exact ⟨by rw [State.listed_nil]; rfl, by rw [State.listed_nil]; rfl⟩
  | cons h t ih =>
    cases hb : s.bag? h with
    | none =>
      rw [State.listed_stale hl hb, State.listed_stale hl hb, State.makeAllMissing, State.makeMissing,
        State.moveBag_stale hb]
      exact ih hl
    | some b =>
      obtain ⟨h1, h2⟩ := ih ((Keeps.makeMissing s h).bags hl)
      have hcounts := (State.moveBag_store hb .missing none).2.2.2.2 v
      obtain ⟨m1, m2⟩ := Counters.move_missing (s.store.slot v).counts b.state
      rw [State.listed_missing hl hb rfl, State.listed_missing hl hb rfl, State.makeAllMissing, h1, h2]
      change ((s.makeMissing h).store.slot v).counts = _ at hcounts
      rw [hcounts]
      by_cases hv : b.home.any (fun k => k.slot == v) = true
      · rw [if_pos hv, m1, m2, hv, Bool.and_true, Bool.and_true]
        exact ⟨by omega, by omega⟩
      · rw [if_neg hv, Bool.eq_false_iff.2 hv, Bool.and_false, Bool.and_false, if_neg Bool.false_ne_true]
        exact ⟨rfl, rfl⟩

/-- What the store comes to rests on the store and the hall second alone. -/
theorem State.makeAllMissing_congr (l : List Handle) {s t : State} (hs : t.store = s.store)
    (hh : t.hallSecond = s.hallSecond) : (t.makeAllMissing l).store = (s.makeAllMissing l).store := by
  induction l generalizing s t with
  | nil => exact hs
  | cons h r ih =>
    refine ih (s := s.makeMissing h) (t := t.makeMissing h) ?_ hh
    change t.store.moveBag h .missing none t.hallSecond = s.store.moveBag h .missing none s.hallSecond
    rw [hs, hh]

end Sys2Proof.Machine
end

section
/-! TRACKING RESET and TRACKING RESUME: what disarming carriers leaves of the chutes and their carts, and what the reset leaves of
the carriers and of their bags (R91, R92, R118, R119). -/

namespace Sys2Proof.Machine

/-! ## Carriers that are disarmed one after another (R92, R119) -/

/-- Carriers have been disarmed, a number of them for each chute, a cut that comes due with one being completed: what that leaves of
the chutes, the carts and the notices. -/
structure Releases (s t : State) (num : Nat → Nat) : Prop where
  chute : ∀ k c, s.chute? k = some c → ∃ q, t.chute? k = some q ∧
    q = { c with reserved := q.reserved, state := q.state, active := q.active } ∧ q.reserved = c.reserved - num k ∧
    ((∀ n x, s.activeCart c = some (n, x) → x.state ≠ .closing) → q.state = c.state ∧ q.active = c.active) ∧
    (num k = 0 ∨ q.claims ≠ 0 → q.state = c.state ∧ q.active = c.active ∧
      (OwnCarts s k c → ∀ p m, c.position p = .cart m → t.cart? m = s.cart? m)) ∧
    (∀ n x, s.activeCart c = some (n, x) → x.state = .closing → num k ≠ 0 → q.claims = 0 →
      t.cart? n = some { x with state := .cut } ∧ (OwnCarts s k c → Swaps s t k n c q c.state))
  back : ∀ k q, t.chute? k = some q → ∃ c, s.chute? k = some c ∧ ∀ p, q.position p = c.position p
  cart : ∀ n x, s.cart? n = some x → ∃ v, t.cart? n = some { x with state := v } ∧
    (v = x.state ∨ x.state = .closing ∧ v = .cut ∨ x.state = .standby ∧ v = .filling)
  gone : ∀ n, s.cart? n = none → t.cart? n = none
  subjects : ∀ w, w ≠ .chuteBlocked → t.subjects w = s.subjects w
  grows : s.notices.sources.length = 15 → ∀ m, m ∈ s.subjects .chuteBlocked → m ∈ t.subjects .chuteBlocked
  sources : t.notices.sources.length = s.notices.sources.length

theorem Chute.position_congr {c d : Chute} (hx : d.posX = c.posX) (hy : d.posY = c.posY) (p : PosName) :
    d.position p = c.position p := by
  cases p
  · exact hx
  · exact hy

theorem Releases.same {s t : State} (hk : t.chutes = s.chutes) (hc : t.carts = s.carts) (hn : t.notices = s.notices) :
    Releases s t (fun _ => 0) := by
  have hcart : ∀ n, t.cart? n = s.cart? n := fun n => by unfold State.cart?; rw [hc]
  have hchute : ∀ k, t.chute? k = s.chute? k := fun k => by unfold State.chute?; rw [hk]
  exact {
    chute := fun k c h => ⟨c, (hchute k).trans h, rfl, rfl, fun _ => ⟨rfl, rfl⟩, fun _ => ⟨rfl, rfl, fun _ _ m _ => hcart m⟩,
      fun _ _ _ _ h0 => absurd rfl h0⟩
    back := fun k q h => ⟨q, (hchute k).symm.trans h, fun _ => rfl⟩
    cart := fun n x h => ⟨x.state, (hcart n).trans h, .inl rfl⟩
    gone := fun n h => (hcart n).trans h
    subjects := fun w _ => State.subjects_congr hn w
    grows := fun _ m h => by rw [State.subjects_congr hn]; exact h
    sources := by rw [hn] }

section
variable {s u t : State} {a b : Nat → Nat} (h : Releases s u a)
include h

/-- A chute that shares no cart before shares none after. -/
theorem Releases.own {k : Nat} {c q : Chute} (hp : ∀ p, q.position p = c.position p) (ho : OwnCarts s k c) :
    OwnCarts u k q := by
  intro p m hm j o hj hjo r hr
  obtain ⟨d, hd, hdp⟩ := h.back j o hjo
  exact ho p m ((hp p).symm.trans hm) j d hj hd r ((hdp r).symm.trans hr)

/-- A chute whose active cart is not CLOSING has none after, where its active position stands. -/
theorem Releases.notClosing {c q : Chute} (hp : ∀ p, q.position p = c.position p) (ha : q.active = c.active)
    (hno : ∀ n x, s.activeCart c = some (n, x) → x.state ≠ .closing) (n : Nat) (x : Cart)
    (hx : u.activeCart q = some (n, x)) : x.state ≠ .closing := by
  obtain ⟨p, hq, hpos, hcart⟩ := State.activeCart_eq hx
  cases hs : s.cart? n with
  | none => cases hcart.symm.trans (h.gone n hs)
  | some y =>
    obtain ⟨v, hv, hvy⟩ := h.cart n y hs
    have hact : s.activeCart c = some (n, y) := State.activeCart_of (ha.symm.trans hq) ((hp p).symm.trans hpos) hs
    cases hcart.symm.trans hv
    rcases hvy with hvy | ⟨-, hvy⟩ | ⟨-, hvy⟩
    · change v ≠ .closing
      rw [hvy]
      exact hno n y hact
    · change v ≠ .closing
      rw [hvy]
      decide
    · change v ≠ .closing
      rw [hvy]
      decide

/-- A cart that is CUT, or FILLING, stays. -/
theorem Releases.stays {n : Nat} {x : Cart} (hx : s.cart? n = some x) (h1 : x.state ≠ .closing) (h2 : x.state ≠ .standby) :
    u.cart? n = some x := by
  obtain ⟨v, hv, hvx⟩ := h.cart n x hx
  have hsame : v = x.state := hvx.resolve_right fun h => h.elim (fun h => h1 h.1) fun h => h2 h.1
  rw [hv, hsame]

end

/-- A swap, before releases that leave the chute and its carts as they are. -/
theorem Swaps.before {s u t : State} {k n : Nat} {c e d : Chute} {st : ChuteState}
    (hcarts : ∀ p m, c.position p = .cart m → u.cart? m = s.cart? m) (ha : e.active = c.active)
    (hp : ∀ p, e.position p = c.position p) (hsrc : u.notices.sources.length = s.notices.sources.length)
    (h : Swaps u t k n e d st) : Swaps s t k n c d st := by
  intro p hcp
  obtain ⟨h1, h2⟩ := h p (ha.trans hcp)
  refine ⟨fun m z ⟨hpos, hne, hz, hst⟩ => h1 m z ⟨(hp _).trans hpos, hne, (hcarts _ m hpos).trans hz, hst⟩, fun hno => ?_⟩
  obtain ⟨k1, k2, k3⟩ := h2 fun m z ⟨hpos, hne, hz, hst⟩ =>
    hno m z ⟨(hp _).symm.trans hpos, hne, (hcarts _ m ((hp _).symm.trans hpos)).symm.trans hz, hst⟩
  exact ⟨k1, k2, fun ho => ⟨(k3 ho).1, fun h15 => (k3 ho).2 (hsrc.trans h15)⟩⟩

/-- A swap, after which the chute and its carts stay. -/
theorem Swaps.after {s u t : State} {b : Nat → Nat} {k n : Nat} {c e d : Chute} {st : ChuteState} {p : PosName}
    (h : Swaps s u k n c e st) (hcp : c.active = some p) (ha : d.active = e.active) (hs : d.state = e.state)
    (hsrc : u.notices.sources.length = s.notices.sources.length) (hr : Releases u t b) : Swaps s t k n c d st := by
  intro r hcr
  cases hcp.symm.trans hcr
  obtain ⟨h1, h2⟩ := h p hcp
  refine ⟨fun m z hz => ?_, fun hno => ?_⟩
  · obtain ⟨k1, k2, k3⟩ := h1 m z hz
    exact ⟨hr.stays k1 (fun h => CartState.noConfusion h) (fun h => CartState.noConfusion h), ha.trans k2, hs.trans k3⟩
  · obtain ⟨k1, k2, k3⟩ := h2 hno
    exact ⟨ha.trans k1, fun ho => hs.trans (k2 ho), fun ho => ⟨hs.trans (k3 ho).1, fun h15 =>
      hr.grows (hsrc.trans h15) k ((k3 ho).2 h15)⟩⟩

/-- The active cart that a swap leaves is not CLOSING. -/
theorem Swaps.notClosing {s u : State} {k n : Nat} {c e : Chute} {st : ChuteState} {p : PosName}
    (h : Swaps s u k n c e st) (hcp : c.active = some p) (hp : ∀ p, e.position p = c.position p) (m : Nat) (x : Cart)
    (hx : u.activeCart e = some (m, x)) : x.state ≠ .closing := by
  obtain ⟨h1, h2⟩ := h p hcp
  by_cases hst : ∃ m z, c.position p.other = .cart m ∧ m ≠ n ∧ s.cart? m = some z ∧ z.state = .standby
  · obtain ⟨j, z, hz⟩ := hst
    obtain ⟨k1, k2, -⟩ := h1 j z hz
    obtain ⟨r, hr, hpos, hcart⟩ := State.activeCart_eq hx
    cases k2.symm.trans hr
    cases ((hp _).trans hz.1).symm.trans hpos
    cases hcart.symm.trans k1
    exact fun h => CartState.noConfusion h
  · obtain ⟨k1, -⟩ := h2 fun m z hz => hst ⟨m, z, hz⟩
    rw [State.activeCart_none k1] at hx
    cases hx

theorem Releases.trans {s u t : State} {a b : Nat → Nat} (h : Releases s u a) (g : Releases u t b) :
    Releases s t (fun k => a k + b k) where
  chute k c hc := by
    obtain ⟨q, hq, hqc, hqr, hqno, hqidle, hqcut⟩ := h.chute k c hc
    obtain ⟨r, hr, hrq, hrr, hrno, hridle, hrcut⟩ := g.chute k q hq
    have hpos : ∀ p, q.position p = c.position p := by rw [hqc]; exact Chute.position_congr rfl rfl
    have hland : q.landing.length + q.jams.length = c.landing.length + c.jams.length := by rw [hqc]
    have hland' : r.landing.length + r.jams.length = q.landing.length + q.jams.length := by rw [hrq]
    refine ⟨r, hr, by rw [hrq, hqc], by rw [hrr, hqr, Nat.sub_sub], fun hno => ?_, fun hidle => ?_, fun n x hx hcl hnum h0 => ?_⟩
    · obtain ⟨q1, q2⟩ := hqno hno
      obtain ⟨r1, r2⟩ := hrno (h.notClosing hpos q2 hno)
      exact ⟨r1.trans q1, r2.trans q2⟩
    · have hqi : a k = 0 ∨ q.claims ≠ 0 := hidle.imp (by omega) (by unfold Chute.claims; omega)
      have hri : b k = 0 ∨ r.claims ≠ 0 := hidle.imp (by omega) id
      obtain ⟨q1, q2, q3⟩ := hqidle hqi
      obtain ⟨r1, r2, r3⟩ := hridle hri
      exact ⟨r1.trans q1, r2.trans q2, fun ho p m hm =>
        (r3 (h.own hpos ho) p m ((hpos p).trans hm)).trans (q3 ho p m hm)⟩
    · obtain ⟨p, hcp, -, hxn⟩ := State.activeCart_eq hx
      by_cases hdone : a k ≠ 0 ∧ q.claims = 0
      · obtain ⟨hcut, hswap⟩ := hqcut n x hx hcl hdone.1 hdone.2
        refine ⟨g.stays hcut (fun h => CartState.noConfusion h) (fun h => CartState.noConfusion h), fun ho => ?_⟩
        have hs := hswap ho
        obtain ⟨r1, r2⟩ := hrno (hs.notClosing hcp hpos)
        exact hs.after hcp r2 r1 h.sources g
      · have hqi : a k = 0 ∨ q.claims ≠ 0 := by tauto
        obtain ⟨q1, q2, q3⟩ := hqidle hqi
        have hb : b k ≠ 0 := by
          unfold Chute.claims at *
          omega
        obtain ⟨v, hv, hvx⟩ := h.cart n x hxn
        have hact : u.activeCart q = some (n, { x with state := v }) :=
          State.activeCart_of (q2.trans hcp) ((hpos p).trans (by
            obtain ⟨p', hcp', hp', -⟩ := State.activeCart_eq hx
            cases hcp.symm.trans hcp'
            exact hp')) hv
        by_cases hvc : v = .closing
        · subst hvc
          obtain ⟨hcut, hswap⟩ := hrcut n _ hact rfl hb h0
          refine ⟨hcut, fun ho => ?_⟩
          have hs := hswap (h.own hpos ho)
          rw [q1] at hs
          exact hs.before (fun p m hm => q3 ho p m hm) q2 hpos h.sources
        · have hvcut : v = .cut := by
            rcases hvx with hvx | ⟨-, hvx⟩ | ⟨hvx, -⟩
            · exact absurd (hvx.trans hcl) hvc
            · exact hvx
            · exact absurd (hcl.symm.trans hvx) (fun h => CartState.noConfusion h)
          subst hvcut
          refine ⟨g.stays hv (fun h => CartState.noConfusion h) (fun h => CartState.noConfusion h), fun ho => ?_⟩
          obtain ⟨p', hcp', hp', -⟩ := State.activeCart_eq hx
          have hsame := q3 ho p' n hp'
          rw [hv, hxn] at hsame
          cases (Option.some.inj hsame).symm ▸ hcl
  back k r hr := by
    obtain ⟨q, hq, hqp⟩ := g.back k r hr
    obtain ⟨c, hc, hcp⟩ := h.back k q hq
    exact ⟨c, hc, fun p => (hqp p).trans (hcp p)⟩
  cart n x hx := by
    obtain ⟨v, hv, hvx⟩ := h.cart n x hx
    obtain ⟨w, hw, hwv⟩ := g.cart n _ hv
    refine ⟨w, hw, ?_⟩
    rcases hwv with hwv | ⟨h1, h2⟩ | ⟨h1, h2⟩
    · rw [show w = v from hwv]
      exact hvx
    · have hv' : v = .closing := h1
      rcases hvx with hvx | ⟨-, hvx⟩ | ⟨-, hvx⟩
      · exact .inr (.inl ⟨hvx.symm.trans hv', h2⟩)
      · exact absurd (hv'.symm.trans hvx) (fun h => CartState.noConfusion h)
      · exact absurd (hv'.symm.trans hvx) (fun h => CartState.noConfusion h)
    · have hv' : v = .standby := h1
      rcases hvx with hvx | ⟨-, hvx⟩ | ⟨-, hvx⟩
      · exact .inr (.inr ⟨hvx.symm.trans hv', h2⟩)
      · exact absurd (hv'.symm.trans hvx) (fun h => CartState.noConfusion h)
      · exact absurd (hv'.symm.trans hvx) (fun h => CartState.noConfusion h)
  gone n hn := g.gone n (h.gone n hn)
  subjects w hw := (g.subjects w hw).trans (h.subjects w hw)
  grows h15 m hm := g.grows (h.sources.trans h15) m (h.grows h15 m hm)
  sources := g.sources.trans h.sources

/-! ## One carrier is disarmed (R99, R119) -/

theorem State.disarm_chute? (s : State) (i j k : Nat) : (s.disarm i j).chute? k =
    if k = j then (s.chute? k).map (fun x => { x with reserved := x.reserved - 1 }) else s.chute? k :=
  State.modifyChute_chute? ..

/-- What the completion of a cut leaves of the carts. -/
theorem CutSettled.carts {s t : State} {k : Nat} {c d : Chute} {st : ChuteState} (h : CutSettled s t k c d st) :
    (∀ n x, s.cart? n = some x → ∃ v, t.cart? n = some { x with state := v } ∧
      (v = x.state ∨ x.state = .closing ∧ v = .cut ∨ x.state = .standby ∧ v = .filling)) ∧
    (∀ n, s.cart? n = none → t.cart? n = none) ∧
    (∀ m, (∀ p, c.position p ≠ .cart m) → t.cart? m = s.cart? m) := by
  obtain ⟨hactive, hidle⟩ := h
  cases hc : s.activeCart c with
  | none =>
    obtain ⟨-, -, hcarts, -⟩ := hidle hc
    have hcart : ∀ n, t.cart? n = s.cart? n := fun n => by unfold State.cart?; rw [hcarts]
    exact ⟨fun n x hx => ⟨x.state, (hcart n).trans hx, .inl rfl⟩, fun n hn => (hcart n).trans hn, fun m _ => hcart m⟩
  | some ny =>
    obtain ⟨n, y⟩ := ny
    obtain ⟨hn, hswap, -, hsame, -⟩ := hactive n y hc
    obtain ⟨p, hcp, hpos, hy⟩ := State.activeCart_eq hc
    refine ⟨fun m x hx => ?_, fun m hm => ?_, fun m hm => ?_⟩
    · by_cases hmn : m = n
      · subst hmn
        cases hx.symm.trans hy
        refine ⟨_, hn, ?_⟩
        split
        · next h => exact .inr (.inl ⟨h.1, rfl⟩)
        · exact .inl rfl
      · by_cases hst : (y.state = .closing ∧ d.reserved + d.landing.length + d.jams.length = 0) ∧
            c.position p.other = .cart m ∧ x.state = .standby
        · obtain ⟨hleft, hpm, hxs⟩ := hst
          obtain ⟨h1, -⟩ := hswap hleft p hcp
          obtain ⟨k1, -⟩ := h1 m x ⟨hpm, hmn, hx, hxs⟩
          exact ⟨.filling, k1, .inr (.inr ⟨hxs, rfl⟩)⟩
        · refine ⟨x.state, (hsame m hmn fun hleft r z hr hpm hz hzs => hst ⟨hleft, ?_⟩).trans hx, .inl rfl⟩
          cases hcp.symm.trans hr
          cases hx.symm.trans hz
          exact ⟨hpm, hzs⟩
    · have hmn : m ≠ n := fun h => Option.some_ne_none y (hy.symm.trans (h ▸ hm))
      refine (hsame m hmn fun _ r z _ _ hz => ?_).trans hm
      cases hm.symm.trans hz
    · have hmn : m ≠ n := fun h => hm p (h ▸ hpos)
      exact hsame m hmn fun _ r z _ hpm _ => absurd hpm (hm r.other)

/-- A cut that is not due leaves the carts as they are. -/
theorem CutSettled.early {s t : State} {k : Nat} {c d : Chute} {st : ChuteState} (h : CutSettled s t k c d st)
    (hno : ∀ n x, s.activeCart c = some (n, x) →
      ¬(x.state = .closing ∧ d.reserved + d.landing.length + d.jams.length = 0)) :
    d.state = st ∧ d.active = c.active ∧ ∀ m, t.cart? m = s.cart? m := by
  obtain ⟨hactive, hidle⟩ := h
  cases hc : s.activeCart c with
  | none =>
    obtain ⟨h1, h2, h3, -⟩ := hidle hc
    exact ⟨h2, h1, fun m => by unfold State.cart?; rw [h3]⟩
  | some ny =>
    obtain ⟨n, y⟩ := ny
    obtain ⟨hn, -, hstay, hsame, -⟩ := hactive n y hc
    obtain ⟨p, -, -, hy⟩ := State.activeCart_eq hc
    have hdue := hno n y hc
    obtain ⟨h1, h2⟩ := hstay hdue
    refine ⟨h2, h1, fun m => ?_⟩
    by_cases hmn : m = n
    · subst hmn
      rw [hn, if_neg hdue, hy]
    · exact hsame m hmn fun hleft => absurd hleft hdue

theorem CutSettled.grows {s t : State} {k : Nat} {c d : Chute} {st : ChuteState} (h : CutSettled s t k c d st)
    (h15 : s.notices.sources.length = 15) {m : Nat} (hm : m ∈ s.subjects .chuteBlocked) : m ∈ t.subjects .chuteBlocked := by
  obtain ⟨hactive, hidle⟩ := h
  cases hc : s.activeCart c with
  | none =>
    rw [(hidle hc).2.2.2]
    exact hm
  | some ny =>
    obtain ⟨-, -, -, -, hsub⟩ := hactive ny.1 ny.2 hc
    exact (hsub h15 m).2 (.inl hm)

/-- A cut of chute `j` that has come due with one carrier fewer reserved is completed. -/
theorem Releases.settleCut {s u : State} {j : Nat} (hu : ∀ k, u.chute? k =
      if k = j then (s.chute? k).map (fun x => { x with reserved := x.reserved - 1 }) else s.chute? k)
    (hcarts : u.carts = s.carts) (hn : u.notices = s.notices) :
    Releases s (u.settleCut j) (fun k => if k = j then 1 else 0) := by
  cases hj : s.chute? j with
  | none =>
    have hgone : u.chute? j = none := by rw [hu, if_pos rfl, hj]; rfl
    have hstill : u.settleCut j = u := by rw [State.settleCut, hgone]
    have hchute : ∀ k, u.chute? k = s.chute? k := fun k => by
      rw [hu]
      split
      · next hk => rw [hk, hj]; rfl
      · rfl
    have hcart : ∀ n, u.cart? n = s.cart? n := fun n => by unfold State.cart?; rw [hcarts]
    rw [hstill]
    have hsame := Releases.same (s := s) (t := s) rfl rfl rfl
    exact {
      chute := fun k c hc => by
        have hkj : k ≠ j := fun h => Option.some_ne_none c (hc.symm.trans (h ▸ hj))
        rw [if_neg hkj]
        exact ⟨c, (hchute k).trans hc, rfl, rfl, fun _ => ⟨rfl, rfl⟩, fun _ => ⟨rfl, rfl, fun _ _ m _ => hcart m⟩,
          fun _ _ _ _ h0 => absurd rfl h0⟩
      back := fun k q hq => hsame.back k q ((hchute k).symm.trans hq)
      cart := fun n x hx => ⟨x.state, (hcart n).trans hx, .inl rfl⟩
      gone := fun n hn => (hcart n).trans hn
      subjects := fun w _ => State.subjects_congr hn w
      grows := fun _ m hm => by rw [State.subjects_congr hn]; exact hm
      sources := by rw [hn] }
  | some cj =>
    have hdis : u.chute? j = some { cj with reserved := cj.reserved - 1 } := by
      rw [hu, if_pos rfl, hj]
      rfl
    have hlen : u.notices.sources.length = s.notices.sources.length := by rw [hn]
    obtain ⟨d, hd, hdc, hothers, hcut'⟩ := CutSettled.settleCut hdis
    have hcut : CutSettled s (u.settleCut j) j cj d cj.state :=
      CutSettled.before hcarts (State.subjects_congr hn _) hlen rfl (fun p => by cases p <;> rfl) hcut'
    have hother : ∀ k, k ≠ j → (u.settleCut j).chute? k = s.chute? k := fun k hk => by
      rw [hothers k hk, hu, if_neg hk]
    obtain ⟨hcart, hgone, hapart⟩ := hcut.carts
    exact {
      chute := fun k c hc => by
        by_cases hk : k = j
        · subst hk
          cases hc.symm.trans hj
          rw [if_pos rfl]
          refine ⟨d, hd, by rw [hdc], by rw [hdc], fun hno => ?_, fun hidle => ?_, fun n x hx hcl _ h0 => ?_⟩
          · obtain ⟨h1, h2, -⟩ := hcut.early fun n x hx h => hno n x hx h.1
            exact ⟨h1, h2⟩
          · obtain ⟨h1, h2, h3⟩ := hcut.early fun n x _ h => (hidle.resolve_left Nat.one_ne_zero) h.2
            exact ⟨h1, h2, fun _ _ m _ => h3 m⟩
          · obtain ⟨hn, hswap, -⟩ := hcut.1 n x hx
            rw [if_pos ⟨hcl, h0⟩] at hn
            exact ⟨hn, fun _ => hswap ⟨hcl, h0⟩⟩
        · rw [if_neg hk]
          refine ⟨c, (hother k hk).trans hc, rfl, rfl, fun _ => ⟨rfl, rfl⟩, fun _ => ⟨rfl, rfl, fun ho p m hm => ?_⟩,
            fun _ _ _ _ h0 => absurd rfl h0⟩
          exact hapart m fun r hr => ho p m hm j cj (Ne.symm hk) hj r hr
      back := fun k q hq => by
        by_cases hk : k = j
        · subst hk
          cases hd.symm.trans hq
          exact ⟨cj, hj, by rw [hdc]; exact Chute.position_congr rfl rfl⟩
        · exact ⟨q, (hother k hk).symm.trans hq, fun _ => rfl⟩
      cart := hcart
      gone := hgone
      subjects := fun w hw => (State.settleCut_subjects_other u j hw).trans (State.subjects_congr hn w)
      grows := fun h15 _ hm => hcut.grows h15 hm
      sources := (State.settleCut_sources u j).trans hlen }

/-- One carrier is disarmed of chute `j`, and a cut that comes due with it is completed. -/
theorem Releases.disarm (s : State) (i j : Nat) :
    Releases s ((s.disarm i j).settleCut j) (fun k => if k = j then 1 else 0) :=
  Releases.settleCut (State.disarm_chute? s i j) rfl rfl

/-! ## One carrier is reset (R92) -/

/-- The chute that a carrier is armed for. -/
def State.armedFor (s : State) (i : Nat) : Option Nat := ((s.carrier? i).bind (·.armed)).map (·.chute)

/-- The bag that a carrier holds. -/
def State.heldBy (s : State) (i : Nat) : Option Handle := (s.carrier? i).bind (·.content.bag?)

theorem State.disarm_carriers (s : State) (i k : Nat) :
    (s.disarm i k).loop = { s.loop with carriers := s.loop.carriers.modify i (fun e => { e with armed := none }) } := rfl

/-- The release of a carrier's armed mark, where it has one (R119). -/
def State.releaseMark (s : State) (i : Nat) (a : Option Mark) : State :=
  match a with
  | some m => (s.disarm i m.chute).settleCut m.chute
  | none => s

/-- The bag that a carrier holds, where it holds one, becomes MISSING. -/
def State.loseContent (s : State) (x : Content) : State :=
  match x with
  | .loaded h => s.makeMissing h
  | _ => s

theorem State.resetCarrier_live {s : State} {i : Nat} {e : Carrier} (he : s.carrier? i = some e) :
    s.resetCarrier i = ((s.releaseMark i e.armed).loseContent e.content).setContent i .empty := by
  rw [State.resetCarrier, he] <;> rfl

/-- What the reset of a carrier leaves. -/
structure CarrierReset (s t : State) (i : Nat) : Prop where
  loop : t.loop = { s.loop with carriers := s.loop.carriers.modify i (fun _ => ⟨.empty, none⟩) }
  store : t.store = (s.makeAllMissing (s.heldBy i).toList).store
  releases : Releases s t (fun k => if s.armedFor i = some k then 1 else 0)

theorem State.makeMissing_frame (s : State) (h : Handle) : Changes [.store] s (s.makeMissing h) := (Keeps.makeMissing s h).changes

/-- After operations that leave the chutes, the carts and the notices alone. -/
theorem Releases.after {s u t : State} {a : Nat → Nat} (h : Releases s u a) (hk : t.chutes = u.chutes) (hc : t.carts = u.carts)
    (hn : t.notices = u.notices) : Releases s t a :=
  h.trans (Releases.same hk hc hn)

theorem CarrierReset.resetCarrier (s : State) (i : Nat) : CarrierReset s (s.resetCarrier i) i := by
  cases he : s.carrier? i with
  | none =>
    have hr : s.resetCarrier i = s := by rw [State.resetCarrier, he]
    have hi : s.loop.carriers.modify i (fun _ => ⟨.empty, none⟩) = s.loop.carriers := by
      refine List.ext_getElem? fun j => ?_
      rw [List.getElem?_modify]
      split
      · next h => subst h; rw [show s.loop.carriers[i]? = none from he]; rfl
      · exact Option.map_id'
    rw [hr]
    exact {
      loop := by rw [hi]
      store := by rw [State.heldBy, he]; rfl
      releases := by
        rw [State.armedFor, he]
        exact Releases.same rfl rfl rfl }
  | some e =>
    set u : State := s.releaseMark i e.armed with hu
    have hloop : u.loop = { s.loop with carriers := s.loop.carriers.modify i (fun e => { e with armed := none }) } := by
      rw [hu]
      unfold State.releaseMark
      cases ha : e.armed with
      | none =>
        have hi : s.loop.carriers.modify i (fun e => { e with armed := none }) = s.loop.carriers := by
          refine List.ext_getElem? fun j => ?_
          rw [List.getElem?_modify]
          split
          · next h =>
            subst h
            rw [show s.loop.carriers[i]? = some e from he]
            change some { e with armed := none } = some e
            rw [← ha]
          · exact Option.map_id'
        dsimp only
        rw [hi]
      | some m => exact (Keeps.settleCut _ m.chute).changes .loop (by decide)
    have hframe : u.store = s.store ∧ u.hallSecond = s.hallSecond := by
      rw [hu]
      unfold State.releaseMark
      cases e.armed with
      | none => exact ⟨rfl, rfl⟩
      | some m =>
        exact ⟨(Keeps.settleCut _ m.chute).changes .store (by decide), (Keeps.settleCut _ m.chute).changes .hallSecond (by decide)⟩
    have hrel : Releases s u (fun k => if s.armedFor i = some k then 1 else 0) := by
      rw [hu, State.armedFor, he]
      unfold State.releaseMark
      cases ha : e.armed with
      | none =>
        have : (fun k => if Option.map (fun m : Mark => m.chute) (Option.bind (some e) (·.armed)) = some k then 1 else 0) =
            fun _ => 0 := by
          funext k
          rw [Option.bind_some, ha]
          rfl
        rw [this]
        exact Releases.same rfl rfl rfl
      | some m =>
        have : (fun k => if Option.map (fun m : Mark => m.chute) (Option.bind (some e) (·.armed)) = some k then 1 else 0) =
            fun k => if k = m.chute then 1 else 0 := by
          funext k
          rw [Option.bind_some, ha, Option.map_some]
          simp only [Option.some.injEq, eq_comm]
        rw [this]
        exact Releases.disarm s i m.chute
    set v : State := u.loseContent e.content with hv
    have hvu : Changes [.store] u v := by
      rw [hv]
      cases e.content with
      | loaded g => exact State.makeMissing_frame _ _
      | empty => exact Changes.refl _ _
      | unknown => exact Changes.refl _ _
    have hvloop : v.loop = u.loop := hvu .loop (by decide)
    rw [State.resetCarrier_live he, ← hu, ← hv]
    exact {
      loop := by
        change ({ v.loop with carriers := v.loop.carriers.modify i (fun e => { e with content := .empty }) } : Loop) = _
        rw [hvloop, hloop]
        refine congrArg (fun l => ({ s.loop with carriers := l } : Loop)) (List.ext_getElem? fun j => ?_)
        rw [List.getElem?_modify, List.getElem?_modify, List.getElem?_modify]
        cases s.loop.carriers[j]? with
        | none => split <;> rfl
        | some x => split <;> rfl
      store := by
        obtain ⟨h1, h2⟩ := hframe
        change v.store = _
        rw [hv, State.heldBy, he]
        change (u.loseContent e.content).store = (s.makeAllMissing (e.content.bag?).toList).store
        cases e.content with
        | loaded g => exact State.makeAllMissing_congr [g] h1 h2
        | empty => exact h1
        | unknown => exact h1
      releases := hrel.after (hvu .chutes (by decide)) (hvu .carts (by decide)) (hvu .notices (by decide)) }

/-! ## The carriers are reset in turn (R92) -/

theorem CarrierReset.carrier? {s t : State} {i : Nat} (h : CarrierReset s t i) (j : Nat) :
    t.carrier? j = if j = i then (s.carrier? j).map (fun _ => ⟨.empty, none⟩) else s.carrier? j := by
  rw [State.carrier?, h.loop]
  change (s.loop.carriers.modify i _)[j]? = _
  rw [List.getElem?_modify]
  split
  · next hj => rw [if_pos hj.symm]; rfl
  · next hj => rw [if_neg (Ne.symm hj)]; exact Option.map_id'

/-- What the reset of some carriers leaves. -/
structure CarriersReset (s t : State) (l : List Nat) : Prop where
  loop : t.loop = { s.loop with carriers := t.loop.carriers }
  carrier : ∀ j, t.carrier? j = if j ∈ l then (s.carrier? j).map (fun _ => ⟨.empty, none⟩) else s.carrier? j
  store : t.store = (s.makeAllMissing (l.flatMap fun i => (s.heldBy i).toList)).store
  releases : Releases s t (fun k => (l.filter (fun i => s.armedFor i == some k)).length)

theorem State.makeAllMissing_toList (s : State) (o : Option Handle) (l : List Handle) :
    s.makeAllMissing (o.toList ++ l) = (s.makeAllMissing o.toList).makeAllMissing l := by
  cases o with
  | none => rfl
  | some h => rfl

theorem CarriersReset.resetCarriers (l : List Nat) (s : State) (hl : l.Nodup) : CarriersReset s (s.resetCarriers l) l := by
  induction l generalizing s with
  | nil =>
    exact {
      loop := rfl
      carrier := fun j => (if_neg List.not_mem_nil).symm
      store := rfl
      releases := Releases.same rfl rfl rfl }
  | cons i r ih =>
    obtain ⟨hi, hr⟩ := List.nodup_cons.1 hl
    have h := CarrierReset.resetCarrier s i
    obtain ⟨kloop, kcarrier, kstore, kreleases⟩ := ih (s.resetCarrier i) hr
    have hsame : ∀ j ∈ r, (s.resetCarrier i).carrier? j = s.carrier? j := fun j hj => by
      have hne : j ≠ i := fun he => hi (by rw [← he]; exact hj)
      rw [h.carrier?, if_neg hne]
    have hheld : (r.flatMap fun j => ((s.resetCarrier i).heldBy j).toList) = r.flatMap fun j => (s.heldBy j).toList :=
      List.flatMap_congr fun j hj => by rw [State.heldBy, hsame j hj, State.heldBy]
    have harmed : ∀ k, r.filter (fun j => (s.resetCarrier i).armedFor j == some k) =
        r.filter (fun j => s.armedFor j == some k) := fun k =>
      List.filter_congr fun j hj => by rw [State.armedFor, hsame j hj, State.armedFor]
    have hsecond : (s.resetCarrier i).hallSecond = s.hallSecond := (Keeps.resetCarrier s i).changes .hallSecond (by decide)
    refine ⟨?_, fun j => ?_, ?_, ?_⟩
    · rw [State.resetCarriers, kloop, h.loop]
    · rw [State.resetCarriers, kcarrier, h.carrier?]
      by_cases hj : j = i
      · subst hj
        rw [if_neg hi, if_pos rfl, if_pos List.mem_cons_self]
      · rw [if_neg hj]
        simp only [List.mem_cons, hj, false_or]
    · rw [State.resetCarriers, kstore, hheld, List.flatMap_cons, State.makeAllMissing_toList]
      have hall : (s.makeAllMissing (s.heldBy i).toList).hallSecond = s.hallSecond :=
        (Keeps.makeAllMissing _ s).changes .hallSecond (by decide)
      exact State.makeAllMissing_congr _ h.store (hsecond.trans hall.symm)
    · have hcount : (fun k => ((i :: r).filter (fun j => s.armedFor j == some k)).length) =
          fun k => (if s.armedFor i = some k then 1 else 0) +
            (r.filter (fun j => (s.resetCarrier i).armedFor j == some k)).length := by
        funext k
        rw [harmed, List.filter_cons]
        by_cases hk : s.armedFor i = some k
        · rw [if_pos hk, if_pos (beq_iff_eq.2 hk), List.length_cons, Nat.add_comm]
        · rw [if_neg hk, if_neg (fun hb => hk (beq_iff_eq.1 hb)), Nat.zero_add]
      rw [hcount]
      exact h.releases.trans kreleases

/-- The places of a list whose values meet a condition are as many as the values. -/
theorem length_filter_range {α : Type} (l : List α) (p : α → Bool) :
    ((List.range l.length).filter (fun i => (l[i]?).any p)).length = (l.filter p).length := by
  induction l with
  | nil => rfl
  | cons a t ih =>
    have hshift : (List.range t.length).filter ((fun i => ((a :: t)[i]?).any p) ∘ Nat.succ) =
        (List.range t.length).filter (fun i => (t[i]?).any p) := rfl
    rw [List.length_cons, List.range_succ_eq_map, List.filter_cons, List.filter_cons, List.filter_map, hshift]
    change (if p a = true then _ else _ : List Nat).length = _
    split
    · rw [List.length_cons, List.length_map, List.length_cons, ih]
    · rw [List.length_map, ih]

/-! ## TRACKING RESET (R92) -/

theorem exec_trackingReset (h : Head) (s : State) : exec (.trackingReset h) s = execTrackingReset h s := rfl

theorem exec_trackingResume (h : Head) (s : State) : exec (.trackingResume h) s = execTrackingResume h s := rfl

/-- The bags of the LOADED carriers. -/
def State.loadedBags (s : State) : List Handle := (List.range s.carrierCount).flatMap fun i => (s.heldBy i).toList

theorem Content.bag?_eq_some {x : Content} {g : Handle} : x.bag? = some g ↔ x = .loaded g := by
  cases x <;> simp [Content.bag?]

theorem State.mem_loadedBags {s : State} {g : Handle} : g ∈ s.loadedBags ↔ ∃ c ∈ s.loop.carriers, c.content = .loaded g := by
  unfold State.loadedBags State.heldBy
  rw [List.mem_flatMap]
  constructor
  · rintro ⟨i, -, hg⟩
    obtain ⟨c, hc, hcg⟩ := Option.bind_eq_some_iff.1 (Option.mem_toList.1 hg)
    exact ⟨c, List.mem_of_getElem? hc, Content.bag?_eq_some.1 hcg⟩
  · rintro ⟨c, hc, hcg⟩
    obtain ⟨i, hi, hget⟩ := List.mem_iff_getElem.1 hc
    refine ⟨i, List.mem_range.2 hi, Option.mem_toList.2 (Option.bind_eq_some_iff.2 ⟨c, ?_, Content.bag?_eq_some.2 hcg⟩)⟩
    exact List.getElem?_eq_some_iff.2 ⟨hi, hget⟩

/-- How many carriers are armed for a chute. -/
def State.armedCount (s : State) (k : Nat) : Nat :=
  (s.loop.carriers.filter (fun e => e.armed.any (fun m => m.chute == k))).length

theorem State.armedCount_eq (s : State) (k : Nat) :
    ((List.range s.carrierCount).filter (fun i => s.armedFor i == some k)).length = s.armedCount k := by
  rw [State.armedCount, ← length_filter_range s.loop.carriers]
  refine congrArg List.length (List.filter_congr fun i _ => ?_)
  unfold State.armedFor
  change (((s.loop.carriers[i]?).bind (·.armed)).map (·.chute) == some k) = _
  cases s.loop.carriers[i]? with
  | none => rfl
  | some e =>
    change ((e.armed).map (·.chute) == some k) = (e.armed).any (fun m => m.chute == k)
    cases e.armed with
    | none => rfl
    | some m => rfl

theorem State.armedCount_ne_zero {s : State} {k : Nat} {e : Carrier} {m : Mark} (he : e ∈ s.loop.carriers)
    (hm : e.armed = some m) (hk : m.chute = k) : s.armedCount k ≠ 0 := by
  have hin : e ∈ s.loop.carriers.filter (fun e => e.armed.any (fun m => m.chute == k)) :=
    List.mem_filter.2 ⟨he, by rw [hm]; exact beq_iff_eq.2 hk⟩
  exact Nat.ne_of_gt (List.length_pos_of_mem hin)

/-- The state of TRACKING RESET before the hold of the points. -/
def State.resetTrack (s : State) : State :=
  (s.resetCarriers (List.range s.carrierCount)).setLoop
    { (s.resetCarriers (List.range s.carrierCount)).loop.anchor with lossCount := 0 }

theorem State.trackingReset_eq (s : State) :
    s.trackingReset = if s.loop.track = .tracking then s.resetTrack.putCauseAll .tracking true else s.resetTrack := rfl

/-- The hold of the points leaves everything but the points and the link. -/
theorem State.trackingReset_frame (s : State) : Changes [.loop, .link] s.resetTrack s.trackingReset ∧
    s.trackingReset.loop = { s.resetTrack.loop with points := s.trackingReset.loop.points } ∧
    SendsOnly s.resetTrack s.trackingReset ∧
    s.trackingReset.link.nodes.length = s.resetTrack.link.nodes.length := by
  rw [State.trackingReset_eq]
  split
  · exact ⟨(Keeps.putCauseAll _ .tracking true).changes.mono (by decide), State.putCauseAll_loop _ .tracking true,
      SendsOnly.putCauses .tracking true _ _, State.putCauses_nodes_length .tracking true _ _⟩
  · exact ⟨Changes.refl _ _, rfl, SendsOnly.same rfl, rfl⟩

theorem CarriersReset.resetTrack (s : State) :
    CarriersReset s (s.resetCarriers (List.range s.carrierCount)) (List.range s.carrierCount) :=
  CarriersReset.resetCarriers _ s List.nodup_range

theorem State.resetTrack_carriers (s : State) :
    (s.resetCarriers (List.range s.carrierCount)).loop.carriers =
      List.replicate s.loop.carriers.length ⟨.empty, none⟩ := by
  refine List.ext_getElem? fun i => ?_
  have hc := (CarriersReset.resetTrack s).carrier i
  change (s.resetCarriers (List.range s.carrierCount)).loop.carriers[i]? = _ at hc
  rw [hc, List.getElem?_replicate]
  by_cases hi : i < s.loop.carriers.length
  · rw [if_pos (List.mem_range.2 hi : i ∈ List.range s.carrierCount), if_pos hi, State.carrier?, List.getElem?_eq_getElem hi]
    rfl
  · rw [if_neg (fun h => hi (List.mem_range.1 h) : i ∉ List.range s.carrierCount), if_neg hi, State.carrier?, List.getElem?_eq_none (Nat.le_of_not_lt hi)]

/-- What TRACKING RESET leaves of the records (R2, R28, R92). -/
theorem State.trackingReset_records (s : State) :
    let t := s.trackingReset
    (∀ i c g b, s.carrier? i = some c → c.content = .loaded g → s.bag? g = some b → t.bag? g = some b.lost) ∧
    (∀ i, (∀ c ∈ s.loop.carriers, c.content ≠ .loaded ⟨i, s.store.gen i⟩) →
      t.store.bags.get? i = s.store.bags.get? i) ∧
    t.store.tagMap = s.store.tagMap ∧ t.store.gens = s.store.gens ∧
    (BagTableLaw s → ∀ v,
      (t.store.slot v).counts.hall = (s.store.slot v).counts.hall - s.listed s.loadedBags v BagState.inHall ∧
      (t.store.slot v).counts.missing =
        (s.store.slot v).counts.missing + s.listed s.loadedBags v (fun st => st != .missing)) := by
  intro t
  have hstore : t.store = (s.makeAllMissing s.loadedBags).store :=
    ((State.trackingReset_frame s).1 .store (by decide)).trans (CarriersReset.resetTrack s).store
  obtain ⟨hbag, -, htags, hgens, -⟩ := State.makeAllMissing_store s.loadedBags s
  have hgen : ∀ i, t.store.gen i = s.store.gen i := fun i => by
    rw [hstore]
    exact congrArg (fun g : Table (BitVec 8) => (g.get? i).getD 0) hgens
  have hbag' : ∀ g, t.bag? g = if g ∈ s.loadedBags then (s.bag? g).map Bag.lost else s.bag? g := fun g => by
    rw [State.bag?, hstore]
    exact hbag g
  refine ⟨fun i c g b hc hg hb => ?_, fun i hno => ?_, by rw [hstore]; exact htags, by rw [hstore]; exact hgens, fun hl v => ?_⟩
  · rw [hbag', if_pos (State.mem_loadedBags.2 ⟨c, List.mem_of_getElem? hc, hg⟩), hb]
    rfl
  · have hnot : (⟨i, s.store.gen i⟩ : Handle) ∉ s.loadedBags := fun hm => by
      obtain ⟨c, hc, hcg⟩ := State.mem_loadedBags.1 hm
      exact hno c hc hcg
    have hsame := hbag' ⟨i, s.store.gen i⟩
    rw [if_neg hnot] at hsame
    unfold State.bag? Store.bag? at hsame
    rw [if_pos (hgen i), if_pos rfl] at hsame
    exact hsame
  · rw [hstore]
    exact State.makeAllMissing_counts s.loadedBags hl v

theorem State.loadedBags_any (s : State) (g : Handle) :
    decide (g ∈ s.loadedBags) = s.loop.carriers.any (fun c => c.content == .loaded g) := by
  rw [Bool.eq_iff_iff, decide_eq_true_iff, State.mem_loadedBags, List.any_eq_true]
  simp only [beq_iff_eq]

/-- How TRACKING RESET counts its bags is how the bags that become MISSING are counted. -/
theorem State.listed_loaded (s : State) (v : SlotId) (q : BagState → Bool) : s.listed s.loadedBags v q =
    (s.store.bags.filter (fun e => q e.2.state && e.2.home.any (fun k => k.slot == v) &&
      s.loop.carriers.any (fun c => c.content == .loaded ⟨e.1, s.store.gen e.1⟩))).length := by
  refine congrArg List.length (List.filter_congr fun e _ => ?_)
  dsimp only
  rw [State.loadedBags_any]

/-- What TRACKING RESET leaves of the chutes, the carts and the notices (R92, R118, R119). -/
theorem Releases.trackingReset (s : State) : Releases s s.trackingReset s.armedCount := by
  have hr := (CarriersReset.resetTrack s).releases
  obtain ⟨hch, -⟩ := State.trackingReset_frame s
  rw [show (fun k => ((List.range s.carrierCount).filter (fun i => s.armedFor i == some k)).length) = s.armedCount from
    funext (State.armedCount_eq s)] at hr
  exact hr.after (hch .chutes (by decide)) (hch .carts (by decide)) (hch .notices (by decide))

/-- What TRACKING RESET leaves of the loop (R92). -/
theorem State.trackingReset_loop (s : State) : s.trackingReset.loop = { s.loop with
    carriers := List.replicate s.loop.carriers.length ⟨.empty, none⟩, track := .anchoring, lossCount := 0, confirmRun := 0
    mismatchRun := 0, homeMark := false, points := s.trackingReset.loop.points } := by
  obtain ⟨-, hloop, -⟩ := State.trackingReset_frame s
  rw [hloop]
  change ({ ({ (s.resetCarriers (List.range s.carrierCount)).loop.anchor with lossCount := 0 } : Loop) with
    points := s.trackingReset.loop.points } : Loop) = _
  rw [(CarriersReset.resetTrack s).loop, State.resetTrack_carriers]
  rfl

theorem State.resetTrack_points (s : State) : s.resetTrack.loop.points = s.loop.points := by
  change (s.resetCarriers (List.range s.carrierCount)).loop.points = _
  rw [(CarriersReset.resetTrack s).loop]

theorem trackingResetClears : Claim.TrackingResetClears := by
  intro h s hr
  have hrun := request_guarded hr 0x32 (fun t => [(t.opState != .setup, .wrongState)])
    (fun t => (t.trackingReset, Answer.done (.trackingReset (t.loop.carriers.filter Carrier.isLoaded).length
      (t.loop.carriers.filter (fun c => c.armed.isSome)).length)))
  refine ⟨fun hst => ?_, fun hst => ?_⟩
  · exact hrun.trans (ruled_fail (firstFailure_stop (by rw [show s.taken.opState = .setup from hst]; rfl)) ..)
  · have hx := hrun.trans (ruled_pass (firstFailure_pass (bne_iff_ne.2 hst) rfl) ..)
    obtain ⟨hbags, hothers, htags, hgens, hcounts⟩ := State.trackingReset_records s.taken
    obtain ⟨hch, hcl, hsends, hnodes⟩ := State.trackingReset_frame s.taken
    have hrel := Releases.trackingReset s.taken
    have hloop := State.trackingReset_loop s.taken
    have hlink : s.taken.resetTrack.link = s.link :=
      ((Keeps.resetCarriers (List.range s.taken.carrierCount) s.taken).changes .link (by decide))
    refine ⟨s.taken.trackingReset, hx, (Keeps.trackingReset s.taken).changes.ofTaken (by decide) (by decide),
      by rw [hloop]; rfl, by rw [hloop], by rw [hloop], by rw [hloop], by rw [hloop], by rw [hloop], by rw [hloop]; rfl,
      by rw [hloop]; rfl, ?_, ?_, hbags, hothers, htags, hgens, fun hl v => ?_, fun k c hc => ?_, hrel.cart, hrel.subjects,
      fun ht i p hp => ?_, fun ht => ?_⟩
    · rw [hsends.2.1, hlink]
    · rw [hnodes, hlink]
    · obtain ⟨h1, h2⟩ := hcounts hl v
      rw [State.listed_loaded] at h1 h2
      exact ⟨h1, h2⟩
    · obtain ⟨q, hq, hqc, hqr, hqno, -, hqcut⟩ := hrel.chute k c hc
      refine ⟨q, hq, hqr, hqc, hqno, fun n x hx hcl hin h0 => ?_⟩
      obtain ⟨e, he, m, hm, hmk⟩ := hin
      exact hqcut n x hx hcl (State.armedCount_ne_zero (s := s.taken) he hm hmk)
        (show q.reserved + q.landing.length + q.jams.length = 0 by rw [hqc]; exact h0)
    · rw [State.trackingReset_eq, if_pos (show s.taken.loop.track = .tracking from ht), State.putCauseAll_get?] at hp
      obtain ⟨y, -, rfl⟩ := Option.map_eq_some_iff.1 hp
      rfl
    · rw [State.trackingReset_eq, if_neg (show ¬s.taken.loop.track = .tracking from ht), State.resetTrack_points]
      rfl

theorem trackingResumeAnchors : Claim.TrackingResumeAnchors := by
  intro h s hr
  have hrun := request_guarded hr 0x33 (fun t => [(t.opState != .setup, .wrongState), (t.loop.track == .failed, .wrongState)])
    (fun t => (t.setLoop { t.loop.anchor with lossCount := 0 }, Answer.done .empty))
  refine ⟨fun hno => ?_, fun hst ht => ?_⟩
  · by_cases hst : s.opState = .setup
    · exact hrun.trans (ruled_fail (firstFailure_stop (by rw [show s.taken.opState = .setup from hst]; rfl)) ..)
    · exact hrun.trans (ruled_fail (firstFailure_pass (bne_iff_ne.2 hst)
        (firstFailure_stop (beq_false_of_ne (hno.resolve_left hst)))) ..)
  · exact hrun.trans (ruled_pass (firstFailure_pass (bne_iff_ne.2 hst) (firstFailure_pass (beq_iff_eq.2 ht) rfl)) ..)

/-- Settles O25: the reset by the carriers in turn, and the resumption from FAILED. -/
theorem trackingRequests : Obligations.TrackingRequests := ⟨trackingResetClears, trackingResumeAnchors⟩

end Sys2Proof.Machine
end

section
/-! Frames made, refreshed and sent, and from that their obligation (R43, R56, R58). -/

namespace Sys2Proof.Machine

/-! ## Frames that join the transmit queue (R56) -/

/-- How many frames that wait are for a node. -/
def State.waiting (s : State) (n : Nat) : Nat := (s.link.txQueue.filter (fun f => f.node == n)).length

/-- Frames have been made: the queue is no shorter, and at its capacity or as long as it was at most; a node's outbound sequence has
advanced by the frames for it that joined; the rest of the link stays. -/
structure Sent (s t : State) : Prop where
  link : t.link = { s.link with txQueue := t.link.txQueue, nodes := t.link.nodes }
  grows : s.link.txQueue.length ≤ t.link.txQueue.length
  bound : t.link.txQueue.length ≤ max s.link.txQueue.length txCapacity
  waits : ∀ n, s.waiting n ≤ t.waiting n
  node : ∀ n x, s.node? n = some x →
    t.node? n = some { x with outSeq := x.outSeq + BitVec.ofNat 8 (t.waiting n - s.waiting n) }

theorem Sent.same {s t : State} (hl : t.link = { s.link with txQueue := t.link.txQueue, nodes := t.link.nodes })
    (hn : ∀ n, t.node? n = s.node? n) (hq : t.link.txQueue.length = s.link.txQueue.length)
    (hw : ∀ n, t.waiting n = s.waiting n) : Sent s t where
  link := hl
  grows := Nat.le_of_eq hq.symm
  bound := by rw [hq]; exact Nat.le_max_left ..
  waits n := Nat.le_of_eq (hw n).symm
  node n x hx := by
    rw [hw, Nat.sub_self, hn, hx]
    simp

theorem Sent.trans {s t u : State} (h : Sent s t) (k : Sent t u) : Sent s u where
  link := by rw [k.link, h.link]
  grows := Nat.le_trans h.grows k.grows
  bound := by
    have h1 := h.bound
    have h2 := k.bound
    omega
  waits n := Nat.le_trans (h.waits n) (k.waits n)
  node n x hx := by
    rw [k.node n _ (h.node n x hx)]
    have h1 := h.waits n
    have h2 := k.waits n
    have hsum : u.waiting n - s.waiting n = (t.waiting n - s.waiting n) + (u.waiting n - t.waiting n) := by omega
    rw [hsum, BitVec.ofNat_add, BitVec.add_assoc]

/-- A node's number is not 0. -/
theorem State.node?_pos {s : State} {n : Nat} {x : Node} (h : s.node? n = some x) : n ≠ 0 := by
  intro hn
  rw [State.node?, if_pos hn] at h
  cases h

/-- Whether a frame that waits is of the same level. -/
theorem OutPayload.differ_iff (p : OutPayload) (f : OutFrame) :
    p.sameLevel f.payload = false ↔ ¬(levelOf p ≠ none ∧ levelOf f.payload = levelOf p) := by
  rw [← OutPayload.sameLevel_iff, Bool.not_eq_true]

section
variable {s : State} {r : Role} {object n : Nat} {p : OutPayload} {x : Node} (h : s.servingNode r object = some n)
  (hx : s.node? n = some x) (hw : ∀ f ∈ s.link.txQueue, p.sameLevel f.payload = false)
  (hc : s.link.txQueue.length < txCapacity)
include h hx hw hc

theorem State.send_joins_node? (m : Nat) : (s.send r object p).node? m =
    if m = n then some { x with outSeq := x.outSeq + 1 } else s.node? m := by
  have hn := State.node?_pos hx
  rw [State.send_joins h hx hw hc]
  unfold State.node? at hx ⊢
  rw [if_neg hn] at hx
  by_cases hm : m = n
  · rw [if_pos hm, hm, if_neg hn]
    change (s.link.nodes.modify (n - 1) _)[n - 1]? = _
    rw [List.getElem?_modify_eq, hx]
    rfl
  · rw [if_neg hm]
    by_cases hm0 : m = 0
    · rw [if_pos hm0, if_pos hm0]
    · rw [if_neg hm0, if_neg hm0]
      change (s.link.nodes.modify (n - 1) _)[m - 1]? = _
      have hne : n - 1 ≠ m - 1 := by omega
      exact List.getElem?_modify_ne _ _ hne

theorem State.send_joins_queue :
    (s.send r object p).link.txQueue = s.link.txQueue ++ [⟨n, x.outSeq, s.link.stampRef.getD 0, p⟩] := by
  rw [State.send_joins h hx hw hc]
  rfl

theorem Sent.joins : Sent s (s.send r object p) where
  link := by rw [State.send_joins h hx hw hc]; rfl
  grows := by rw [State.send_joins_queue h hx hw hc, List.length_append]; omega
  bound := by
    rw [State.send_joins_queue h hx hw hc, List.length_append, List.length_singleton]
    omega
  waits m := by
    unfold State.waiting
    rw [State.send_joins_queue h hx hw hc, List.filter_append, List.length_append]
    omega
  node m y hy := by
    have hq : (s.send r object p).waiting m - s.waiting m = if m = n then 1 else 0 := by
      unfold State.waiting
      rw [State.send_joins_queue h hx hw hc, List.filter_append, List.length_append, Nat.add_sub_cancel_left,
        List.filter_singleton]
      by_cases hm : m = n
      · simp [hm]
      · simp [hm, show (n == m) = false from beq_false_of_ne (Ne.symm hm)]
    rw [hq, State.send_joins_node? h hx hw hc]
    by_cases hm : m = n
    · subst hm
      cases hx.symm.trans hy
      rw [if_pos rfl, if_pos rfl]
      rfl
    · rw [if_neg hm, if_neg hm, hy]
      simp

end

/-- A frame that waits takes a level and keeps its node. -/
theorem State.send_waiting_queue {s : State} {r : Role} {object n : Nat} {p : OutPayload} (h : s.servingNode r object = some n)
    (hw : ∃ f ∈ s.link.txQueue, p.sameLevel f.payload = true) : Sent s (s.send r object p) := by
  have hs := State.send_waiting h hw
  refine Sent.same (by rw [hs]; rfl) (fun m => by rw [hs]; rfl) (by rw [hs]; exact List.length_map ..) fun m => ?_
  unfold State.waiting
  rw [hs]
  change ((s.link.txQueue.map _).filter _).length = _
  rw [List.filter_map, List.length_map]
  refine congrArg List.length (List.filter_congr fun f _ => ?_)
  simp only [Function.comp_apply]
  split <;> rfl

theorem Sent.send (s : State) (r : Role) (object : Nat) (p : OutPayload) : Sent s (s.send r object p) := by
  have hsame : Sent s s := Sent.same rfl (fun _ => rfl) rfl fun _ => rfl
  cases h : s.servingNode r object with
  | none => rw [State.send_none p h]; exact hsame
  | some n =>
    obtain ⟨x, hx, -⟩ := State.servingNode_eq h
    by_cases hw : ∃ f ∈ s.link.txQueue, p.sameLevel f.payload = true
    · exact State.send_waiting_queue h hw
    · have hw' : ∀ f ∈ s.link.txQueue, p.sameLevel f.payload = false := fun f hf => Bool.eq_false_iff.2 fun hb => hw ⟨f, hf, hb⟩
      by_cases hc : s.link.txQueue.length < txCapacity
      · exact Sent.joins h hx hw' hc
      · rw [State.send_full hw' (Nat.le_of_not_lt hc)]
        exact hsame

theorem Sent.sendAll (l : List (Role × Nat × OutPayload)) (s : State) : Sent s (s.sendAll l) := by
  induction l generalizing s with
  | nil => exact Sent.same rfl (fun _ => rfl) rfl fun _ => rfl
  | cons e t ih => exact (Sent.send s e.1 e.2.1 e.2.2).trans (ih _)

/-! ## The rows -/

theorem exec_levelRefresh (s : State) : exec .levelRefresh s = .next (s.sendAll (levelsDue s)) := by
  change Host.Outcome.next ((s.refreshPoints s.loop.points).refreshDoors s.doors) = _
  rw [State.refreshPoints_eq, State.refreshDoors_eq, ← State.sendAll_append]
  rfl

theorem exec_frameTransmit (s : State) : exec .frameTransmit s = execFrameTransmit s := rfl

theorem frameMade : Claim.FrameMade := by
  intro s r object p
  refine ⟨fun h => State.send_none p h, fun n h => ⟨fun hw => ?_, fun hw hc => ?_, fun hw hc => ?_⟩⟩
  · obtain ⟨f, hf, hfw⟩ := hw
    refine ⟨_, State.send_waiting h ⟨f, hf, (OutPayload.sameLevel_iff ..).2 hfw⟩, List.length_map .., fun j g hg => ⟨fun hgw => ?_, fun hgw => ?_⟩⟩
    · rw [List.getElem?_map, hg, Option.map_some, if_pos ((OutPayload.sameLevel_iff ..).2 hgw)]
    · rw [List.getElem?_map, hg, Option.map_some, if_neg fun hb => hgw ((OutPayload.sameLevel_iff ..).1 hb)]
  · have hw' : ∀ f ∈ s.link.txQueue, p.sameLevel f.payload = false := fun f hf => (OutPayload.differ_iff p f).2 (hw f hf)
    obtain ⟨x, hx, hrole, hserves⟩ := State.servingNode_eq h
    have hnode := State.send_joins_node? h hx hw' hc
    refine ⟨x, hx, hrole, hserves, ?_, fun m hm => ?_, ?_⟩
    · rw [hnode, if_pos rfl]
    · rw [hnode, if_neg hm]
    · rw [State.send_joins h hx hw' hc]
      rfl
  · exact State.send_full (fun f hf => (OutPayload.differ_iff p f).2 (hw f hf)) hc

theorem levelRefreshMakes : Claim.LevelRefreshMakes := by
  intro s
  obtain ⟨hlink, hgrows, hbound, -, hnode⟩ := Sent.sendAll (levelsDue s) s
  refine ⟨_, exec_levelRefresh s, ?_, rfl, hlink, hgrows, hbound, hnode, fun hp hd => LevelsMade.refresh hp hd⟩
  rw [levelsDue, State.sendAll_append, ← State.refreshPoints_eq, ← State.refreshDoors_eq]
  exact ((Keeps.refreshPoints _ s).trans (Keeps.refreshDoors _ _)).changes

theorem frameTransmitSends : Claim.FrameTransmitSends := by
  intro s
  refine ⟨fun hq => ?_, fun f rest hq => ⟨s.outStamp f, ?_, ?_⟩⟩
  · rw [exec_frameTransmit, execFrameTransmit, hq]
  · unfold State.outStamp
    split
    · exact .inl rfl
    · exact .inr rfl
  · rw [exec_frameTransmit, execFrameTransmit, hq]

/-- Settles O40: a frame made by what waits for its object, the level frames one after another, and the oldest frame sent. -/
theorem framesMadeAndSent : Obligations.FramesMadeAndSent := ⟨frameMade, levelRefreshMakes, frameTransmitSends⟩

end Sys2Proof.Machine
end

section
/-! The sequence check of a frame, and a node that goes DOWN (R47 to R52, R83, R109, R137). -/

namespace Sys2Proof.Machine

/-! ## The three outcomes of the check (R47) -/

/-- A node's record as a frame is taken from it. -/
def State.heardNode (s : State) (f : FrameHead) : State :=
  (s.setRx []).modifyNode f.node.toNat (fun y => y.hear f.seq s.hallSecond)

section
variable {s : State} {f : FrameHead} {x : Node}

theorem State.afterCheck_gap (hl : x.state = .live) (he : x.expected ≠ some f.seq) : s.afterCheck f x =
    ((s.setRx []).gap x).modifyNode f.node.toNat (fun y => y.hear f.seq s.hallSecond) := by
  rw [State.afterCheck, State.heard, if_pos hl, if_neg he]
  rfl

theorem State.afterCheck_inSequence (hl : x.state = .live) (he : x.expected = some f.seq) :
    s.afterCheck f x = (s.heardNode f).inSequence x := by
  rw [State.afterCheck, State.heard, if_pos hl, if_pos he]
  rfl

theorem State.afterCheck_returns (hl : x.state ≠ .live) : s.afterCheck f x = (s.heardNode f).nodeReturns x := by
  rw [State.afterCheck, State.heard, if_neg hl]
  rfl

/-- A frame without a gap is in sequence or of a node that returns. -/
theorem no_gap_cases (h : ¬(x.state = .live ∧ x.expected ≠ some f.seq)) :
    x.state = .live ∧ x.expected = some f.seq ∨ x.state ≠ .live := by
  by_cases hl : x.state = .live
  · exact .inl ⟨hl, not_not.1 fun he => h ⟨hl, he⟩⟩
  · exact .inr hl

end

/-! ## Frames made on the way (R47, R56) -/

theorem SendsOnly.refl (s : State) : SendsOnly s s := SendsOnly.same rfl

theorem SendsOnly.gap (s : State) (x : Node) : SendsOnly s (s.gap x) := by
  unfold State.gap
  split
  · exact SendsOnly.causeOfLoss s
  · exact SendsOnly.causeOfLoss s
  · exact SendsOnly.causeOfLoss s
  · exact SendsOnly.causeOfLoss s
  · exact SendsOnly.haltNode ..
  · exact SendsOnly.refl s

theorem SendsOnly.nodeReturns (s : State) (x : Node) : SendsOnly s (s.nodeReturns x) := by
  unfold State.nodeReturns
  split
  · exact SendsOnly.putCauses ..
  · exact SendsOnly.unhaltNode ..
  · exact SendsOnly.refl s

theorem SendsOnly.inSequence (s : State) (x : Node) : SendsOnly s (s.inSequence x) := by
  unfold State.inSequence
  split
  · exact SendsOnly.unhaltNode ..
  · exact SendsOnly.refl s

theorem SendsOnly.nodeLost (s : State) (x : Node) : SendsOnly s (s.nodeLost x) := by
  unfold State.nodeLost
  split
  · exact SendsOnly.causeOfLoss s
  · exact SendsOnly.causeOfLoss s
  · exact SendsOnly.putCauses ..
  · exact SendsOnly.same ((Keeps.faultNode _ s).changes .link (by decide))
  · exact SendsOnly.haltNode ..
  · exact SendsOnly.refl s

theorem State.modifyNode_link (s : State) (n : Nat) (f : Node → Node) :
    (s.modifyNode n f).link = { s.link with nodes := (s.modifyNode n f).link.nodes } := by
  unfold State.modifyNode
  split <;> rfl

/-- What the sequence check leaves of the link. -/
structure CheckedLink (s t : State) (n : Nat) (x y : Node) : Prop where
  rx : t.link.rx = []
  stampRef : t.link.stampRef = s.link.stampRef
  lastPitch : t.link.lastPitch = s.link.lastPitch
  node : ∃ v, t.node? n = some { y with outSeq := v }
  others : ∀ m z, m ≠ n → s.node? m = some z → ∃ v, t.node? m = some { z with outSeq := v }

section
variable {s : State} {n : Nat} {x : Node} (hx : s.node? n = some x) {g : Node → Node}
  (hg : ∀ y v, { g y with outSeq := v } = g { y with outSeq := v })
include hx hg

omit hg in
theorem CheckedLink.before {t : State} (h : SendsOnly ((s.setRx []).modifyNode n g) t) :
    CheckedLink s t n x (g x) := by
  obtain ⟨hrx, href, hpitch, hnode⟩ := h
  have hl := State.modifyNode_link (s.setRx []) n g
  have hn := fun m => State.modifyNode_node? (s.setRx []) n m g
  refine ⟨by rw [hrx, hl]; rfl, by rw [href, hl]; rfl, by rw [hpitch, hl]; rfl, ?_, fun m z hm hz => ?_⟩
  · refine hnode n (g x) ?_
    rw [hn, if_pos rfl, show (s.setRx []).node? n = some x from hx]
    rfl
  · refine hnode m z ?_
    rw [hn, if_neg hm]
    exact hz

theorem CheckedLink.after {u : State} (h : SendsOnly (s.setRx []) u) : CheckedLink s (u.modifyNode n g) n x (g x) := by
  obtain ⟨hrx, href, hpitch, hnode⟩ := h
  have hl := State.modifyNode_link u n g
  have hn := fun m => State.modifyNode_node? u n m g
  refine ⟨by rw [hl]; exact hrx, by rw [hl]; exact href, by rw [hl]; exact hpitch, ?_, fun m z hm hz => ?_⟩
  · obtain ⟨v, hv⟩ := hnode n x hx
    exact ⟨v, by rw [hn, if_pos rfl, hv, hg]; rfl⟩
  · obtain ⟨v, hv⟩ := hnode m z hz
    exact ⟨v, by rw [hn, if_neg hm, hv]⟩

end

theorem CheckedLink.afterCheck {s : State} {f : FrameHead} {x : Node} (hx : s.node? f.node.toNat = some x) :
    CheckedLink s (s.afterCheck f x) f.node.toNat x (x.hear f.seq s.hallSecond) := by
  by_cases hl : x.state = .live
  · by_cases he : x.expected = some f.seq
    · rw [State.afterCheck_inSequence hl he]
      exact CheckedLink.before hx (SendsOnly.inSequence ..)
    · rw [State.afterCheck_gap hl he]
      exact CheckedLink.after hx (fun _ _ => rfl) (SendsOnly.gap ..)
  · rw [State.afterCheck_returns hl]
    exact CheckedLink.before hx (SendsOnly.nodeReturns ..)

theorem State.afterCheck_changes (s : State) (f : FrameHead) (x : Node) :
    Changes [.link, .loop, .doors, .notices] s (s.afterCheck f x) :=
  (Keeps.setRx s []).changes.comp (Keeps.heard _ f.node.toNat x f.seq).changes (by decide) (by decide)

theorem State.heardNode_changes (s : State) (f : FrameHead) : Changes [.link] s (s.heardNode f) :=
  (Keeps.setRx s []).changes.comp (Keeps.modifyNode _ _ _).changes (by decide) (by decide)

/-! ## The effects by the role (R48, R49, R52) -/

/-- The roles whose gap is a cause of loss. -/
theorem State.gap_loss {s : State} {x : Node}
    (hr : x.role = some .loop ∨ x.role = some .induct ∨ x.role = some .arch ∨ x.role = some .chute) :
    s.gap x = s.causeOfLoss := by
  rw [State.gap]
  rcases hr with hr | hr | hr | hr <;> rw [hr]

theorem State.gap_door {s : State} {x : Node} (hr : x.role = some .door) : s.gap x = s.haltNode x.objects := by
  rw [State.gap, hr]

/-- A DOOR node's frame without a gap frees its doors of the reason NODE. -/
theorem State.afterCheck_door {s : State} {f : FrameHead} {x : Node}
    (h : ¬(x.state = .live ∧ x.expected ≠ some f.seq)) (hr : x.role = some .door) :
    s.afterCheck f x = (s.heardNode f).unhaltNode x.objects := by
  rcases no_gap_cases h with ⟨hl, he⟩ | hl
  · rw [State.afterCheck_inSequence hl he, State.inSequence, hr]
  · rw [State.afterCheck_returns hl, State.nodeReturns, hr]

/-- What the halts of a node's doors leave (R48, R51, R137). -/
theorem State.haltNode_leaves (l : List Nat) (s : State) :
    (∀ d y, d ∈ l → s.door? d = some y →
      (s.haltNode l).door? d = some { y with halts := { y.halts with node := true }, running := false } ∧
      (s.notices.sources.length = 15 → d ∈ (s.haltNode l).subjects .doorStopped)) ∧
    (∀ d, d ∉ l → (s.haltNode l).door? d = s.door? d) ∧
    (∀ w, w ≠ .doorStopped → (s.haltNode l).subjects w = s.subjects w) := by
  obtain ⟨hother, hstopped⟩ := State.haltNode_subjects l s
  refine ⟨fun d y hd hy => ⟨?_, fun h15 => (hstopped h15 d).2 (.inr ⟨hd, y, hy⟩)⟩, fun d hd => ?_, hother⟩
  · rw [State.haltNode_door?, if_pos hd, hy]
    rfl
  · rw [State.haltNode_door?, if_neg hd]

/-- Doors that lose the reason NODE follow with their belts (R49, R134). -/
theorem State.unhaltNode_leaves (l : List Nat) (s : State) :
    (∀ d y, d ∈ l → s.door? d = some y → ∃ z, (s.unhaltNode l).door? d = some z ∧
      z = { y with halts := { y.halts with node := false }, running := (s.unhaltNode l).beltRuns z }) ∧
    ∀ d, d ∉ l → (s.unhaltNode l).door? d = s.door? d := by
  obtain ⟨hbelts, hdoors⟩ := State.unhaltNode_door? l s
  refine ⟨fun d y hd hy => ⟨_, by rw [hdoors, if_pos hd, hy]; rfl, ?_⟩, fun d hd => by rw [hdoors, if_neg hd]⟩
  rw [hbelts]
  rfl

/-- The points of a node's list take or lose the cause NODE, and the loop changes in nothing else (R51, R52). -/
theorem State.holdServed_loop (s : State) (x : Node) (v : Bool) :
    (s.holdServed x v).loop = { s.loop with points := (s.holdServed x v).loop.points } ∧
    ∀ i, (s.holdServed x v).loop.points.get? i = if i ∈ x.objects then (s.loop.points.get? i).map (fun p =>
      ⟨p.offset, p.node, { p.causes with node := v }, ({ p.causes with node := v } : HoldSet).isEmpty⟩)
      else s.loop.points.get? i :=
  ⟨State.putCauses_loop .node v x.objects s, fun i => State.putCauses_get? .node v x.objects s i⟩

theorem Keeps.holdServed (s : State) (x : Node) (v : Bool) : Keeps [.link, .loop] s (s.holdServed x v) :=
  Keeps.putCauses ..

/-- The frames whose check has no effect but on the node's record. -/
theorem State.afterCheck_plain {s : State} {f : FrameHead} {x : Node}
    (h : x.role = some .encode ∨ x.role = some .induct ∧ x.state = .live ∧ x.expected = some f.seq ∨
      ¬(x.state = .live ∧ x.expected ≠ some f.seq) ∧
        (x.role = some .loop ∨ x.role = some .arch ∨ x.role = some .chute)) :
    s.afterCheck f x = s.heardNode f := by
  have hin : ∀ r, x.role = some r → r ≠ .door → (s.heardNode f).inSequence x = s.heardNode f := fun r hr hd => by
    rw [State.inSequence, hr]
    cases r <;> first | rfl | exact absurd rfl hd
  have hret : ∀ r, x.role = some r → r ≠ .door → r ≠ .induct → (s.heardNode f).nodeReturns x = s.heardNode f :=
    fun r hr hd hi => by
      rw [State.nodeReturns, hr]
      cases r <;> first | rfl | exact absurd rfl hd | exact absurd rfl hi
  have hplain : ∀ r, x.role = some r → r ≠ .door → r ≠ .induct →
      ¬(x.state = .live ∧ x.expected ≠ some f.seq) → s.afterCheck f x = s.heardNode f := fun r hr hd hi hg => by
    rcases no_gap_cases hg with ⟨hl, he⟩ | hl
    · rw [State.afterCheck_inSequence hl he, hin r hr hd]
    · rw [State.afterCheck_returns hl, hret r hr hd hi]
  rcases h with hr | ⟨hr, hl, he⟩ | ⟨hg, hr | hr | hr⟩
  · by_cases hg : x.state = .live ∧ x.expected ≠ some f.seq
    · rw [State.afterCheck_gap hg.1 hg.2, State.gap, hr]
      rfl
    · exact hplain .encode hr (by decide) (by decide) hg
  · rw [State.afterCheck_inSequence hl he, hin .induct hr (by decide)]
  · exact hplain .loop hr (by decide) (by decide) hg
  · exact hplain .arch hr (by decide) (by decide) hg
  · exact hplain .chute hr (by decide) (by decide) hg

/-- Settles O37: the check by its three outcomes, and the effect of each by the node's role. -/
theorem sequenceChecked : Obligations.SequenceChecked := by
  intro f x s hx _ t u gap heard
  obtain ⟨hrx, href, hpitch, hnode, hothers⟩ := CheckedLink.afterCheck hx
  refine ⟨State.afterCheck_changes s f x, href, hpitch, hrx, hnode, fun m y hm hy => hothers m y hm hy, fun hg hr => ?_,
    fun hg hr => ?_, fun hg hr => ?_, fun hl hr => ?_, fun h => ?_⟩
  · have ht : t = u.modifyNode f.node.toNat (fun y => y.hear f.seq s.hallSecond) := by
      refine (State.afterCheck_gap hg.1 hg.2).trans ?_
      rw [State.gap_loss hr]
      rfl
    have hmod := (Keeps.modifyNode u f.node.toNat (fun y => y.hear f.seq s.hallSecond)).changes
    have hloss := (Keeps.causeOfLoss (s.setRx [])).changes
    have hloop : t.loop = u.loop := by rw [ht]; exact hmod .loop (by decide)
    refine ⟨hloop, by rw [ht]; exact hmod .notices (by decide), by rw [ht]; exact State.modifyNode_txQueue .., ?_, ?_, ?_⟩
    · rw [ht]
      exact (hmod .doors (by decide)).trans (hloss .doors (by decide))
    · rw [hloop]
      exact (State.causeOfLoss_track _).1
    · rw [hloop]
      exact (State.causeOfLoss_track _).2
  · have ht : t = ((s.setRx []).haltNode x.objects).modifyNode f.node.toNat (fun y => y.hear f.seq s.hallSecond) := by
      refine (State.afterCheck_gap hg.1 hg.2).trans ?_
      rw [State.gap_door hr]
    have hmod := (Keeps.modifyNode ((s.setRx []).haltNode x.objects) f.node.toNat
      (fun y => y.hear f.seq s.hallSecond)).changes
    have hdoors : t.doors = ((s.setRx []).haltNode x.objects).doors := by rw [ht]; exact hmod .doors (by decide)
    have hnotices : t.notices = ((s.setRx []).haltNode x.objects).notices := by rw [ht]; exact hmod .notices (by decide)
    obtain ⟨h1, h2, h3⟩ := State.haltNode_leaves x.objects (s.setRx [])
    have hdoor : ∀ d, t.door? d = ((s.setRx []).haltNode x.objects).door? d := fun d => by
      rw [State.door?, hdoors]
      rfl
    have hsub := State.subjects_congr hnotices
    refine ⟨?_, fun d y hd hy => ?_, fun d hd => (hdoor d).trans (h2 d hd), fun w hw => (hsub w).trans (h3 w hw)⟩
    · rw [ht]
      exact (hmod .loop (by decide)).trans ((Keeps.haltNode x.objects (s.setRx [])).changes .loop (by decide))
    · obtain ⟨k1, k2⟩ := h1 d y hd hy
      exact ⟨(hdoor d).trans k1, fun h15 => by rw [hsub]; exact k2 h15⟩
  · have ht : t = (s.heardNode f).unhaltNode x.objects := State.afterCheck_door hg hr
    have hmod := State.heardNode_changes s f
    have hun := (Keeps.unhaltNode x.objects (s.heardNode f)).changes
    have hdoor : ∀ d, (s.heardNode f).door? d = s.door? d := fun d => by
      rw [State.door?, hmod .doors (by decide)]
      rfl
    obtain ⟨h1, h2⟩ := State.unhaltNode_leaves x.objects (s.heardNode f)
    rw [ht]
    exact ⟨(hun .loop (by decide)).trans (hmod .loop (by decide)), (hun .notices (by decide)).trans (hmod .notices (by decide)),
      fun d y hd hy => h1 d y hd ((hdoor d).trans hy), fun d hd => (h2 d hd).trans (hdoor d)⟩
  · have ht : t = (s.heardNode f).holdServed x false := by
      have hr' : s.afterCheck f x = (s.heardNode f).nodeReturns x := State.afterCheck_returns hl
      rw [State.nodeReturns, hr] at hr'
      exact hr'
    have hmod := State.heardNode_changes s f
    have hk := (Keeps.holdServed (s.heardNode f) x false).changes
    obtain ⟨h1, h2⟩ := State.holdServed_loop (s.heardNode f) x false
    have hloop : (s.heardNode f).loop = s.loop := hmod .loop (by decide)
    rw [hloop] at h1 h2
    rw [ht]
    exact ⟨h1, (hk .doors (by decide)).trans (hmod .doors (by decide)), (hk .notices (by decide)).trans (hmod .notices (by decide)),
      h2⟩
  · have ht : t = s.heardNode f := State.afterCheck_plain h
    have hn := fun m => State.modifyNode_node? (s.setRx []) f.node.toNat m (fun y => y.hear f.seq s.hallSecond)
    rw [ht]
    refine ⟨?_, ?_, fun m hm => ?_⟩
    · rw [State.heardNode, State.modifyNode, if_neg (State.node?_pos hx)]
      rfl
    · rw [State.heardNode, hn, if_pos rfl, show (s.setRx []).node? f.node.toNat = some x from hx]
      rfl
    · rw [State.heardNode, hn, if_neg hm]
      rfl

/-! ## A node that goes DOWN (R51) -/

/-- A node is DOWN and its notice is put, before the effect by its role. -/
def State.downed (s : State) (n : Nat) : State :=
  (s.modifyNode n (fun y => { y with state := .down })).raise .nodeDown n

theorem exec_nodeDown_due {s : State} {n : Nat} {x : Node} (hx : s.node? n = some x) (h : s.silent x = true) :
    exec (.nodeDown n) s = .next ((s.downed n).nodeLost x) := by
  change execNodeDown n s = _
  rw [execNodeDown, hx]
  exact congrArg Host.Outcome.next (if_pos h)

theorem exec_nodeDown_early {s : State} {n : Nat} (h : ∀ x, s.node? n = some x → s.silent x ≠ true) :
    exec (.nodeDown n) s = .next s := by
  change execNodeDown n s = _
  rw [execNodeDown]
  split
  · rfl
  · next x hx => rw [if_neg (h x hx)]

section
variable (s : State) (n : Nat)

theorem Keeps.downed : Keeps [.link, .notices] s (s.downed n) := 
  (Keeps.modifyNode s n _).comp (Keeps.raise _ _ _) (by decide) (by decide)

theorem State.downed_notices : (s.downed n).notices = (s.raise .nodeDown n).notices := by
  have h : (s.modifyNode n (fun y => { y with state := .down })).notices = s.notices :=
    (Keeps.modifyNode s n _).changes .notices (by decide)
  unfold State.downed State.raise
  rw [h]
  rfl

theorem State.downed_sources : (s.downed n).notices.sources.length = s.notices.sources.length := by
  rw [State.downed_notices]
  exact List.length_modify ..

theorem State.downed_subjects {w : Source} (hw : w ≠ .nodeDown) : (s.downed n).subjects w = s.subjects w := by
  rw [State.subjects_congr (State.downed_notices s n), State.subjects_raise_other s hw n]

theorem State.downed_listed (h : s.notices.sources.length = 15) (m : Nat) :
    m ∈ (s.downed n).subjects .nodeDown ↔ m ∈ s.subjects .nodeDown ∨ m = n := by
  rw [State.subjects_congr (State.downed_notices s n), State.mem_subjects_raise h, or_comm]

theorem State.downed_node? (m : Nat) :
    (s.downed n).node? m = if m = n then (s.node? m).map (fun y => { y with state := .down }) else s.node? m :=
  State.modifyNode_node? ..

theorem State.downed_stampRef : (s.downed n).link.stampRef = s.link.stampRef := by
  change (s.modifyNode n _).link.stampRef = _
  rw [State.modifyNode_link]

end

/-- A cause of loss changes no source but the two of tracking (R83). -/
theorem State.causeOfLoss_subjects_other (s : State) {w : Source} (h1 : w ≠ .loopLost) (h2 : w ≠ .loopFailed) :
    s.causeOfLoss.subjects w = s.subjects w := by
  by_cases h : s.loop.track = .tracking ∨ s.loop.track = .confirming
  · rw [State.subjects_congr (State.causeOfLoss_notices h)]
    refine State.subjects_raise_other s ?_ 0
    unfold Loop.lossNotice
    split <;> assumption
  · rw [State.causeOfLoss, if_neg h]

/-- The effect of a role on a node's loss leaves NODE_DOWN. -/
theorem State.nodeLost_listed (s : State) (x : Node) : (s.nodeLost x).subjects .nodeDown = s.subjects .nodeDown := by
  unfold State.nodeLost
  split
  · exact State.causeOfLoss_subjects_other s (by decide) (by decide)
  · exact State.causeOfLoss_subjects_other s (by decide) (by decide)
  · exact State.subjects_congr ((Keeps.holdServed s x true).changes .notices (by decide)) _
  · exact (State.faultNode_chute? x.objects s).2.1 _ (by decide)
  · exact (State.haltNode_subjects x.objects s).1 _ (by decide)
  · rfl

/-- Settles O39: a node that is due goes DOWN with its effect by its role, and otherwise nothing changes. -/
theorem silentNodeGoesDown : Obligations.SilentNodeGoesDown := by
  intro n s due
  refine ⟨fun x hx hdue => ?_, fun h => exec_nodeDown_early fun x hx hs => h x hx ((State.silent_iff s x).1 hs)⟩
  have hk := (Keeps.downed s n).changes
  have hloop : (s.downed n).loop = s.loop := hk .loop (by decide)
  have hdoors : (s.downed n).doors = s.doors := hk .doors (by decide)
  have hchutes : (s.downed n).chutes = s.chutes := hk .chutes (by decide)
  have hlimits : (s.downed n).limits = s.limits := hk .limits (by decide)
  have h15 := State.downed_sources s n
  have hsub : ∀ w, w ≠ .nodeDown → (s.downed n).subjects w = s.subjects w := fun w => State.downed_subjects s n
  obtain ⟨-, href, -, hnode⟩ := SendsOnly.nodeLost (s.downed n) x
  refine ⟨_, exec_nodeDown_due hx ((State.silent_iff s x).2 hdue), 
    hk.comp (Keeps.nodeLost _ x).changes (by decide) (by decide),
    hnode n _ (by rw [State.downed_node?, if_pos rfl, hx]; rfl),
    fun m y hm hy => hnode m y (by rw [State.downed_node?, if_neg hm, hy]), href.trans (State.downed_stampRef s n),
    fun h m => by rw [State.nodeLost_listed]; exact State.downed_listed s n h m, ?_, ?_, ?_, ?_, ?_⟩
  · intro hr
    have ht : (s.downed n).nodeLost x = (s.downed n).causeOfLoss := by
      rcases hr with hr | hr <;> rw [State.nodeLost, hr]
    have hc := (Keeps.causeOfLoss (s.downed n)).changes
    rw [ht]
    exact ⟨State.causeOfLoss_loop_congr hloop hlimits, (hc .doors (by decide)).trans hdoors,
      (hc .chutes (by decide)).trans hchutes, (State.causeOfLoss_track _).1, (State.causeOfLoss_track _).2,
      fun w hw => State.causeOfLoss_subjects_congr hloop hlimits h15.symm (hsub w hw)⟩
  · intro hr
    have ht : (s.downed n).nodeLost x = (s.downed n).holdServed x true := by rw [State.nodeLost, hr]
    have hc := (Keeps.holdServed (s.downed n) x true).changes
    obtain ⟨h1, h2⟩ := State.holdServed_loop (s.downed n) x true
    rw [hloop] at h1 h2
    rw [ht]
    refine ⟨h1, (hc .doors (by decide)).trans hdoors, (hc .chutes (by decide)).trans hchutes,
      fun w _ hw => (State.subjects_congr (hc .notices (by decide)) w).trans (hsub w hw), fun i => ?_⟩
    rw [h2]
    simp only [HoldSet.isEmpty, Bool.not_true, Bool.and_false]
  · intro hr
    have ht : (s.downed n).nodeLost x = (s.downed n).faultNode x.objects := by rw [State.nodeLost, hr]
    have hc := (Keeps.faultNode x.objects (s.downed n)).changes
    have hchute : ∀ k, (s.downed n).chute? k = s.chute? k := fun k => by
      rw [State.chute?, hchutes]
      rfl
    obtain ⟨h1, h2, h3⟩ := State.faultNode_chute? x.objects (s.downed n)
    rw [ht]
    refine ⟨(hc .loop (by decide)).trans hloop, (hc .doors (by decide)).trans hdoors, fun w hw hd => ?_, fun k c hc hk => ?_,
      fun k hk => ?_, fun h m => ?_⟩
    · exact (h2 w fun e => hw (e ▸ List.mem_singleton_self _)).trans (hsub w hd)
    · rw [h1, if_pos hc, hchute, hk]
      rfl
    · rw [h1, if_neg hk, hchute]
    · rw [h3 (h15.trans h), hsub _ (by decide)]
      simp only [hchute]
  · intro hr
    have ht : (s.downed n).nodeLost x = (s.downed n).haltNode x.objects := by rw [State.nodeLost, hr]
    have hc := (Keeps.haltNode x.objects (s.downed n)).changes
    have hdoor : ∀ d, (s.downed n).door? d = s.door? d := fun d => by
      rw [State.door?, hdoors]
      rfl
    obtain ⟨h1, h2, h3⟩ := State.haltNode_leaves x.objects (s.downed n)
    rw [ht]
    refine ⟨(hc .loop (by decide)).trans hloop, (hc .chutes (by decide)).trans hchutes, fun w hw hd => ?_, fun d y hd hy => ?_,
      fun d hd => (h2 d hd).trans (hdoor d)⟩
    · exact (h3 w fun e => hw (e ▸ List.mem_singleton_self _)).trans (hsub w hd)
    · obtain ⟨k1, k2⟩ := h1 d y hd ((hdoor d).trans hy)
      exact ⟨k1, fun h => k2 (h15.trans h)⟩
  · intro hr
    have ht : (s.downed n).nodeLost x = s.downed n := by rw [State.nodeLost, hr]
    rw [ht]
    exact ⟨hloop, hdoors, hchutes, fun w _ hw => hsub w hw⟩

end Sys2Proof.Machine
end

section
/-! The end of a divert and the landing deadlines (R104, R118, R119, R122). -/

namespace Sys2Proof.Machine

/-! ## A bag is LANDING (R102, R104) -/

/-- A bag as it lands at a chute, with the reason of its mark where that has one. -/
def Bag.landed (b : Bag) (k : Nat) (r : Option StrayReason) : Bag :=
  { b with
    state := .landing, location := some (.chute k), reason := r.or b.reason, recheck := b.recheck && b.state != .onLoop,
    reinduct := b.reinduct && b.state != .stray, aged := b.aged && b.state != .stray, entered := none }

section
variable {s : State} {g : Handle} {b : Bag} (hb : s.bag? g = some b) (k : Nat) (dl : Byte) (r : Option StrayReason)
include hb

theorem State.toLanding_bag? : (s.toLanding g k dl r).bag? g = some (b.landed k r) := by
  have hmove := (State.moveBag_store hb .landing (some (.chute k))).1 g
  rw [if_pos rfl] at hmove
  refine (State.modifyBag_bag? ..).trans ?_
  rw [if_pos rfl, hmove, Option.map_some]
  refine congrArg some ?_
  have hne : ∀ p q : BagState, q ≠ p → (b.state == p && q != p) = (b.state == p) := fun p q h => by
    rw [bne_iff_ne.2 h, Bool.and_true]
  unfold Bag.enter
  rw [hne .onLoop .landing (by decide), hne .stray .landing (by decide)]
  cases r <;> rfl

theorem State.toLanding_others {i : Nat} (hi : i ≠ g.index) :
    (s.toLanding g k dl r).store.bags.get? i = s.store.bags.get? i :=
  ((State.modifyBag_frame ..).2 i hi).trans ((State.moveBag_store hb .landing (some (.chute k))).2.1 i (Ne.symm hi))

theorem State.toLanding_counted (hst : b.state = .onLoop) : Counted s (s.toLanding g k dl r) b id := by
  intro v
  refine (congrArg Sailing.counts (State.modifyBag_slot ..)).trans (((State.moveBag_store hb .landing (some (.chute k))).2.2.2.2 v).trans ?_)
  rw [hst, Counters.move_hall rfl rfl]

end

/-! ## The end of a divert (R102, R104) -/

/-- The pending entries that a carrier's contents make at a chute. -/
def Content.landings (y : Content) (dl : Byte) : List Pending := y.bag?.toList.map fun g => ⟨g, dl⟩

/-- A carrier's bag, where it has one, is LANDING at a chute. -/
def State.landed (s : State) (y : Content) (k : Nat) (dl : Byte) (r : Option StrayReason) : State :=
  match y with
  | .loaded g => s.toLanding g k dl r
  | _ => s

theorem Keeps.landed (s : State) (y : Content) (k : Nat) (dl : Byte) (r : Option StrayReason) :
    Keeps [.store, .chutes] s (s.landed y k dl r) := by
  unfold State.landed
  split
  · exact Keeps.toLanding ..
  · exact Keeps.refl ..

theorem State.landed_chute? (s : State) (y : Content) (k j : Nat) (dl : Byte) (r : Option StrayReason) :
    (s.landed y k dl r).chute? j =
      if j = k then (s.chute? j).map (fun c => { c with landing := c.landing ++ y.landings dl }) else s.chute? j := by
  have hnone : ∀ l : List Pending, l = [] →
      s.chute? j = if j = k then (s.chute? j).map (fun c => { c with landing := c.landing ++ l }) else s.chute? j := fun l hl => by
    subst hl
    by_cases hj : j = k
    · rw [if_pos hj]
      cases s.chute? j <;> simp
    · rw [if_neg hj]
  cases y with
  | loaded g => exact State.modifyChute_chute? ..
  | empty => exact hnone _ rfl
  | unknown => exact hnone _ rfl

/-- A divert has ended after its carrier was disarmed: the carrier's contents are the ones given, its bag is LANDING, and a cut that
comes due is complete. -/
structure DivertEnded (s t : State) (i k : Nat) (c : Chute) (y new : Content) (dl : Byte) (r : Option StrayReason) : Prop where
  changes : Changes [.store, .loop, .chutes, .carts, .notices] s t
  carrier : ∀ j, t.carrier? j = if j = i then (s.carrier? j).map (fun e => { e with content := new }) else s.carrier? j
  others : ∀ j, j ≠ k → t.chute? j = s.chute? j
  chute : ∃ d, t.chute? k = some d ∧
    d = { c with landing := c.landing ++ y.landings dl, active := d.active, state := d.state } ∧
    CutSettled s t k c d c.state
  bag : ∀ g b, y = .loaded g → s.bag? g = some b → t.bag? g = some (b.landed k r) ∧
    (∀ j, j ≠ g.index → t.store.bags.get? j = s.store.bags.get? j) ∧ (b.state = .onLoop → Counted s t b id)
  none : (∀ g, y ≠ .loaded g) → t.store = s.store

theorem DivertEnded.of {s : State} {k : Nat} {c : Chute} (hk : s.chute? k = some c) (i : Nat) (y new : Content) (dl : Byte)
    (r : Option StrayReason) :
    DivertEnded s (((s.landed y k dl r).setContent i new).settleCut k) i k c y new dl r := by
  have hcut := (Keeps.settleCut ((s.landed y k dl r).setContent i new) k).changes
  have hland := (Keeps.landed s y k dl r).changes
  have hstore : (((s.landed y k dl r).setContent i new).settleCut k).store = (s.landed y k dl r).store :=
    hcut .store (by decide)
  have hchute : ∀ j, ((s.landed y k dl r).setContent i new).chute? j = (s.landed y k dl r).chute? j := fun _ => rfl
  obtain ⟨d, hd, hdc, hothers, hsettled⟩ := CutSettled.settleCut (k := k) (s := (s.landed y k dl r).setContent i new)
    (c := { c with landing := c.landing ++ y.landings dl }) (by rw [hchute, State.landed_chute?, if_pos rfl, hk]; rfl)
  refine ⟨(hland.comp (n := [.store, .loop, .chutes]) (Keeps.setContent _ i new).changes (by decide) (by decide)).comp hcut
    (by decide) (by decide), fun j => ?_, fun j hj => ?_, ⟨d, hd, hdc, ?_⟩, fun g b hy hb => ?_, fun hy => ?_⟩
  · have hloop : (s.landed y k dl r).loop = s.loop := hland .loop (by decide)
    have hl : (((s.landed y k dl r).setContent i new).settleCut k).loop = ((s.landed y k dl r).setContent i new).loop :=
      hcut .loop (by decide)
    have hc : ∀ u v : State, u.loop = v.loop → u.carrier? j = v.carrier? j := fun u v h => by rw [State.carrier?, h]; rfl
    rw [hc _ _ hl, State.setContent_carrier?, hc _ _ hloop]
  · rw [hothers j hj, hchute, State.landed_chute?, if_neg hj]
  · refine CutSettled.before (u := (s.landed y k dl r).setContent i new) (hland .carts (by decide)) ?_ ?_ rfl ?_ hsettled
    · exact State.subjects_congr (hland .notices (by decide)) _
    · exact congrArg (fun u : NoticeUnit => u.sources.length) (hland .notices (by decide))
    · exact Chute.position_congr rfl rfl
  · subst hy
    unfold Counted State.bag?
    rw [hstore]
    exact ⟨State.toLanding_bag? hb k dl r, fun j hj => State.toLanding_others hb k dl r hj, State.toLanding_counted hb k dl r⟩
  · rw [hstore]
    cases y with
    | loaded g => exact absurd rfl (hy g)
    | empty => rfl
    | unknown => rfl

/-! ## CHECK_DEADLINE (R104) -/

theorem exec_checkDeadline {s : State} {p : Byte} (h : s.link.lastPitch = some p) (i : Nat) :
    exec (.checkDeadline i) s = .next (s.testMark p i) := by
  change execCheckDeadline i s = _
  rw [execCheckDeadline, h]

theorem exec_checkDeadline_unpitched {s : State} (h : s.link.lastPitch = none) (i : Nat) :
    exec (.checkDeadline i) s = .next s := by
  change execCheckDeadline i s = _
  rw [execCheckDeadline, h]

theorem State.testMark_expires {s : State} {i : Nat} {y : Content} {m : Mark} (hi : s.carrier? i = some ⟨y, some m⟩)
    (h0 : m.remaining = 0) (p : Byte) : s.testMark p i = s.expire p i m y := by
  rw [State.testMark, hi]
  exact if_pos h0

theorem State.testMark_runs {s : State} {i : Nat} (h : ∀ y m, s.carrier? i = some ⟨y, some m⟩ → m.remaining ≠ 0) (p : Byte) :
    s.testMark p i = s := by
  rw [State.testMark]
  cases hi : s.carrier? i with
  | none => rfl
  | some e =>
    obtain ⟨y, a⟩ := e
    cases a with
    | none => rfl
    | some m => exact if_neg (h y m hi)

theorem State.expire_eq {s : State} {k : Nat} {m : Mark} {c : Chute} (hk : s.chute? m.chute = some c) (hm : m.chute = k) (p : Byte)
    (i : Nat) (y : Content) : s.expire p i m y =
      (((s.disarm i k).landed y k (p + BitVec.ofNat 8 c.window) m.reason).setContent i .unknown).settleCut k := by
  subst hm
  have hw : s.windowOf m.chute = BitVec.ofNat 8 c.window := by
    unfold State.windowOf
    rw [hk]
  unfold State.expire
  rw [hw]
  cases y <;> rfl

/-- A carrier disarmed, and then given its contents. -/
theorem State.disarm_carrier? (s : State) (i k j : Nat) :
    (s.disarm i k).carrier? j = if j = i then (s.carrier? j).map (fun e => { e with armed := none }) else s.carrier? j := by
  change (s.loop.carriers.modify i _)[j]? = _
  rw [List.getElem?_modify]
  split
  · next h => rw [if_pos h.symm]; rfl
  · next h => rw [if_neg (Ne.symm h)]; exact Option.map_id'

theorem checkDeadlineEnds : Claim.CheckDeadlineEnds := by
  intro i s
  refine ⟨fun h => exec_checkDeadline_unpitched h i, fun h => ?_, fun p m y c hp hi hk h0 => ?_⟩
  · cases hp : s.link.lastPitch with
    | none => exact exec_checkDeadline_unpitched hp i
    | some p => rw [exec_checkDeadline hp, State.testMark_runs h]
  · have hk' : (s.disarm i m.chute).chute? m.chute = some { c with reserved := c.reserved - 1 } := by
      rw [State.disarm_chute?, if_pos rfl, hk]
      rfl
    obtain ⟨hch, hcarrier, hothers, ⟨d, hd, hdc, hcut⟩, hbag, hnone⟩ :=
      DivertEnded.of hk' i y .unknown (p + BitVec.ofNat 8 c.window) m.reason
    have ht := (exec_checkDeadline hp i).trans (by rw [State.testMark_expires hi h0, State.expire_eq hk rfl])
    refine ⟨_, d, ht, (Keeps.disarm s i m.chute).changes.comp hch (by decide) (by decide), ?_, fun j hj => ?_, fun j hj => ?_, hd,
      by rw [hdc], by rw [hdc], CutSettled.before (u := s.disarm i m.chute) rfl rfl rfl rfl (Chute.position_congr rfl rfl) hcut,
      fun g b hy hb => ?_, fun hy => ⟨?_, hnone hy⟩⟩
    · rw [hcarrier, if_pos rfl, State.disarm_carrier?, if_pos rfl, hi]
      rfl
    · rw [hcarrier, if_neg hj, State.disarm_carrier?, if_neg hj]
    · rw [hothers j hj, State.disarm_chute?, if_neg hj]
    · obtain ⟨h1, h2, h3⟩ := hbag g b hy hb
      refine ⟨?_, h2, h1, h3⟩
      rw [hdc, hy]
      rfl
    · rw [hdc]
      cases y with
      | loaded g => exact absurd rfl (hy g)
      | empty => exact List.append_nil _
      | unknown => exact List.append_nil _

/-! ## LANDING_DEADLINE (R122) -/

theorem exec_landingDeadline {s : State} {p : Byte} (h : s.link.lastPitch = some p) (k : Nat) :
    exec (.landingDeadline k) s = .next (s.jamDue p k) := by
  change execLandingDeadline k s = _
  rw [execLandingDeadline, h]

theorem exec_landingDeadline_unpitched {s : State} (h : s.link.lastPitch = none) (k : Nat) :
    exec (.landingDeadline k) s = .next s := by
  change execLandingDeadline k s = _
  rw [execLandingDeadline, h]

/-- A bag as it is JAMMED at a chute. -/
def Bag.jammed (b : Bag) (k : Nat) : Bag :=
  { b with
    state := .jammed, location := some (.chute k), recheck := b.recheck && b.state != .onLoop,
    reinduct := b.reinduct && b.state != .stray, aged := b.aged && b.state != .stray, entered := none }

theorem Bag.enter_jammed (b : Bag) (k now : Nat) : b.enter .jammed (some (.chute k)) now = b.jammed k := by
  have hne : ∀ p q : BagState, q ≠ p → (b.state == p && q != p) = (b.state == p) := fun p q h => by
    rw [bne_iff_ne.2 h, Bool.and_true]
  unfold Bag.enter
  rw [hne .onLoop .jammed (by decide), hne .stray .jammed (by decide)]
  rfl

theorem Bag.jammed_jammed (b : Bag) (k : Nat) : (b.jammed k).jammed k = b.jammed k := by
  change { b.jammed k with
    recheck := (b.jammed k).recheck && true, reinduct := (b.jammed k).reinduct && true
    aged := (b.jammed k).aged && true } = _
  rw [Bool.and_true, Bool.and_true, Bool.and_true]

theorem State.jamAll_bag? (k : Nat) (l : List Handle) (s : State) (g : Handle) :
    (s.jamAll k l).bag? g = if g ∈ l then (s.bag? g).map (fun b => b.jammed k) else s.bag? g := by
  induction l generalizing s with
  | nil => exact (if_neg List.not_mem_nil).symm
  | cons h t ih =>
    have hmove : (s.moveBag h .jammed (some (.chute k))).bag? g =
        if g = h then (s.bag? g).map (fun b => b.jammed k) else s.bag? g := by
      cases hb : s.bag? h with
      | none =>
        rw [State.moveBag_stale hb]
        by_cases hg : g = h
        · rw [if_pos hg, hg, hb]
          rfl
        · rw [if_neg hg]
      | some b =>
        rw [(State.moveBag_store hb .jammed (some (.chute k))).1 g, Bag.enter_jammed]
        by_cases hg : g = h
        · rw [if_pos hg, if_pos hg, hg, hb]
          rfl
        · rw [if_neg hg, if_neg hg]
    rw [State.jamAll, ih, hmove]
    by_cases hg : g = h
    · rw [if_pos hg, if_pos (List.mem_cons.2 (.inl hg)), Option.map_map]
      have hidem : (fun b : Bag => b.jammed k) ∘ (fun b : Bag => b.jammed k) = fun b => b.jammed k :=
        funext fun b => Bag.jammed_jammed b k
      rw [hidem, ite_self]
    · rw [if_neg hg]
      simp only [List.mem_cons, hg, false_or]

/-- The pending entries of a chute that a pitch makes due. -/
def Chute.due (c : Chute) (p : Byte) : List Pending := c.landing.filter fun e => decide ((p - e.deadline).toNat ≤ 127)

section
variable {s : State} {k : Nat} {c : Chute} {p : Byte} (hk : s.chute? k = some c)
include hk

theorem State.jamDue_none (h : c.due p = []) : s.jamDue p k = s := by
  rw [State.jamDue, hk]
  refine if_pos ?_
  change ((c.due p).map (·.bag)).isEmpty = true
  rw [h]
  rfl

theorem State.jamDue_some (h : c.due p ≠ []) : s.jamDue p k =
    ((s.jamAll k ((c.due p).map (·.bag))).modifyChute k (fun x =>
      { x with
        landing := x.landing.filter (fun e => !decide ((p - e.deadline).toNat ≤ 127))
        jams := x.jams ++ (c.due p).map (·.bag) })).raise .jam k := by
  rw [State.jamDue, hk]
  refine if_neg ?_
  change ¬((c.due p).map (·.bag)).isEmpty = true
  rw [List.isEmpty_iff, List.map_eq_nil_iff]
  exact h

end

theorem landingDeadlineJams : Claim.LandingDeadlineJams := by
  intro k s
  refine ⟨fun h => exec_landingDeadline_unpitched h k, fun hk => ?_, fun p c hp hk => ⟨fun h => ?_, fun h => ?_⟩⟩
  · cases hp : s.link.lastPitch with
    | none => exact exec_landingDeadline_unpitched hp k
    | some p => rw [exec_landingDeadline hp, State.jamDue, hk]
  · rw [exec_landingDeadline hp, State.jamDue_none hk h]
  · have ht := exec_landingDeadline hp k
    have hkeep := (Keeps.jamDue s p k).changes
    rw [State.jamDue_some hk h] at ht hkeep
    have hjam := (Keeps.jamAll k ((c.due p).map (·.bag)) s).changes
    have hchute : ∀ j, (s.jamAll k ((c.due p).map (·.bag))).chute? j = s.chute? j := fun j => by
      rw [State.chute?, hjam .chutes (by decide)]
      rfl
    refine ⟨_, ht, hkeep, ?_, fun j hj => ?_, fun e he b hb => ?_, fun h15 => ?_⟩
    · rw [State.raise_chute?, State.modifyChute_same ((hchute k).trans hk)]
      rfl
    · exact (State.raise_chute? ..).trans ((State.modifyChute_chute? ..).trans ((if_neg hj).trans (hchute j)))
    · refine (State.jamAll_bag? k ((c.due p).map (·.bag)) s e.bag).trans ?_
      rw [if_pos (List.mem_map_of_mem (f := (·.bag)) (l := c.due p) he), hb]
      rfl
    · refine (State.mem_subjects_raise ?_ ..).2 (.inl rfl)
      exact (congrArg (fun u : NoticeUnit => u.sources.length) (hjam .notices (by decide))).trans h15

/-- Settles O44: the two deadlines by the last processed pitch. -/
theorem deadlinesAct : Obligations.DeadlinesAct := ⟨checkDeadlineEnds, landingDeadlineJams⟩

end Sys2Proof.Machine
end

section
/-! How a frame row that is admitted comes to its block's act, and how its stamp resolves after the sequence check; from that HOME
(R44 to R47, R53 to R55, R66, R67). -/

namespace Sys2Proof.Machine

/-! ## Admission (R44, R45) -/

/-- A frame of a node is admitted in the state as it is, no frame being held before it. -/
structure TakenHere (s : State) (f : FrameHead) (x : Node) : Prop where
  quiet : HoldsNoFrame s
  node : s.node? f.node.toNat = some x
  role : ∃ r, x.role = some r ∧ (s.setRx []).admission r = some (s.setRx [])

theorem Admitted.here {s : State} {f : FrameHead} {x : Node} (h : Admitted s f x) : TakenHere s f x := by
  obtain ⟨hq, ho, hx, hr⟩ := h
  obtain ⟨r, hr⟩ := Option.isSome_iff_exists.1 hr
  exact ⟨hq, hx, r, hr, by
    simp only [State.admission, (State.setRx_opState s []).trans ho]⟩

theorem AdmittedEncode.here {s : State} {f : FrameHead} {x : Node} (h : AdmittedEncode s f x) : TakenHere s f x := by
  obtain ⟨hq, ho, hx, hr⟩ := h
  refine ⟨hq, hx, .encode, hr, ?_⟩
  rcases ho with ho | ho <;> simp only [State.admission, (State.setRx_opState s []).trans ho]

section
variable {s : State} {f : FrameHead} {x : Node} (h : TakenHere s f x)
include h

theorem TakenHere.takeFrame (r : Report) (act : State → State) : (s.setRx []).takeFrame f r act =
    if s.passesRole x r = true then act (s.afterCheck f x) else s.afterCheck f x := by
  obtain ⟨-, hx, role, hr, ha⟩ := h
  have hx' : (s.setRx []).node? f.node.toNat = some x := hx
  have hrole : ((s.setRx []).node? f.node.toNat).bind (·.role) = some role := by rw [hx']; exact hr
  unfold State.takeFrame
  dsimp only
  rw [hrole]
  dsimp only
  rw [State.setRx_setRx, ha]
  dsimp only
  rw [hx']
  rfl

theorem TakenHere.receive (kind : Byte) (payload : List Byte) (r : Report) (act : State → State) :
    s.receive f kind payload (fun t => t.takeFrame f r act) =
      if s.passesRole x r = true then act (s.afterCheck f x) else s.afterCheck f x := by
  have hk : s.knows f = true := by
    obtain ⟨-, hx, role, hr, -⟩ := h
    exact knows_of_role hx (by rw [hr]; rfl)
  rw [receive_known h.quiet hk, h.takeFrame]

end

theorem Serves.passes {s : State} {x : Node} {r : Role} {object : Nat} (h : Serves s x r object) {valid : Bool}
    (hv : valid = true) : s.passesRole x ⟨r, some object, valid⟩ = true := by
  obtain ⟨hr, hm, hc⟩ := h
  rw [State.passesRole, hr, hv]
  simp [hm, hc]

theorem passesRole_plain {x : Node} {r : Role} (h : x.role = some r) (s : State) : s.passesRole x ⟨r, none, true⟩ = true := by
  simp [State.passesRole, h]

/-! ## What the check leaves of the loop (R48, R52, R83) -/

/-- Of the loop, neither the carriers and their position have changed, nor where the points and arches stand. -/
structure SameTrack (s t : State) : Prop where
  pos : t.loop.pos = s.loop.pos
  carriers : t.loop.carriers = s.loop.carriers
  arches : t.loop.arches = s.loop.arches
  points : ∀ i, (t.loop.points.get? i).map (·.offset) = (s.loop.points.get? i).map (·.offset)

theorem SameTrack.same {s t : State} (h : t.loop = s.loop) : SameTrack s t := by
  refine ⟨?_, ?_, ?_, fun i => ?_⟩ <;> rw [h]

theorem SameTrack.trans {s t u : State} (h : SameTrack s t) (k : SameTrack t u) : SameTrack s u :=
  ⟨k.pos.trans h.pos, k.carriers.trans h.carriers, k.arches.trans h.arches, fun i => (k.points i).trans (h.points i)⟩

theorem SameTrack.putCauses (x : HoldCause) (v : Bool) (l : List Nat) (s : State) : SameTrack s (s.putCauses x v l) := by
  have hl := State.putCauses_loop x v l s
  refine ⟨by rw [hl], by rw [hl], by rw [hl], fun i => ?_⟩
  rw [State.putCauses_get?]
  split
  · rw [Option.map_map]
    rfl
  · rfl

theorem SameTrack.causeOfLoss (s : State) : SameTrack s s.causeOfLoss := by
  by_cases h : s.loop.track = .tracking ∨ s.loop.track = .confirming
  · have hl := State.causeOfLoss_loop h
    refine ⟨by rw [hl]; rfl, by rw [hl]; rfl, by rw [hl]; rfl, fun i => ?_⟩
    rw [State.causeOfLoss_point h, Option.map_map]
    rfl
  · rw [State.causeOfLoss, if_neg h]
    exact SameTrack.same rfl

theorem SameTrack.gap (s : State) (x : Node) : SameTrack s (s.gap x) := by
  unfold State.gap
  split
  · exact SameTrack.causeOfLoss s
  · exact SameTrack.causeOfLoss s
  · exact SameTrack.causeOfLoss s
  · exact SameTrack.causeOfLoss s
  · exact SameTrack.same ((Keeps.haltNode _ s).changes .loop (by decide))
  · exact SameTrack.same rfl

theorem SameTrack.nodeReturns (s : State) (x : Node) : SameTrack s (s.nodeReturns x) := by
  unfold State.nodeReturns
  split
  · exact SameTrack.putCauses ..
  · exact SameTrack.same ((Keeps.unhaltNode _ s).changes .loop (by decide))
  · exact SameTrack.same rfl

theorem SameTrack.afterCheck (s : State) (f : FrameHead) (x : Node) : SameTrack s (s.afterCheck f x) := by
  have hheard : SameTrack s (s.heardNode f) := SameTrack.same (State.heardNode_changes s f .loop (by decide))
  by_cases hl : x.state = .live
  · by_cases he : x.expected = some f.seq
    · rw [State.afterCheck_inSequence hl he]
      exact hheard.trans (SameTrack.same ((Keeps.inSequence _ x).changes .loop (by decide)))
    · rw [State.afterCheck_gap hl he]
      have hrx : SameTrack s (s.setRx []) := SameTrack.same rfl
      exact (hrx.trans (SameTrack.gap (s.setRx []) x)).trans (SameTrack.same ((Keeps.modifyNode _ _ _).changes .loop (by decide)))
  · rw [State.afterCheck_returns hl]
    exact hheard.trans (SameTrack.nodeReturns ..)

/-! ## Stamps (R53 to R55) -/

theorem State.atStamp_absent {s : State} (h : s.link.stampRef = none) (stamp : Byte) (offset : Nat)
    (act : Nat → Int → State) : s.atStamp stamp offset act = s := by
  have hr : s.resolve stamp offset = .absent := by rw [State.resolve, h]
  rw [State.atStamp, hr]

theorem State.atStamp_stale {s : State} {stamp : Byte} (h : StaleStamp s stamp) (offset : Nat) (act : Nat → Int → State) :
    s.atStamp stamp offset act = s.causeOfLoss := by
  obtain ⟨r, hr, hd⟩ := h
  have hs : s.resolve stamp offset = .stale := by
    rw [State.resolve, hr]
    exact if_neg (by omega)
  rw [State.atStamp, hs]

theorem State.atStamp_carrier {s : State} {stamp : Byte} {offset c : Nat} {d : Int} (h : ResolvesTo s stamp offset c d)
    (act : Nat → Int → State) : s.atStamp stamp offset act = act c d := by
  obtain ⟨r, hr, hd, hlow, hhigh, hc⟩ := h
  have hs : s.resolve stamp offset = .carrier c d := by
    rw [State.resolve, hr, hc, hd]
    exact if_pos (by omega)
  rw [State.atStamp, hs]

section
variable {s : State} {f : FrameHead} {x : Node} (h : TakenHere s f x)
include h

theorem TakenHere.stampRef : (s.afterCheck f x).link.stampRef = s.link.stampRef := (CheckedLink.afterCheck h.node).stampRef

theorem TakenHere.stale (hs : StaleStamp s f.stamp) : StaleStamp (s.afterCheck f x) f.stamp := by
  obtain ⟨r, hr, hd⟩ := hs
  exact ⟨r, h.stampRef.trans hr, hd⟩

theorem TakenHere.resolves {offset c : Nat} {d : Int} (hs : ResolvesTo s f.stamp offset c d) :
    ResolvesTo (s.afterCheck f x) f.stamp offset c d := by
  obtain ⟨r, hr, hd, hlow, hhigh, hc⟩ := hs
  have ht := SameTrack.afterCheck s f x
  exact ⟨r, h.stampRef.trans hr, hd, hlow, hhigh, by rw [ht.pos, ht.carriers]; exact hc⟩

/-- A frame about a carrier, by what its stamp resolves to. -/
theorem TakenHere.stamped (kind : Byte) (payload : List Byte) {r : Report} (hp : s.passesRole x r = true) (offset : State → Nat)
    (act : State → Nat → Int → State) :
    let u := s.receive f kind payload (fun t => t.takeFrame f r fun t => t.atStamp f.stamp (offset t) (act t))
    (s.link.stampRef = none → u = s.afterCheck f x) ∧ (StaleStamp s f.stamp → u = (s.afterCheck f x).causeOfLoss) ∧
    ∀ c d, ResolvesTo s f.stamp (offset (s.afterCheck f x)) c d → u = act (s.afterCheck f x) c d := by
  intro u
  have hu : u = _ := (h.receive kind payload r _).trans (if_pos hp)
  exact ⟨fun ha => hu.trans (State.atStamp_absent (h.stampRef.trans ha) ..), fun ha => hu.trans (State.atStamp_stale (h.stale ha) ..),
    fun c d hc => hu.trans (State.atStamp_carrier (h.resolves hc) _)⟩

end

/-! ## HOME (R66, R67) -/

theorem exec_home (f : FrameHead) (s : State) :
    exec (.home f) s = .next (s.receive f 0x02 [] fun t => t.takeFrame f ⟨.loop, none, true⟩ fun t =>
      t.atStamp f.stamp 0 t.takeHome) := rfl

/-- The position that a HOME's difference gives. -/
def State.anchored (s : State) (d : Int) : Loop :=
  { s.loop with pos := ((-d) % (s.loop.carriers.length : Int)).toNat }

theorem State.takeHome_anchoring {s : State} (h : s.loop.track = .anchoring) (c : Nat) (d : Int) :
    s.takeHome c d = s.setLoop { s.anchored d with track := .confirming, confirmRun := 0 } := by
  rw [State.takeHome, h]
  rfl

theorem State.takeHome_failed {s : State} (h : s.loop.track = .failed) (c : Nat) (d : Int) :
    s.takeHome c d = s.setLoop (s.anchored d) := by
  rw [State.takeHome, h]
  rfl

theorem State.takeHome_incorrect {s : State} (h : s.loop.track = .confirming ∨ s.loop.track = .tracking) {c : Nat} (hc : c ≠ 0)
    (d : Int) : s.takeHome c d = (s.setLoop (s.anchored d)).causeOfLoss := by
  rcases h with h | h
  · rw [State.takeHome, h]
    exact if_neg hc
  · rw [State.takeHome, h]
    exact if_neg hc

theorem State.takeHome_confirms {s : State} (h : s.loop.track = .confirming) {c : Nat} (hc : c = 0) (d : Int) :
    s.takeHome c d = s := by
  rw [State.takeHome, h]
  exact if_pos hc

theorem State.takeHome_correct {s : State} (h : s.loop.track = .tracking) {c : Nat} (hc : c = 0) (d : Int) :
    s.takeHome c d = s.setLoop { s.loop with
      lossCount := if s.loop.homeMark = true then 0 else s.loop.lossCount, homeMark := true } := by
  rw [State.takeHome, h]
  exact if_pos hc

/-- Settles O45: a HOME by its stamp, and a resolved one by the tracking state. -/
theorem homeActs : Obligations.HomeActs := by
  intro f x s ha hr s1
  obtain ⟨habsent, hstale, hres⟩ := ha.here.stamped 0x02 [] (passesRole_plain hr s) (fun _ => 0) (fun t => t.takeHome)
  have hnext : ∀ t, _ = t → exec (.home f) s = .next t := fun t ht => (exec_home f s).trans (congrArg Host.Outcome.next ht)
  exact ⟨fun h => hnext _ (habsent h), fun h => hnext _ (hstale h), fun c d hc =>
    ⟨fun h => hnext _ ((hres c d hc).trans (State.takeHome_anchoring h c d)),
      fun h => hnext _ ((hres c d hc).trans (State.takeHome_failed h c d)),
      fun h hn => hnext _ ((hres c d hc).trans (State.takeHome_incorrect h hn d)),
      fun h h0 => hnext _ ((hres c d hc).trans (State.takeHome_confirms h h0 d)),
      fun h h0 => hnext _ ((hres c d hc).trans (State.takeHome_correct h h0 d))⟩⟩

end Sys2Proof.Machine
end

section
/-! CHECK: the end of a divert, as a success or a failure (R100 to R103, R106, R118, R119). -/

namespace Sys2Proof.Machine

/-! ## What the sequence check leaves -/

section
variable (s : State) (f : FrameHead) (x : Node)

theorem State.afterCheck_store : (s.afterCheck f x).store = s.store := State.afterCheck_changes s f x .store (by decide)

theorem State.afterCheck_chute? (k : Nat) : (s.afterCheck f x).chute? k = s.chute? k := by
  rw [State.chute?, State.afterCheck_changes s f x .chutes (by decide)]
  rfl

theorem State.afterCheck_cart? (n : Nat) : (s.afterCheck f x).cart? n = s.cart? n := by
  rw [State.cart?, State.afterCheck_changes s f x .carts (by decide)]
  rfl

theorem State.afterCheck_carrier? (i : Nat) : (s.afterCheck f x).carrier? i = s.carrier? i := by
  rw [State.carrier?, (SameTrack.afterCheck s f x).carriers]
  rfl

theorem State.afterCheck_bag? (g : Handle) : (s.afterCheck f x).bag? g = s.bag? g := by
  rw [State.bag?, State.afterCheck_store]
  rfl

theorem State.afterCheck_limits : (s.afterCheck f x).limits = s.limits := State.afterCheck_changes s f x .limits (by decide)

theorem State.afterCheck_hallSecond : (s.afterCheck f x).hallSecond = s.hallSecond :=
  State.afterCheck_changes s f x .hallSecond (by decide)

theorem State.afterCheck_pen : (s.afterCheck f x).pen = s.pen := State.afterCheck_changes s f x .pen (by decide)

end

/-- How a bag's slot is counted rests on the store before. -/
theorem Counted.before {s u t : State} {b : Bag} {w : Counters → Counters} (h : Counted u t b w) (hs : u.store = s.store) :
    Counted s t b w := fun v => by rw [← hs]; exact h v

theorem State.causeOfLoss_sources (s : State) : s.causeOfLoss.notices.sources.length = s.notices.sources.length := by
  by_cases h : s.loop.track = .tracking ∨ s.loop.track = .confirming
  · rw [State.causeOfLoss_notices h, State.raise_sources]
  · rw [State.causeOfLoss, if_neg h]

theorem State.addHalt_sources (s : State) (d : Nat) (w : HaltReason) :
    (s.addHalt d w).notices.sources.length = s.notices.sources.length := by
  unfold State.addHalt
  split
  · rfl
  · exact (congrArg (fun u : NoticeUnit => u.sources.length) ((Keeps.setBelt _ d).changes .notices (by decide))).trans
      (State.raise_sources ..)

theorem State.haltNode_sources (l : List Nat) (s : State) :
    (s.haltNode l).notices.sources.length = s.notices.sources.length := by
  induction l generalizing s with
  | nil => rfl
  | cons d t ih => exact (ih _).trans (State.addHalt_sources ..)

theorem State.gap_sources (s : State) (x : Node) : (s.gap x).notices.sources.length = s.notices.sources.length := by
  unfold State.gap
  split
  · exact State.causeOfLoss_sources s
  · exact State.causeOfLoss_sources s
  · exact State.causeOfLoss_sources s
  · exact State.causeOfLoss_sources s
  · exact State.haltNode_sources _ s
  · rfl

theorem State.afterCheck_sources (s : State) (f : FrameHead) (x : Node) :
    (s.afterCheck f x).notices.sources.length = s.notices.sources.length := by
  have hsame : ∀ {u v : State} {l : List Block}, Changes l u v → .notices ∉ l →
      v.notices.sources.length = u.notices.sources.length := fun h hn => by rw [h .notices hn]
  have hheard := hsame (State.heardNode_changes s f) (by decide)
  by_cases hl : x.state = .live
  · by_cases he : x.expected = some f.seq
    · rw [State.afterCheck_inSequence hl he]
      exact (hsame (Keeps.inSequence _ x).changes (by decide)).trans hheard
    · rw [State.afterCheck_gap hl he]
      exact (hsame (Keeps.modifyNode _ _ _).changes (by decide)).trans (State.gap_sources (s.setRx []) x)
  · rw [State.afterCheck_returns hl]
    exact (hsame (Keeps.nodeReturns _ x).changes (by decide)).trans hheard

/-! ## A carrier that is armed for the chute, or not (R101) -/

theorem bitOfByte_of {b : Byte} (h : b.toNat ≤ 1) : bitOfByte b = some (decide (b.toNat = 1)) := by
  unfold bitOfByte
  by_cases h0 : b.toNat = 0
  · rw [if_pos h0, h0]
    rfl
  · have h1 : b.toNat = 1 := by omega
    rw [if_neg h0, if_pos h1, h1]
    rfl

section
variable {s : State} {i : Nat} {e : Carrier} (hi : s.carrier? i = some e)
include hi

theorem State.check_ignored {k : Nat} (h : ∀ m, e.armed = some m → m.chute ≠ k) (o : Bool) : s.check k i o = s := by
  rw [State.check, hi]
  dsimp only
  cases ha : e.armed with
  | none => rfl
  | some m => exact if_neg (h m ha)

theorem State.check_armed {k : Nat} {m : Mark} (hm : e.armed = some m) (hk : m.chute = k) (o : Bool) :
    s.check k i o = if o = true then s.divertFails i m e.content else s.divertSucceeds i m e.content := by
  rw [State.check, hi]
  dsimp only
  rw [hm]
  exact if_pos hk

end

/-! ## The success (R102) -/

/-- The failure count is 0. -/
def Chute.unfailed (c : Chute) : Chute := { c with failures := 0 }

theorem State.divertSucceeds_eq {s : State} {k : Nat} {m : Mark} {c : Chute} {r : Byte} (hk : s.chute? k = some c)
    (hm : m.chute = k) (hr : s.link.stampRef = some r) (i : Nat) (y : Content) : s.divertSucceeds i m y =
      (((((s.disarm i k).modifyChute k Chute.unfailed).landed y k (r + BitVec.ofNat 8 c.window) m.reason).setContent i
        .empty).settleCut k) := by
  subst hm
  have hw : s.windowOf m.chute = BitVec.ofNat 8 c.window := by
    unfold State.windowOf
    rw [hk]
  unfold State.divertSucceeds
  rw [hw, hr]
  cases y <;> rfl

/-! ## The failure (R103, R106) -/

theorem State.divertFails_eq (s : State) (i : Nat) (m : Mark) (y : Content) : s.divertFails i m y =
    (((s.disarm i m.chute).setContent i (if y = .empty then .unknown else y)).countFailure m.chute).settleCut m.chute := rfl

/-- What a cause other than NODE makes of a chute's state and of CHUTE_FAULT (R109). -/
theorem State.faultChute_failures {s : State} {k : Nat} {c : Chute} (hk : s.chute? k = some c) :
    (s.faultChute k .failures).chute? k = some { c with state := faulted c.state .failures } ∧
    (∀ j, j ≠ k → (s.faultChute k .failures).chute? j = s.chute? j) ∧
    (s.notices.sources.length = 15 → (∀ v, c.state ≠ .fault v) → k ∈ (s.faultChute k .failures).subjects .chuteFault) ∧
    (∀ w, w ≠ .chuteFault → (s.faultChute k .failures).subjects w = s.subjects w) ∧
    (s.faultChute k .failures).notices.sources.length = s.notices.sources.length := by
  rw [State.faultChute, hk]
  dsimp only
  by_cases hf : ∃ v, c.state = .fault v
  · obtain ⟨v, hv⟩ := hf
    have hsame : faulted c.state .failures = c.state := by rw [hv]; rfl
    rw [hsame]
    have hno : ¬c.state.faults .failures = true := by rw [hv]; exact Bool.false_ne_true
    rw [if_neg hno]
    refine ⟨hk, fun _ _ => rfl, fun _ h => absurd hv (h v), fun _ _ => rfl, rfl⟩
  · have hno : ∀ v, c.state ≠ .fault v := fun v h => hf ⟨v, h⟩
    have hyes : c.state.faults .failures = true ∧ faulted c.state .failures = .fault .failures := by
      cases hs : c.state with
      | fault v => exact absurd hs (hno v)
      | closed | opened | blocked => exact ⟨rfl, rfl⟩
    rw [if_pos hyes.1, hyes.2]
    refine ⟨?_, fun j hj => ?_, fun h15 _ => ?_, fun w hw => ?_, State.raise_sources ..⟩
    · rw [State.raise_chute?, State.modifyChute_same hk]
    · rw [State.raise_chute?, State.modifyChute_chute?, if_neg hj]
    · exact (State.mem_subjects_raise (s := s.modifyChute k _) h15 ..).2 (.inl rfl)
    · exact State.subjects_raise_other _ hw _

/-- A failure has been counted at a chute. -/
structure FailureCounted (s t : State) (k : Nat) (c : Chute) : Prop where
  changes : Changes [.chutes, .notices] s t
  others : ∀ j, j ≠ k → t.chute? j = s.chute? j
  subjects : ∀ w, w ≠ .chuteFault → t.subjects w = s.subjects w
  sources : t.notices.sources.length = s.notices.sources.length
  chute : ∃ n, t.chute? k = some { c with
      failures := n, state := if c.failures + 1 = s.limits.failure then faulted c.state .failures else c.state } ∧
    (c.failures + 1 ≤ s.limits.failure → n = c.failures + 1) ∧ (s.limits.failure ≤ c.failures → n = c.failures)
  faults : c.failures + 1 = s.limits.failure → (∀ v, c.state ≠ .fault v) → s.notices.sources.length = 15 →
    k ∈ t.subjects .chuteFault

theorem FailureCounted.countFailure {s : State} {k : Nat} {c : Chute} (hk : s.chute? k = some c) :
    FailureCounted s (s.countFailure k) k c := by
  have hch := (Keeps.countFailure s k).changes
  rw [State.countFailure, hk] at hch ⊢
  dsimp only at hch ⊢
  by_cases hle : s.limits.failure ≤ c.failures
  · rw [if_pos hle]
    have hne : ¬c.failures + 1 = s.limits.failure := by omega
    exact {
      changes := Changes.refl _ _
      others := fun _ _ => rfl
      subjects := fun _ _ => rfl
      sources := rfl
      chute := ⟨c.failures, by rw [if_neg hne]; exact hk, fun h => by omega, fun _ => rfl⟩
      faults := fun h => absurd h hne }
  · rw [if_neg hle] at hch ⊢
    set u := s.modifyChute k (fun c => { c with failures := c.failures + 1 }) with hu
    have huk : u.chute? k = some { c with failures := c.failures + 1 } := State.modifyChute_same hk _
    have huo : ∀ j, j ≠ k → u.chute? j = s.chute? j := fun j hj => (State.modifyChute_chute? ..).trans (if_neg hj)
    by_cases hlim : c.failures + 1 = s.limits.failure
    · rw [if_pos hlim] at hch ⊢
      obtain ⟨h1, h2, h3, h4, h5⟩ := State.faultChute_failures huk
      exact {
        changes := hch
        others := fun j hj => (h2 j hj).trans (huo j hj)
        subjects := h4
        sources := h5
        chute := ⟨c.failures + 1, by rw [if_pos hlim]; exact h1, fun _ => rfl, fun h => absurd h hle⟩
        faults := fun _ hno h15 => h3 h15 hno }
    · rw [if_neg hlim] at hch ⊢
      exact {
        changes := hch
        others := huo
        subjects := fun _ _ => rfl
        sources := rfl
        chute := ⟨c.failures + 1, by rw [if_neg hlim]; exact huk, fun _ => rfl, fun h => absurd h hle⟩
        faults := fun h => absurd h hlim }

/-- The completion of a cut leaves the state of a chute that is not OPEN. -/
theorem CutSettled.state {s t : State} {k : Nat} {c d : Chute} {st : ChuteState} (h : CutSettled s t k c d st)
    (hst : st ≠ .opened) : d.state = st := by
  obtain ⟨hactive, hidle⟩ := h
  cases hc : s.activeCart c with
  | none => exact (hidle hc).2.1
  | some y =>
    obtain ⟨n, x⟩ := y
    obtain ⟨-, hleft, hstays, -⟩ := hactive n x hc
    by_cases hdue : x.state = .closing ∧ d.reserved + d.landing.length + d.jams.length = 0
    · obtain ⟨p, hp, -⟩ := State.activeCart_eq hc
      obtain ⟨h1, h2⟩ := hleft hdue p hp
      by_cases hs : ∃ m z, c.position p.other = .cart m ∧ m ≠ n ∧ s.cart? m = some z ∧ z.state = .standby
      · obtain ⟨m, z, hz⟩ := hs
        exact (h1 m z hz).2.2
      · exact (h2 fun m z hz => hs ⟨m, z, hz⟩).2.1 hst
    · exact (hstays hdue).2

/-! ## The claims -/

theorem exec_check (f : FrameHead) (chute occupied : Byte) (s : State) :
    exec (.check f chute occupied) s = .next (s.receive f 0x05 [chute, occupied] fun t =>
      t.takeFrame f ⟨.chute, some chute.toNat, (bitOfByte occupied).isSome⟩ fun t => t.atStamp f.stamp (t.eyeOffset chute.toNat)
        fun c _ => t.check chute.toNat c ((bitOfByte occupied).getD false)) := rfl

theorem State.eyeOffset_of {s : State} {k : Nat} {c : Chute} (hk : s.chute? k = some c) : s.eyeOffset k = c.offset + 1 := by
  unfold State.eyeOffset
  rw [hk]

theorem checkUnresolved : Claim.CheckUnresolved := by
  intro f chute occupied x s ha hs ho
  have hv : (bitOfByte occupied).isSome = true := by rw [bitOfByte_of ho]; rfl
  obtain ⟨h1, h2, -⟩ := ha.here.stamped 0x05 [chute, occupied] (hs.passes hv) (fun t => t.eyeOffset chute.toNat)
    fun t c _ => t.check chute.toNat c ((bitOfByte occupied).getD false)
  exact ⟨fun h => congrArg Host.Outcome.next (h1 h), fun h => congrArg Host.Outcome.next (h2 h)⟩

/-- A resolved CHECK in the state after its sequence check. -/
theorem exec_check_resolved {f : FrameHead} {chute occupied : Byte} {x : Node} {c : Chute} {i : Nat} {d : Int} {s : State}
    (ha : Admitted s f x) (hs : Serves s x .chute chute.toNat) (hk : s.chute? chute.toNat = some c)
    (hr : ResolvesTo s f.stamp (c.offset + 1) i d) (ho : occupied.toNat ≤ 1) : exec (.check f chute occupied) s =
      .next ((s.afterCheck f x).check chute.toNat i (decide (occupied.toNat = 1))) := by
  have hv : (bitOfByte occupied).isSome = true := by rw [bitOfByte_of ho]; rfl
  obtain ⟨-, -, h3⟩ := ha.here.stamped 0x05 [chute, occupied] (hs.passes hv) (fun t => t.eyeOffset chute.toNat)
    fun t c _ => t.check chute.toNat c ((bitOfByte occupied).getD false)
  have hoff : (s.afterCheck f x).eyeOffset chute.toNat = c.offset + 1 :=
    State.eyeOffset_of ((State.afterCheck_chute? ..).trans hk)
  have hx := h3 i d (by rw [hoff]; exact hr)
  rw [bitOfByte_of ho] at hx
  rw [exec_check, bitOfByte_of ho]
  exact congrArg Host.Outcome.next hx

theorem checkResolved : Claim.CheckResolved := by
  intro f chute occupied r x c i d e s ha hs hk hr hres hi ho s1
  have hexec := exec_check_resolved ha hs hk hres ho
  have hi1 : s1.carrier? i = some e := (State.afterCheck_carrier? ..).trans hi
  have hk1 : s1.chute? chute.toNat = some c := (State.afterCheck_chute? ..).trans hk
  have hr1 : s1.link.stampRef = some r := ha.here.stampRef.trans hr
  have hstore : s1.store = s.store := State.afterCheck_store ..
  refine ⟨fun h => hexec.trans (by rw [State.check_ignored hi1 h]), fun m hm hmk => ⟨fun h0 => ?_, fun h1 => ?_⟩⟩
  · have ht : exec (.check f chute occupied) s = .next (s1.divertSucceeds i m e.content) :=
      hexec.trans (by rw [State.check_armed hi1 hm hmk, h0]; rfl)
    rw [State.divertSucceeds_eq hk1 hmk hr1] at ht
    set u := (s1.disarm i chute.toNat).modifyChute chute.toNat Chute.unfailed with hu
    have huk : u.chute? chute.toNat = some (Chute.unfailed { c with reserved := c.reserved - 1 }) := by
      refine State.modifyChute_same ?_ _
      rw [State.disarm_chute?, if_pos rfl, hk1]
      rfl
    have huch : Changes [.loop, .chutes] s1 u :=
      ((Keeps.disarm s1 i chute.toNat).comp (Keeps.modifyChute _ chute.toNat Chute.unfailed) (by decide) (by decide)).changes
    obtain ⟨hch, hcarrier, hothers, ⟨q, hq, hqc, hcut⟩, hbag, hnone⟩ :=
      DivertEnded.of huk i e.content .empty (r + BitVec.ofNat 8 c.window) m.reason
    refine ⟨_, q, ht, huch.comp hch (by decide) (by decide), ?_, fun j hj => ?_, fun j hj => ?_, hq, by rw [hqc]; rfl,
      by rw [hqc]; rfl, by rw [hqc]; rfl, CutSettled.before (u := u) rfl rfl rfl rfl (Chute.position_congr rfl rfl) hcut,
      fun g b hy hb => ?_, fun hy => ⟨?_, hnone hy⟩⟩
    · rw [hcarrier, if_pos rfl]
      change ((s1.disarm i chute.toNat).carrier? i).map _ = _
      rw [State.disarm_carrier?, if_pos rfl, hi1]
      rfl
    · rw [hcarrier, if_neg hj]
      change (s1.disarm i chute.toNat).carrier? j = _
      rw [State.disarm_carrier?, if_neg hj, State.afterCheck_carrier?]
    · rw [hothers j hj, hu, State.modifyChute_chute?, if_neg hj, State.disarm_chute?, if_neg hj, State.afterCheck_chute?]
    · obtain ⟨h1, h2, h3⟩ := hbag g b hy ((State.afterCheck_bag? s f x g).trans hb)
      refine ⟨?_, fun j hj => (h2 j hj).trans (congrArg (fun t : Store => t.bags.get? j) hstore), h1,
        fun hst => (h3 hst).before hstore⟩
      rw [hqc, hy]
      rfl
    · rw [hqc]
      cases hc : e.content with
      | loaded g => exact absurd hc (hy g)
      | empty => exact List.append_nil _
      | unknown => exact List.append_nil _
  · have ht : exec (.check f chute occupied) s = .next (s1.divertFails i m e.content) :=
      hexec.trans (by rw [State.check_armed hi1 hm hmk, h1]; rfl)
    rw [State.divertFails_eq, hmk] at ht
    set u := (s1.disarm i chute.toNat).setContent i (if e.content = .empty then .unknown else e.content) with hu
    have huk : u.chute? chute.toNat = some { c with reserved := c.reserved - 1 } := by
      change (s1.disarm i chute.toNat).chute? chute.toNat = _
      rw [State.disarm_chute?, if_pos rfl, hk1]
      rfl
    have huch : Changes [.loop, .chutes] s1 u :=
      ((Keeps.disarm s1 i chute.toNat).comp (Keeps.setContent _ i _) (by decide) (by decide)).changes
    have hlim : u.limits = s.limits := State.afterCheck_limits ..
    have hsrc : u.notices.sources.length = s.notices.sources.length := State.afterCheck_sources ..
    obtain ⟨vch, vothers, vsub, vsrc, ⟨n, vk, hn1, hn2⟩, vfaults⟩ := FailureCounted.countFailure huk
    rw [hlim] at vk hn1 hn2 vfaults
    obtain ⟨q, hq, hqc, hothers, hcut⟩ := CutSettled.settleCut vk
    have hkeep := (Keeps.settleCut (u.countFailure chute.toNat) chute.toNat).changes
    have hloop : ((u.countFailure chute.toNat).settleCut chute.toNat).loop = u.loop :=
      (hkeep .loop (by decide)).trans (vch .loop (by decide))
    have hcarrier : ∀ j, ((u.countFailure chute.toNat).settleCut chute.toNat).carrier? j = u.carrier? j := fun j => by
      rw [State.carrier?, hloop]
      rfl
    have hqf : q.failures = n := by rw [hqc]
    have hcarts : (u.countFailure chute.toNat).carts = s1.carts := (vch .carts (by decide)).trans (huch .carts (by decide))
    have hsub : (u.countFailure chute.toNat).subjects .chuteBlocked = s1.subjects .chuteBlocked :=
      (vsub _ (by decide)).trans (State.subjects_congr (huch .notices (by decide)) _)
    have hsrc1 : (u.countFailure chute.toNat).notices.sources.length = s1.notices.sources.length :=
      vsrc.trans (congrArg (fun u : NoticeUnit => u.sources.length) (huch .notices (by decide)))
    have hsettled := CutSettled.before (c := c) hcarts hsub hsrc1 (by exact rfl) (Chute.position_congr rfl rfl) hcut
    refine ⟨_, q, ht, huch.comp (n := [.loop, .chutes, .carts, .notices]) (vch.comp (n := [.chutes, .carts, .notices]) hkeep (by decide) (by decide)) (by decide) (by decide), ?_, fun j hj => ?_, fun j hj => ?_, hq,
      by rw [hqc], by rw [hqc], hsettled, fun hl hno h15 => ?_, fun hl => hqf.trans (hn1 (Nat.le_of_lt hl)), fun hl => ?_,
      fun hl => hqf.trans (hn2 hl)⟩
    · rw [hcarrier, hu, State.setContent_carrier?, if_pos rfl, State.disarm_carrier?, if_pos rfl, hi1]
      rfl
    · rw [hcarrier, hu, State.setContent_carrier?, if_neg hj, State.disarm_carrier?, if_neg hj, State.afterCheck_carrier?]
    · rw [hothers j hj, vothers j hj]
      change (s1.disarm i chute.toNat).chute? j = _
      rw [State.disarm_chute?, if_neg hj, State.afterCheck_chute?]
    · rw [State.settleCut_subjects_other _ _ (by decide)]
      exact vfaults hl hno (hsrc.trans h15)
    · refine ⟨hqf.trans ((hn1 (Nat.le_of_eq hl)).trans hl), ?_⟩
      rw [if_pos hl] at hsettled
      have hstate : ∃ w, faulted c.state .failures = .fault w ∧ ((∀ v, c.state ≠ .fault v) → w = .failures) := by
        cases hs : c.state with
        | fault v => exact ⟨v, rfl, fun h => absurd rfl (h v)⟩
        | closed | opened | blocked => exact ⟨.failures, rfl, fun _ => rfl⟩
      obtain ⟨w, hw, hwv⟩ := hstate
      exact ⟨w, (hsettled.state (by rw [hw]; exact ChuteState.noConfusion)).trans hw, hwv⟩

/-- Settles O48: a CHECK by the mark of its carrier, and by its stamp. -/
theorem checkEndsDivert : Obligations.CheckEndsDivert := ⟨checkResolved, checkUnresolved⟩

end Sys2Proof.Machine
end

section
/-! LAND in every case (R31, R109, R117 to R121, R155, R157). -/

namespace Sys2Proof.Machine

/-! ## The entry that a LAND takes (R120) -/

theorem Chute.oldest_eq {c : Chute} {g : Handle}
    (h : (∃ e l, c.landing = e :: l ∧ e.bag = g) ∨ c.landing = [] ∧ c.jams.head? = some g) : c.oldest = some g := by
  unfold Chute.oldest
  rcases h with ⟨e, l, hl, rfl⟩ | ⟨hl, hj⟩
  · rw [hl]
  · rw [hl, hj]

theorem Chute.dropOldest_eq (c : Chute) :
    c.dropOldest = { c with landing := c.landing.tail, jams := if c.landing = [] then c.jams.tail else c.jams } := by
  unfold Chute.dropOldest
  split
  · next e l hl => rw [hl, if_neg (List.cons_ne_nil e l), List.tail_cons]
  · next hl =>
    have htail : c.landing.tail = c.landing := by rw [hl, List.tail_nil]
    rw [htail, if_pos hl]

theorem Chute.SameCarts.dropOldest (c : Chute) : Chute.SameCarts c c.dropOldest := by
  rw [Chute.dropOldest_eq]
  exact ⟨rfl, fun p => by cases p <;> rfl, rfl⟩

section
variable {s : State} {k : Nat} {c : Chute} (hk : s.chute? k = some c)
include hk

theorem State.takeLanding_stray {g : Handle} (ho : c.oldest = some g) (hkind : c.kind = .stray) : s.takeLanding k =
    ((s.modifyChute k Chute.dropOldest).intake g s.lowestPosition).settles k := by
  rw [State.takeLanding, hk]
  dsimp only
  rw [ho]
  dsimp only
  rw [State.landBag, hkind]
  rfl

theorem State.takeLanding_deck {g : Handle} (ho : c.oldest = some g) (hkind : c.kind = .deck) {n : Nat} {y : Cart}
    (hc : s.activeCart c = some (n, y)) : s.takeLanding k =
      ((s.modifyChute k Chute.dropOldest).landInCart g n).settles k := by
  have hc' : (s.modifyChute k Chute.dropOldest).activeCart c = some (n, y) := hc
  rw [State.takeLanding, hk]
  dsimp only
  rw [ho]
  dsimp only
  rw [State.landBag, hkind]
  dsimp only
  rw [hc']
  rfl

theorem State.takeLanding_unidentified (ho : c.oldest = none) (hkind : c.kind = .deck) :
    s.takeLanding k = (s.landUnidentified k c).settles k := by
  rw [State.takeLanding, hk]
  dsimp only
  rw [ho]
  dsimp only
  rw [hkind]
  rfl

theorem State.takeLanding_anonymous (ho : c.oldest = none) (hkind : c.kind = .stray) :
    s.takeLanding k = (s.landAnonymous k).settles k := by
  rw [State.takeLanding, hk]
  dsimp only
  rw [ho]
  dsimp only
  rw [hkind]
  rfl

end

theorem exec_land {f : FrameHead} {chute : Byte} {x : Node} {s : State} (ha : Admitted s f x)
    (hs : Serves s x .chute chute.toNat) :
    exec (.land f chute) s = .next ((s.afterCheck f x).takeLanding chute.toNat) :=
  congrArg Host.Outcome.next ((ha.here.receive 0x06 [chute] ⟨.chute, some chute.toNat, true⟩
    fun t => t.takeLanding chute.toNat).trans (if_pos (hs.passes rfl)))

/-! ## The oldest entry lands (R120, R121, R155) -/

theorem BagTableLaw.ofStore {s t : State} (h : t.store = s.store) (hl : BagTableLaw s) : BagTableLaw t := by
  unfold BagTableLaw
  rw [h]
  exact hl

theorem State.afterCheck_alike (s : State) (f : FrameHead) (x : Node) : Store.Alike s.store (s.afterCheck f x).store := by
  rw [State.afterCheck_store]
  exact Store.Alike.same rfl

theorem State.afterCheck_activeCart (s : State) (f : FrameHead) (x : Node) (c : Chute) :
    (s.afterCheck f x).activeCart c = s.activeCart c := by
  unfold State.activeCart
  simp only [State.afterCheck_cart?]

theorem landFillsCart : Claim.LandFillsCart := by
  intro f chute x c n y g b s ha hs hk hkind hc hentry hb s1
  have hk1 : s1.chute? chute.toNat = some c := (State.afterCheck_chute? ..).trans hk
  have hc1 : s1.activeCart c = some (n, y) := (State.afterCheck_activeCart ..).trans hc
  have hb1 : s1.bag? g = some b := (State.afterCheck_bag? ..).trans hb
  have hstore : s1.store = s.store := State.afterCheck_store ..
  have ht := exec_land ha hs
  rw [State.takeLanding_deck hk1 (Chute.oldest_eq hentry) hkind hc1] at ht
  obtain ⟨q, hq, hqc, hqo, hqn, hswap⟩ := State.landInCart_settles (g := g) hk1 (Chute.SameCarts.dropOldest c) hc1
  obtain ⟨hch, hbag, hothers, hcounted, hsubjects⟩ :=
    State.landInCart_records (k := chute.toNat) (n := n) (f := Chute.dropOldest) hb1
  have hpull : demanded s1 b = demanded s b := demanded_congr (State.afterCheck_alike s f x) rfl rfl
  refine ⟨_, q, _, _, ht, hch.mono (by decide), hq, ?_, fun j hj => (hqo j hj).trans (State.afterCheck_chute? ..), hbag, rfl, rfl,
    rfl, rfl, fun i hi => (hothers i hi).trans (congrArg (fun t : Store => t.bags.get? i) hstore), fun v hv => ?_, fun hv => ?_,
    fun hst => ?_, hqn, rfl, rfl, hswap, hsubjects⟩
  · rw [Chute.dropOldest_eq] at hqc
    exact hqc
  · change demanded s1 b = _
    rw [hpull, demanded, hv]
  · change demanded s1 b = _
    rw [hpull, demanded, hv]
  · refine (hcounted id (Counters.move_hall ?_ rfl)).before hstore
    rcases hst with hst | hst <;> rw [hst] <;> rfl

theorem landEntersPen : Claim.LandEntersPen := by
  intro f chute x c g b s ha hs hk hkind hactive hentry hb hst s1
  have hk1 : s1.chute? chute.toNat = some c := (State.afterCheck_chute? ..).trans hk
  have hb1 : s1.bag? g = some b := (State.afterCheck_bag? ..).trans hb
  have hstore : s1.store = s.store := State.afterCheck_store ..
  have hpen : s1.pen = s.pen := State.afterCheck_pen ..
  have hpos : s1.lowestPosition = s.lowestPosition := by rw [State.lowestPosition, hpen]; rfl
  have hnow : s1.hallSecond = s.hallSecond := State.afterCheck_hallSecond ..
  have hne : b.state ≠ .stray ∧ b.state ≠ .onLoop := by rcases hst with h | h <;> rw [h] <;> decide
  have ht := exec_land ha hs
  rw [State.takeLanding_stray hk1 (Chute.oldest_eq hentry) hkind, hpos] at ht
  set v := (s1.modifyChute chute.toNat Chute.dropOldest).intake g s.lowestPosition with hv
  have hkeep : Changes [.store, .chutes, .pen, .link, .loop, .notices] s1 v :=
    ((Keeps.modifyChute s1 chute.toNat Chute.dropOldest).comp (Keeps.intake _ g s.lowestPosition) (by decide) (by decide)).changes
  have hvk : v.chute? chute.toNat = some c.dropOldest := by
    have hch : v.chutes = _ := (Keeps.intake _ g s.lowestPosition).changes .chutes (by decide)
    rw [State.chute?, hch]
    exact State.modifyChute_same hk1 _
  have hidle : v.activeCart c.dropOldest = none :=
    State.activeCart_none ((Chute.SameCarts.dropOldest c).active.trans hactive)
  rw [State.settles_idle hvk hidle] at ht
  obtain ⟨hbag, hothers, hcounted, hposition, hstrays, hloop, hholds⟩ :=
    (Pens.intake (s := s1.modifyChute chute.toNat Chute.dropOldest) hb1 hne.1 s.lowestPosition).before
  refine ⟨v, ht, hkeep, by rw [hvk, Chute.dropOldest_eq], ?_, fun i hi => (hothers i hi).trans
    (congrArg (fun t : Store => t.bags.get? i) hstore), (hcounted _ (Counters.move_pen hst)).before hstore, hposition,
    by rw [hstrays, hpen], hloop, fun hl => hholds (BagTableLaw.ofStore hstore hl)⟩
  rw [hbag, Bag.penned_hall hne.2, hnow]

/-! ## An item that no record matches (R117, R120, R121) -/

theorem State.withBag_sources (s : State) (b : Bag) : (s.withBag b).notices.sources.length = s.notices.sources.length := by
  unfold State.withBag
  split
  · rw [State.putCauseAll_notices]
    exact State.raise_sources ..
  · rfl

theorem State.withBag_pen (s : State) (b : Bag) : (s.withBag b).pen = s.pen := by
  unfold State.withBag
  split
  · exact State.putCauseAll_pen ..
  · rfl

/-- The reservations of a chute without entries are lost: no record changes. -/
theorem State.loseClaims_empty {s : State} {k : Nat} {c : Chute} (hk : s.chute? k = some c) (hl : c.landing = [])
    (hj : c.jams = []) : Changes [.loop, .chutes, .notices] s (s.loseClaims k) := by
  have he : s.loseClaims k =
      ((s.modifyChute k (fun c => { c with landing := [], jams := [] })).disarmChute k).faultChute k .cartLost := by
    rw [State.loseClaims, hk]
    dsimp only
    rw [hl, hj]
    rfl
  rw [he]
  exact (((Keeps.modifyChute s k _).comp (n := [.loop, .chutes]) (Keeps.disarmChute _ k) (by decide) (by decide)).comp
    (Keeps.faultChute _ k .cartLost) (by decide) (by decide)).changes

section
variable {s : State} {k n : Nat} {c : Chute} {y : Cart} (hk : s.chute? k = some c) (hc : s.activeCart c = some (n, y))
include hc

theorem State.landUnidentified_lost (h : y.freePlaces ≤ c.claims) : s.landUnidentified k c =
    (s.loseClaims k).modifyCart n (fun x => { x with unidentified := x.unidentified + 1 }) := by
  rw [State.landUnidentified, hc]
  dsimp only
  rw [if_pos h]

theorem State.landUnidentified_kept (h : ¬y.freePlaces ≤ c.claims) : s.landUnidentified k c =
    s.modifyCart n (fun x => { x with unidentified := x.unidentified + 1 }) := by
  rw [State.landUnidentified, hc]
  dsimp only
  rw [if_neg h]

end

/-- An item is counted in the active cart, after a change that leaves the carts, and the chute's carts are settled. -/
theorem SwapsIf.counts {s u : State} {k n : Nat} {c e : Chute} {y : Cart} (hc : s.activeCart c = some (n, y))
    (hu : u.chute? k = some e) (hcarts : u.carts = s.carts) (ha : e.active = c.active) (hp : ∀ p, e.position p = c.position p)
    (hsub : u.subjects .chuteBlocked = s.subjects .chuteBlocked)
    (hsrc : u.notices.sources.length = s.notices.sources.length) (hl : e.landing = []) (hj : e.jams = []) :
    let t := (u.modifyCart n (fun x => { x with unidentified := x.unidentified + 1 })).settles k
    Changes [.chutes, .carts, .notices] u t ∧
    ∃ q, t.chute? k = some q ∧ q = { e with active := q.active, state := q.state } ∧
      (∀ j, j ≠ k → t.chute? j = u.chute? j) ∧
      t.cart? n = some { y with
        unidentified := y.unidentified + 1
        state := if y.capacity ≤ y.entries.length + (y.unidentified + 1) then .full
          else if y.state = .closing ∧ q.reserved = 0 then .cut else y.state } ∧
      SwapsIf (y.capacity ≤ y.entries.length + (y.unidentified + 1) ∨ y.state = .closing ∧ q.reserved = 0)
        s t k n c q e.state ∧ ∀ w, w ≠ .chuteBlocked → t.subjects w = u.subjects w := by
  intro t
  have hcart : ∀ m, u.cart? m = s.cart? m := fun m => by rw [State.cart?, hcarts]; rfl
  obtain ⟨p, hcp, hpos, hy⟩ := State.activeCart_eq hc
  have hn := State.modifyCart_same ((hcart n).trans hy) (fun x => { x with unidentified := x.unidentified + 1 })
  obtain ⟨q, hq, hqe, hqo, hqn, hswap⟩ := SwapsIf.settle
    (s := u.modifyCart n (fun x => { x with unidentified := x.unidentified + 1 })) hu
    (State.activeCart_of (ha.trans hcp) ((hp p).trans hpos) hn)
  have hclaims : q.reserved + q.landing.length + q.jams.length = q.reserved := by
    rw [hqe]
    change e.reserved + e.landing.length + e.jams.length = e.reserved
    rw [hl, hj]
    rfl
  rw [hclaims] at hqn hswap
  exact ⟨((Keeps.modifyCart u n _).comp (Keeps.settles _ k) (by decide) (by decide)).changes, q, hq, hqe, hqo, hqn,
    SwapsIf.before (u := u.modifyCart n (fun x => { x with unidentified := x.unidentified + 1 }))
      (fun m hm => (State.modifyCart_other u hm _).trans (hcart m)) hsub hsrc ha hp hswap,
    fun w hw => State.settles_subjects_other _ k hw⟩

/-- A chute without an active cart goes to FAULT with CART_LOST, and nothing settles. -/
theorem State.faultChute_idle {s : State} {k : Nat} {c : Chute} (hk : s.chute? k = some c) (ha : c.active = none) :
    (s.faultChute k .cartLost).settles k = s.faultChute k .cartLost :=
  State.settles_idle (State.faultChute_cartLost hk).1 (State.activeCart_none ha)

section
variable {s : State} {k : Nat}

theorem State.landAnonymous_lost (h : s.freePen ≤ s.strayClaims ∨ bagRecords ≤ s.store.bags.length) :
    s.landAnonymous k = s.faultChute k .cartLost := by
  unfold State.landAnonymous
  by_cases hroom : s.strayClaims < s.freePen
  · rw [if_pos hroom, State.createBag_eq, if_neg (Nat.not_lt.2 (h.resolve_left (Nat.not_le.2 hroom)))]
  · rw [if_neg hroom]

/-- The record of an item that lands in the pen unread. -/
def State.unreadBag (s : State) : Bag :=
  { Bag.blank .stray (some (.pen s.lowestPosition)) with reason := some .noRead, entered := some s.hallSecond }

theorem State.landAnonymous_pens (h : s.strayClaims < s.freePen) (hroom : s.store.bags.length < bagRecords) :
    s.landAnonymous k = (s.withBag s.unreadBag).occupy s.store.newHandle s.lowestPosition := by
  unfold State.landAnonymous
  rw [if_pos h, State.createBag_eq, if_pos hroom]
  rfl

end

theorem unidentifiedLands : Claim.UnidentifiedLands := by
  intro f chute x c s ha hs hk hland hjams s1 told lost
  have hk1 : s1.chute? chute.toNat = some c := (State.afterCheck_chute? ..).trans hk
  have hstore : s1.store = s.store := State.afterCheck_store ..
  have hpen : s1.pen = s.pen := State.afterCheck_pen ..
  have hpos : s1.lowestPosition = s.lowestPosition := by rw [State.lowestPosition, hpen]; rfl
  have hsrc : s1.notices.sources.length = s.notices.sources.length := State.afterCheck_sources ..
  have hnow : s1.hallSecond = s.hallSecond := State.afterCheck_hallSecond ..
  have hroom : s1.freePen = s.freePen := by rw [State.freePen, hpen]; rfl
  have hclaims : s1.strayClaims = s.strayClaims := by
    rw [State.strayClaims, State.afterCheck_changes s f x .chutes (by decide)]
    rfl
  have hold : c.oldest = none := by rw [Chute.oldest, hland, hjams]; rfl
  have ht := exec_land ha hs
  have hfault : ∀ t, t = s1.faultChute chute.toNat .cartLost → lost t := fun t he => by
    subst he
    obtain ⟨h1, h2, h3, -, -⟩ := State.faultChute_cartLost hk1
    exact ⟨(Keeps.faultChute ..).changes, fun hno h15 => (h3 (hsrc.trans h15) _).2 (.inr ⟨rfl, hno⟩), h1,
      fun j hj => (h2 j hj).trans (State.afterCheck_chute? ..)⟩
  refine ⟨fun n y hkind hc => ?_, fun hkind hactive => ?_, fun hkind hactive hfull => ?_, fun hkind hactive hfree hrecords => ?_⟩
  · have hc1 : s1.activeCart c = some (n, y) := (State.afterCheck_activeCart ..).trans hc
    have hres : c.claims = c.reserved := by rw [Chute.claims, hland, hjams]; rfl
    rw [State.takeLanding_unidentified hk1 hold hkind] at ht
    by_cases hfew : y.freePlaces ≤ c.reserved
    · rw [State.landUnidentified_lost hc1 (by rw [hres]; exact hfew)] at ht
      obtain ⟨-, ⟨hloop, hcarrier, -⟩, hu, huo, hutold, hus, husrc⟩ := ClaimsLost.loseClaims hk1
      have hch := State.loseClaims_empty hk1 hland hjams
      obtain ⟨hkeep, q, hq, hqe, hqo, hqn, hswap, hsubjects⟩ := SwapsIf.counts hc1 hu (hch .carts (by decide)) rfl
        (Chute.position_congr rfl rfl) (hus _ (by decide)) husrc rfl rfl
      have htloop : ((((s1.loseClaims chute.toNat).modifyCart n (fun x => { x with unidentified := x.unidentified + 1 })).settles
          chute.toNat)).loop = (s1.loseClaims chute.toNat).loop := hkeep .loop (by decide)
      refine ⟨_, q, ht, hch.comp hkeep (by decide) (by decide), hq, ?_, ?_, fun j hj => ?_, hqn, ?_, fun h => ?_, fun _ => ⟨fun hno h15 => ?_, ?_, fun i => ?_⟩⟩
      · rw [hqe, hland, hjams]
      · rw [if_pos hfew, hqe]
      · exact (hqo j hj).trans ((huo j hj).trans (State.afterCheck_chute? ..))
      · rw [if_pos hfew]
        exact hswap
      · exact absurd hfew (Nat.not_le.2 h)
      · rw [hsubjects _ (by decide)]
        exact (hutold (hsrc.trans h15) _).2 (.inr ⟨rfl, hno⟩)
      · rw [htloop]
        exact hloop
      · rw [State.carrier?, htloop]
        exact (hcarrier i).trans (by rw [State.afterCheck_carrier?])
    · rw [State.landUnidentified_kept hc1 (by rw [hres]; exact hfew)] at ht
      obtain ⟨hkeep, q, hq, hqe, hqo, hqn, hswap, hsubjects⟩ := SwapsIf.counts hc1 hk1 rfl rfl (fun _ => rfl) rfl rfl hland hjams
      refine ⟨_, q, ht, hkeep.mono (by decide), hq, ?_, ?_, fun j hj => (hqo j hj).trans (State.afterCheck_chute? ..), hqn, ?_,
        fun _ => ⟨hkeep .loop (by decide), hsubjects⟩, fun h => absurd h hfew⟩
      · rw [hqe]
      · rw [if_neg hfew, hqe]
      · rw [if_neg hfew]
        exact hswap
  · have hidle : s1.landUnidentified chute.toNat c = s1.faultChute chute.toNat .cartLost := by
      rw [State.landUnidentified, State.activeCart_none hactive]
    rw [State.takeLanding_unidentified hk1 hold hkind, hidle, State.faultChute_idle hk1 hactive] at ht
    exact ⟨_, ht, hfault _ rfl⟩
  · rw [State.takeLanding_anonymous hk1 hold hkind, State.landAnonymous_lost (by rw [hroom, hclaims, hstore]; exact hfull),
      State.faultChute_idle hk1 hactive] at ht
    exact ⟨_, ht, hfault _ rfl⟩
  · have hrec1 : s1.store.bags.length < bagRecords := by rw [hstore]; exact hrecords
    rw [State.takeLanding_anonymous hk1 hold hkind, State.landAnonymous_pens (by rw [hroom, hclaims]; exact hfree) hrec1, hpos] at ht
    have hmake := (Keeps.createBag (s := s1) (b := s1.unreadBag) (h := s1.store.newHandle) (t := s1.withBag s1.unreadBag)
      (by rw [State.createBag_eq, if_pos hrec1])).changes
    have hocc := (Keeps.occupy (s1.withBag s1.unreadBag) s1.store.newHandle s.lowestPosition).changes
    set v := (s1.withBag s1.unreadBag).occupy s1.store.newHandle s.lowestPosition with hv
    have hkeep : Changes [.store, .pen, .link, .loop, .notices] s1 v := hmake.comp hocc (by decide) (by decide)
    have hvk : v.chute? chute.toNat = some c := by rw [State.chute?, hkeep .chutes (by decide)]; exact hk1
    have hvstore : v.store = (s1.withBag s1.unreadBag).store := hocc .store (by decide)
    rw [State.settles_idle hvk (State.activeCart_none hactive)] at ht
    obtain ⟨hbag, -⟩ := Created.withBag s1 s1.unreadBag hrec1
    refine ⟨v, s1.store.newHandle, ht, hkeep, ?_, ?_, ?_, ?_, fun hl => ?_⟩
    · rw [State.bag?, hvstore]
      refine hbag.trans ?_
      rw [State.unreadBag, hpos, hnow]
      rfl
    · rw [hv, State.occupy_pen]
      exact Table.get?_put_same ..
    · rw [hv, State.occupy_pen, State.withBag_pen, hpen]
    · rw [hv, State.occupy_loop, State.withBag_loop]
    · have hl1 := BagTableLaw.ofStore hstore hl
      refine HoldsFollow.thenPen (HoldsFollow.createBag (b := s1.unreadBag) (h := s1.store.newHandle)
        (by rw [State.createBag_eq, if_pos hrec1])) (HoldsFollow.occupy ..) ?_ (State.withBag_sources ..)
      rw [tableLow, tableLow, hvstore]

/-- Settles O49: a LAND by the oldest entry, and without one by the chute's kind. -/
theorem landingsTaken : Obligations.LandingsTaken := ⟨landFillsCart, landEntersPen, unidentifiedLands, lowestPosition⟩

end Sys2Proof.Machine
end

section
/-! CART PRESENT and CART REMOVED (R114 to R117, R127, R133). -/

namespace Sys2Proof.Machine

/-! ## Positions -/

theorem PosName.ofByte_of {b : Byte} {p : PosName} (h : b.toNat = 0 ∧ p = .x ∨ b.toNat = 1 ∧ p = .y) :
    PosName.ofByte b = some p := by
  unfold PosName.ofByte
  rw [bitOfByte_of (by omega)]
  rcases h with ⟨hb, rfl⟩ | ⟨hb, rfl⟩ <;> rw [hb] <;> rfl

theorem Chute.putPosition_same (c : Chute) (p : PosName) (v : Position) : (c.putPosition p v).position p = v := by
  cases p <;> rfl

theorem Chute.putPosition_other (c : Chute) (p : PosName) (v : Position) :
    (c.putPosition p v).position p.other = c.position p.other := by
  cases p <;> rfl

theorem Chute.putPosition_active (c : Chute) (p : PosName) (v : Position) : (c.putPosition p v).active = c.active := by
  cases p <;> rfl

theorem Chute.putPosition_rest (c : Chute) (p : PosName) (v : Position) : c.putPosition p v =
    { c with posX := (c.putPosition p v).posX, posY := (c.putPosition p v).posY } := by
  cases p <;> rfl

/-! ## The next free serial (R114) -/

theorem nextSerialAfter_iterate {n : Nat} (h1 : 1 ≤ n) (h2 : n ≤ 65535) (i : Nat) :
    nextSerialAfter^[i] n = (n - 1 + i) % 65535 + 1 := by
  induction i with
  | zero =>
    change n = _
    rw [Nat.add_zero, Nat.mod_eq_of_lt (by omega)]
    omega
  | succ i ih =>
    rw [Function.iterate_succ_apply', ih, nextSerialAfter]
    split <;> omega

/-- The serial found is so many after the first, every one before it is of a live cart, and it is not while some were left to try. -/
theorem freeSerialFrom_spec (carts : Table Cart) (fuel n : Nat) : ∃ i, freeSerialFrom carts n fuel = nextSerialAfter^[i] n ∧
    i ≤ fuel ∧ (∀ j, j < i → carts.has (nextSerialAfter^[j] n) = true) ∧
    (i < fuel → carts.has (nextSerialAfter^[i] n) = false) := by
  induction fuel generalizing n with
  | zero => exact ⟨0, rfl, Nat.le_refl _, fun j hj => absurd hj (Nat.not_lt_zero j), fun h => absurd h (Nat.lt_irrefl 0)⟩
  | succ fuel ih =>
    rw [freeSerialFrom]
    by_cases hn : carts.has n = true
    · rw [if_pos hn]
      obtain ⟨i, hi, hle, hall, hfree⟩ := ih (nextSerialAfter n)
      refine ⟨i + 1, hi, Nat.succ_le_succ hle, fun j hj => ?_, fun h => hfree (Nat.lt_of_succ_lt_succ h)⟩
      cases j with
      | zero => exact hn
      | succ j => exact hall j (Nat.lt_of_succ_lt_succ hj)
    · rw [if_neg hn]
      exact ⟨0, rfl, Nat.zero_le _, fun j hj => absurd hj (Nat.not_lt_zero j), fun _ => Bool.eq_false_iff.2 hn⟩

/-- Of as many different serials as a table has records, or more, one is of no record. -/
theorem Table.not_all_has {α : Type} {t : Table α} {l : List Nat} (hl : l.Nodup) (hlen : List.length t < l.length) :
    ¬∀ n ∈ l, t.has n = true := by
  intro hall
  have hsub : l ⊆ t.map (·.1) := fun n hn => by
    obtain ⟨v, hv⟩ := Option.isSome_iff_exists.1 (hall n hn)
    exact List.mem_map.2 ⟨(n, v), Table.mem_of_get? hv, rfl⟩
  have hle := (List.subperm_of_subset hl hsub).length_le
  rw [List.length_map] at hle
  exact absurd hlen (Nat.not_lt.2 hle)

section
variable {s : State} (hroom : s.carts.length < cartRecords) (h1 : 1 ≤ s.nextSerial) (h2 : s.nextSerial ≤ 65535)
include hroom h1 h2

theorem State.newSerial_free : s.cart? s.newSerial = none ∧ 1 ≤ s.newSerial ∧ s.newSerial ≤ 65535 := by
  obtain ⟨i, hi, hle, hall, hfree⟩ := freeSerialFrom_spec s.carts cartRecords s.nextSerial
  have hlt : i < cartRecords := by
    refine Nat.lt_of_le_of_ne hle fun he => ?_
    refine Table.not_all_has (t := s.carts) (l := (List.range cartRecords).map fun j => nextSerialAfter^[j] s.nextSerial) ?_ ?_ ?_
    · refine List.Nodup.map_on (fun a ha b hb hab => ?_) List.nodup_range
      have ha' : a < 256 := List.mem_range.1 ha
      have hb' : b < 256 := List.mem_range.1 hb
      rw [nextSerialAfter_iterate h1 h2, nextSerialAfter_iterate h1 h2] at hab
      omega
    · rw [List.length_map, List.length_range]
      exact hroom
    · intro n hn
      obtain ⟨j, hj, rfl⟩ := List.mem_map.1 hn
      exact hall j (by rw [he]; exact List.mem_range.1 hj)
  have hn : s.newSerial = nextSerialAfter^[i] s.nextSerial := hi
  have hnone := hfree hlt
  rw [← hn] at hnone
  refine ⟨Option.not_isSome_iff_eq_none.1 (Bool.eq_false_iff.1 hnone), ?_⟩
  rw [hn, nextSerialAfter_iterate h1 h2]
  omega

end

theorem State.newSerial_next {s : State} (h : s.cart? s.nextSerial = none) : s.newSerial = s.nextSerial := by
  have hn : ¬s.carts.has s.nextSerial = true := by
    rw [Table.has]
    change ¬(s.cart? s.nextSerial).isSome = true
    rw [h]
    exact Bool.false_ne_true
  exact if_neg hn

/-! ## CART PRESENT (R115) -/

theorem exec_cartPresent {f : FrameHead} {chute position : Byte} {p : PosName} {x : Node} {s : State} (ha : Admitted s f x)
    (hs : Serves s x .chute chute.toNat) (hp : position.toNat = 0 ∧ p = .x ∨ position.toNat = 1 ∧ p = .y) :
    exec (.cartPresent f chute position) s = .next ((s.afterCheck f x).cartPresent chute.toNat p) := by
  have hv : (PosName.ofByte position).isSome = true := by rw [PosName.ofByte_of hp]; rfl
  have hx := (ha.here.receive 0x07 [chute, position, 1] ⟨.chute, some chute.toNat, (PosName.ofByte position).isSome⟩
    fun t => t.cartPresent chute.toNat ((PosName.ofByte position).getD .x)).trans (if_pos (hs.passes hv))
  rw [PosName.ofByte_of hp] at hx
  change Host.Outcome.next (s.receive f 0x07 [chute, position, 1] fun t => t.takeFrame f
    ⟨.chute, some chute.toNat, (PosName.ofByte position).isSome⟩
    fun t => t.cartPresent chute.toNat ((PosName.ofByte position).getD .x)) = _
  rw [PosName.ofByte_of hp]
  exact congrArg Host.Outcome.next hx

section
variable {s : State} {k : Nat} {c : Chute} (hk : s.chute? k = some c)
include hk

theorem State.cartPresent_ignored {p : PosName} (h : c.kind = .stray ∨ c.position p ≠ .empty) : s.cartPresent k p = s := by
  rw [State.cartPresent, hk]
  dsimp only
  split
  · next hkind hpos => exact absurd hpos (h.resolve_left (by rw [hkind]; exact ChuteKind.noConfusion))
  · rfl

theorem State.cartPresent_empty {p : PosName} (hkind : c.kind = .deck) (hp : c.position p = .empty) : s.cartPresent k p =
    if s.carts.length < cartRecords then s.registerCart k c p
    else (s.modifyChute k (fun c => c.putPosition p .marked)).raise .capacity 2 := by
  rw [State.cartPresent, hk]
  dsimp only
  rw [hkind, hp]

/-- The chute at which a cart is registered. -/
theorem State.registerCart_chute? (p : PosName) : (s.registerCart k c p).chute? k = some { c.putPosition p (.cart s.newSerial) with
    active := if c.active = none then some p else c.active
    state := if c.active = none ∧ c.state = .blocked then .opened else c.state } := by
  have hcarts : ∀ v : State, v.chutes = s.chutes → v.chute? k = some c := fun v hv => by rw [State.chute?, hv]; exact hk
  unfold State.registerCart
  refine (State.modifyChute_same (hcarts _ rfl) _).trans (congrArg some ?_)
  have hsame : (c.putPosition p (.cart s.newSerial)).active = c.active ∧ (c.putPosition p (.cart s.newSerial)).state = c.state := by
    cases p <;> exact ⟨rfl, rfl⟩
  dsimp only
  cases hact : c.active with
  | none =>
    have hfirst : (none : Option PosName).isNone = true := rfl
    rw [if_pos hfirst, if_pos rfl]
    simp only [true_and]
  | some q =>
    have hfirst : ¬(some q : Option PosName).isNone = true := Bool.false_ne_true
    rw [if_neg hfirst]
    simp only [reduceCtorEq, false_and, if_false]
    rw [← hact, ← hsame.1, ← hsame.2]

end

theorem cartPresentRegisters : Claim.CartPresentRegisters := by
  intro f chute position p x c s ha hs hk hp s1
  have hk1 : s1.chute? chute.toNat = some c := (State.afterCheck_chute? ..).trans hk
  have hexec := exec_cartPresent ha hs hp
  have hcarts : s1.carts = s.carts := State.afterCheck_changes s f x .carts (by decide)
  have hcart : ∀ m, s1.cart? m = s.cart? m := State.afterCheck_cart? s f x
  have hserial : s1.nextSerial = s.nextSerial := State.afterCheck_changes s f x .nextSerial (by decide)
  refine ⟨fun h => hexec.trans (by rw [State.cartPresent_ignored hk1 h]), fun hkind hpos hfull => ?_,
    fun hkind hpos hroom h1 h2 => ?_⟩
  · rw [hexec, State.cartPresent_empty hk1 hkind hpos, if_neg (by rw [hcarts]; exact Nat.not_lt.2 hfull)]
    rfl
  · have hroom1 : s1.carts.length < cartRecords := by rw [hcarts]; exact hroom
    rw [State.cartPresent_empty hk1 hkind hpos, if_pos hroom1] at hexec
    obtain ⟨hnone, hlow, hhigh⟩ := State.newSerial_free hroom1 (by rw [hserial]; exact h1) (by rw [hserial]; exact h2)
    have hput := Chute.putPosition_rest c p (.cart s1.newSerial)
    refine ⟨_, s1.newSerial, _, hexec, (Keeps.registerCart s1 chute.toNat c p).changes.mono (by decide), hlow, hhigh,
      (hcart _).symm.trans hnone, fun h => ?_, ?_, ?_, fun m hm => ?_, State.registerCart_chute? hk1 p, ?_, ?_, rfl, rfl,
      by rw [hput], by rw [hput], by rw [hput], by rw [hput]⟩
    · rw [← hserial] at h ⊢
      exact State.newSerial_next ((hcart _).trans h)
    · change nextSerialAfter s1.newSerial = _
      unfold nextSerialAfter
      split <;> split <;> omega
    · refine (Table.get?_put_same ..).trans (congrArg some ?_)
      cases c.active <;> rfl
    · exact (Table.get?_put_other _ hm _).trans (hcart m)
    · exact Chute.putPosition_same c p _
    · exact Chute.putPosition_other c p _

/-! ## A cart leaves its chute (R116) -/

theorem Table.modify_modify {α : Type} (t : Table α) (i : Nat) (f g : α → α) :
    (t.modify i f).modify i g = t.modify i (fun v => g (f v)) := by
  rw [Table.modify_eq, Table.modify_eq, Table.modify_eq, List.map_map]
  refine List.map_congr_left fun e _ => ?_
  simp only [Function.comp_apply]
  split <;> rfl

theorem Table.erase_modify {α : Type} (t : Table α) (i : Nat) (f : α → α) : (t.modify i f).erase i = t.erase i := by
  unfold Table.erase
  rw [Table.modify_eq, List.filter_map]
  have hkeys : ((fun e : Nat × α => e.1 != i) ∘ fun e : Nat × α => (e.1, if e.1 = i then f e.2 else e.2)) = fun e => e.1 != i := rfl
  rw [hkeys]
  refine (List.map_congr_left fun e he => ?_).trans (List.map_id _)
  rw [if_neg (bne_iff_ne.1 (List.mem_filter.1 he).2)]
  rfl

/-- A cart is QUEUED at the tail of a route. -/
def State.queuedOn (s : State) (n : Nat) (k : RouteKey) : State :=
  (s.modifyCart n (fun c => { c with state := .queued })).modifyRoute k (fun r => { r with queue := r.queue ++ [n] })

/-- A cart becomes CUT as it leaves. -/
def State.cutFree (s : State) (n : Nat) : State := s.modifyCart n (fun x => { x with state := .cut })

theorem State.queuedOn_cutFree (s : State) (n : Nat) (k : RouteKey) : (s.cutFree n).queuedOn n k = s.queuedOn n k := by
  have hc : (s.carts.modify n (fun x => { x with state := .cut })).modify n (fun c => { c with state := .queued }) =
      s.carts.modify n (fun c => { c with state := .queued }) := Table.modify_modify ..
  change (s.setCarts ((s.carts.modify n (fun x => { x with state := .cut })).modify n
    (fun c => { c with state := .queued }))).modifyRoute k _ = _
  rw [hc]
  rfl

/-- A cart that departs its chute: FULL or CUT, or FILLING or CLOSING and not empty. -/
def Cart.departs (y : Cart) : Prop :=
  y.state = .full ∨ y.state = .cut ∨ (y.state = .filling ∨ y.state = .closing) ∧ (y.entries ≠ [] ∨ y.unidentified ≠ 0)

section
variable {s : State} {n : Nat} {y : Cart} (hy : s.cart? n = some y)
include hy

theorem State.departCart_unrouted (hr : y.route = none) : s.departCart n = s.retireCart n := by
  rw [State.departCart, hy]
  dsimp only
  rw [hr]

theorem State.departCart_routed {k : RouteKey} (hr : y.route = some k) : s.departCart n = (s.queuedOn n k).settleRoute k := by
  rw [State.departCart, hy]
  dsimp only
  rw [hr]
  rfl

/-- A STANDBY cart and an empty one retire. -/
theorem State.cartLeaves_empty (he : y.entries = []) (hu : y.unidentified = 0)
    (hst : y.state = .standby ∨ y.state = .filling ∨ y.state = .closing) : s.cartLeaves n = s.setCarts (s.carts.erase n) := by
  have hempty : y.isEmpty = true := Cart.isEmpty_iff.2 ⟨he, hu⟩
  rw [← State.retireCart_empty hy he, State.cartLeaves, hy]
  dsimp only
  rcases hst with hst | hst | hst
  · rw [hst]
  · rw [hst]
    exact if_pos hempty
  · rw [hst]
    exact if_pos hempty

theorem State.cartLeaves_departs (hd : y.departs) :
    s.cartLeaves n = s.departCart n ∨ s.cartLeaves n = (s.cutFree n).departCart n := by
  rw [State.cartLeaves, hy]
  dsimp only
  rcases hd with hst | hst | ⟨hst, hno⟩
  · rw [hst]
    exact .inl rfl
  · rw [hst]
    exact .inl rfl
  · have hempty : ¬y.isEmpty = true := fun h => by
      obtain ⟨he, hu⟩ := Cart.isEmpty_iff.1 h
      exact hno.elim (fun h => h he) fun h => h hu
    rcases hst with hst | hst
    · rw [hst]
      exact .inr (if_neg hempty)
    · rw [hst]
      exact .inr (if_neg hempty)

theorem State.cutFree_cart? : (s.cutFree n).cart? n = some { y with state := .cut } := State.modifyCart_same hy _

theorem State.cartLeaves_unrouted (hd : y.departs) (hr : y.route = none) (he : y.entries = []) :
    s.cartLeaves n = s.setCarts (s.carts.erase n) := by
  rcases State.cartLeaves_departs hy hd with h | h
  · rw [h, State.departCart_unrouted hy hr, State.retireCart_empty hy he]
  · rw [h, State.departCart_unrouted (State.cutFree_cart? hy) hr, State.retireCart_empty (State.cutFree_cart? hy) he]
    exact congrArg s.setCarts (Table.erase_modify s.carts n fun x => { x with state := .cut })

theorem State.cartLeaves_routed (hd : y.departs) {k : RouteKey} (hr : y.route = some k) :
    s.cartLeaves n = (s.queuedOn n k).settleRoute k := by
  rcases State.cartLeaves_departs hy hd with h | h
  · rw [h, State.departCart_routed hy hr]
  · rw [h, State.departCart_routed (State.cutFree_cart? hy) hr, State.queuedOn_cutFree]

theorem State.retireCart_other {m : Nat} (hm : m ≠ n) : (s.retireCart n).cart? m = s.cart? m := by
  rw [State.retireCart, hy]
  exact Table.get?_erase_other _ hm

/-- A cart that waits in no queue and stands at no door stays as another leaves its chute. -/
theorem State.cartLeaves_other (hd : y.departs) {m : Nat} (hm : m ≠ n) (hq : ∀ r ∈ s.routes, m ∉ r.queue)
    (hdoor : ∀ e ∈ s.doors, e.2.cart ≠ some m) : (s.cartLeaves n).cart? m = s.cart? m := by
  cases hr : y.route with
  | none =>
    rcases State.cartLeaves_departs hy hd with h | h
    · rw [h, State.departCart_unrouted hy hr, State.retireCart_other hy hm]
    · rw [h, State.departCart_unrouted (State.cutFree_cart? hy) hr, State.retireCart_other (State.cutFree_cart? hy) hm]
      exact State.modifyCart_other s hm _
  | some k =>
    have hsame : (s.queuedOn n k).cart? m = s.cart? m :=
      State.modifyCart_other s hm (fun c => { c with state := .queued })
    have hapart : Apart (s.queuedOn n k) m := by
      refine ⟨forall_mem_modify (p := fun r : Route => m ∉ r.queue) (fun r hr h => ?_) hq k.subject, hdoor⟩
      rcases List.mem_append.1 h with h | h
      · exact hr h
      · exact hm (List.mem_singleton.1 h)
    rw [State.cartLeaves_routed hy hd hr, State.settleRoute]
    split
    · next d _ => exact (Apart.settleDoor d _ _ rfl hapart).trans hsame
    · exact hsame

end

/-! ## CART REMOVED (R116, R117) -/

theorem exec_cartRemoved {f : FrameHead} {chute position report : Byte} {p : PosName} {x : Node} {s : State}
    (ha : Admitted s f x) (hs : Serves s x .chute chute.toNat)
    (hp : position.toNat = 0 ∧ p = .x ∨ position.toNat = 1 ∧ p = .y) : exec (.cartRemoved f chute position report) s =
      .next (if report.toNat = 0 then (s.afterCheck f x).cartRemoved chute.toNat p else s.afterCheck f x) := by
  have hx := ha.here.receive 0x07 [chute, position, report]
    ⟨.chute, some chute.toNat, (PosName.ofByte position).isSome && decide (report.toNat = 0)⟩
    fun t => t.cartRemoved chute.toNat ((PosName.ofByte position).getD .x)
  change Host.Outcome.next (s.receive f 0x07 [chute, position, report] fun t => t.takeFrame f
    ⟨.chute, some chute.toNat, (PosName.ofByte position).isSome && decide (report.toNat = 0)⟩
    fun t => t.cartRemoved chute.toNat ((PosName.ofByte position).getD .x)) = _
  rw [hx, PosName.ofByte_of hp]
  by_cases hr : report.toNat = 0
  · rw [if_pos hr, if_pos (hs.passes (by rw [hr]; rfl))]
    rfl
  · have hno : ¬s.passesRole x ⟨.chute, some chute.toNat, (some p).isSome && decide (report.toNat = 0)⟩ = true := by
      rw [decide_eq_false hr, Bool.and_false, State.passesRole, Bool.and_false, Bool.false_and]
      exact Bool.false_ne_true
    rw [if_neg hr, if_neg hno]

section
variable {s : State} {k : Nat} {c : Chute} (hk : s.chute? k = some c)
include hk

theorem State.cartRemoved_stray (p : PosName) (hkind : c.kind = .stray) : s.cartRemoved k p = s := by
  rw [State.cartRemoved, hk]
  dsimp only
  rw [hkind]

theorem State.cartRemoved_empty {p : PosName} (hp : c.position p = .empty) : s.cartRemoved k p = s := by
  rw [State.cartRemoved, hk]
  dsimp only
  rw [hp]
  cases c.kind <;> rfl

theorem State.cartRemoved_marked {p : PosName} (hkind : c.kind = .deck) (hp : c.position p = .marked) :
    s.cartRemoved k p = s.modifyChute k (fun c => c.putPosition p .empty) := by
  rw [State.cartRemoved, hk]
  dsimp only
  rw [hkind, hp]

theorem State.cartRemoved_cart {p : PosName} {n : Nat} (hkind : c.kind = .deck) (hp : c.position p = .cart n) :
    s.cartRemoved k p = s.removeCart k c p n := by
  rw [State.cartRemoved, hk]
  dsimp only
  rw [hkind, hp]

end

theorem cartRemovedClears : Claim.CartRemovedClears := by
  intro f chute position report p x c s ha hs hk hp s1 cleared
  have hk1 : s1.chute? chute.toNat = some c := (State.afterCheck_chute? ..).trans hk
  have hexec := exec_cartRemoved (report := report) ha hs hp
  have hcarts : s1.carts = s.carts := State.afterCheck_changes s f x .carts (by decide)
  refine ⟨fun h => hexec.trans ?_, fun hr hkind => ?_⟩
  · by_cases hr : report.toNat = 0
    · rw [if_pos hr, State.cartRemoved_stray hk1 p (h.resolve_left (absurd hr))]
    · rw [if_neg hr]
  · rw [if_pos hr] at hexec
    refine ⟨fun hpos => hexec.trans (by rw [State.cartRemoved_empty hk1 hpos]),
      fun hpos => hexec.trans (by rw [State.cartRemoved_marked hk1 hkind hpos]; rfl), fun n y hpos hy he hu hst => ?_⟩
    intro gone
    rw [State.cartRemoved_cart hk1 hkind hpos, State.removeCart] at hexec
    have hy1 : cleared.cart? n = some y := (State.afterCheck_cart? s f x n).trans hy
    have hleaves : (s1.modifyChute chute.toNat (fun c => c.putPosition p .empty)).cartLeaves n = gone :=
      State.cartLeaves_empty (s := cleared) hy1 he hu hst
    rw [hleaves] at hexec
    refine ⟨fun ha => hexec.trans (congrArg Host.Outcome.next (if_neg ha)), fun ha => ?_⟩
    have hgone : gone.chute? chute.toNat = some (c.putPosition p .empty) :=
      State.modifyChute_same hk1 fun c => c.putPosition p .empty
    exact ⟨_, hexec.trans (congrArg Host.Outcome.next (if_pos ha)),
      ActiveLeft.settle hgone ((Chute.putPosition_active c p .empty).trans ha)⟩

/-- The sequence check of a node that serves no door leaves the doors. -/
theorem State.afterCheck_doors {s : State} {f : FrameHead} {x : Node} (hr : x.role ≠ some .door) :
    (s.afterCheck f x).doors = s.doors := by
  have hheard := State.heardNode_changes s f .doors (by decide)
  have hseq : ∀ u : State, (u.inSequence x).doors = u.doors := fun u => by
    unfold State.inSequence
    split
    · next h => exact absurd h hr
    · rfl
  by_cases hl : x.state = .live
  · by_cases he : x.expected = some f.seq
    · rw [State.afterCheck_inSequence hl he]
      exact (hseq _).trans hheard
    · rw [State.afterCheck_gap hl he]
      refine ((Keeps.modifyNode _ _ _).changes .doors (by decide)).trans ?_
      unfold State.gap
      split
      · exact (Keeps.causeOfLoss _).changes .doors (by decide)
      · exact (Keeps.causeOfLoss _).changes .doors (by decide)
      · exact (Keeps.causeOfLoss _).changes .doors (by decide)
      · exact (Keeps.causeOfLoss _).changes .doors (by decide)
      · next h => exact absurd h hr
      · rfl
  · rw [State.afterCheck_returns hl]
    refine Eq.trans ?_ hheard
    unfold State.nodeReturns
    split
    · exact (Keeps.holdServed _ x false).changes .doors (by decide)
    · next h => exact absurd h hr
    · rfl

theorem cartRemovedDeparts : Claim.CartRemovedDeparts := by
  intro f chute position report p x c n y s ha hs hk hkind hp hr hpos hy hd s1 cleared queued
  have hk1 : s1.chute? chute.toNat = some c := (State.afterCheck_chute? ..).trans hk
  have hexec := exec_cartRemoved (report := report) ha hs hp
  rw [if_pos hr, State.cartRemoved_cart hk1 hkind hpos, State.removeCart] at hexec
  have hcart : ∀ m, cleared.cart? m = s.cart? m := State.afterCheck_cart? s f x
  have hroutes : s1.routes = s.routes := State.afterCheck_changes s f x .routes (by decide)
  have hy1 : cleared.cart? n = some y := (hcart n).trans hy
  have hleave := (Keeps.cartLeaves cleared n).changes
  have hclear : Changes [.chutes] s1 cleared := (Keeps.modifyChute s1 chute.toNat _).changes
  set w := cleared.cartLeaves n with hw
  have hchutes : w.chutes = cleared.chutes := hleave .chutes (by decide)
  have hwk : w.chute? chute.toNat = some (c.putPosition p .empty) := by
    rw [State.chute?, hchutes]
    exact State.modifyChute_same hk1 _
  have hsettled := ActiveLeft.settle (p := p) hwk
  have hch : Changes [.store, .loop, .chutes, .carts, .routes, .doors, .link, .notices] s1 w :=
    hclear.comp hleave (by decide) (by decide)
  have hrole : x.role ≠ some .door := by rw [hs.1]; exact fun h => Role.noConfusion (Option.some.inj h)
  have hdoors : cleared.doors = s.doors := State.afterCheck_doors hrole
  have hdoor : ∀ d, cleared.door? d = s.door? d := fun d => by
    rw [State.door?, hdoors]
    rfl
  have hrest : ∃ t, exec (.cartRemoved f chute position report) s = .next t ∧
      Changes [.store, .loop, .chutes, .carts, .routes, .doors, .link, .notices] s1 t ∧ (c.active ≠ some p → t = w) ∧
      (c.active = some p → ActiveLeft w t chute.toNat p (c.putPosition p .empty)) := by
    by_cases hactive : c.active = some p
    · have hleft := hsettled ((Chute.putPosition_active c p .empty).trans hactive)
      have hleft' := hleft
      obtain ⟨hlch, -⟩ := hleft'
      exact ⟨_, hexec.trans (congrArg Host.Outcome.next (if_pos hactive)), hch.comp hlch (by decide) (by decide),
        fun h => absurd hactive h, fun _ => hleft⟩
    · exact ⟨w, hexec.trans (congrArg Host.Outcome.next (if_neg hactive)), hch, fun _ => rfl, fun h => absurd h hactive⟩
  obtain ⟨t, ht, htch, hstays, hleft⟩ := hrest
  refine ⟨w, t, ht, htch, fun hnone he => State.cartLeaves_unrouted (s := cleared) hy1 hd hnone he, fun k r hk hroute => ?_,
    hchutes, (hleave .loop (by decide)).trans (hclear .loop (by decide)), fun m hm hq hno => ?_, hstays, hleft⟩
  · have hw' : w = (queued k).settleRoute k := State.cartLeaves_routed (s := cleared) hy1 hd hk
    have hroute1 : (queued k).route? k = some { r with queue := r.queue ++ [n] } := by
      refine State.modifyRoute_same (s := cleared) ?_ fun r => { r with queue := r.queue ++ [n] }
      change s1.routes[k.subject]? = _
      rw [hroutes]
      exact hroute
    rw [State.settleRoute_eq hroute1] at hw'
    refine ⟨fun hno => ?_, fun d v m z hrd hv hvm hm hz hbusy => ?_, fun d v hrd hv hfree => ?_⟩
    · cases hrd : r.door with
      | none => rw [hw']; simp only [hrd]
      | some d =>
        rw [hw']
        simp only [hrd]
        exact State.settleDoor_none ((hdoor d).trans (hno d hrd))
    · have hv1 : (queued k).door? d = some v := (hdoor d).trans hv
      have hz1 : (queued k).cart? m = some z :=
        (State.modifyCart_other cleared hm (fun y => { y with state := .queued })).trans ((hcart m).trans hz)
      simp only [hrd] at hw'
      rw [State.settleDoor_busy hv1 hvm hz1 hbusy] at hw'
      rw [hw']
      exact ⟨(Keeps.setBelt _ d).changes, State.setBelt_at hv1, fun e he => (State.setBelt_other he).trans (hdoor e)⟩
    · simp only [hrd] at hw'
      rw [hw']
      exact Arbitrates.settleDoor ((hdoor d).trans hv) hfree
  · refine (State.cartLeaves_other (s := cleared) hy1 hd hm ?_ ?_).trans (hcart m)
    · change ∀ r ∈ s1.routes, m ∉ r.queue
      rw [hroutes]
      exact hq
    · rw [hdoors]
      exact hno

/-- Settles O50: a CART PRESENT by its position and the pool, a CART REMOVED by the cart that stood there. -/
theorem cartsComeAndGo : Obligations.CartsComeAndGo := ⟨cartPresentRegisters, cartRemovedClears, cartRemovedDeparts⟩

end Sys2Proof.Machine
end

section
/-! DOORSCAN up to boarding, and the halt it may add (R134 to R137). -/

namespace Sys2Proof.Machine

/-! ## Halts (R134, R137) -/

/-- A frame that is sent while the transmit queue has room joins it, or takes the place of the level that waits. -/
theorem State.send_queued {s : State} {r : Role} {object : Nat} {p : OutPayload} (hn : s.servingNode r object ≠ none)
    (hc : s.link.txQueue.length < txCapacity) : ∃ o ∈ (s.send r object p).link.txQueue, o.payload = p := by
  obtain ⟨n, hn⟩ := Option.ne_none_iff_exists'.1 hn
  obtain ⟨x, hx, -⟩ := State.servingNode_eq hn
  by_cases hw : ∃ f ∈ s.link.txQueue, p.sameLevel f.payload = true
  · rw [State.send_waiting hn hw]
    obtain ⟨f, hf, hfw⟩ := hw
    exact ⟨{ f with payload := p }, List.mem_map.2 ⟨f, hf, by rw [if_pos hfw]⟩, rfl⟩
  · have hw' : ∀ f ∈ s.link.txQueue, p.sameLevel f.payload = false := fun f hf => Bool.eq_false_iff.2 fun hb => hw ⟨f, hf, hb⟩
    rw [State.send_joins_queue hn hx hw' hc]
    exact ⟨_, List.mem_append.2 (.inr (List.mem_singleton_self _)), rfl⟩

theorem HaltSet.put_halts (h : HaltSet) (w : HaltReason) : (h.put w true).isEmpty = false := by
  refine Bool.eq_false_iff.2 fun he => ?_
  have he' := HaltSet.isEmpty_iff.1 he
  cases w with
  | noRead => exact Bool.noConfusion (congrArg HaltSet.noRead he' : true = false)
  | unknownTag => exact Bool.noConfusion (congrArg HaltSet.unknownTag he' : true = false)
  | wrongDoor => exact Bool.noConfusion (congrArg HaltSet.wrongDoor he' : true = false)
  | pulledBag => exact Bool.noConfusion (congrArg HaltSet.pulledBag he' : true = false)
  | notBoarded => exact Bool.noConfusion (congrArg HaltSet.notBoarded he' : true = false)
  | misplaced => exact Bool.noConfusion (congrArg HaltSet.misplaced he' : true = false)
  | unidentified => exact Bool.noConfusion (congrArg HaltSet.unidentified he' : true = false)
  | node => exact Bool.noConfusion (congrArg HaltSet.node he' : true = false)

theorem State.addHalt_sends {s : State} {d : Nat} {y : Door} (hy : s.door? d = some y) (w : HaltReason) (hr : y.running = true)
    (hn : s.servingNode .door d ≠ none) (hc : s.link.txQueue.length < txCapacity) :
    ∃ o ∈ (s.addHalt d w).link.txQueue, o.payload = .door d false := by
  set u := (s.modifyDoor d (fun y => { y with halts := y.halts.put w true })).raise .doorStopped d with hu
  have hdoor : u.door? d = some { y with halts := y.halts.put w true } := by
    rw [hu, State.raise_door?, State.modifyDoor_door?, if_pos rfl, hy]
    rfl
  have hstops : u.beltRuns { y with halts := y.halts.put w true } = false := State.beltRuns_halted (HaltSet.put_halts y.halts w)
  have ht : s.addHalt d w = (u.modifyDoor d (fun x => { x with running := false })).sendDoor d false := by
    rw [State.addHalt, hy]
    change u.setBelt d = _
    rw [State.setBelt, hdoor]
    dsimp only
    rw [hstops]
    exact if_neg (by rw [hr]; exact Bool.false_ne_true)
  rw [ht]
  exact State.send_queued (s := u.modifyDoor d (fun x => { x with running := false })) hn hc

theorem haltStopsBelt : Claim.HaltStopsBelt := by
  intro s d w y hy t
  refine ⟨(Keeps.addHalt s d w).changes.mono (by decide), ?_, fun e he => ?_, State.addHalt_notices hy w,
    State.addHalt_sends hy w⟩
  · rw [State.addHalt_door?, if_pos rfl, hy]
    rfl
  · rw [State.addHalt_door?, if_neg he]

/-! ## Reads (R183) -/

theorem ReadResult.ofBytes_noTag {read : Byte} (h : read.toNat = 0) (tag : BitVec 32) :
    ReadResult.ofBytes read tag = some .noTag := if_pos h

theorem ReadResult.ofBytes_several {read : Byte} (h : read.toNat = 2) (tag : BitVec 32) :
    ReadResult.ofBytes read tag = some .several := by
  rw [ReadResult.ofBytes, if_neg (by omega), if_neg (by omega), if_pos h]

theorem ReadResult.ofBytes_one {read : Byte} {tag : BitVec 32} (h : read.toNat = 1) (h1 : 1 ≤ tag.toNat)
    (h2 : tag.toNat ≤ 999999999) : ReadResult.ofBytes read tag = some (.one tag.toNat) := by
  rw [ReadResult.ofBytes, if_neg (by omega), if_pos h, if_pos (tagInRange_iff.2 ⟨h1, h2⟩)]

/-! ## What the check leaves of a door -/

theorem State.afterCheck_door? (s : State) (f : FrameHead) (x : Node) {d : Nat} {y : Door} (hy : s.door? d = some y) :
    ∃ z, (s.afterCheck f x).door? d = some z ∧ z = { y with halts := z.halts, running := z.running } := by
  by_cases hr : x.role = some .door
  · by_cases hg : x.state = .live ∧ x.expected ≠ some f.seq
    · have hdoors : (s.afterCheck f x).door? d = ((s.setRx []).haltNode x.objects).door? d := by
        rw [State.afterCheck_gap hg.1 hg.2, State.gap_door hr, State.door?,
          (Keeps.modifyNode _ f.node.toNat _).changes .doors (by decide)]
        rfl
      obtain ⟨hin, hout, -⟩ := State.haltNode_leaves x.objects (s.setRx [])
      by_cases hd : d ∈ x.objects
      · exact ⟨_, hdoors.trans (hin d y hd hy).1, rfl⟩
      · exact ⟨y, hdoors.trans ((hout d hd).trans hy), rfl⟩
    · have hy1 : (s.heardNode f).door? d = some y := by
        rw [State.door?, State.heardNode_changes s f .doors (by decide)]
        exact hy
      obtain ⟨hin, hout⟩ := State.unhaltNode_leaves x.objects (s.heardNode f)
      rw [State.afterCheck_door hg hr]
      by_cases hd : d ∈ x.objects
      · obtain ⟨z, hz, hzy⟩ := hin d y hd hy1
        exact ⟨z, hz, by rw [hzy]⟩
      · exact ⟨y, (hout d hd).trans hy1, rfl⟩
  · exact ⟨y, by rw [State.door?, State.afterCheck_doors hr]; exact hy, rfl⟩

theorem State.afterCheck_route? (s : State) (f : FrameHead) (x : Node) (k : RouteKey) :
    (s.afterCheck f x).route? k = s.route? k := by
  rw [State.route?, State.afterCheck_changes s f x .routes (by decide)]
  rfl

/-! ## The lines of R135 -/

theorem exec_doorscan {f : FrameHead} {door read : Byte} {tag : BitVec 32} {x : Node} {s : State} {r : ReadResult}
    (ha : Admitted s f x) (hs : Serves s x .door door.toNat) (hr : ReadResult.ofBytes read tag = some r) :
    exec (.doorscan f door read tag) s = .next ((s.afterCheck f x).scan door.toNat r) := by
  have hx := (ha.here.receive 0x08 ([door, read] ++ tagBytes tag)
    ⟨.door, some door.toNat, (ReadResult.ofBytes read tag).isSome⟩
    fun t => t.scan door.toNat ((ReadResult.ofBytes read tag).getD .noTag)).trans (if_pos (hs.passes (by rw [hr]; rfl)))
  rw [hr] at hx
  change Host.Outcome.next (s.receive f 0x08 ([door, read] ++ tagBytes tag) fun t => t.takeFrame f
    ⟨.door, some door.toNat, (ReadResult.ofBytes read tag).isSome⟩
    fun t => t.scan door.toNat ((ReadResult.ofBytes read tag).getD .noTag)) = _
  rw [hr]
  exact congrArg Host.Outcome.next hx

section
variable {s : State} {d : Nat} {x : Door} (hx : s.door? d = some x)
include hx

theorem State.scan_unread {r : ReadResult} (hr : r = .noTag ∨ r = .several) : s.scan d r = s.addHalt d .noRead := by
  rw [State.scan, hx]
  rcases hr with rfl | rfl <;> rfl

theorem State.scan_one (tag : Nat) : s.scan d (.one tag) = s.scanTag d x tag := by
  rw [State.scan, hx]

theorem State.doorServes_iff {k : RouteKey} : s.doorServes d k = true ↔
    k.slot = x.berth ∧ ∃ r, s.route? k = some r ∧ r.door = some d := by
  rw [State.doorServes, hx]
  cases s.route? k <;> simp

/-- A found bag is of another door. -/
theorem State.wrongDoor_iff {b : Bag} : s.wrongDoor d b = false ↔ ∃ k c r, b.home = some k ∧ s.store.governing b = some c ∧
    k.slot = x.berth ∧ s.route? ⟨k.slot, c.route⟩ = some r ∧ r.door = some d := by
  unfold State.wrongDoor
  constructor
  · intro h
    split at h
    · next j hj =>
      obtain ⟨k, c, hk, hc, rfl⟩ := Store.bagRoute_iff.1 hj
      obtain ⟨hslot, r, hr, hd⟩ := (State.doorServes_iff hx).1 (by simpa using h)
      exact ⟨k, c, r, hk, hc, hslot, hr, hd⟩
    · cases h
  · rintro ⟨k, c, r, hk, hc, hslot, hr, hd⟩
    have hj : s.store.bagRoute b = some ⟨k.slot, c.route⟩ := Store.bagRoute_iff.2 ⟨k, c, hk, hc, rfl⟩
    rw [hj]
    dsimp only
    rw [(State.doorServes_iff hx).2 ⟨hslot, r, hr, hd⟩]
    rfl

theorem State.servedCart_iff {b : Bag} {n : Nat} {j : RouteKey} : s.servedCart d b = some (n, j) ↔
    b.location = some (.cart n) ∧ ∃ z w, s.cart? n = some z ∧ z.route = some j ∧ j.slot = x.berth ∧ s.route? j = some w ∧
      w.door = some d := by
  have hserves := fun k => State.doorServes_iff (k := k) hx
  simp only [State.servedCart, bind, Option.bind_eq_some_iff, Bag.cart?_eq_some]
  constructor
  · rintro ⟨m, hm, z, hz, k, hk, h⟩
    split at h
    · next hd =>
      cases h
      obtain ⟨hslot, w, hw, hwd⟩ := (hserves _).1 hd
      exact ⟨hm, z, w, hz, hk, hslot, hw, hwd⟩
    · cases h
  · rintro ⟨hm, z, w, hz, hk, hslot, hw, hwd⟩
    exact ⟨n, hm, z, hz, j, hk, by rw [if_pos ((hserves j).2 ⟨hslot, w, hw, hwd⟩)]⟩

end

section
variable {s : State} {d : Nat} {x : Door} {tag : Nat} {g : Handle} {b : Bag} (hl : s.store.lookup tag = .found g b)
include hl

theorem State.scanTag_wrong (hw : s.wrongDoor d b = true) : s.scanTag d x tag = s.addHalt d .wrongDoor := by
  rw [State.scanTag, hl]
  exact if_pos hw

variable (hw : s.wrongDoor d b = false)
include hw

theorem State.scanTag_served : s.scanTag d x tag = if b.state = .aboard then s
    else if b.state = .inCart then
      match s.servedCart d b with
      | some (n, k) => s.boardingTest d x g n k
      | none => s.addHalt d .misplaced
    else s.addHalt d .misplaced := by
  rw [State.scanTag, hl]
  dsimp only
  rw [hw]
  rfl

theorem State.scanTag_aboard (hb : b.state = .aboard) : s.scanTag d x tag = s := by
  rw [State.scanTag_served hl hw, if_pos hb]

theorem State.scanTag_elsewhere (h1 : b.state ≠ .aboard) (h2 : b.state ≠ .inCart) :
    s.scanTag d x tag = s.addHalt d .misplaced := by
  rw [State.scanTag_served hl hw, if_neg h1, if_neg h2]

theorem State.scanTag_misplaced (hb : b.state = .inCart) (hno : s.servedCart d b = none) :
    s.scanTag d x tag = s.addHalt d .misplaced := by
  rw [State.scanTag_served hl hw, if_neg (by rw [hb]; exact BagState.noConfusion), if_pos hb, hno]

theorem State.scanTag_boarding (hb : b.state = .inCart) {n : Nat} {j : RouteKey} (hc : s.servedCart d b = some (n, j)) :
    s.scanTag d x tag = s.boardingTest d x g n j := by
  rw [State.scanTag_served hl hw, if_neg (by rw [hb]; exact BagState.noConfusion), if_pos hb, hc]

end

/-! ## The boarding test (R5, R136, R148) -/

section
variable {s : State} {d n : Nat} {x : Door} {g : Handle} {j : RouteKey} {b : Bag} {k : CabinKey} {c : Cabin}
  (hb : s.bag? g = some b) (hk : b.home = some k) (hc : s.store.governing b = some c)
include hb hk hc

/-- The boarding test of a bag whose governing cabin is known. -/
theorem State.boardingTest_eq : s.boardingTest d x g n j =
    if c.status = .void ∨ b.pull = some .request then (s.demandCheck g).addHalt d .pulledBag
    else if c.status = .pending ∧ (s.store.slot k.slot).boardFirst = true then (s.demandCheck g).addHalt d .notBoarded
    else (s.demandCheck g).board d x g n j := by
  have hbag := State.demandCheck_bag? hb
  have hframe : (s.demandCheck g).store = { s.store with bags := (s.demandCheck g).store.bags } := (State.modifyBag_frame ..).1
  have hgov : (s.demandCheck g).store.governing { b with pull := demanded s b } = some c := by
    rw [hframe, ← hc]
    exact Store.governing_congr _ rfl
  have hslot : ((s.demandCheck g).store.slot k.slot).boardFirst = (s.store.slot k.slot).boardFirst :=
    congrArg Sailing.boardFirst (State.modifyBag_slot ..)
  have hvoid : (s.demandCheck g).store.governedVoid { b with pull := demanded s b } = (c.status == .void) := by
    rw [Store.governedVoid_eq_any, hgov]
    rfl
  have hpull : ((demanded s b).isSome || c.status == .void) = true ↔ c.status = .void ∨ b.pull = some .request := by
    by_cases hv : c.status = .void
    · simp [hv]
    · rw [demanded_sails hc hv]
      cases hp : b.pull with
      | none => simp [hv]
      | some o => cases o <;> simp [hv]
  have hstops : (s.demandCheck g).boardFirstStops { b with pull := demanded s b } = true ↔
      c.status = .pending ∧ (s.store.slot k.slot).boardFirst = true := by
    unfold State.boardFirstStops
    rw [hgov, hk]
    simp only [Option.any_some, Bool.and_eq_true, beq_iff_eq, hslot]
    exact and_comm
  rw [State.boardingTest, hbag]
  dsimp only
  rw [hvoid]
  by_cases h1 : c.status = .void ∨ b.pull = some .request
  · rw [if_pos h1, if_pos (hpull.2 h1)]
  · rw [if_neg h1, if_neg (mt hpull.1 h1)]
    by_cases h2 : c.status = .pending ∧ (s.store.slot k.slot).boardFirst = true
    · rw [if_pos h2, if_pos (hstops.2 h2)]
    · rw [if_neg h2, if_neg (mt hstops.1 h2)]

end

/-! ## DOORSCAN, up to boarding -/

theorem doorscanHalts : Claim.DoorscanHalts := by
  intro f door read tag x y s ha hs hy s1
  obtain ⟨z, hz, hzy⟩ := State.afterCheck_door? s f x hy
  have hstore : s1.store = s.store := State.afterCheck_store ..
  have hberth : z.berth = y.berth := by rw [hzy]
  have hroute : ∀ k, s1.route? k = s.route? k := State.afterCheck_route? s f x
  refine ⟨fun hr => ?_, fun hr h1 h2 => ?_⟩
  · rcases hr with hr | hr
    · rw [exec_doorscan ha hs (ReadResult.ofBytes_noTag hr tag), State.scan_unread hz (.inl rfl)]
    · rw [exec_doorscan ha hs (ReadResult.ofBytes_several hr tag), State.scan_unread hz (.inr rfl)]
  · have hexec := exec_doorscan ha hs (ReadResult.ofBytes_one hr h1 h2)
    rw [State.scan_one hz] at hexec
    refine ⟨fun hno => hexec.trans ?_, fun g b hg hb => ⟨fun hwrong => hexec.trans ?_, fun k c r hk hopen hslot hc hr hd => ?_⟩⟩
    · rw [State.scanTag, Store.lookup_none (by rw [hstore]; exact hno)]
    · have hg1 : s1.store.tagMap.get? tag.toNat = some g := by rw [hstore]; exact hg
      have hb1 : s1.store.bag? g = some b := by rw [hstore]; exact hb
      by_cases hcl : ∃ k, b.home = some k ∧ s.slotState k.slot = .closing
      · obtain ⟨k, hk, hst⟩ := hcl
        rw [State.scanTag, Store.lookup_closed hg1 hb1 hk (by rw [hstore]; exact hst)]
      · have hfound := Store.lookup_found hg1 hb1 fun k hk hst => hcl ⟨k, hk, by rw [hstore] at hst; exact hst⟩
        rw [State.scanTag_wrong hfound]
        refine Bool.not_eq_false _ |>.mp fun hno => ?_
        obtain ⟨k, c, r, hk, hc, hslot, hr, hd⟩ := (State.wrongDoor_iff hz).1 hno
        rw [hstore] at hc
        rcases hwrong with h | ⟨j, hj, h⟩ | ⟨j, o, hj, ho, h⟩
        · cases h.symm.trans hk
        · cases hj.symm.trans hk
          exact h.elim (fun h => hcl ⟨_, hj, h⟩) fun h => h (hslot.trans hberth)
        · cases hj.symm.trans hk
          cases ho.symm.trans hc
          exact h r ((hroute _).symm.trans hr) hd
    · have hg1 : s1.store.tagMap.get? tag.toNat = some g := by rw [hstore]; exact hg
      have hb1 : s1.bag? g = some b := (State.afterCheck_bag? ..).trans hb
      have hc1 : s1.store.governing b = some c := by rw [hstore]; exact hc
      have hfound : s1.store.lookup tag.toNat = .found g b := Store.lookup_found hg1 hb1 fun i hi hst => by
        cases hi.symm.trans hk
        rw [hstore] at hst
        exact hopen hst
      have hright : s1.wrongDoor door.toNat b = false :=
        (State.wrongDoor_iff hz).2 ⟨k, c, r, hk, hc1, hslot.trans hberth.symm, (hroute _).trans hr, hd⟩
      refine ⟨fun hst => hexec.trans (by rw [State.scanTag_aboard hfound hright hst]),
        fun ha1 ha2 => hexec.trans (by rw [State.scanTag_elsewhere hfound hright ha1 ha2]), fun n hst hloc => ⟨fun hno => ?_,
          fun v j w hv hj hw => ⟨fun hno => ?_, fun hslot' hw' => ?_⟩⟩⟩
      · refine hexec.trans (congrArg Host.Outcome.next (State.scanTag_misplaced hfound hright hst ?_))
        refine Option.eq_none_iff_forall_ne_some.2 fun ⟨m, i⟩ hmi => ?_
        obtain ⟨hm, v, w, hv, hvi, -⟩ := (State.servedCart_iff hz).1 hmi
        cases hloc.symm.trans hm
        cases (hno v ((State.afterCheck_cart? s f x n).symm.trans hv)).symm.trans hvi
      · refine hexec.trans (congrArg Host.Outcome.next (State.scanTag_misplaced hfound hright hst ?_))
        refine Option.eq_none_iff_forall_ne_some.2 fun ⟨m, i⟩ hmi => ?_
        obtain ⟨hm, v', w', hv', hvi, hsl, hwi, hwd⟩ := (State.servedCart_iff hz).1 hmi
        cases hloc.symm.trans hm
        cases hv.symm.trans ((State.afterCheck_cart? s f x n).symm.trans hv')
        cases hj.symm.trans hvi
        cases hw.symm.trans ((hroute j).symm.trans hwi)
        exact hno.elim (fun h => h (hsl.trans hberth)) fun h => h hwd
      · have hserved : s1.servedCart door.toNat b = some (n, j) := (State.servedCart_iff hz).2
          ⟨hloc, v, w, (State.afterCheck_cart? s f x n).trans hv, hj, hslot'.trans hberth.symm, (hroute j).trans hw, hw'⟩
        rw [State.scanTag_boarding hfound hright hst hserved, State.boardingTest_eq hb1 hk hc1] at hexec
        refine ⟨fun h => hexec.trans (by rw [if_pos h]), fun hp hnr hbf => hexec.trans ?_⟩
        rw [if_neg, if_pos]
        · exact ⟨hp, by rw [hstore]; exact hbf⟩
        · rintro (h | h)
          · rw [hp] at h
            exact CabinStatus.noConfusion h
          · exact hnr h

end Sys2Proof.Machine
end

section
/-! DOORSCAN of a bag that may board, and from that DOORSCAN (R2, R13, R127, R136, R140). -/

namespace Sys2Proof.Machine

/-! ## The turns of one door, one by one (R133, R140) -/

/-- A turn is a completion, or brings up the head cart of a route. -/
theorem State.doorTurn_cases {s t : State} {d : Nat} (h : s.doorTurn d = some t) :
    (∃ x n c, s.door? d = some x ∧ x.cart = some n ∧ s.cart? n = some c ∧ c.done = true ∧ t = s.completeCart d n c) ∨
    ∃ x k r n rest, s.door? d = some x ∧ x.cart = none ∧ s.route? k = some r ∧ r.queue = n :: rest ∧ t = s.takeToDoor d k := by
  unfold State.doorTurn at h
  split at h
  · cases h
  · next x hx =>
    split at h
    · next n hn =>
      split at h
      · cases h
      · next c hc =>
        split at h
        · next hd =>
          cases h
          exact .inl ⟨x, n, c, hx, hn, hc, hd, rfl⟩
        · cases h
    · next hn =>
      obtain ⟨k, hw, rfl⟩ := Option.map_eq_some_iff.1 h
      obtain ⟨-, r, -, hr, -, -, -, hq⟩ := State.offering_of_winner hw
      obtain ⟨n, rest, hq⟩ := List.exists_cons_of_ne_nil hq
      exact .inr ⟨x, k, r, n, rest, hx, hn, hr, hq, rfl⟩

/-- The head cart of a route that comes to a door: what becomes of the carts, the queues and the door. -/
theorem State.takeToDoor_leaves {s : State} {d : Nat} {k : RouteKey} {r : Route} {n : Nat} {rest : List Nat}
    (hr : s.route? k = some r) (hq : r.queue = n :: rest) :
    (s.takeToDoor d k).carts = s.carts.modify n (fun c => { c with state := .atDoor }) ∧
    (s.takeToDoor d k).routes = s.routes.modify k.subject (fun r => { r with queue := rest }) ∧
    ∀ u, (s.takeToDoor d k).door? d = some u → u.cart = some n := by
  have hdoor : ∀ u, (s.broughtUp d k n rest).door? d = some u → u.cart = some n := fun u hu => by
    have hmod := State.modifyDoor_door? s d d (fun x => { x with cart := some n, lastServed := some k.route })
    rw [if_pos rfl] at hmod
    obtain ⟨x, -, rfl⟩ := Option.map_eq_some_iff.1 (hmod.symm.trans hu)
    rfl
  rw [State.takeToDoor_eq hr hq]
  split
  · have hk := (Keeps.addHalt (s.broughtUp d k n rest) d .unidentified).changes
    refine ⟨hk .carts (by decide), hk .routes (by decide), fun u hu => ?_⟩
    rw [State.addHalt_door?, if_pos rfl] at hu
    obtain ⟨x, hx, rfl⟩ := Option.map_eq_some_iff.1 hu
    exact hdoor x hx
  · exact ⟨rfl, rfl, hdoor⟩

theorem State.testIdle_routes (s : State) (k : RouteKey) : (s.testIdle k).routes = s.routes ∨
    (s.testIdle k).routes = s.routes.modify k.subject (fun r => { r with state := .idle }) := by
  unfold State.testIdle
  split
  · exact .inl rfl
  · split
    · exact .inr rfl
    · exact .inl rfl

/-- A completion adds no cart to a queue, and leaves the door without one. -/
theorem State.completeCart_leaves {s : State} {d n : Nat} {c : Cart} (hc : s.cart? n = some c) (hd : c.done = true) :
    (s.completeCart d n c).carts = s.carts.erase n ∧
    (∀ m, (∀ r ∈ s.routes, m ∉ r.queue) → ∀ r ∈ (s.completeCart d n c).routes, m ∉ r.queue) ∧
    ∀ u, (s.completeCart d n c).door? d = some u → u.cart = none := by
  obtain ⟨-, hcarts, hdoors, -⟩ := CartCompletes.completeCart (d := d) hc hd
  refine ⟨hcarts, fun m hq => ?_, fun u hu => ?_⟩
  · have hroutes : (((s.retireCart n).modifyDoor d (fun x => { x with cart := none })).tellCartDone c).routes = s.routes :=
      ((Keeps.tellCartDone _ c).changes .routes (by decide)).trans ((Keeps.retireCart s n).changes .routes (by decide))
    unfold State.completeCart
    split
    · rw [hroutes]
      exact hq
    · next k _ =>
      rcases State.testIdle_routes (((s.retireCart n).modifyDoor d (fun x => { x with cart := none })).tellCartDone c) k with h | h
      · rw [h, hroutes]
        exact hq
      · rw [h, hroutes]
        exact forall_mem_modify (p := fun r : Route => m ∉ r.queue) (f := fun r => { r with state := .idle }) (fun _ hr => hr) hq _
  · rw [State.door?, hdoors, Table.get?_modify_same] at hu
    obtain ⟨x, -, rfl⟩ := Option.map_eq_some_iff.1 hu
    rfl

/-- A cart waits in no queue and does not stand at a door. -/
structure AwayFrom (s : State) (d m : Nat) : Prop where
  queue : ∀ r ∈ s.routes, m ∉ r.queue
  door : ∀ u, s.door? d = some u → u.cart ≠ some m

theorem AwayFrom.doorTurn {s t : State} {d m : Nat} (h : AwayFrom s d m) (ht : s.doorTurn d = some t) :
    AwayFrom t d m ∧ t.cart? m = s.cart? m := by
  rcases State.doorTurn_cases ht with ⟨x, n, c, hx, hn, hc, hd, rfl⟩ | ⟨x, k, r, n, rest, hx, hn, hr, hq, rfl⟩
  · have hmn : m ≠ n := by
      rintro rfl
      exact h.door x hx hn
    obtain ⟨hcarts, hqueue, hdoor⟩ := State.completeCart_leaves (d := d) hc hd
    refine ⟨⟨hqueue m h.queue, fun u hu => by rw [hdoor u hu]; exact Option.some_ne_none m |>.symm⟩, ?_⟩
    rw [State.cart?, hcarts]
    exact Table.get?_erase_other _ hmn
  · have hin : m ∉ n :: rest := hq ▸ h.queue r (List.mem_of_getElem? hr)
    have hmn : m ≠ n := by
      rintro rfl
      exact hin List.mem_cons_self
    obtain ⟨hcarts, hroutes, hdoor⟩ := State.takeToDoor_leaves (d := d) hr hq
    refine ⟨⟨?_, fun u hu he => hmn (Option.some.inj (he.symm.trans (hdoor u hu)))⟩, ?_⟩
    · rw [hroutes]
      exact forall_mem_modify (p := fun r : Route => m ∉ r.queue) (f := fun r => { r with queue := rest })
        (fun _ _ hr => hin (List.mem_cons_of_mem _ hr)) h.queue _
    · rw [State.cart?, hcarts]
      exact Table.get?_modify_other _ hmn _

/-- A door that settles leaves a cart that is away from it. -/
theorem AwayFrom.settleDoor {d m : Nat} (s : State) (h : AwayFrom s d m) :
    AwayFrom (s.settleDoor d) d m ∧ (s.settleDoor d).cart? m = s.cart? m := by
  induction hn : s.turnsLeft d using Nat.strongRecOn generalizing s with
  | _ n ih =>
    rw [State.settleDoor_eq]
    cases ht : s.doorTurn d with
    | none =>
      have hk := (Keeps.setBelt s d).changes
      refine ⟨⟨by rw [hk .routes (by decide)]; exact h.queue, fun u hu => ?_⟩, by rw [State.cart?, hk .carts (by decide)]; rfl⟩
      rw [State.setBelt_door?, if_pos rfl] at hu
      obtain ⟨x, hx, rfl⟩ := Option.map_eq_some_iff.1 hu
      exact h.door x hx
    | some t =>
      obtain ⟨h1, h2⟩ := h.doorTurn ht
      obtain ⟨i1, i2⟩ := ih _ (hn ▸ State.turnsLeft_lt ht) t h1 rfl
      exact ⟨i1, i2.trans h2⟩

/-- A cart that is not done stays as a door settles, though it may come to it. -/
theorem State.settleDoor_undone {d m : Nat} {c : Cart} (hd : c.done = false) (s : State) (v : CartState)
    (hc : s.cart? m = some { c with state := v }) :
    ∃ w, (s.settleDoor d).cart? m = some { c with state := w } ∧ (w = v ∨ w = .atDoor) := by
  induction hn : s.turnsLeft d using Nat.strongRecOn generalizing s v with
  | _ n ih =>
    rw [State.settleDoor_eq]
    cases ht : s.doorTurn d with
    | none =>
      refine ⟨v, ?_, .inl rfl⟩
      rw [State.cart?, (Keeps.setBelt s d).changes .carts (by decide)]
      exact hc
    | some t =>
      have hturn : ∃ w, t.cart? m = some { c with state := w } ∧ (w = v ∨ w = .atDoor) := by
        rcases State.doorTurn_cases ht with ⟨x, i, o, hx, hi, ho, hod, rfl⟩ | ⟨x, k, r, i, rest, hx, hi, hr, hq, rfl⟩
        · have hmi : m ≠ i := by
            rintro rfl
            cases hc.symm.trans ho
            exact Bool.false_ne_true (hd.symm.trans hod)
          refine ⟨v, ?_, .inl rfl⟩
          rw [State.cart?, (State.completeCart_leaves ho hod).1]
          exact (Table.get?_erase_other _ hmi).trans hc
        · have hcarts := (State.takeToDoor_leaves (d := d) hr hq).1
          by_cases hmi : m = i
          · refine ⟨.atDoor, ?_, .inr rfl⟩
            subst hmi
            rw [State.cart?, hcarts, Table.get?_modify_same]
            exact congrArg (Option.map _) hc
          · refine ⟨v, ?_, .inl rfl⟩
            rw [State.cart?, hcarts, Table.get?_modify_other _ hmi]
            exact hc
      obtain ⟨w, hw, hwv⟩ := hturn
      obtain ⟨u, hu, huw⟩ := ih _ (hn ▸ State.turnsLeft_lt ht) t w hw rfl
      refine ⟨u, hu, ?_⟩
      rcases huw with rfl | h
      · exact hwv
      · exact .inr h

/-! ## A bag goes aboard (R2, R13, R136) -/

/-- A bag, its demand check made, is ABOARD and counted by its cart's route; the carts are as they were. -/
def State.aboarded (s : State) (g : Handle) (j : RouteKey) (loc : Option Location) : State :=
  ((s.demandCheck g).modifyRoute j (fun r => { r with loaded := r.loaded + 1 })).moveBag g .aboard loc

section
variable {s : State} {g : Handle} {b : Bag} (hb : s.bag? g = some b) (j : RouteKey) (loc : Option Location)
include hb

theorem State.aboarded_bag? : (s.aboarded g j loc).bag? g =
    some (({ b with pull := demanded s b } : Bag).enter .aboard loc s.hallSecond) := by
  have hmove := (State.moveBag_store (s := (s.demandCheck g).modifyRoute j (fun r => { r with loaded := r.loaded + 1 }))
    (State.demandCheck_bag? hb) .aboard loc).1 g
  rw [if_pos rfl] at hmove
  exact hmove

theorem State.aboarded_counted (hst : b.state = .inCart) :
    Counted s (s.aboarded g j loc) b (fun n => { n with hall := n.hall - 1, aboard := n.aboard + 1 }) := by
  intro v
  have hmove := (State.moveBag_store (s := (s.demandCheck g).modifyRoute j (fun r => { r with loaded := r.loaded + 1 }))
    (State.demandCheck_bag? hb) .aboard loc).2.2.2.2 v
  refine hmove.trans ?_
  have hslot : (((s.demandCheck g).modifyRoute j (fun r => { r with loaded := r.loaded + 1 })).store.slot v).counts =
      (s.store.slot v).counts := congrArg Sailing.counts (State.modifyBag_slot s g _ v)
  rw [hslot, hst]
  rfl

theorem State.aboarded_cabin? {k : CabinKey} {o : Cabin} (hst : b.state = .inCart) (hk : b.home = some k)
    (ho : s.store.cabin? k = some o) : (s.aboarded g j loc).store.cabin? k = some { o with aboard := o.aboard + 1 } := by
  have hcabin : ((s.demandCheck g).modifyRoute j (fun r => { r with loaded := r.loaded + 1 })).store.cabin? k = some o := by
    change (s.demandCheck g).store.cabin? k = _
    rw [State.demandCheck, (State.modifyBag_frame ..).1]
    exact ho
  have hmove := State.moveBag_home (s := (s.demandCheck g).modifyRoute j (fun r => { r with loaded := r.loaded + 1 }))
    (State.demandCheck_bag? hb) hk hcabin .aboard loc
  refine hmove.trans ?_
  rw [hst]
  rfl

/-- Another bag is as it was. -/
theorem State.aboarded_other {o : Handle} (ho : o ≠ g) : (s.aboarded g j loc).bag? o = s.bag? o := by
  have hmove := (State.moveBag_store (s := (s.demandCheck g).modifyRoute j (fun r => { r with loaded := r.loaded + 1 }))
    (State.demandCheck_bag? hb) .aboard loc).1 o
  rw [if_neg ho] at hmove
  refine hmove.trans ?_
  change (s.demandCheck g).bag? o = _
  rw [State.demandCheck, State.modifyBag_bag?, if_neg ho]

end

theorem State.aboarded_route? {s : State} {j : RouteKey} {w : Route} (hw : s.route? j = some w) (g : Handle)
    (loc : Option Location) : (s.aboarded g j loc).route? j = some { w with loaded := w.loaded + 1 } :=
  State.modifyRoute_same (s := s.demandCheck g) hw fun r => { r with loaded := r.loaded + 1 }

/-- The cart's entry of a bag is marked. -/
def Cart.marked (c : Cart) (g : Handle) : Cart :=
  { c with entries := c.entries.map (fun e => if e.bag = g then { e with aboard := true } else e) }

/-- The state in which a bag has gone aboard from the cart at the door, before the door settles. -/
def State.markedAboard (s : State) (g : Handle) (j : RouteKey) (n : Nat) : State :=
  (s.aboarded g j (some (.cart n))).modifyCart n (fun c => c.marked g)

/-- The state in which a bag has gone aboard from another cart, before that cart is tested. -/
def State.takenAboard (s : State) (g : Handle) (j : RouteKey) (n : Nat) : State := (s.aboarded g j none).dropEntry n g

section
variable {s : State} {d n : Nat} {x : Door} (g : Handle) (j : RouteKey)

theorem State.board_atDoor (h : x.cart = some n) :
    (s.demandCheck g).board d x g n j = (s.markedAboard g j n).settleDoor d := if_pos h

theorem State.board_elsewhere (h : x.cart ≠ some n) :
    (s.demandCheck g).board d x g n j = ((s.takenAboard g j n).testCart n).settleDoor d := if_neg h

end

/-- What a boarding leaves of the bag, the counters and the route, and what door turns after it keep. -/
structure Boarded (s t : State) (g : Handle) (b : Bag) (k : CabinKey) (j : RouteKey) (w : Route) : Prop where
  bag : ∃ v, t.bag? g = some v ∧ v.state = .aboard ∧ v.pull = demanded s b ∧ v.home = b.home
  counted : Counted s t b (fun n => { n with hall := n.hall - 1, aboard := n.aboard + 1 })
  cabin : ∀ o, s.store.cabin? k = some o → t.store.cabin? k = some { o with aboard := o.aboard + 1 }
  route : ∃ q, t.route? j = some q ∧ q.loaded = w.loaded + 1

theorem Boarded.aboarded {s t : State} {g : Handle} {b : Bag} {k : CabinKey} {j : RouteKey} {w : Route} {loc : Option Location}
    (hb : s.bag? g = some b) (hst : b.state = .inCart) (hk : b.home = some k) (hw : s.route? j = some w)
    (hs : t.store = (s.aboarded g j loc).store) (hr : t.routes = (s.aboarded g j loc).routes) : Boarded s t g b k j w where
  bag := ⟨({ b with pull := demanded s b } : Bag).enter .aboard loc s.hallSecond, by rw [State.bag?, hs]; exact State.aboarded_bag? hb j loc,
    rfl, rfl, rfl⟩
  counted v := by rw [hs]; exact State.aboarded_counted hb j loc hst v
  cabin o ho := by rw [hs]; exact State.aboarded_cabin? hb j loc hst hk ho
  route := ⟨_, by rw [State.route?, hr]; exact State.aboarded_route? hw g loc, rfl⟩

theorem Boarded.turned {s t u : State} {g : Handle} {b : Bag} {k : CabinKey} {j : RouteKey} {w : Route}
    (h : Boarded s t g b k j w) (ht : Turned t u) : Boarded s u g b k j w where
  bag := by
    obtain ⟨v, hv, h1, h2, h3⟩ := h.bag
    obtain ⟨l, hl, -⟩ := ht.bag? hv
    exact ⟨_, hl, h1, h2, h3⟩
  counted v := by
    rw [show u.store.slot v = t.store.slot v from Store.slot_of_bags ht.store v]
    exact h.counted v
  cabin o ho := by rw [ht.store]; exact h.cabin o ho
  route := by
    obtain ⟨q, hq, hl⟩ := h.route
    obtain ⟨y, hy, hqy, -⟩ := ht.routes j q hq
    exact ⟨y, hy, by rw [hqy]; exact hl⟩

/-- Either way to board. -/
theorem Boarded.board {s : State} {g : Handle} {b : Bag} {k : CabinKey} {j : RouteKey} {w : Route} (d : Nat) (x : Door) (n : Nat)
    (hb : s.bag? g = some b) (hst : b.state = .inCart) (hk : b.home = some k) (hw : s.route? j = some w) :
    Boarded s ((s.demandCheck g).board d x g n j) g b k j w := by
  by_cases hat : x.cart = some n
  · have hbase : Boarded s (s.markedAboard g j n) g b k j w :=
      Boarded.aboarded (loc := some (.cart n)) hb hst hk hw rfl rfl
    rw [State.board_atDoor g j hat]
    exact hbase.turned (Turned.settleDoor ..)
  · have hbase : Boarded s (s.takenAboard g j n) g b k j w := Boarded.aboarded (loc := none) hb hst hk hw rfl rfl
    rw [State.board_elsewhere g j hat]
    exact (hbase.turned (Turned.testCart ..)).turned (Turned.settleDoor ..)

/-! ## The cart and the door of a boarding -/

theorem State.aboarded_changes (s : State) (g : Handle) (j : RouteKey) (loc : Option Location) :
    Changes [.store, .routes] s (s.aboarded g j loc) :=
  ((Keeps.demandCheck s g).comp (n := [.store, .routes]) (Keeps.modifyRoute _ j _) (by decide) (by decide)).changes.comp
    (Keeps.moveBag _ g .aboard loc).changes (by decide) (by decide)

/-- A route's loaded count says nothing about who waits in a queue. -/
theorem State.aboarded_queues (s : State) (g : Handle) (j : RouteKey) (loc : Option Location) {n : Nat}
    (h : ∀ q ∈ s.routes, n ∉ q.queue) : ∀ q ∈ (s.aboarded g j loc).routes, n ∉ q.queue := by
  have hroutes : (s.aboarded g j loc).routes =
      ((s.demandCheck g).modifyRoute j (fun r => { r with loaded := r.loaded + 1 })).routes :=
    (Keeps.moveBag _ g .aboard loc).changes .routes (by decide)
  rw [hroutes]
  exact forall_mem_modify (p := fun r : Route => n ∉ r.queue) (f := fun r => { r with loaded := r.loaded + 1 })
    (fun _ hr => hr) h _

theorem Cart.marked_busy {c : Cart} {g : Handle}
    (h : (∃ e ∈ c.entries.filter (fun e => e.bag != g), e.aboard = false) ∨ c.unidentified ≠ 0) : (c.marked g).done = false := by
  refine Bool.eq_false_iff.2 fun hd => ?_
  obtain ⟨hall, hzero⟩ := Cart.done_iff.1 hd
  rcases h with ⟨e, he, hea⟩ | h
  · obtain ⟨hm, hne⟩ := List.mem_filter.1 he
    exact Bool.false_ne_true (hea.symm.trans (hall e (List.mem_map.2 ⟨e, hm, if_neg (bne_iff_ne.1 hne)⟩)))
  · exact h hzero

theorem Cart.marked_done {c : Cart} {g : Handle} (h : ∀ e ∈ c.entries.filter (fun e => e.bag != g), e.aboard = true)
    (hu : c.unidentified = 0) : (c.marked g).done = true := by
  refine Cart.done_iff.2 ⟨fun e he => ?_, hu⟩
  obtain ⟨o, ho, rfl⟩ := List.mem_map.1 he
  split
  · rfl
  · next hne => exact h o (List.mem_filter.2 ⟨ho, bne_iff_ne.2 hne⟩)

section
variable {s : State} {d n : Nat} {y : Door} {g : Handle} {b : Bag} {j : RouteKey} {z : Cart} {w : Route}
  (hy : s.door? d = some y) (hb : s.bag? g = some b) (hz : s.cart? n = some z) (hw : s.route? j = some w)

/-- A cart without the entry of a bag. -/
def Cart.without (c : Cart) (g : Handle) : Cart := { c with entries := c.entries.filter (fun e => e.bag != g) }

theorem State.markedAboard_cart? (hz : s.cart? n = some z) : (s.markedAboard g j n).cart? n = some (z.marked g) := by
  refine State.modifyCart_same (s := s.aboarded g j (some (.cart n))) ?_ _
  rw [State.cart?, State.aboarded_changes s g j (some (.cart n)) .carts (by decide)]
  exact hz

theorem State.takenAboard_cart? (hz : s.cart? n = some z) : (s.takenAboard g j n).cart? n = some (z.without g) := by
  refine State.modifyCart_same (s := s.aboarded g j none) ?_ _
  rw [State.cart?, State.aboarded_changes s g j none .carts (by decide)]
  exact hz

theorem State.takenAboard_cart?_other {m : Nat} (hm : m ≠ n) : (s.takenAboard g j n).cart? m = s.cart? m := by
  refine (State.modifyCart_other (s.aboarded g j none) hm _).trans ?_
  rw [State.cart?, State.aboarded_changes s g j none .carts (by decide)]
  rfl

include hy

theorem State.markedAboard_door? : (s.markedAboard g j n).door? d = some y :=
  (congrArg (Table.get? · d) (State.aboarded_changes s g j (some (.cart n)) .doors (by decide))).trans hy

theorem State.takenAboard_door? : (s.takenAboard g j n).door? d = some y :=
  (congrArg (Table.get? · d) (State.aboarded_changes s g j none .doors (by decide))).trans hy

include hb hz hw

/-- The cart at the door, with more to come: it waits. -/
theorem State.markedAboard_waits (hn : y.cart = some n)
    (h : (∃ e ∈ z.entries.filter (fun e => e.bag != g), e.aboard = false) ∨ z.unidentified ≠ 0) :
    (∃ v, ((s.markedAboard g j n).settleDoor d).bag? g = some v ∧ v.location = some (.cart n)) ∧
    ((s.markedAboard g j n).settleDoor d).cart? n = some (z.marked g) ∧
    ((s.markedAboard g j n).settleDoor d).route? j = some { w with loaded := w.loaded + 1 } := by
  have hcart : (s.markedAboard g j n).cart? n = some (z.marked g) := State.markedAboard_cart? hz
  rw [State.settleDoor_busy (State.markedAboard_door? hy) hn hcart (Cart.marked_busy h)]
  have hk := (Keeps.setBelt (s.markedAboard g j n) d).changes
  refine ⟨⟨({ b with pull := demanded s b } : Bag).enter .aboard (some (.cart n)) s.hallSecond, ?_, rfl⟩, ?_, ?_⟩
  · rw [State.bag?, hk .store (by decide)]
    exact State.aboarded_bag? hb j _
  · rw [State.cart?, hk .carts (by decide)]
    exact hcart
  · rw [State.route?, hk .routes (by decide)]
    exact State.aboarded_route? hw g (some (.cart n))

/-- The cart at the door, all its entries marked: it completes. -/
theorem State.markedAboard_completes (hn : y.cart = some n) (hj : z.route = some j) (hin : ∃ e ∈ z.entries, e.bag = g)
    (h : ∀ e ∈ z.entries.filter (fun e => e.bag != g), e.aboard = true) (hu : z.unidentified = 0) :
    (∃ v, ((s.markedAboard g j n).settleDoor d).bag? g = some v ∧ v.location = none) ∧
    ((s.markedAboard g j n).settleDoor d).cart? n = none ∧
    (s.notices.sources.length = 15 → (z.notify = true ∨ w.notifyAll = true) →
      j.subject ∈ ((s.markedAboard g j n).settleDoor d).subjects .cartDone) ∧
    (∀ e ∈ z.entries.filter (fun e => e.bag != g), ∀ o, s.bag? e.bag = some o →
      ((s.markedAboard g j n).settleDoor d).bag? e.bag = some { o with location := none }) ∧
    ((∀ q ∈ s.routes, n ∉ q.queue) → ∀ u, ((s.markedAboard g j n).settleDoor d).door? d = some u → u.cart ≠ some n) := by
  have hcart : (s.markedAboard g j n).cart? n = some (z.marked g) := State.markedAboard_cart? hz
  have hdone : (z.marked g).done = true := Cart.marked_done h hu
  have hroute : (s.markedAboard g j n).route? j = some { w with loaded := w.loaded + 1 } := State.aboarded_route? hw g (some (.cart n))
  have hnotices : (s.markedAboard g j n).notices = s.notices :=
    State.aboarded_changes s g j (some (.cart n)) .notices (by decide)
  have hbag : ∀ o, (s.markedAboard g j n).bag? o = (s.aboarded g j (some (.cart n))).bag? o := fun _ => rfl
  obtain ⟨-, hcarts, -, -, hbags, -, -, -, htold, -⟩ := CartCompletes.completeCart (d := d) hcart hdone
  obtain ⟨-, hqueue, hdoor⟩ := State.completeCart_leaves (d := d) hcart hdone
  rw [State.settleDoor_done (State.markedAboard_door? hy) hn hcart hdone]
  generalize (s.markedAboard g j n).completeCart d n (z.marked g) = u at hcarts hbags htold hqueue hdoor ⊢
  have hturned := Turned.settleDoor d u
  have hgone : u.cart? n = none := by
    rw [State.cart?, hcarts]
    exact Table.get?_erase_same ..
  obtain ⟨o, ho, hog⟩ := hin
  have hentry : (⟨g, true⟩ : Entry) ∈ (z.marked g).entries := List.mem_map.2 ⟨o, ho, by rw [if_pos hog, hog]⟩
  refine ⟨⟨_, hturned.bag?_unlocated (hbags _ hentry _ ((hbag g).trans (State.aboarded_bag? hb j _))) rfl, rfl⟩,
    hturned.cart?_none hgone,
    fun h15 hflag => hturned.tells.stay _ _ (((htold (by rw [hnotices]; exact h15)).2 _).2
      (.inr ⟨j, _, hj, hroute, hflag, rfl⟩)), fun e he o ho => ?_, fun hq => ?_⟩
  · obtain ⟨hm, hne⟩ := List.mem_filter.1 he
    have hne' : e.bag ≠ g := bne_iff_ne.1 hne
    exact hturned.bag?_unlocated (hbags e (List.mem_map.2 ⟨e, hm, if_neg hne'⟩) o
      ((hbag _).trans ((State.aboarded_other hb j _ hne').trans ho))) rfl
  · refine (AwayFrom.settleDoor u ⟨hqueue n (State.aboarded_queues s g j (some (.cart n)) hq), fun v hv => ?_⟩).1.door
    rw [hdoor v hv]
    exact (Option.some_ne_none n).symm

end

section
variable {s : State} {d n : Nat} {y : Door} {g : Handle} {b : Bag} {j : RouteKey} {z : Cart} {w : Route}

/-- From a cart that is neither queued nor at a door, and waits in no queue, only the entry goes. -/
theorem State.takenAboard_leaves (hy : s.door? d = some y) (hz : s.cart? n = some z) (hn : y.cart ≠ some n) (h1 : z.state ≠ .queued) (h2 : z.state ≠ .atDoor)
    (hq : ∀ q ∈ s.routes, n ∉ q.queue) :
    (((s.takenAboard g j n).testCart n).settleDoor d).cart? n = some (z.without g) := by
  have hcart : (s.takenAboard g j n).cart? n = some (z.without g) := State.takenAboard_cart? hz
  rw [State.testCart_elsewhere hcart h1 h2]
  refine (AwayFrom.settleDoor (s.takenAboard g j n) ⟨State.aboarded_queues s g j none hq, fun u hu => ?_⟩).2.trans hcart
  cases (State.takenAboard_door? hy).symm.trans hu
  exact hn

/-- A queued cart that is left empty retires. -/
theorem State.takenAboard_retires (hz : s.cart? n = some z) (hw : s.route? j = some w)
    (hj : z.route = some j) (hst : z.state = .queued)
    (he : z.entries.filter (fun e => e.bag != g) = []) (hu : z.unidentified = 0) :
    (((s.takenAboard g j n).testCart n).settleDoor d).cart? n = none ∧
    (s.notices.sources.length = 15 → (z.notify = true ∨ w.notifyAll = true) →
      j.subject ∈ (((s.takenAboard g j n).testCart n).settleDoor d).subjects .cartDone) ∧
    ∀ q, (((s.takenAboard g j n).testCart n).settleDoor d).route? j = some q → n ∉ q.queue := by
  have hcart : (s.takenAboard g j n).cart? n = some (z.without g) := State.takenAboard_cart? hz
  have hroute : (s.takenAboard g j n).route? j = some { w with loaded := w.loaded + 1 } := State.aboarded_route? hw g none
  have hnotices : (s.takenAboard g j n).notices = s.notices := State.aboarded_changes s g j none .notices (by decide)
  obtain ⟨-, hcarts, htold, hqueue⟩ := State.testCart_retires hcart hst he hu
  obtain ⟨x, hx, -⟩ := (Turned.testCart (s.takenAboard g j n) n).routes j _ hroute
  have hturned := Turned.settleDoor d ((s.takenAboard g j n).testCart n)
  refine ⟨hturned.cart?_none ?_, fun h15 hflag => hturned.tells.stay _ _ (htold j _ (by rw [hnotices]; exact h15) hj hroute hflag),
    fun q hq hm => ?_⟩
  · rw [State.cart?, hcarts]
    exact Table.get?_erase_same ..
  · obtain ⟨v, hv, -, hsub, -⟩ := hturned.routes j x hx
    cases hq.symm.trans hv
    exact hqueue j x hj hx (hsub n hm)

/-- A queued cart that holds anything goes on, perhaps to the door. -/
theorem State.takenAboard_goesOn (hz : s.cart? n = some z) (hst : z.state = .queued)
    (h : (∃ e ∈ z.entries.filter (fun e => e.bag != g), e.aboard = false) ∨ z.unidentified ≠ 0) :
    ∃ u, (((s.takenAboard g j n).testCart n).settleDoor d).cart? n = some { z.without g with state := u } ∧
      (u = .queued ∨ u = .atDoor) := by
  have hcart : (s.takenAboard g j n).cart? n = some (z.without g) := State.takenAboard_cart? hz
  have hbusy : (z.without g).done = false := Bool.eq_false_iff.2 fun hd => by
    obtain ⟨hall, hzero⟩ := Cart.done_iff.1 hd
    rcases h with ⟨e, he, hea⟩ | h
    · exact Bool.false_ne_true (hea.symm.trans (hall e he))
    · exact h hzero
  have hholds : (z.without g).entries ≠ [] ∨ (z.without g).unidentified ≠ 0 :=
    h.imp_left fun ⟨e, he, _⟩ => List.ne_nil_of_mem he
  rw [State.testCart_holds hcart hst hholds]
  exact State.settleDoor_undone hbusy _ .queued (hcart.trans (by rw [← hst]; rfl))

/-- While another cart stands at the door, no cart comes to it. -/
theorem State.takenAboard_waits (hy : s.door? d = some y) (hz : s.cart? n = some z) (hw : s.route? j = some w)
    {m : Nat} {o : Cart} (hm : y.cart = some m) (hmn : m ≠ n) (ho : s.cart? m = some o)
    (hod : o.done = false) (h1 : z.state ≠ .queued) (h2 : z.state ≠ .atDoor) :
    (((s.takenAboard g j n).testCart n).settleDoor d).cart? n = some (z.without g) ∧
    (((s.takenAboard g j n).testCart n).settleDoor d).route? j = some { w with loaded := w.loaded + 1 } := by
  have hcart : (s.takenAboard g j n).cart? n = some (z.without g) := State.takenAboard_cart? hz
  rw [State.testCart_elsewhere hcart h1 h2,
    State.settleDoor_busy (State.takenAboard_door? hy) hm ((State.takenAboard_cart?_other hmn).trans ho) hod]
  have hk := (Keeps.setBelt (s.takenAboard g j n) d).changes
  refine ⟨?_, ?_⟩
  · rw [State.cart?, hk .carts (by decide)]
    exact hcart
  · rw [State.route?, hk .routes (by decide)]
    exact State.aboarded_route? hw g none

/-- From another cart, the bag is nowhere. -/
theorem State.takenAboard_bag? (hb : s.bag? g = some b) : (((s.takenAboard g j n).testCart n).settleDoor d).bag? g =
    some (({ b with pull := demanded s b } : Bag).enter .aboard none s.hallSecond) :=
  ((Turned.testCart (s.takenAboard g j n) n).trans (Turned.settleDoor d _)).bag?_unlocated
    (State.aboarded_bag? hb j none) rfl

end

/-! ## DOORSCAN -/

theorem doorscanBoards : Claim.DoorscanBoards := by
  intro f door read tag x y g b k c r w n z j s ha hs hy hread h1 h2 hg hb hk hopen hslot hc hr hd hst hloc hz hj hw hjs hwd
    hpull hsail rest
  set s1 := s.afterCheck f x with hs1
  obtain ⟨y1, hy1, hyy⟩ := State.afterCheck_door? s f x hy
  have hstore : s1.store = s.store := State.afterCheck_store ..
  have hroute : ∀ k, s1.route? k = s.route? k := State.afterCheck_route? s f x
  have hroutes : s1.routes = s.routes := (State.afterCheck_changes s f x .routes (by decide))
  have hberth : y1.berth = y.berth := by rw [hyy]
  have hcart : y1.cart = y.cart := by rw [hyy]
  have hb1 : s1.bag? g = some b := (State.afterCheck_bag? ..).trans hb
  have hc1 : s1.store.governing b = some c := by rw [hstore]; exact hc
  have hz1 : s1.cart? n = some z := (State.afterCheck_cart? ..).trans hz
  have hw1 : s1.route? j = some w := (hroute j).trans hw
  have hfound : s1.store.lookup tag.toNat = .found g b := Store.lookup_found (by rw [hstore]; exact hg) hb1 fun i hi hcl => by
    cases hi.symm.trans hk
    rw [hstore] at hcl
    exact hopen hcl
  have hright : s1.wrongDoor door.toNat b = false :=
    (State.wrongDoor_iff hy1).2 ⟨k, c, r, hk, hc1, hslot.trans hberth.symm, (hroute _).trans hr, hd⟩
  have hserved : s1.servedCart door.toNat b = some (n, j) :=
    (State.servedCart_iff hy1).2 ⟨hloc, z, w, hz1, hj, hjs.trans hberth.symm, hw1, hwd⟩
  have hvoid : c.status ≠ .void := by
    rcases hsail with h | ⟨h, -⟩ <;> rw [h] <;> exact CabinStatus.noConfusion
  have hdem : demanded s1 b = none := by
    rw [demanded_sails hc1 hvoid]
    cases hp : b.pull with
    | none => rfl
    | some o =>
      cases o with
      | cabin => rfl
      | request => exact absurd hp hpull
  have hexec : exec (.doorscan f door read tag) s = .next ((s1.demandCheck g).board door.toNat y1 g n j) := by
    rw [exec_doorscan ha hs (ReadResult.ofBytes_one hread h1 h2), ← hs1, State.scan_one hy1,
      State.scanTag_boarding hfound hright hst hserved, State.boardingTest_eq hb1 hk hc1,
      if_neg (fun h => h.elim hvoid hpull), if_neg]
    rintro ⟨hp, hbf⟩
    rw [hstore] at hbf
    rcases hsail with h | ⟨-, h⟩
    · exact CabinStatus.noConfusion (hp.symm.trans h)
    · exact Bool.false_ne_true (h.symm.trans hbf)
  have hkeeps : Changes [.store, .carts, .routes, .doors, .link, .notices] s1
      ((s1.demandCheck g).board door.toNat y1 g n j) :=
    ((Keeps.demandCheck s1 g).comp (Keeps.board ..) (by decide) (by decide)).changes
  have hlen : s1.notices.sources.length = s.notices.sources.length := State.afterCheck_sources ..
  have hboarded := Boarded.board door.toNat y1 n hb1 hst hk hw1
  obtain ⟨⟨v, hv, hvst, hvpull, hvhome⟩, hcounted, hcabin, hloaded⟩ := hboarded
  refine ⟨_, v, hexec, hkeeps, hv, hvst, hvpull.trans hdem, hvhome, hcounted.before hstore,
    fun o ho => hcabin o (by rw [hstore]; exact ho), hloaded, fun hat => ?_, fun hat => ?_, fun m o hm hmn ho hod q1 q2 => ?_⟩
  · rw [State.board_atDoor g j (hcart.trans hat)] at hv ⊢
    refine ⟨fun hmore => ?_, fun hin hall hu => ?_⟩
    · obtain ⟨⟨v', hv', hl⟩, ht⟩ := State.markedAboard_waits hy1 hb1 hz1 hw1 (hcart.trans hat) hmore
      cases hv.symm.trans hv'
      exact ⟨hl, ht⟩
    · obtain ⟨⟨v', hv', hl⟩, hgone, htold, hbags, hdoor⟩ :=
        State.markedAboard_completes hy1 hb1 hz1 hw1 (hcart.trans hat) hj hin hall hu
      cases hv.symm.trans hv'
      exact ⟨hl, hgone, fun h15 => htold (hlen.trans h15), fun e he o ho => hbags e he o ((State.afterCheck_bag? ..).trans ho),
        fun hq => hdoor (by rw [hroutes]; exact hq)⟩
  · rw [State.board_elsewhere g j (by rw [hcart]; exact hat)] at hv ⊢
    refine ⟨?_, fun q1 q2 hq => State.takenAboard_leaves hy1 hz1 (by rw [hcart]; exact hat) q1 q2 (by rw [hroutes]; exact hq),
      fun hq he hu => ?_, fun hq hmore => State.takenAboard_goesOn hz1 hq hmore⟩
    · cases hv.symm.trans (State.takenAboard_bag? hb1)
      rfl
    · obtain ⟨hgone, htold, hqueue⟩ := State.takenAboard_retires hz1 hw1 hj hq he hu
      exact ⟨hgone, fun h15 => htold (hlen.trans h15), hqueue⟩
  · have hne : y1.cart ≠ some n := by
      rw [hcart, hm]
      exact fun h => hmn (Option.some.inj h)
    rw [State.board_elsewhere g j hne]
    exact State.takenAboard_waits hy1 hz1 hw1 (hcart.trans hm) hmn ((State.afterCheck_cart? ..).trans ho) hod q1 q2

/-- Settles O51: by the lines of R135 and R136, a bag that may board by the turns of the door after it. -/
theorem doorScans : Obligations.DoorScans := ⟨haltStopsBelt, doorscanHalts, doorscanBoards⟩

end Sys2Proof.Machine
end

section
/-! A chute's decision point and the credit it tests (R94 to R99, R113, R148, R154). -/

namespace Sys2Proof.Machine

/-! ## The demand check before the decision (R94, R148) -/

section
variable {s : State} {g : Handle} {b : Bag} (hb : s.bag? g = some b)
include hb

/-- A demand check of a live bag puts its record. -/
theorem State.demandCheck_live : s.demandCheck g =
    s.setStore { s.store with bags := s.store.bags.put g.index (s.store.checked b) } :=
  State.modifyBag_live hb _

theorem State.demandCheck_checked : (s.demandCheck g).bag? g = some (s.store.checked b) := by
  rw [State.demandCheck_bag? hb, s.checked_eq]

theorem State.demandCheck_destination (o : Bag) (kind : ChuteKind) :
    (s.demandCheck g).destination o kind = s.destination o kind := by
  rw [State.demandCheck_live hb]
  rfl

theorem State.demandCheck_credit (c : Chute) : (s.demandCheck g).credit c = s.credit c := by
  rw [State.demandCheck_live hb]
  rfl

end

/-! ## A carrier is armed (R57, R99) -/

theorem State.modifyCarrier_carrier? (s : State) (i j : Nat) (f : Carrier → Carrier) :
    (s.modifyCarrier i f).carrier? j = if j = i then (s.carrier? j).map f else s.carrier? j := by
  change (s.loop.carriers.modify i f)[j]? = _
  rw [List.getElem?_modify]
  split
  · next h => rw [if_pos h.symm]; rfl
  · next h => rw [if_neg (Ne.symm h)]; exact Option.map_id'

/-- A DIVERT is no level frame: it never takes the place of a frame that waits. -/
theorem OutPayload.divert_differs (k : Nat) (p : Byte) (f : OutFrame) :
    (OutPayload.divert k p).sameLevel f.payload = false := by
  cases f.payload <;> rfl

/-- What arming a carrier for a chute does. -/
structure Arms (s t : State) (i k : Nat) (c : Chute) (pitch : Byte) (y : Content) (w : Option StrayReason) : Prop where
  carrier : t.carrier? i = some ⟨y, some ⟨k, c.lead + 3, w⟩⟩
  chute : t.chute? k = some { c with reserved := c.reserved + 1 }
  carriers : ∀ j, j ≠ i → t.carrier? j = s.carrier? j
  chutes : ∀ j, j ≠ k → t.chute? j = s.chute? j
  loop : t.loop = { s.loop with carriers := t.loop.carriers }
  sent : ∀ n, s.servingNode .chute k = some n → s.link.txQueue.length < txCapacity → ∃ x, s.node? n = some x ∧
    x.role = some .chute ∧ k ∈ x.objects ∧ t.node? n = some { x with outSeq := x.outSeq + 1 } ∧
    (∀ m, m ≠ n → t.node? m = s.node? m) ∧ t.link = { s.link with
      nodes := t.link.nodes
      txQueue := s.link.txQueue ++ [⟨n, x.outSeq, s.link.stampRef.getD 0, .divert k (pitch + BitVec.ofNat 8 c.lead)⟩] }
  full : txCapacity ≤ s.link.txQueue.length → t.link = s.link

/-- A chute's armed carrier and reservation, before the DIVERT is made. -/
def State.marked (s : State) (i k : Nat) (c : Chute) (w : Option StrayReason) : State :=
  (s.modifyCarrier i (fun e => { e with armed := some ⟨k, c.lead + 3, w⟩ })).modifyChute k
    (fun x => { x with reserved := x.reserved + 1 })

theorem State.arm_eq (s : State) (i k : Nat) (c : Chute) (pitch : Byte) (w : Option StrayReason) :
    s.arm i k c pitch w = (s.marked i k c w).send .chute k (.divert k (pitch + BitVec.ofNat 8 c.lead)) := rfl

theorem Arms.arm {s : State} {i k : Nat} {c : Chute} {y : Content} (hi : s.carrier? i = some ⟨y, none⟩)
    (hk : s.chute? k = some c) (pitch : Byte) (w : Option StrayReason) : Arms s (s.arm i k c pitch w) i k c pitch y w := by
  have hkeep := (Keeps.send (s.marked i k c w) .chute k (.divert k (pitch + BitVec.ofNat 8 c.lead))).changes
  have hloop : (s.arm i k c pitch w).loop = (s.marked i k c w).loop := hkeep .loop (by decide)
  have hchutes : (s.arm i k c pitch w).chutes = (s.marked i k c w).chutes := hkeep .chutes (by decide)
  have hcarrier := fun j => State.modifyCarrier_carrier? s i j (fun e => { e with armed := some ⟨k, c.lead + 3, w⟩ })
  have hchute := fun j => State.modifyChute_chute? s k j (fun x => { x with reserved := x.reserved + 1 })
  refine ⟨?_, ?_, fun j hj => ?_, fun j hj => ?_, ?_, fun n hn hc => ?_, fun hc => ?_⟩
  · rw [State.carrier?, hloop]
    refine (hcarrier i).trans ?_
    rw [if_pos rfl, hi]
    rfl
  · rw [State.chute?, hchutes]
    refine (hchute k).trans ?_
    rw [if_pos rfl, hk]
    rfl
  · rw [State.carrier?, hloop]
    exact (hcarrier j).trans (if_neg hj)
  · rw [State.chute?, hchutes]
    exact (hchute j).trans (if_neg hj)
  · rw [hloop]
    rfl
  · obtain ⟨x, hx, hrole, hserves⟩ := State.servingNode_eq hn
    have hw := fun f (_ : f ∈ (s.marked i k c w).link.txQueue) => OutPayload.divert_differs k (pitch + BitVec.ofNat 8 c.lead) f
    have hnode := State.send_joins_node? (s := s.marked i k c w) hn hx hw hc
    refine ⟨x, hx, hrole, (hserves.resolve_left Role.noConfusion).resolve_left Role.noConfusion, ?_, fun m hm => ?_, ?_⟩
    · exact (hnode n).trans (if_pos rfl)
    · exact (hnode m).trans (if_neg hm)
    · rw [State.arm_eq, State.send_joins (s := s.marked i k c w) hn hx hw hc]
      rfl
  · rw [State.arm_eq, State.send_full (s := s.marked i k c w) (fun f _ => OutPayload.divert_differs ..) hc]
    rfl

/-! ## A decision point is served (R94 to R98) -/

section
variable {s : State} {k : Nat} {c : Chute} (hk : s.chute? k = some c) (pitch : Byte)
include hk

theorem State.serveChute_untracked (ht : s.loop.track ≠ .tracking) : s.serveChute pitch k = s := by
  unfold State.serveChute
  rw [hk]
  dsimp only
  repeat' split
  · rfl
  · next h => exact absurd h ht
  all_goals rfl

theorem State.serveChute_other {e : Carrier} (he : s.carrier? (s.decisionCarrier c) = some e)
    (hno : e.armed ≠ none ∨ ∀ g, e.content ≠ .loaded g) : s.serveChute pitch k = s := by
  unfold State.serveChute
  rw [hk]
  dsimp only
  rw [he]
  dsimp only
  split
  · next g hg ha => exact absurd hno (not_or.2 ⟨fun h => h ha, fun h => h g hg⟩)
  · rfl

theorem State.serveChute_loaded (ht : s.loop.track = .tracking) {g : Handle}
    (he : s.carrier? (s.decisionCarrier c) = some ⟨.loaded g, none⟩) :
    s.serveChute pitch k = (s.demandCheck g).tryArm (s.decisionCarrier c) k c pitch g := by
  unfold State.serveChute
  rw [hk]
  dsimp only
  rw [he]
  exact if_pos ht

end

section
variable {s : State} {g : Handle} {b : Bag} (hb : s.bag? g = some b) (i k : Nat) (c : Chute) (pitch : Byte)
include hb

/-- With credit, a bag whose destination is the chute's arms the carrier. -/
theorem State.tryArm_arms {w : Option StrayReason} (h1 : 1 ≤ s.credit c)
    (hw : c.takes (s.destination (s.store.checked b) c.kind) = some w) :
    (s.demandCheck g).tryArm i k c pitch g = (s.demandCheck g).arm i k c pitch w := by
  rw [State.tryArm, State.demandCheck_checked hb]
  dsimp only
  rw [State.demandCheck_destination hb, hw]
  exact if_pos (by rw [State.demandCheck_credit hb]; exact h1)

theorem State.tryArm_passes (h : s.credit c = 0 ∨ c.takes (s.destination (s.store.checked b) c.kind) = none) :
    (s.demandCheck g).tryArm i k c pitch g = s.demandCheck g := by
  rw [State.tryArm, State.demandCheck_checked hb]
  dsimp only
  rw [State.demandCheck_destination hb]
  split
  · rfl
  · next w hw =>
    refine if_neg ?_
    rw [State.demandCheck_credit hb, h.resolve_right (by rw [hw]; exact Option.some_ne_none w)]
    decide

end

/-- A destination that is not the chute's. -/
theorem Chute.takes_none {c : Chute} {d : Destination} (h : d = .nowhere ∨ (∃ r, d = .stray r) ∧ c.kind = .deck ∨
    ∃ r, d = .route r ∧ (c.kind = .stray ∨ c.assigned ≠ some r)) : c.takes d = none := by
  rcases h with rfl | ⟨⟨r, rfl⟩, hk⟩ | ⟨r, rfl, hk⟩
  · rfl
  · exact if_neg (by rw [hk]; exact ChuteKind.noConfusion)
  · refine if_neg fun h => hk.elim (fun hs => ?_) fun hne => hne h.2
    exact ChuteKind.noConfusion (h.1.symm.trans hs)

theorem carrierArms : Claim.CarrierArms := by
  intro pitch k c s hk i t
  refine ⟨fun ht => State.serveChute_untracked hk pitch ht, fun e he hno => State.serveChute_other hk pitch he hno,
    fun g b ht he hb => ?_⟩
  have hserve : t = (s.demandCheck g).tryArm i k c pitch g := State.serveChute_loaded hk pitch ht he
  set u := s.demandCheck g with hu
  have hlive : u = s.setStore _ := State.demandCheck_live hb
  have hstore : t.store = u.store := by
    rw [hserve, State.tryArm, State.demandCheck_checked hb]
    dsimp only
    split
    · rfl
    · split
      · exact (Keeps.arm u i k c pitch _).changes .store (by decide)
      · rfl
  have harms : ∀ w, 1 ≤ s.credit c → c.takes (s.destination (s.store.checked b) c.kind) = some w →
      Arms s t i k c pitch (.loaded g) w := fun w h1 hw => by
    have harm : Arms u (u.arm i k c pitch w) i k c pitch (.loaded g) w := by
      refine Arms.arm ?_ ?_ pitch w
      · rw [hlive]
        exact he
      · rw [hlive]
        exact hk
    rw [hserve, State.tryArm_arms hb i k c pitch h1 hw, ← hu]
    rw [hlive] at harm ⊢
    exact ⟨harm.carrier, harm.chute, harm.carriers, harm.chutes, harm.loop, harm.sent, harm.full⟩
  refine ⟨?_, (Keeps.serveChute s pitch k).changes, fun j hj => ?_, fun r h1 hd hst => ?_, fun r h1 hd hst ha => ?_, fun hno => ?_⟩
  · rw [State.bag?, hstore]
    exact State.demandCheck_checked hb
  · rw [hstore]
    exact (State.modifyBag_frame s g _).2 j hj
  · obtain ⟨a1, a2, a3, a4, a5, a6, a7⟩ := harms (some r) h1 (by rw [hd]; exact if_pos hst)
    exact ⟨a1, a2, a3, a4, a5, a6, a7⟩
  · obtain ⟨a1, a2, a3, a4, a5, a6, a7⟩ := harms none h1 (by rw [hd]; exact if_pos ⟨hst, ha⟩)
    exact ⟨a1, a2, a3, a4, a5, a6, a7⟩
  · have hpass := State.tryArm_passes hb i k c pitch (hno.imp_right Chute.takes_none)
    rw [hserve, hpass, ← hu, hlive]
    exact ⟨rfl, rfl, rfl⟩

/-! ## The credit of a chute (R113, R154) -/

theorem creditCounts : Claim.CreditCounts := by
  intro s c claims
  refine ⟨rfl, fun h => if_neg h, fun ho hk => ?_, fun ho hk => ⟨fun ha => ?_, fun p n x ha hp hx => ?_⟩⟩
  · rw [State.credit, if_pos ho, hk]
  · have hnone : s.activeCart c = none := by
      rw [State.activeCart, Chute.active?, ha]
      rfl
    rw [State.credit, if_pos ho, hk]
    dsimp only
    rw [hnone]
  · rw [State.credit, if_pos ho, hk]
    dsimp only
    rw [State.activeCart_of ha hp hx]
    rfl

/-- Settles O42: by the carrier at the decision point, its bag's destination and the chute's credit. -/
theorem decisionPointArms : Obligations.DecisionPointArms := ⟨carrierArms, creditCounts⟩

end Sys2Proof.Machine
end

section
/-! PITCH (R53, R64, R65, R94, R104, R122). -/

namespace Sys2Proof.Machine

/-! ## What the steps of a pitch keep -/

/-- No chute and no carrier comes or goes, the track and its position stay, and every bag keeps its laps. -/
structure Rides (s t : State) : Prop where
  keys : t.chutes.map (·.1) = s.chutes.map (·.1)
  count : t.loop.carriers.length = s.loop.carriers.length
  pos : t.loop.pos = s.loop.pos
  track : t.loop.track = s.loop.track
  stampRef : t.link.stampRef = s.link.stampRef
  laps : ∀ g b, s.bag? g = some b → ∃ y, t.bag? g = some y ∧ y.laps = b.laps

theorem Rides.trans {s t u : State} (h : Rides s t) (k : Rides t u) : Rides s u where
  keys := k.keys.trans h.keys
  count := k.count.trans h.count
  pos := k.pos.trans h.pos
  track := k.track.trans h.track
  stampRef := k.stampRef.trans h.stampRef
  laps g b hb := by
    obtain ⟨y, hy, hyb⟩ := h.laps g b hb
    obtain ⟨z, hz, hzy⟩ := k.laps g y hy
    exact ⟨z, hz, hzy.trans hyb⟩

theorem Rides.refl (s : State) : Rides s s := ⟨rfl, rfl, rfl, rfl, rfl, fun _ b hb => ⟨b, hb, rfl⟩⟩

theorem Table.keys_modify {α : Type} (t : Table α) (i : Nat) (f : α → α) : (t.modify i f).map (·.1) = t.map (·.1) := by
  rw [Table.modify, List.map_map]
  refine List.map_congr_left fun e _ => ?_
  rw [Function.comp_apply]
  split <;> rfl

theorem Rides.modifyChute (s : State) (k : Nat) (f : Chute → Chute) : Rides s (s.modifyChute k f) :=
  ⟨Table.keys_modify .., rfl, rfl, rfl, rfl, fun _ b hb => ⟨b, hb, rfl⟩⟩

theorem Rides.modifyCarrier (s : State) (i : Nat) (f : Carrier → Carrier) : Rides s (s.modifyCarrier i f) :=
  ⟨rfl, List.length_modify .., rfl, rfl, rfl, fun _ b hb => ⟨b, hb, rfl⟩⟩

theorem Rides.modifyCart (s : State) (n : Nat) (f : Cart → Cart) : Rides s (s.modifyCart n f) :=
  ⟨rfl, rfl, rfl, rfl, rfl, fun _ b hb => ⟨b, hb, rfl⟩⟩

theorem Rides.raise (s : State) (v : Source) (n : Nat) : Rides s (s.raise v n) :=
  ⟨rfl, rfl, rfl, rfl, rfl, fun _ b hb => ⟨b, hb, rfl⟩⟩

theorem Rides.modifyBag (s : State) (h : Handle) {f : Bag → Bag} (hf : ∀ b, (f b).laps = b.laps) : Rides s (s.modifyBag h f) := by
  refine ⟨rfl, rfl, rfl, rfl, rfl, fun g b hb => ?_⟩
  rw [State.modifyBag_bag?, hb]
  split
  · exact ⟨_, rfl, hf b⟩
  · exact ⟨b, rfl, rfl⟩

theorem Rides.moveBag (s : State) (h : Handle) (st : BagState) (loc : Option Location) : Rides s (s.moveBag h st loc) := by
  refine ⟨rfl, rfl, rfl, rfl, rfl, fun g b hb => ?_⟩
  cases ho : s.bag? h with
  | none =>
    rw [State.moveBag_stale ho]
    exact ⟨b, hb, rfl⟩
  | some o =>
    rw [(State.moveBag_store ho st loc).1 g]
    split
    · next hg =>
      subst hg
      cases ho.symm.trans hb
      exact ⟨_, rfl, rfl⟩
    · exact ⟨b, hb, rfl⟩

theorem Store.checked_laps (t : Store) (b : Bag) : (t.checked b).laps = b.laps := by
  unfold Store.checked
  repeat' split
  all_goals rfl

theorem Rides.demandCheck (s : State) (h : Handle) : Rides s (s.demandCheck h) := Rides.modifyBag s h (Store.checked_laps _)

theorem Rides.send (s : State) (r : Role) (object : Nat) (p : OutPayload) : Rides s (s.send r object p) := by
  have hk := (Keeps.send s r object p).changes
  refine ⟨by rw [hk .chutes (by decide)], by rw [hk .loop (by decide)], by rw [hk .loop (by decide)], by rw [hk .loop (by decide)],
    by rw [(Sent.send s r object p).link], fun g b hb => ⟨b, ?_, rfl⟩⟩
  rw [State.bag?, hk .store (by decide)]
  exact hb

theorem Rides.swap (s : State) (k : Nat) : Rides s (s.swap k) := by
  unfold State.swap
  repeat' split
  · exact Rides.refl s
  · exact Rides.refl s
  · exact (Rides.modifyCart ..).trans (Rides.modifyChute ..)
  · exact (Rides.modifyChute ..).trans (Rides.raise ..)
  · exact Rides.modifyChute ..

theorem Rides.settleCut (s : State) (k : Nat) : Rides s (s.settleCut k) := by
  unfold State.settleCut
  repeat' split
  · exact Rides.refl s
  · exact Rides.refl s
  · exact (Rides.modifyCart ..).trans (Rides.swap ..)
  · exact Rides.refl s

/-! ## The steps of a pitch (R94, R104, R122) -/

theorem Rides.tryArm (s : State) (i k : Nat) (c : Chute) (pitch : Byte) (h : Handle) : Rides s (s.tryArm i k c pitch h) := by
  unfold State.tryArm
  repeat' split
  any_goals exact Rides.refl _
  exact ((Rides.modifyCarrier ..).trans (Rides.modifyChute ..)).trans (Rides.send ..)

theorem Rides.serveChute (pitch : Byte) (s : State) (k : Nat) : Rides s (s.serveChute pitch k) := by
  unfold State.serveChute
  dsimp only
  repeat' split
  any_goals exact Rides.refl s
  next h _ _ _ => exact (Rides.demandCheck s h).trans (Rides.tryArm ..)

theorem Rides.toLanding (s : State) (h : Handle) (k : Nat) (dl : Byte) (r : Option StrayReason) :
    Rides s (s.toLanding h k dl r) :=
  ((Rides.moveBag s h .landing (some (.chute k))).trans (Rides.modifyBag _ h fun b => by rfl)).trans (Rides.modifyChute _ k _)

theorem Rides.testMark (pitch : Byte) (s : State) (i : Nat) : Rides s (s.testMark pitch i) := by
  unfold State.testMark
  repeat' split
  any_goals exact Rides.refl s
  have hdisarm : ∀ k, Rides s (s.disarm i k) := fun k => (Rides.modifyCarrier ..).trans (Rides.modifyChute ..)
  unfold State.expire
  dsimp only
  split
  · exact (((hdisarm _).trans (Rides.toLanding ..)).trans (Rides.modifyCarrier ..)).trans (Rides.settleCut ..)
  · exact ((hdisarm _).trans (Rides.modifyCarrier ..)).trans (Rides.settleCut ..)

theorem Rides.jamAll (k : Nat) (l : List Handle) (s : State) : Rides s (s.jamAll k l) := by
  induction l generalizing s with
  | nil => exact Rides.refl s
  | cons h t ih => exact (Rides.moveBag ..).trans (ih _)

theorem Rides.jamDue (pitch : Byte) (s : State) (k : Nat) : Rides s (s.jamDue pitch k) := by
  unfold State.jamDue
  dsimp only
  repeat' split
  any_goals exact Rides.refl s
  exact ((Rides.jamAll ..).trans (Rides.modifyChute ..)).trans (Rides.raise ..)

theorem Rides.foldl {f : State → Nat → State} (hf : ∀ s k, Rides s (f s k)) (l : List Nat) (s : State) :
    Rides s (l.foldl f s) := by
  induction l generalizing s with
  | nil => exact Rides.refl s
  | cons k t ih => exact (hf s k).trans (ih _)

/-! ## One pitch (R65) -/

theorem State.serveChutes_eq_foldl (pitch : Byte) (l : List Nat) (s : State) :
    s.serveChutes pitch l = l.foldl (fun v k => v.serveChute pitch k) s := by
  induction l generalizing s with
  | nil => rfl
  | cons k t ih => exact ih _

theorem State.testMarks_eq_foldl (pitch : Byte) (l : List Nat) (s : State) :
    s.testMarks pitch l = l.foldl (fun v i => v.testMark pitch i) s := by
  induction l generalizing s with
  | nil => rfl
  | cons i t ih => exact ih _

theorem State.jamDueAll_eq_foldl (pitch : Byte) (l : List Nat) (s : State) :
    s.jamDueAll pitch l = l.foldl (fun v k => v.jamDue pitch k) s := by
  induction l generalizing s with
  | nil => rfl
  | cons k t ih => exact ih _

/-- A carrier whose mark, where it has one, has a pitch less. -/
def Carrier.lowered (e : Carrier) : Carrier := { e with armed := e.armed.map (fun m => { m with remaining := m.remaining - 1 }) }

theorem State.lowerMarks_eq (s : State) :
    s.lowerMarks = s.setLoop { s.loop with carriers := s.loop.carriers.map Carrier.lowered } := by
  unfold State.lowerMarks
  refine congrArg (fun l => s.setLoop { s.loop with carriers := l }) (List.map_congr_left fun e _ => ?_)
  obtain ⟨y, a⟩ := e
  cases a <;> rfl

theorem Rides.lowerMarks (s : State) : Rides s s.lowerMarks := by
  rw [State.lowerMarks_eq]
  exact ⟨rfl, List.length_map _, rfl, rfl, rfl, fun _ b hb => ⟨b, hb, rfl⟩⟩

/-- A state moved by one pitch, its lap counted and the pitch kept as the last one. -/
def State.moved (s : State) (pitch : Byte) : State := s.advance.countLap.setLink { s.advance.countLap.link with lastPitch := some pitch }

/-- The parts of a pitch after the lap, over the chutes of some keys and some number of carriers. -/
def State.servedBy (keys : List Nat) (n : Nat) (u : State) (pitch : Byte) : State :=
  keys.foldl (fun v k => v.jamDue pitch k) ((List.range n).foldl (fun v i => v.testMark pitch i)
    (keys.foldl (fun v k => v.serveChute pitch k) u.lowerMarks))

theorem State.countLap_keeps (s : State) : Changes [.store] s s.countLap := (Keeps.countLap s).changes

theorem State.processPitch_eq (s : State) (pitch : Byte) :
    s.processPitch pitch = (s.moved pitch).servedBy (s.chutes.map (·.1)) s.loop.carriers.length pitch := by
  have hkeys : (s.moved pitch).chutes = s.chutes := s.advance.countLap_keeps .chutes (by decide)
  have hcount : (s.moved pitch).loop.carriers = s.loop.carriers :=
    (congrArg Loop.carriers (s.advance.countLap_keeps .loop (by decide)) :)
  change (s.moved pitch).servePitch pitch = _
  unfold State.servePitch State.servedBy
  dsimp only
  rw [hkeys, State.serveChutes_eq_foldl, State.testMarks_eq_foldl, State.jamDueAll_eq_foldl]
  have h1 := (Rides.lowerMarks (s.moved pitch)).trans
    (Rides.foldl (f := fun v k => v.serveChute pitch k) (fun v k => Rides.serveChute pitch v k) (s.chutes.map (·.1)) _)
  have h2 := h1.trans (Rides.foldl (f := fun v i => v.testMark pitch i) (fun v i => Rides.testMark pitch v i)
    (List.range s.loop.carriers.length) _)
  have hn : State.carrierCount ((s.chutes.map (·.1)).foldl (fun v k => v.serveChute pitch k) (s.moved pitch).lowerMarks) =
      s.loop.carriers.length := h1.count.trans (congrArg List.length hcount)
  rw [hn, h2.keys, hkeys]

/-- What one or more pitches leave of the track: they move it on. -/
structure Pitched (n : Nat) (s t : State) : Prop where
  keys : t.chutes.map (·.1) = s.chutes.map (·.1)
  count : t.loop.carriers.length = s.loop.carriers.length
  pos : t.loop.pos = if n = 0 then s.loop.pos else (s.loop.pos + n) % s.loop.carriers.length
  track : t.loop.track = s.loop.track

theorem Rides.servedBy (keys : List Nat) (n : Nat) (u : State) (pitch : Byte) : Rides u (u.servedBy keys n pitch) :=
  (((Rides.lowerMarks u).trans (Rides.foldl (fun v k => Rides.serveChute pitch v k) keys _)).trans
    (Rides.foldl (fun v i => Rides.testMark pitch v i) (List.range n) _)).trans
    (Rides.foldl (fun v k => Rides.jamDue pitch v k) keys _)

theorem Rides.processPitch (s : State) (pitch : Byte) : Rides (s.moved pitch) (s.processPitch pitch) := by
  rw [State.processPitch_eq]
  exact Rides.servedBy ..

theorem State.moved_loop (s : State) (pitch : Byte) : (s.moved pitch).loop = s.advance.loop :=
  s.advance.countLap_keeps .loop (by decide)

theorem Pitched.processPitch (s : State) (pitch : Byte) : Pitched 1 s (s.processPitch pitch) := by
  have h := Rides.processPitch s pitch
  have hkeys : (s.moved pitch).chutes = s.chutes := s.advance.countLap_keeps .chutes (by decide)
  refine ⟨by rw [h.keys, hkeys], by rw [h.count, s.moved_loop]; rfl, ?_, by rw [h.track, s.moved_loop]; rfl⟩
  rw [h.pos, s.moved_loop, if_neg Nat.one_ne_zero]
  rfl

theorem Pitched.trans {m n : Nat} {s t u : State} (h : Pitched (m + 1) s t) (k : Pitched n t u) : Pitched (m + 1 + n) s u := by
  refine ⟨k.keys.trans h.keys, k.count.trans h.count, ?_, k.track.trans h.track⟩
  have hpos : t.loop.pos = (s.loop.pos + (m + 1)) % s.loop.carriers.length := by
    rw [h.pos, if_neg (Nat.succ_ne_zero m)]
  have hall : m + 1 + n ≠ 0 := by omega
  rw [if_neg hall, k.pos, hpos, h.count]
  by_cases hn : n = 0
  · rw [if_pos hn, hn, Nat.add_zero]
  · rw [if_neg hn, Nat.mod_add_mod, Nat.add_assoc]

theorem Pitched.processPitches (n : Nat) (c : Byte) (s : State) : Pitched n s (s.processPitches c n) := by
  induction n generalizing c s with
  | zero => exact ⟨rfl, rfl, rfl, rfl⟩
  | succ k ih =>
    rw [show k + 1 = 0 + 1 + k by omega]
    refine Pitched.trans (Pitched.processPitch s (c + 1)) ?_
    rw [show 0 + 1 + k = k + 1 by omega]
    exact ih (c + 1) _

/-! ## Several pitches (R65) -/

/-- Pitches one after another, where each is some function of the state while chutes and carriers stay. -/
theorem State.processPitches_eq_foldl {one : State → Byte → State} {keys : List Nat} {n : Nat}
    (hone : ∀ u c, u.chutes.map (·.1) = keys → u.loop.carriers.length = n → one u c = u.processPitch c) (k : Nat) (r : Byte)
    (s : State) (hk : s.chutes.map (·.1) = keys) (hn : s.loop.carriers.length = n) :
    (List.range k).foldl (fun v j => one v (r + BitVec.ofNat 8 (j + 1))) s = s.processPitches r k := by
  induction k generalizing r s with
  | zero => rfl
  | succ k ih =>
    have hp := Pitched.processPitch s (r + 1)
    have hfirst : one s (r + BitVec.ofNat 8 (0 + 1)) = s.processPitch (r + 1) := hone _ _ hk hn
    rw [List.range_succ_eq_map, List.foldl_cons, List.foldl_map, hfirst]
    refine Eq.trans ?_ (ih (r + 1) _ (hp.keys.trans hk) (hp.count.trans hn))
    refine congrArg (fun g => (List.range k).foldl g (s.processPitch (r + 1))) (funext fun v => funext fun j => congrArg (one v) ?_)
    rw [BitVec.add_assoc, Nat.succ_eq_add_one, Nat.add_comm (j + 1) 1, BitVec.ofNat_add]
    rfl

/-- Where a carrier with a bag comes home, the bag makes a lap. -/
theorem State.moved_laps {s : State} {c : Carrier} {g : Handle} {b : Bag}
    (hc : s.carrier? ((s.loop.pos + 1) % s.loop.carriers.length) = some c) (hg : c.content = .loaded g) (hb : s.bag? g = some b)
    (pitch : Byte) : ∃ y, (s.moved pitch).bag? g = some y ∧ y.laps = min (b.laps + 1) s.limits.recirc := by
  obtain ⟨content, armed⟩ := c
  cases hg
  have hlap : s.advance.countLap =
      s.advance.modifyBag g (fun b => { b with laps := min (b.laps + 1) s.limits.recirc }) := by
    rw [State.countLap, show s.advance.carrier? s.advance.loop.pos = some ⟨.loaded g, armed⟩ from hc]
    rfl
  refine ⟨{ b with laps := min (b.laps + 1) s.limits.recirc }, ?_, rfl⟩
  change s.advance.countLap.bag? g = _
  rw [hlap, State.modifyBag_bag?, if_pos rfl, show s.advance.bag? g = some b from hb]
  rfl

/-! ## PITCH (R53, R64) -/

theorem exec_pitch (f : FrameHead) (s : State) :
    exec (.pitch f) s = .next (s.receive f 0x01 [] fun t => t.takeFrame f ⟨.loop, none, true⟩ fun t => t.takePitch f.stamp) := rfl

/-- The state that takes the pitches: a cause of loss first where they are more than one. -/
def State.pitchStart (s : State) (k : Nat) : State := if k = 1 then s else s.causeOfLoss

theorem State.takePitch_absent {s : State} (h : s.link.stampRef = none) (c : Byte) :
    s.takePitch c = s.setLink { s.link with lastPitch := none, stampRef := some c } := by
  rw [State.takePitch, State.trackPitch, h]
  rfl

section
variable {s : State} {r c : Byte} (h : s.link.stampRef = some r)
include h

theorem State.takePitch_far (hk : (c - r).toNat = 0 ∨ 8 < (c - r).toNat) : s.takePitch c =
    s.causeOfLoss.setLink { s.causeOfLoss.link with lastPitch := none, stampRef := some c } := by
  rw [State.takePitch, State.trackPitch, h]
  dsimp only
  rw [if_neg (by omega), if_neg (by omega)]
  rfl

theorem State.takePitch_near (h1 : 1 ≤ (c - r).toNat) (h8 : (c - r).toNat ≤ 8) : s.takePitch c =
    ((s.pitchStart (c - r).toNat).processPitches r (c - r).toNat).setLink
      { ((s.pitchStart (c - r).toNat).processPitches r (c - r).toNat).link with stampRef := some c } := by
  rw [State.takePitch, State.trackPitch, h]
  dsimp only
  by_cases hk : (c - r).toNat = 1
  · rw [if_pos hk, State.pitchStart, if_pos hk, hk]
  · rw [if_neg hk, if_pos (by omega), State.pitchStart, if_neg hk]

end

/-- A cause of loss leaves a loop that is not tracked. -/
theorem State.causeOfLoss_untracked (s : State) : s.causeOfLoss.loop.track ≠ .tracking ∧ s.causeOfLoss.loop.track ≠ .confirming := by
  by_cases h : s.loop.track = .tracking ∨ s.loop.track = .confirming
  · rw [(State.causeOfLoss_track_count h).1, Loop.lost]
    split
    · exact ⟨TrackState.noConfusion, TrackState.noConfusion⟩
    · exact ⟨TrackState.noConfusion, TrackState.noConfusion⟩
  · rw [State.causeOfLoss, if_neg h]
    exact not_or.1 h

/-- What a PITCH that a loop node sends at a known stamp leaves. -/
theorem State.takePitch_leaves {s : State} {r c : Byte} (h : s.link.stampRef = some r) :
    let k := (c - r).toNat
    (s.takePitch c).link.stampRef = some c ∧ (s.takePitch c).loop.carriers.length = s.loop.carriers.length ∧
    (s.takePitch c).loop.pos = (if 1 ≤ k ∧ k ≤ 8 then (s.loop.pos + k) % s.loop.carriers.length else s.loop.pos) ∧
    (k ≠ 1 → (s.takePitch c).loop.track ≠ .tracking ∧ (s.takePitch c).loop.track ≠ .confirming) ∧
    (k = 1 → (s.takePitch c).loop.track = s.loop.track) := by
  intro k
  have hloss := SameTrack.causeOfLoss s
  by_cases hk : 1 ≤ k ∧ k ≤ 8
  · have hp := Pitched.processPitches k r (s.pitchStart k)
    have hstart : SameTrack s (s.pitchStart k) := by
      unfold State.pitchStart
      split
      · exact SameTrack.same rfl
      · exact hloss
    rw [State.takePitch_near h hk.1 hk.2]
    refine ⟨rfl, hp.count.trans (by rw [hstart.carriers]), ?_, fun hne => ?_, fun h1 => ?_⟩
    · rw [if_pos hk]
      refine hp.pos.trans ?_
      rw [if_neg (by omega), hstart.pos, hstart.carriers]
    · have htrack : ((s.pitchStart k).processPitches r k).loop.track = s.causeOfLoss.loop.track := by
        rw [hp.track, State.pitchStart, if_neg hne]
      change ((s.pitchStart k).processPitches r k).loop.track ≠ _ ∧ ((s.pitchStart k).processPitches r k).loop.track ≠ _
      rw [htrack]
      exact s.causeOfLoss_untracked
    · refine hp.track.trans ?_
      rw [State.pitchStart, if_pos h1]
  · rw [State.takePitch_far h (by omega)]
    refine ⟨rfl, congrArg List.length hloss.carriers, ?_, fun _ => s.causeOfLoss_untracked, fun h1 => absurd h1 (by omega)⟩
    rw [if_neg hk]
    exact hloss.pos

/-- Settles O43: pitch by pitch, each the model's own steps over the chutes and the carriers in turn. -/
theorem pitchAdvances : Obligations.PitchAdvances := by
  intro f x s ha hr s1 onePitch
  have hexec : exec (.pitch f) s = .next (s1.takePitch f.stamp) :=
    (exec_pitch f s).trans (congrArg Host.Outcome.next ((ha.here.receive 0x01 [] ⟨.loop, none, true⟩
      (fun t => t.takePitch f.stamp)).trans (if_pos (passesRole_plain hr s))))
  have htrack : SameTrack s s1 := SameTrack.afterCheck s f x
  have hchutes : s1.chutes = s.chutes := State.afterCheck_changes s f x .chutes (by decide)
  have hcount : s1.loop.carriers.length = s.loop.carriers.length := congrArg List.length htrack.carriers
  have hone : ∀ u c, u.chutes.map (·.1) = s.chutes.map (·.1) → u.loop.carriers.length = s.loop.carriers.length →
      onePitch u c = u.processPitch c := fun u c hk hn => by
    rw [State.processPitch_eq, hk, hn, State.servedBy, State.lowerMarks_eq]
    rfl
  refine ⟨fun hno => ?_, fun r href => ?_⟩
  · rw [hexec, State.takePitch_absent (ha.here.stampRef.trans hno)]
  · intro k
    have href1 : s1.link.stampRef = some r := ha.here.stampRef.trans href
    obtain ⟨l1, l2, l3, l4, l5⟩ := State.takePitch_leaves (c := f.stamp) href1
    refine ⟨fun hk => ?_, fun h1 h8 => ?_, _, hexec, (Keeps.takePitch s1 f.stamp).changes, l1, l2.trans hcount, ?_, l4,
      fun h1 => ⟨l5 h1, fun c g b hc hg hb => ?_⟩⟩
    · rw [hexec, State.takePitch_far href1 hk]
    · intro u
      have hloss : s1.causeOfLoss.chutes = s1.chutes := (Keeps.causeOfLoss s1).changes .chutes (by decide)
      have hstart : (s1.pitchStart k).chutes = s.chutes ∧ (s1.pitchStart k).loop.carriers.length = s.loop.carriers.length := by
        unfold State.pitchStart
        split
        · exact ⟨hchutes, hcount⟩
        · exact ⟨hloss.trans hchutes, (congrArg List.length (SameTrack.causeOfLoss s1).carriers).trans hcount⟩
      have hu : u = (s1.pitchStart k).processPitches r k :=
        State.processPitches_eq_foldl hone k r (s1.pitchStart k) (by rw [hstart.1]) hstart.2
      rw [hexec, State.takePitch_near href1 h1 h8, hu]
    · rw [l3, hcount, htrack.pos]
    · have hb1 : s1.bag? g = some b := (State.afterCheck_bag? ..).trans hb
      have hc1 : s1.carrier? ((s1.loop.pos + 1) % s1.loop.carriers.length) = some c := by
        rw [hcount, htrack.pos]
        exact (State.afterCheck_carrier? ..).trans hc
      obtain ⟨y, hy, hyl⟩ := State.moved_laps hc1 hg hb1 (r + 1)
      obtain ⟨z, hz, hzy⟩ := (Rides.processPitch s1 (r + 1)).laps g y hy
      refine ⟨z, ?_, hzy.trans (hyl.trans (by rw [State.afterCheck_limits]))⟩
      rw [State.takePitch_near href1 (Nat.le_of_eq h1.symm) (by omega), State.pitchStart, if_pos h1,
        show (f.stamp - r).toNat = 1 from h1]
      exact hz

end Sys2Proof.Machine
end

section
/-! What a read brings onto a carrier: a bag found, or a new one (R21, R31, R68, R69, R73, R156). -/

namespace Sys2Proof.Machine

/-! ## What a read brings (R33, R69, R73) -/

theorem State.find_congr {s t : State} (h : t.store = s.store) (r : ReadResult) : t.find r = s.find r := by
  unfold State.find
  rw [h]

theorem FoundBag.read {s : State} {read : Byte} {tag : BitVec 32} {g : Handle} {b : Bag} (h : FoundBag s read tag g b) :
    ReadResult.ofBytes read tag = some (.one tag.toNat) ∧ s.find (.one tag.toNat) = .bag g b := by
  obtain ⟨hr, h1, h2, hg, hb, hopen⟩ := h
  refine ⟨ReadResult.ofBytes_one hr h1 h2, ?_⟩
  rw [State.find, Store.lookup_found hg hb hopen]

/-- A read that brings a new bag: nothing is found, or a bag that may not be the one seen. -/
theorem NewBag.read {s : State} {read : Byte} {tag : BitVec 32} {may : Bag → Prop} {tagged : Option Nat} {why : StrayReason}
    (h : NewBag s read tag may tagged why) : ∃ r, ReadResult.ofBytes read tag = some r ∧ (r ≠ .noTag ↔ read.toNat ≠ 0) ∧
    (s.find r = .fresh tagged why ∨ ∃ g b, s.find r = .bag g b ∧ ¬may b ∧ tagged = none ∧ why = .duplicateTag) := by
  rcases h with ⟨h0, rfl, rfl⟩ | ⟨h2, rfl, rfl⟩ | ⟨h1, hlow, hhigh, h⟩
  · exact ⟨_, ReadResult.ofBytes_noTag h0 tag, ⟨fun h => absurd rfl h, fun h => absurd h0 h⟩, .inl rfl⟩
  · exact ⟨_, ReadResult.ofBytes_several h2 tag, ⟨fun _ => by omega, fun _ => ReadResult.noConfusion⟩, .inl rfl⟩
  · refine ⟨_, ReadResult.ofBytes_one h1 hlow hhigh, ⟨fun _ => by omega, fun _ => ReadResult.noConfusion⟩, ?_⟩
    rcases h with ⟨hno, rfl, rfl⟩ | ⟨rfl, g, b, hg, hb, ⟨⟨k, hk, hcl⟩, rfl⟩ | ⟨hopen, hmay, rfl⟩⟩
    · exact .inl (by rw [State.find, Store.lookup_none hno])
    · exact .inl (by rw [State.find, Store.lookup_closed hg hb hk hcl])
    · exact .inr ⟨g, b, by rw [State.find, Store.lookup_found hg hb hopen], hmay, rfl, rfl⟩

theorem NewBag.before {s t : State} {read : Byte} {tag : BitVec 32} {may : Bag → Prop} {tagged : Option Nat} {why : StrayReason}
    (h : NewBag s read tag may tagged why) (ht : t.store = s.store) : NewBag t read tag may tagged why := by
  have hslot : ∀ v, t.slotState v = s.slotState v := fun v => by rw [State.slotState, ht]; rfl
  unfold NewBag State.bag? at *
  simp only [ht, hslot]
  exact h

theorem FoundBag.before {s t : State} {read : Byte} {tag : BitVec 32} {g : Handle} {b : Bag} (h : FoundBag s read tag g b)
    (ht : t.store = s.store) : FoundBag t read tag g b := by
  obtain ⟨hr, h1, h2, hg, hb, hopen⟩ := h
  exact ⟨hr, h1, h2, by rw [ht]; exact hg, by rw [State.bag?, ht]; exact hb, fun k hk => by
    rw [State.slotState, ht]; exact hopen k hk⟩

/-! ## One record rewritten (R2) -/

/-- Two live bags stand in different records. -/
theorem State.index_ne {s : State} {g o : Handle} {b x : Bag} (hg : s.bag? g = some b) (ho : s.bag? o = some x) (h : o ≠ g) :
    o.index ≠ g.index := fun hi => h <| by
  obtain ⟨h1, -⟩ := Store.bag?_eq_some.1 hg
  obtain ⟨h2, -⟩ := Store.bag?_eq_some.1 ho
  cases o
  cases g
  cases hi
  cases h1.symm.trans h2
  rfl

/-- Of the store, one bag's record has changed, and its slot's counters and its cabin's count. -/
structure Recast (s t : State) (g : Handle) (b y : Bag) (w : Counters → Counters) : Prop where
  bag : t.bag? g = some y
  home : y.home = b.home
  other : ∀ o, o ≠ g → t.bag? o = s.bag? o
  others : ∀ i, i ≠ g.index → t.store.bags.get? i = s.store.bags.get? i
  tags : t.store.tagMap = s.store.tagMap
  counted : Counted s t b w
  alike : Store.Alike s.store t.store
  size : BagTableLaw s → t.store.bags.length = s.store.bags.length

theorem Recast.ofStore {s t u : State} {g : Handle} {b y : Bag} {w : Counters → Counters} (h : Recast s t g b y w)
    (hs : u.store = t.store) : Recast s u g b y w where
  bag := by rw [State.bag?, hs]; exact h.bag
  home := h.home
  other o ho := by rw [State.bag?, hs]; exact h.other o ho
  others i hi := by rw [hs]; exact h.others i hi
  tags := by rw [hs]; exact h.tags
  counted v := by rw [hs]; exact h.counted v
  alike := by rw [hs]; exact h.alike
  size hl := by rw [hs]; exact h.size hl

theorem Recast.before {s u t : State} {g : Handle} {b y : Bag} {w : Counters → Counters} (h : Recast u t g b y w)
    (hs : u.store = s.store) : Recast s t g b y w where
  bag := h.bag
  home := h.home
  other o ho := (h.other o ho).trans (by rw [State.bag?, hs]; rfl)
  others i hi := (h.others i hi).trans (by rw [hs])
  tags := h.tags.trans (by rw [hs])
  counted := h.counted.before hs
  alike := hs ▸ h.alike
  size hl := (h.size (BagTableLaw.ofStore hs hl)).trans (by rw [hs])

section
variable {s : State} {g : Handle} {b : Bag} (hb : s.bag? g = some b)
include hb

theorem Recast.moveBag (st : BagState) (loc : Option Location) :
    Recast s (s.moveBag g st loc) g b (b.enter st loc s.hallSecond) (fun n => n.move b.state st) := by
  obtain ⟨hbag, hothers, htags, -, hcounts⟩ := State.moveBag_store hb st loc
  refine ⟨by rw [hbag, if_pos rfl], rfl, fun o ho => by rw [hbag, if_neg ho], fun i hi => hothers i (Ne.symm hi), htags, hcounts,
    State.moveBag_alike _ _ _ _, fun hl => State.moveBag_length hl ..⟩

theorem Recast.modifyBag' {f : Bag → Bag} (hh : (f b).home = b.home) :
    Recast s (s.modifyBag g f) g b (f b) id := by
  refine ⟨by rw [State.modifyBag_bag?, if_pos rfl, hb]; rfl, hh, fun o ho => by rw [State.modifyBag_bag?, if_neg ho],
    fun i hi => (State.modifyBag_frame ..).2 i hi, by rw [(State.modifyBag_frame ..).1], fun v => ?_, State.modifyBag_alike _ _ _,
    fun hl => State.modifyBag_length hl ..⟩
  rw [State.modifyBag_slot, id_eq, ite_self]

end

theorem Recast.modifyBag {s t : State} {g : Handle} {b y : Bag} {w : Counters → Counters} (h : Recast s t g b y w) {f : Bag → Bag}
    (hh : (f y).home = y.home) (hl : BagTableLaw s → BagTableLaw t) :
    Recast s (t.modifyBag g f) g b (f y) w where
  bag := by rw [State.modifyBag_bag?, if_pos rfl, h.bag]; rfl
  home := hh.trans h.home
  other o ho := by rw [State.modifyBag_bag?, if_neg ho]; exact h.other o ho
  others i hi := ((State.modifyBag_frame ..).2 i hi).trans (h.others i hi)
  tags := by rw [(State.modifyBag_frame ..).1]; exact h.tags
  counted v := by rw [State.modifyBag_slot]; exact h.counted v
  alike := h.alike.trans (State.modifyBag_alike _ _ _)
  size hs := (State.modifyBag_length (hl hs) ..).trans (h.size hs)

theorem Recast.demandCheck {s t : State} {g : Handle} {b y : Bag} {w : Counters → Counters} (h : Recast s t g b y w)
    (hp : y.pull = b.pull) (hl : BagTableLaw s → BagTableLaw t) :
    Recast s (t.demandCheck g) g b { y with pull := demanded s b } w := by
  have hfix : ∀ z, (t.store.checked z).home = z.home := fun z => by rw [t.checked_eq]
  have hr := h.modifyBag (f := t.store.checked) (hfix y) hl
  rw [t.checked_eq, demanded_congr h.alike h.home hp] at hr
  exact hr

/-- A bag is MISSING, and nowhere. -/
theorem Recast.makeMissing {s : State} {g : Handle} {b : Bag} (hb : s.bag? g = some b) :
    Recast s (s.makeMissing g) g b (b.enter .missing none s.hallSecond) (fun n => n.move b.state .missing) :=
  Recast.moveBag hb .missing none

theorem State.makeMissing_gen {s : State} {g : Handle} {b : Bag} (hb : s.bag? g = some b) (i : Nat) :
    (s.makeMissing g).store.gen i = s.store.gen i :=
  congrArg (fun t : Table (BitVec 8) => (t.get? i).getD 0) (State.moveBag_store hb .missing none).2.2.2.1

/-! ## A found bag goes onto a carrier (R68, R73, R156) -/

/-- A bag found is on a carrier: the rest of the loop, the pen and its hold. -/
structure Carried (s t : State) (c : Nat) (e : Carrier) (g : Handle) (b : Bag) : Prop where
  changes : Changes [.store, .pen, .link, .loop, .notices] s t
  still : ¬InPen b → Changes [.store, .loop] s t
  carrier : t.carrier? c = some ⟨.loaded g, e.armed⟩
  carriers : ∀ i, i ≠ c → t.carrier? i = s.carrier? i
  loop : t.loop = { s.loop with points := t.loop.points, carriers := t.loop.carriers }
  pen : ∀ q, b.state = .stray → b.location = some (.pen q) → t.pen.positions.get? q = none ∧ g ∉ t.pen.strays ∧
    q ∉ t.subjects .strayAged ∧ ∀ j, j ≠ q → t.pen.positions.get? j = s.pen.positions.get? j
  holds : BagTableLaw s → HoldsFollow s t (InPen b)

theorem State.leavePen_pen {b : Bag} {p : Nat} (hst : b.state = .stray) (hl : b.location = some (.pen p)) (s : State)
    (g : Handle) : s.leavePen g b = s.freePosition g p := by
  rw [State.leavePen, hst, hl]

theorem State.leavePen_none {b : Bag} (h : ¬InPen b) (s : State) (g : Handle) : s.leavePen g b = s := by
  unfold State.leavePen
  split
  · next p hst hl => exact absurd ⟨hst, p, hl⟩ h
  · rfl

theorem State.freePosition_unaged (s : State) (g : Handle) (p : Nat) : p ∉ (s.freePosition g p).subjects .strayAged := by
  rw [State.freePosition, State.testPenHold_subjects _ (by decide)]
  unfold State.subjects
  change p ∉ match (s.notices.sources.modify Source.strayAged.number _)[Source.strayAged.number]? with
    | some n => n.subjects
    | none => []
  rw [List.getElem?_modify_eq]
  cases s.notices.sources[Source.strayAged.number]? with
  | none => exact List.not_mem_nil
  | some x => exact fun hm => by simp at hm

/-- A bag leaves its position of the pen, or, where it stands in none, nothing, and goes onto the carrier. -/
def State.onto (s : State) (c : Nat) (g : Handle) (b : Bag) : State := (s.leavePen g b).setContent c (.loaded g)

theorem Keeps.onto (s : State) (c : Nat) (g : Handle) (b : Bag) : Keeps [.pen, .link, .loop, .notices] s (s.onto c g b) :=
  (Keeps.leavePen s g b).comp (Keeps.setContent _ c _) (by decide) (by decide)

theorem State.onto_store (s : State) (c : Nat) (g : Handle) (b : Bag) : (s.onto c g b).store = s.store :=
  (Keeps.onto s c g b).changes .store (by decide)

theorem State.leavePen_loop (s : State) (g : Handle) (b : Bag) :
    (s.leavePen g b).loop = { s.loop with points := (s.leavePen g b).loop.points } := by
  unfold State.leavePen
  split
  · exact State.freePosition_loop ..
  · rfl

/-- Setting a carrier's contents after operations that change the points alone. -/
theorem State.setContent_loop {s u : State} (h : u.loop = { s.loop with points := u.loop.points }) (c : Nat) (x : Content) :
    (u.setContent c x).loop =
      { s.loop with points := (u.setContent c x).loop.points, carriers := (u.setContent c x).loop.carriers } :=
  congrArg (fun l : Loop => { l with carriers := (u.setContent c x).loop.carriers }) h

theorem Carried.onto {s : State} {c : Nat} {e : Carrier} (he : s.carrier? c = some e) (g : Handle) (b : Bag) :
    Carried s (s.onto c g b) c e g b := by
  have hcarriers : ∀ i, (s.leavePen g b).carrier? i = s.carrier? i := fun i => by
    rw [State.carrier?, State.leavePen_loop]
    rfl
  refine ⟨(Keeps.onto s c g b).changes.mono (by decide), fun hno => ?_, ?_, fun i hi => ?_, ?_, fun q hst hl => ?_, fun _ => ?_⟩
  · rw [State.onto, State.leavePen_none hno]
    exact (Keeps.setContent s c _).changes.mono (by decide)
  · rw [State.onto, State.setContent_carrier?, if_pos rfl, hcarriers, he]
    rfl
  · rw [State.onto, State.setContent_carrier?, if_neg hi, hcarriers]
  · exact State.setContent_loop (State.leavePen_loop s g b) c _
  · rw [State.onto, State.leavePen_pen hst hl]
    change (s.freePosition g q).pen.positions.get? q = none ∧ g ∉ (s.freePosition g q).pen.strays ∧
      q ∉ (s.freePosition g q).subjects .strayAged ∧ ∀ j, j ≠ q → (s.freePosition g q).pen.positions.get? j = _
    refine ⟨?_, ?_, State.freePosition_unaged s g q, fun j hj => ?_⟩
    · rw [State.freePosition_pen]
      exact Table.get?_erase_same ..
    · rw [State.freePosition_pen]
      exact fun hm => absurd rfl (bne_iff_ne.1 (List.mem_filter.1 hm).2)
    · rw [State.freePosition_pen]
      exact Table.get?_erase_other _ hj
  · by_cases hin : InPen b
    · obtain ⟨hst, p, hl⟩ := id hin
      refine HoldsFollow.congr ⟨fun _ => hin, fun _ => trivial⟩ ?_
      rw [State.onto, State.leavePen_pen hst hl]
      exact (HoldsFollow.freePosition s g p).after ⟨rfl, rfl, rfl, rfl, rfl⟩ rfl rfl
    · refine HoldsFollow.congr ⟨False.elim, hin⟩ ?_
      rw [State.onto, State.leavePen_none hin]
      exact HoldsFollow.same ⟨rfl, rfl, rfl, rfl, rfl⟩

section
variable {s u t : State} {c : Nat} {e : Carrier} {g : Handle} {b : Bag}

/-- Before it, records have changed, though none came or went. -/
theorem Carried.before (h : Carried u t c e g b) (hch : Changes [.store] s u)
    (hsize : BagTableLaw s → BagTableLaw u ∧ u.store.bags.length = s.store.bags.length) : Carried s t c e g b where
  changes := hch.comp h.changes (by decide) (by decide)
  still hno := hch.comp (h.still hno) (by decide) (by decide)
  carrier := h.carrier
  carriers i hi := (h.carriers i hi).trans (by rw [State.carrier?, hch .loop (by decide)]; rfl)
  loop := by rw [← show u.loop = s.loop from hch .loop (by decide)]; exact h.loop
  pen q hst hl := by rw [← show u.pen = s.pen from hch .pen (by decide)]; exact h.pen q hst hl
  holds hl := (h.holds (hsize hl).1).before ⟨by rw [hch .loop (by decide)], by rw [hch .pen (by decide)],
    tableLow_of_length (hsize hl).2, State.subjects_congr (hch .notices (by decide)) _, by rw [hch .notices (by decide)]⟩

/-- After it, records have changed, though none came or went. -/
theorem Carried.after (h : Carried s u c e g b) (hch : Changes [.store] u t)
    (hsize : BagTableLaw s → t.store.bags.length = u.store.bags.length) : Carried s t c e g b where
  changes := h.changes.comp hch (by decide) (by decide)
  still hno := (h.still hno).comp hch (by decide) (by decide)
  carrier := by rw [State.carrier?, hch .loop (by decide)]; exact h.carrier
  carriers i hi := by rw [State.carrier?, hch .loop (by decide)]; exact h.carriers i hi
  loop := by rw [show t.loop = u.loop from hch .loop (by decide)]; exact h.loop
  pen q hst hl := by
    rw [show t.pen = u.pen from hch .pen (by decide), State.subjects_congr (hch .notices (by decide))]
    exact h.pen q hst hl
  holds hl := (h.holds hl).after ⟨by rw [hch .loop (by decide)], by rw [hch .pen (by decide)], tableLow_of_length (hsize hl),
    State.subjects_congr (hch .notices (by decide)) _, by rw [hch .notices (by decide)]⟩
    (by rw [penFree, penFree, show t.pen = u.pen from hch .pen (by decide)]) (by rw [show t.limits = u.limits from hch .limits (by decide)])

end

/-! ## A new bag goes onto a carrier (R21, R31, R68, R73) -/

section
variable {s : State} {c : Nat} {e : Carrier} (he : s.carrier? c = some e) (tag : Option Nat) (w : StrayReason)

theorem State.placeFresh_full (h : bagRecords ≤ s.store.bags.length) : s.placeFresh c tag w = s.setContent c .unknown := by
  rw [State.placeFresh, State.createBag_eq, if_neg (Nat.not_lt.2 h)]

section
variable (h : s.store.bags.length < bagRecords)
include h

theorem State.placeFresh_eq : s.placeFresh c tag w =
    (s.withBag (loopBag tag w c)).setContent c (.loaded s.store.newHandle) := by
  rw [State.placeFresh, State.createBag_eq, if_pos h]

theorem Created.placeFresh : Created s (s.placeFresh c tag w) s.store.newHandle none (loopBag tag w c) := by
  rw [State.placeFresh_eq tag w h]
  exact Created.withBag s (loopBag tag w c) h

end

theorem HoldsFollow.placeFresh : HoldsFollow s (s.placeFresh c tag w) False := by
  by_cases h : s.store.bags.length < bagRecords
  · have hmade : s.createBag (loopBag tag w c) = some (s.store.newHandle, s.withBag (loopBag tag w c)) := by
      rw [State.createBag_eq, if_pos h]
    rw [State.placeFresh_eq tag w h]
    exact (HoldsFollow.createBag hmade).after ⟨rfl, rfl, rfl, rfl, rfl⟩ rfl rfl
  · rw [State.placeFresh_full tag w (Nat.le_of_not_lt h)]
    exact HoldsFollow.same ⟨rfl, rfl, rfl, rfl, rfl⟩

theorem State.placeFresh_loop : (s.placeFresh c tag w).loop =
    { s.loop with points := (s.placeFresh c tag w).loop.points, carriers := (s.placeFresh c tag w).loop.carriers } := by
  by_cases h : s.store.bags.length < bagRecords
  · rw [State.placeFresh_eq tag w h]
    exact State.setContent_loop (State.withBag_loop s _) c _
  · rw [State.placeFresh_full tag w (Nat.le_of_not_lt h)]
    rfl

/-- A bag that is placed new has no home, and no slot counts it. -/
theorem State.placeFresh_counts (v : SlotId) : ((s.placeFresh c tag w).store.slot v).counts = (s.store.slot v).counts := by
  by_cases h : s.store.bags.length < bagRecords
  · rw [State.placeFresh_eq tag w h]
    change ((s.withBag (loopBag tag w c)).store.slot v).counts = _
    rw [State.withBag_store]
    exact Store.withBag_counts ..
  · rw [State.placeFresh_full tag w (Nat.le_of_not_lt h)]
    cases v <;> rfl

/-- The bags that live stay as they are. -/
theorem State.placeFresh_bag? (hl : BagTableLaw s) {o : Handle} {b : Bag} (hb : s.bag? o = some b) :
    (s.placeFresh c tag w).bag? o = some b := by
  by_cases h : s.store.bags.length < bagRecords
  · obtain ⟨-, -, hothers, -, -, hfree⟩ := Created.placeFresh (c := c) tag w h
    obtain ⟨hgen, hget⟩ := Store.bag?_eq_some.1 hb
    have hne : o.index ≠ s.store.newHandle.index := fun hi => by
      have hnone := (hfree hl).2.1
      rw [← hi, hget] at hnone
      exact Option.some_ne_none b hnone
    refine Store.bag?_eq_some.2 ⟨?_, (hothers _ hne (Option.some_ne_none _).symm).trans hget⟩
    rw [State.placeFresh_eq tag w h]
    change (s.withBag (loopBag tag w c)).store.gen o.index = _
    rw [State.withBag_store, Store.gen, Store.withBag_gens]
    exact hgen
  · rw [State.placeFresh_full tag w (Nat.le_of_not_lt h)]
    exact hb

variable (h : s.store.bags.length < bagRecords)
include h
include he

theorem State.placeFresh_carrier? : (s.placeFresh c tag w).carrier? c = some ⟨.loaded s.store.newHandle, e.armed⟩ := by
  have hc : (s.withBag (loopBag tag w c)).carrier? c = some e := by
    rw [State.carrier?, State.withBag_loop]
    exact he
  rw [State.placeFresh_eq tag w h, State.setContent_carrier?, if_pos rfl, hc]
  rfl

end

/-! ## A creation over what was before it -/

theorem Created.before {s u t : State} {g : Handle} {but : Option Nat} {b : Bag} (h : Created u t g but b)
    (hs : u.store = s.store) : Created s t g but b := by
  obtain ⟨h1, h2, h3, h4, h5, h6⟩ := h
  rw [hs] at h2 h3 h4 h5 h6
  exact ⟨h1, h2, h3, h4, h5, fun hl => h6 (BagTableLaw.ofStore hs hl)⟩

/-- Where another bag's record was rewritten first. -/
theorem Created.recast {s u t : State} {g o : Handle} {b x y : Bag} {w : Counters → Counters} (h : Created u t g none b)
    (hr : Recast s u o x y w) (ho : s.bag? o = some x) (hgen : ∀ i, u.store.gen i = s.store.gen i)
    (hl : BagTableLaw s → BagTableLaw u) : Created s t g (some o.index) b := by
  obtain ⟨h1, h2, h3, h4, h5, h6⟩ := h
  refine ⟨h1, h2.trans (hgen _), fun i hi hne => ?_, fun ht => (h4 ht).trans hr.tags, fun n ht => ?_, fun hs => ?_⟩
  · exact (h3 i hi (Option.some_ne_none i).symm).trans (hr.others i fun he => hne (by rw [he]))
  · rw [h5 n ht, hr.tags]
  · obtain ⟨hlt, hnone, hlow⟩ := h6 (hl hs)
    have hold := (Store.bag?_eq_some.1 ho).2
    have hnew := (Store.bag?_eq_some.1 hr.bag).2
    refine ⟨hlt, ?_, fun j hj => ?_⟩
    · rw [← hr.others g.index fun he => ?_]
      · exact hnone
      · rw [he] at hnone
        exact Option.some_ne_none y (hnew.symm.trans hnone)
    · have hj' := hlow j hj
      by_cases he : j = o.index
      · rw [he, Table.has, hold]
        rfl
      · rw [Table.has] at hj' ⊢
        rw [← hr.others j he]
        exact hj'

end Sys2Proof.Machine
end

section
/-! LAUNCH (R53 to R55, R68 to R70, R148, R156, R157). -/

namespace Sys2Proof.Machine

/-! ## A launch by what the read brings (R69, R70) -/

theorem launchable_iff {c : Nat} {b : Bag} : launchable c b = true ↔ b.state = .registered ∨ b.state = .missing ∨
    b.state = .stray ∨ b.state = .onLoop ∧ b.location = some (.carrier c) := by
  simp only [launchable, Bool.or_eq_true, Bool.and_eq_true, beq_iff_eq, or_assoc]

section
variable {s : State} {c : Nat} {e : Carrier} {r : ReadResult} (he : s.carrier? c = some e)
include he

theorem State.launch_found {g : Handle} {b : Bag} (hf : s.find r = .bag g b) (hl : launchable c b = true)
    (h : ∀ o, e.content = .loaded o → o = g) : s.launch c r = s.launchFound c g b false := by
  have hno : doubleLoad e.content (.bag g b) = none := by
    unfold doubleLoad
    cases hc : e.content with
    | loaded o => exact if_pos (h o hc)
    | empty => rfl
    | unknown => rfl
  rw [State.launch, he]
  dsimp only
  rw [hf, Found.orDuplicate, if_pos hl, hno]

theorem State.launch_foundDouble {g o : Handle} {b : Bag} (hf : s.find r = .bag g b) (hl : launchable c b = true)
    (hc : e.content = .loaded o) (ho : o ≠ g) : s.launch c r = (s.makeMissing o).launchFound c g b true := by
  have hdouble : doubleLoad e.content (.bag g b) = some o := by
    rw [hc]
    exact if_neg ho
  rw [State.launch, he]
  dsimp only
  rw [hf, Found.orDuplicate, if_pos hl, hdouble]

variable {tag : Option Nat} {w : StrayReason} (hf : (s.find r).orDuplicate (launchable c) = .fresh tag w)
include hf

theorem State.launch_new (h : ∀ o, e.content ≠ .loaded o) : s.launch c r = s.placeFresh c tag w := by
  have hno : doubleLoad e.content (.fresh tag w) = none := by
    unfold doubleLoad
    cases hc : e.content with
    | loaded o => exact absurd hc (h o)
    | empty => rfl
    | unknown => rfl
  rw [State.launch, he]
  dsimp only
  rw [hf, hno]

theorem State.launch_newDouble {o : Handle} (hc : e.content = .loaded o) :
    s.launch c r = (s.makeMissing o).placeFresh c tag .doubleLoad := by
  have hdouble : doubleLoad e.content (.fresh tag w) = some o := by
    rw [hc]
    rfl
  rw [State.launch, he]
  dsimp only
  rw [hf, hdouble]

end

/-- A read that brings a new bag, where the bag it may name is one that cannot be launched. -/
theorem NewBag.orDuplicate {s : State} {read : Byte} {tag : BitVec 32} {may : Bag → Prop} {ok : Bag → Bool}
    {tagged : Option Nat} {why : StrayReason} (h : NewBag s read tag may tagged why) (hok : ∀ b, ok b = true → may b) :
    ∃ r, ReadResult.ofBytes read tag = some r ∧ (s.find r).orDuplicate ok = .fresh tagged why := by
  obtain ⟨r, hr, -, hf | ⟨g, b, hf, hno, rfl, rfl⟩⟩ := h.read
  · exact ⟨r, hr, by rw [hf]; rfl⟩
  · refine ⟨r, hr, ?_⟩
    rw [hf, Found.orDuplicate, if_neg (mt (hok b) hno)]

/-! ## A found bag is launched (R68, R69, R148) -/

/-- The record of a launched bag. -/
def Bag.onBelt (b : Bag) (c : Nat) (w : Option StrayReason) (pull : Option PullOrigin) : Bag :=
  { b with
    state := .onLoop, location := some (.carrier c), laps := 0, recheck := false, reason := w, pull := pull
    reinduct := b.reinduct && b.state != .stray, aged := b.aged && b.state != .stray, entered := none }

theorem Bag.launched_enter (b : Bag) (c now : Nat) (wasStray double : Bool) (pull : Option PullOrigin) :
    { (b.enter .onLoop (some (.carrier c)) now).launched wasStray double with pull := pull } =
      b.onBelt c (if double = true then some .doubleLoad else if wasStray = true then none else b.reason) pull := by
  have hne : (b.state == .stray && BagState.onLoop != .stray) = (b.state == .stray) := by
    rw [show (BagState.onLoop != .stray) = true from rfl, Bool.and_true]
  rw [Bag.enter, hne]
  rfl

/-- A launched bag's record, before it leaves the pen. -/
def State.relabelled (s : State) (c : Nat) (g : Handle) (b : Bag) (double : Bool) : State :=
  (s.moveBag g .onLoop (some (.carrier c))).modifyBag g (fun x => x.launched (b.state == .stray) double)

theorem State.launchFound_eq (s : State) (c : Nat) (g : Handle) (b : Bag) (double : Bool) :
    s.launchFound c g b double = ((s.relabelled c g b double).onto c g b).demandCheck g := rfl

theorem Keeps.relabelled (s : State) (c : Nat) (g : Handle) (b : Bag) (double : Bool) :
    Keeps [.store] s (s.relabelled c g b double) := (Keeps.moveBag ..).trans (Keeps.modifyBag ..)

section
variable {s : State} {c : Nat} {e : Carrier} {g : Handle} {b : Bag} (hb : s.bag? g = some b) (double : Bool)
include hb

theorem Recast.relabelled : Recast s (s.relabelled c g b double) g b
    ((b.enter .onLoop (some (.carrier c)) s.hallSecond).launched (b.state == .stray) double) (fun n => n.move b.state .onLoop) :=
  (Recast.moveBag hb .onLoop (some (.carrier c))).modifyBag rfl (Keeps.moveBag s g _ _).bags

theorem Recast.launchFound : Recast s (s.launchFound c g b double) g b
    (b.onBelt c (if double = true then some .doubleLoad else if (b.state == .stray) = true then none else b.reason) (demanded s b))
    (fun n => n.move b.state .onLoop) := by
  have hstore := State.onto_store (s.relabelled c g b double) c g b
  have hr := ((Recast.relabelled (c := c) hb double).ofStore hstore).demandCheck rfl
    fun hl => BagTableLaw.ofStore hstore ((Keeps.relabelled s c g b double).bags hl)
  rw [Bag.launched_enter] at hr
  exact hr

theorem Carried.launchFound (he : s.carrier? c = some e) : Carried s (s.launchFound c g b double) c e g b := by
  have hkeep := Keeps.relabelled s c g b double
  have hr := Recast.relabelled (c := c) hb double
  have he' : (s.relabelled c g b double).carrier? c = some e := by
    rw [State.carrier?, hkeep.changes .loop (by decide)]
    exact he
  have honto := Carried.onto he' g b
  refine (honto.before hkeep.changes fun hl => ⟨hkeep.bags hl, hr.size hl⟩).after (Keeps.demandCheck _ g).changes fun hl => ?_
  exact State.modifyBag_length (BagTableLaw.ofStore (State.onto_store ..) (hkeep.bags hl)) ..

end

/-- How the counters of a slot move as one of its bags goes onto the loop. -/
theorem Counters.move_onLoop (n : Counters) {q : BagState} (h : q = .registered ∨ q = .missing ∨ q = .stray ∨ q = .onLoop) :
    n.move q .onLoop = if q = .onLoop then n else (n.dec q).inc .onLoop := by
  rcases h with rfl | rfl | rfl | rfl <;> rfl

/-- How the counters of a slot move as one of its bags on the loop is lost. -/
theorem LostCounts.of {s t : State} {g : Handle} {b y : Bag} (h : Recast s t g b y (fun n => n.move b.state .missing))
    (hst : b.state = .onLoop) (v : SlotId) : (t.store.slot v).counts = LostCounts s b v := by
  rw [h.counted v, hst]
  rfl

/-! ## LAUNCH (R53 to R55, R68) -/

theorem exec_launch (f : FrameHead) (point read : Byte) (tag : BitVec 32) (s : State) :
    exec (.launch f point read tag) s = .next (s.receive f 0x03 ([point, read] ++ tagBytes tag) fun t =>
      t.takeFrame f ⟨.induct, some point.toNat, (ReadResult.ofBytes read tag).isSome⟩ fun t =>
        t.atStamp f.stamp (t.pointOffset point.toNat) fun c _ => t.launch c ((ReadResult.ofBytes read tag).getD .noTag)) := rfl

theorem State.afterCheck_pointOffset (s : State) (f : FrameHead) (x : Node) {i : Nat} {p : Induction}
    (hp : s.loop.points.get? i = some p) : (s.afterCheck f x).pointOffset i = p.offset := by
  have h := (SameTrack.afterCheck s f x).points i
  rw [hp] at h
  obtain ⟨q, hq, hqp⟩ := Option.map_eq_some_iff.1 h
  rw [State.pointOffset, hq]
  exact hqp

section
variable {s : State} {f : FrameHead} {x : Node} {point read : Byte} {tag : BitVec 32} {r : ReadResult}
  (ha : Admitted s f x) (hs : Serves s x .induct point.toNat) (hr : ReadResult.ofBytes read tag = some r)
include ha hs hr

theorem exec_launch_unresolved :
    (s.link.stampRef = none → exec (.launch f point read tag) s = .next (s.afterCheck f x)) ∧
    (StaleStamp s f.stamp → exec (.launch f point read tag) s = .next (s.afterCheck f x).causeOfLoss) := by
  have hvalid : (ReadResult.ofBytes read tag).isSome = true := by rw [hr]; rfl
  obtain ⟨habsent, hstale, -⟩ := ha.here.stamped 0x03 ([point, read] ++ tagBytes tag) (hs.passes hvalid)
    (fun t => t.pointOffset point.toNat) (fun t c _ => t.launch c ((ReadResult.ofBytes read tag).getD .noTag))
  exact ⟨fun h => (exec_launch ..).trans (congrArg Host.Outcome.next (habsent h)),
    fun h => (exec_launch ..).trans (congrArg Host.Outcome.next (hstale h))⟩

theorem exec_launch_resolved {p : Induction} {c : Nat} {d : Int} (hp : s.loop.points.get? point.toNat = some p)
    (hc : ResolvesTo s f.stamp p.offset c d) :
    exec (.launch f point read tag) s = .next ((s.afterCheck f x).launch c r) := by
  have hvalid : (ReadResult.ofBytes read tag).isSome = true := by rw [hr]; rfl
  obtain ⟨-, -, hres⟩ := ha.here.stamped 0x03 ([point, read] ++ tagBytes tag) (hs.passes hvalid)
    (fun t => t.pointOffset point.toNat) (fun t c _ => t.launch c ((ReadResult.ofBytes read tag).getD .noTag))
  refine (exec_launch ..).trans (congrArg Host.Outcome.next ((hres c d ?_).trans ?_))
  · rw [State.afterCheck_pointOffset s f x hp]
    exact hc
  · rw [hr]
    rfl

end

theorem launchUnresolved : Claim.LaunchUnresolved := by
  intro f point read tag x s ha hs hread
  rcases hread with h | h | ⟨h, h1, h2⟩
  · exact exec_launch_unresolved ha hs (ReadResult.ofBytes_noTag h tag)
  · exact exec_launch_unresolved ha hs (ReadResult.ofBytes_several h tag)
  · exact exec_launch_unresolved ha hs (ReadResult.ofBytes_one h h1 h2)

theorem launchFinds : Claim.LaunchFinds := by
  intro f point read tag x p c d e g b s ha hs hp hc he hfound hst s1 launched
  have hstore : s1.store = s.store := State.afterCheck_store ..
  have hslot : ∀ v, s1.store.slot v = s.store.slot v := fun v => by rw [hstore]
  have he1 : s1.carrier? c = some e := (State.afterCheck_carrier? ..).trans he
  have hb1 : s1.bag? g = some b := (State.afterCheck_bag? ..).trans hfound.2.2.2.2.1
  have hdem : demanded s1 b = demanded s b := demanded_congr (State.afterCheck_alike s f x) rfl rfl
  obtain ⟨hr, hfind⟩ := (hfound.before hstore).read
  have hlaunch := launchable_iff.2 hst
  have hmove : ∀ n : Counters, n.move b.state .onLoop = if b.state = .onLoop then n else (n.dec b.state).inc .onLoop := fun n =>
    n.move_onLoop (hst.imp_right (.imp_right (.imp_right And.left)))
  have hexec := exec_launch_resolved ha hs hr hp hc
  refine ⟨fun hone => ?_, fun o ob hload hne hob => ?_⟩
  · have hrec := Recast.launchFound (c := c) hb1 false
    have hcar := Carried.launchFound hb1 false he1
    rw [State.launch_found he1 hfind hlaunch hone] at hexec
    refine ⟨_, hexec, hcar.changes.mono (by decide), fun hns => hcar.still fun hin => hns hin.1, hcar.carrier,
      fun i hi => (hcar.carriers i hi).trans (State.afterCheck_carrier? ..), ?_,
      fun i hi => (hrec.others i hi).trans (by rw [hstore]), hrec.tags.trans (by rw [hstore]), fun k hk => ?_,
      fun q hq hl => ?_, hcar.loop, fun hl => hcar.holds (BagTableLaw.ofStore hstore hl)⟩
    · rw [hrec.bag, hdem]
      simp only [Bool.false_eq_true, if_false, beq_iff_eq]
      rfl
    · rw [hrec.counted k.slot, if_pos (by rw [hk]; simp), hslot]
      exact hmove _
    · obtain ⟨h1, h2, h3, h4⟩ := hcar.pen q hq hl
      exact ⟨h1, h2, h3, fun j hj => (h4 j hj).trans (by rw [State.afterCheck_pen])⟩
  · have hob1 : s1.bag? o = some ob := (State.afterCheck_bag? ..).trans hob
    have hlost := Recast.makeMissing hob1
    have hkeep := Keeps.makeMissing s1 o
    have hb2 : (s1.makeMissing o).bag? g = some b := (hlost.other g (Ne.symm hne)).trans hb1
    have he2 : (s1.makeMissing o).carrier? c = some e := he1
    have hrec := Recast.launchFound (c := c) hb2 true
    have hcar := (Carried.launchFound hb2 true he2).before hkeep.changes fun hl => ⟨hkeep.bags hl, hlost.size hl⟩
    have hdem2 : demanded (s1.makeMissing o) b = demanded s b := (demanded_congr hlost.alike rfl rfl).trans hdem
    rw [State.launch_foundDouble he1 hfind hlaunch hload hne] at hexec
    refine ⟨_, ob.enter .missing none s1.hallSecond, hexec, hcar.changes.mono (by decide), hcar.carrier, ?_,
      (hrec.other o hne).trans hlost.bag, rfl, rfl, rfl, rfl,
      fun i hi ho => (hrec.others i hi).trans ((hlost.others i ho).trans (by rw [hstore])), fun hon v => ?_, hcar.loop,
      fun hl => hcar.holds (BagTableLaw.ofStore hstore hl)⟩
    · rw [hrec.bag, hdem2]
      rfl
    · have hcounts : ((s1.makeMissing o).store.slot v).counts = LostCounts s ob v := by
        rw [LostCounts.of hlost hon, LostCounts, hslot]
        rfl
      refine (hrec.counted v).trans ?_
      rw [hcounts, hmove]
      split
      · next hv =>
        by_cases hloop : b.state = .onLoop
        · rw [if_pos hloop, if_neg fun h => h.2 hloop]
        · rw [if_neg hloop, if_pos ⟨hv, hloop⟩]
      · next hv => rw [if_neg fun h => hv h.1]

theorem launchCreates : Claim.LaunchCreates := by
  intro f point read tag x p c d e tagged why s ha hs hp hc he hnew s1 fresh
  have hstore : s1.store = s.store := State.afterCheck_store ..
  have he1 : s1.carrier? c = some e := (State.afterCheck_carrier? ..).trans he
  obtain ⟨r, hr, hfind⟩ := (hnew.before hstore).orDuplicate (ok := launchable c) fun b => launchable_iff.1
  have hexec := exec_launch_resolved ha hs hr hp hc
  have hlen : s1.store.bags.length = s.store.bags.length := by rw [hstore]
  have hslot : ∀ v, s1.store.slot v = s.store.slot v := fun v => by rw [hstore]
  refine ⟨fun hone => ⟨fun hfull => ?_, fun hfree => ?_⟩, fun o ob hload hob hl => ?_⟩
  · rw [hexec, State.launch_new he1 hfind hone, State.placeFresh_full tagged why (by rw [hlen]; exact hfull)]
  · have hfree1 : s1.store.bags.length < bagRecords := by rw [hlen]; exact hfree
    rw [State.launch_new he1 hfind hone] at hexec
    exact ⟨_, s1.store.newHandle, hexec, (Keeps.placeFresh s1 c tagged why).changes, State.placeFresh_carrier? he1 tagged why hfree1,
      Created.before (Created.placeFresh tagged why hfree1) hstore, fun k => (State.placeFresh_counts tagged why k).trans (by rw [hslot]),
      State.placeFresh_loop tagged why, fun _ => HoldsFollow.placeFresh tagged why⟩
  · have hob1 : s1.bag? o = some ob := (State.afterCheck_bag? ..).trans hob
    have hl1 : BagTableLaw s1 := BagTableLaw.ofStore hstore hl
    have hlost := Recast.makeMissing hob1
    have hkeep := Keeps.makeMissing s1 o
    have hl2 : BagTableLaw (s1.makeMissing o) := hkeep.bags hl1
    have he2 : (s1.makeMissing o).carrier? c = some e := he1
    have hlen2 : (s1.makeMissing o).store.bags.length = s.store.bags.length := (hlost.size hl1).trans hlen
    rw [State.launch_newDouble he1 hfind hload] at hexec
    refine ⟨_, ob.enter .missing none s1.hallSecond, hexec,
      hkeep.changes.comp (Keeps.placeFresh (s1.makeMissing o) c tagged .doubleLoad).changes (by decide) (by decide),
      State.placeFresh_bag? tagged .doubleLoad hl2 hlost.bag, rfl, rfl, rfl, rfl, fun hfull => ?_, fun hfree => ?_, fun hon v => ?_,
      State.placeFresh_loop tagged .doubleLoad, ?_⟩
    · rw [State.placeFresh_full tagged .doubleLoad (by rw [hlen2]; exact hfull), State.setContent_carrier?, if_pos rfl, he2]
      rfl
    · have hfree2 : (s1.makeMissing o).store.bags.length < bagRecords := by rw [hlen2]; exact hfree
      refine ⟨_, State.placeFresh_carrier? he2 tagged .doubleLoad hfree2, ?_⟩
      exact Created.before (Created.recast (Created.placeFresh tagged .doubleLoad hfree2) hlost hob1
        (State.makeMissing_gen hob1) hkeep.bags) hstore
    · rw [State.placeFresh_counts, LostCounts.of hlost hon, LostCounts, hslot]
      rfl
    · exact (HoldsFollow.placeFresh tagged .doubleLoad).before (SameHolds.moveBag hl1 o .missing none)

/-- Settles O46: a LAUNCH by what its read brings and by its stamp. -/
theorem launchPlaces : Obligations.LaunchPlaces := ⟨launchFinds, launchCreates, launchUnresolved⟩

end Sys2Proof.Machine
end

section
/-! ARCH: its classification, and what it makes of a carrier believed LOADED (R53 to R55, R71, R74 to R76, R85, R86). -/

namespace Sys2Proof.Machine

/-! ## Classifications (R71, R85, R86) -/

theorem State.classify_untracked {s : State} (h : s.loop.track = .anchoring ∨ s.loop.track = .failed) (c : Classification) :
    s.classify c = s := by
  unfold State.classify
  rcases h with h | h <;> rw [h]

theorem State.classify_neutral (s : State) : s.classify .neutral = s := by
  unfold State.classify
  cases s.loop.track <;> rfl

section
variable {s : State} (h : s.loop.track = .tracking)
include h

theorem State.classify_tracking_confirm : s.classify .confirm = s.setLoop { s.loop with mismatchRun := 0 } := by
  unfold State.classify
  rw [h]

theorem State.classify_tracking_mismatch : s.classify .mismatch =
    if s.limits.drift ≤ s.loop.mismatchRun + 1
    then (s.setLoop { s.loop with mismatchRun := s.loop.mismatchRun + 1 }).causeOfLoss
    else s.setLoop { s.loop with mismatchRun := s.loop.mismatchRun + 1 } := by
  unfold State.classify
  rw [h]

end

section
variable {s : State} (h : s.loop.track = .confirming)
include h

theorem State.classify_confirming_mismatch : s.classify .mismatch = s.setLoop { s.loop with confirmRun := 0 } := by
  unfold State.classify
  rw [h]

theorem State.classify_confirming_confirm : s.classify .confirm =
    if s.limits.confirm ≤ s.loop.confirmRun + 1
    then (s.setLoop { s.loop with confirmRun := s.loop.confirmRun + 1 }).regainTracking
    else s.setLoop { s.loop with confirmRun := s.loop.confirmRun + 1 } := by
  unfold State.classify
  rw [h]

end

/-- The state in which tracking is regained, before the points lose the cause. -/
def State.regained (s : State) : State :=
  (s.setLoop { s.loop with track := .tracking, mismatchRun := 0, homeMark := false }).raise .loopRegained 0

theorem State.regainTracking_eq (s : State) : s.regainTracking = s.regained.putCauseAll .tracking false := rfl

theorem classificationActs : Claim.ClassificationActs := by
  intro s
  refine ⟨fun h c => s.classify_untracked h c, s.classify_neutral, fun h => ⟨s.classify_tracking_confirm h, fun hn => ?_, fun hn => ?_⟩,
    fun h => ⟨s.classify_confirming_mismatch h, fun hn => ?_, fun hn => ?_⟩⟩
  · rw [s.classify_tracking_mismatch h, if_neg (Nat.not_le.2 hn)]
  · rw [s.classify_tracking_mismatch h, if_pos hn]
  · rw [s.classify_confirming_confirm h, if_neg (Nat.not_le.2 hn)]
  · intro t
    have ht : t = (s.setLoop { s.loop with confirmRun := s.loop.confirmRun + 1 }).regained.putCauseAll .tracking false := by
      rw [← State.regainTracking_eq]
      exact (s.classify_confirming_confirm h).trans (if_pos hn)
    have hloop := State.putCauseAll_loop (s.setLoop { s.loop with confirmRun := s.loop.confirmRun + 1 }).regained .tracking false
    rw [← ht] at hloop
    refine ⟨(Keeps.classify s .confirm).changes.mono (by decide), ?_, ?_, ?_, ?_, ?_, ?_, ?_, fun i p hp => ?_⟩
    · rw [hloop]
      rfl
    · rw [hloop]
      rfl
    · rw [hloop]
      rfl
    · rw [hloop]
      rfl
    · rw [hloop]
      rfl
    · rw [hloop]
      rfl
    · rw [ht, State.putCauseAll_notices]
      rfl
    · obtain ⟨-, hpoints⟩ := State.putCauseAll_points (s := s)
        (u := (s.setLoop { s.loop with confirmRun := s.loop.confirmRun + 1 }).regained) rfl .tracking false
      obtain ⟨q, hq, -, -, hcauses⟩ := hpoints i p hp
      exact ⟨q, by rw [ht]; exact hq, hcauses⟩

/-! ## ARCH by its stamp (R53 to R55) -/

theorem exec_arch (f : FrameHead) (arch occupied read : Byte) (tag : BitVec 32) (s : State) :
    exec (.arch f arch occupied read tag) s = .next (s.receive f 0x04 ([arch, occupied, read] ++ tagBytes tag) fun t =>
      t.takeFrame f ⟨.arch, some arch.toNat, (bitOfByte occupied).isSome && (ReadResult.ofBytes read tag).isSome⟩ fun t =>
        t.atStamp f.stamp (t.archOffset arch.toNat) fun c _ =>
          t.archSees c ((bitOfByte occupied).getD false) ((ReadResult.ofBytes read tag).getD .noTag)) := rfl

theorem State.afterCheck_archOffset (s : State) (f : FrameHead) (x : Node) {i : Nat} {a : Arch}
    (ha : s.loop.arches.get? i = some a) : (s.afterCheck f x).archOffset i = a.offset := by
  rw [State.archOffset, (SameTrack.afterCheck s f x).arches, ha]

section
variable {s : State} {f : FrameHead} {x : Node} {arch occupied read : Byte} {tag : BitVec 32} {r : ReadResult}
  (ha : Admitted s f x) (hs : Serves s x .arch arch.toNat) (ho : occupied.toNat ≤ 1) (hr : ReadResult.ofBytes read tag = some r)
include ha hs ho hr

theorem exec_arch_unresolved :
    (s.link.stampRef = none → exec (.arch f arch occupied read tag) s = .next (s.afterCheck f x)) ∧
    (StaleStamp s f.stamp → exec (.arch f arch occupied read tag) s = .next (s.afterCheck f x).causeOfLoss) := by
  have hvalid : ((bitOfByte occupied).isSome && (ReadResult.ofBytes read tag).isSome) = true := by
    rw [bitOfByte_of ho, hr]
    rfl
  obtain ⟨habsent, hstale, -⟩ := ha.here.stamped 0x04 ([arch, occupied, read] ++ tagBytes tag) (hs.passes hvalid)
    (fun t => t.archOffset arch.toNat) fun t c _ =>
      t.archSees c ((bitOfByte occupied).getD false) ((ReadResult.ofBytes read tag).getD .noTag)
  exact ⟨fun h => (exec_arch ..).trans (congrArg Host.Outcome.next (habsent h)),
    fun h => (exec_arch ..).trans (congrArg Host.Outcome.next (hstale h))⟩

theorem exec_arch_resolved {a : Arch} {c : Nat} {d : Int} (hp : s.loop.arches.get? arch.toNat = some a)
    (hc : ResolvesTo s f.stamp a.offset c d) : exec (.arch f arch occupied read tag) s =
      .next ((s.afterCheck f x).archSees c (decide (occupied.toNat = 1)) r) := by
  have hvalid : ((bitOfByte occupied).isSome && (ReadResult.ofBytes read tag).isSome) = true := by
    rw [bitOfByte_of ho, hr]
    rfl
  obtain ⟨-, -, hres⟩ := ha.here.stamped 0x04 ([arch, occupied, read] ++ tagBytes tag) (hs.passes hvalid)
    (fun t => t.archOffset arch.toNat) fun t c _ =>
      t.archSees c ((bitOfByte occupied).getD false) ((ReadResult.ofBytes read tag).getD .noTag)
  refine (exec_arch ..).trans (congrArg Host.Outcome.next ((hres c d ?_).trans ?_))
  · rw [State.afterCheck_archOffset s f x hp]
    exact hc
  · rw [hr, bitOfByte_of ho]
    rfl

end

/-- A read that is valid, by its byte. -/
theorem ReadResult.ofBytes_valid {read : Byte} {tag : BitVec 32}
    (h : read.toNat = 0 ∨ read.toNat = 2 ∨ read.toNat = 1 ∧ 1 ≤ tag.toNat ∧ tag.toNat ≤ 999999999) :
    ∃ r, ReadResult.ofBytes read tag = some r := by
  rcases h with h | h | ⟨h, h1, h2⟩
  · exact ⟨_, ReadResult.ofBytes_noTag h tag⟩
  · exact ⟨_, ReadResult.ofBytes_several h tag⟩
  · exact ⟨_, ReadResult.ofBytes_one h h1 h2⟩

theorem archUnresolved : Claim.ArchUnresolved := by
  intro f arch occupied read tag x s ha hs ho hread
  obtain ⟨r, hr⟩ := ReadResult.ofBytes_valid hread
  exact exec_arch_unresolved ha hs ho hr

/-! ## An observation, where it is applied (R71, R72, R74) -/

section
variable {s u : State} {c : Nat} {occ : Bool} {r : ReadResult} {seen : Classification}

theorem State.archSees_untracked (h : s.loop.track = .anchoring ∨ s.loop.track = .failed) : s.archSees c occ r = s := by
  refine if_neg fun hn => ?_
  rcases h with h | h <;> rw [h] at hn <;> rcases hn with hn | hn <;> exact TrackState.noConfusion hn

theorem State.archSees_eq (h : s.loop.track = .confirming ∨ s.loop.track = .tracking)
    (ho : s.observe c (occ || r != .noTag) r = (u, seen)) : s.archSees c occ r = u.classify seen := by
  rw [State.archSees, if_pos h, ho]

variable {e : Carrier} (he : s.carrier? c = some e)
include he

theorem State.observe_loaded {g : Handle} (hg : e.content = .loaded g) : s.observe c occ r = s.seeLoaded c g occ r := by
  rw [State.observe, he]
  dsimp only
  rw [hg]

theorem State.observe_empty (hg : e.content = .empty) :
    s.observe c occ r = if occ = true then (s.placeByLookup c r, .mismatch) else (s, .confirm) := by
  rw [State.observe, he]
  dsimp only
  rw [hg]

theorem State.observe_unknown (hg : e.content = .unknown) :
    s.observe c occ r = if occ = true then (s.placeByLookup c r, .neutral) else (s.setContent c .empty, .neutral) := by
  rw [State.observe, he]
  dsimp only
  rw [hg]

end

section
variable {s : State} {g : Handle} {b : Bag} (hb : s.bag? g = some b) (c : Nat)
include hb

theorem State.seeLoaded_empty (r : ReadResult) :
    s.seeLoaded c g false r = ((s.makeMissing g).setContent c .empty, .mismatch) := by
  rw [State.seeLoaded, hb]
  rfl

theorem State.seeLoaded_unread {r : ReadResult} (hr : r = .noTag ∨ r = .several) : s.seeLoaded c g true r = (s, .neutral) := by
  rw [State.seeLoaded, hb]
  rcases hr with rfl | rfl <;> rfl

theorem State.seeLoaded_anonymous (ht : b.tag = none) (t : Nat) : s.seeLoaded c g true (.one t) = s.identify c g b t := by
  rw [State.seeLoaded, hb]
  dsimp only
  rw [ht]
  rfl

theorem State.seeLoaded_own {t : Nat} (ht : b.tag = some t) :
    s.seeLoaded c g true (.one t) = (s.modifyBag g (fun x => { x with recheck := false }), .confirm) := by
  rw [State.seeLoaded, hb]
  dsimp only
  rw [ht, if_pos rfl]
  exact if_pos rfl

theorem State.seeLoaded_other {t n : Nat} (ht : b.tag = some n) (hn : n ≠ t) :
    s.seeLoaded c g true (.one t) = (s.disagree c g b t, .mismatch) := by
  rw [State.seeLoaded, hb]
  dsimp only
  rw [ht, if_pos rfl]
  exact if_neg hn

end

/-! ## A carrier believed LOADED (R74) -/

theorem Bag.lost_eq (b : Bag) : b.lost = { b with
    state := .missing, location := none, recheck := b.recheck && b.state != .onLoop,
    reinduct := b.reinduct && b.state != .stray, aged := b.aged && b.state != .stray, entered := none } := rfl

theorem archSeesLoaded : Claim.ArchObserves := by
  intro f arch occupied read tag x a c d e s ha hs hp hc he ho hread s1
  have hstore : s1.store = s.store := State.afterCheck_store ..
  have he1 : s1.carrier? c = some e := (State.afterCheck_carrier? ..).trans he
  refine ⟨fun htrack => ?_, fun htrack g b hg hb => ⟨fun h0 hr0 => ?_, fun h1 htag => ?_, fun hseen => ?_⟩⟩
  · obtain ⟨r, hr⟩ := ReadResult.ofBytes_valid hread
    rw [exec_arch_resolved ha hs ho hr hp hc, State.archSees_untracked htrack]
  · have hb1 : s1.bag? g = some b := (State.afterCheck_bag? ..).trans hb
    have hlost := Recast.makeMissing hb1
    have hexec := exec_arch_resolved ha hs ho (ReadResult.ofBytes_noTag hr0 tag) hp hc
    have hocc : (decide (occupied.toNat = 1) || (ReadResult.noTag != .noTag)) = false := by
      rw [h0]
      rfl
    rw [State.archSees_eq (u := (s1.makeMissing g).setContent c .empty) (seen := .mismatch) htrack
      (by rw [hocc, State.observe_loaded he1 hg, State.seeLoaded_empty hb1])] at hexec
    refine ⟨_, hexec, (Keeps.makeMissing s1 g).changes.comp (Keeps.setContent _ c _).changes (by decide) (by decide), rfl, ?_, fun i hi => ?_,
      ?_, fun i hi => (hlost.others i hi).trans (by rw [hstore]), hlost.tags.trans (by rw [hstore]), fun hon v => ?_⟩
    · rw [State.setContent_carrier?, if_pos rfl]
      change Option.map _ (s1.carrier? c) = _
      rw [he1]
      rfl
    · rw [State.setContent_carrier?, if_neg hi]
      exact State.afterCheck_carrier? ..
    · refine (hlost.bag : (s1.makeMissing g).bag? g = _).trans (congrArg some ?_)
      rw [Bag.enter_missing, Bag.lost_eq]
    · refine (hlost.counted v).trans ?_
      rw [hon, hstore]
      rfl
  · have hb1 : s1.bag? g = some b := (State.afterCheck_bag? ..).trans hb
    obtain ⟨hlow, hhigh⟩ : 1 ≤ tag.toNat ∧ tag.toNat ≤ 999999999 := by
      rcases hread with h | h | ⟨-, h⟩
      · omega
      · omega
      · exact h
    have hocc : (decide (occupied.toNat = 1) || (ReadResult.one tag.toNat != .noTag)) = true := Bool.or_true _
    rw [exec_arch_resolved ha hs ho (ReadResult.ofBytes_one h1 hlow hhigh) hp hc,
      State.archSees_eq (u := s1.modifyBag g (fun x => { x with recheck := false })) (seen := .confirm) htrack
        (by rw [hocc, State.observe_loaded he1 hg, State.seeLoaded_own hb1 c htag]), State.modifyBag_live hb1]
  · have hb1 : s1.bag? g = some b := (State.afterCheck_bag? ..).trans hb
    obtain ⟨r, hr, hocc, hunread⟩ : ∃ r, ReadResult.ofBytes read tag = some r ∧
        (decide (occupied.toNat = 1) || (r != .noTag)) = true ∧ (r = .noTag ∨ r = .several) := by
      rcases hseen with ⟨h1, h0⟩ | h2
      · exact ⟨_, ReadResult.ofBytes_noTag h0 tag, by rw [h1]; rfl, .inl rfl⟩
      · exact ⟨_, ReadResult.ofBytes_several h2 tag, Bool.or_true _, .inr rfl⟩
    rw [exec_arch_resolved ha hs ho hr hp hc, State.archSees_eq (u := s1) (seen := .neutral) htrack
      (by rw [hocc, State.observe_loaded he1 hg, State.seeLoaded_unread hb1 c hunread]), State.classify_neutral]

/-! ## A carrier with an anonymous bag (R75) -/

theorem Table.put_put {α : Type} (t : Table α) (i : Nat) (v w : α) : (t.put i v).put i w = t.put i w := by
  induction t with
  | nil => simp [Table.put]
  | cons a t ih =>
    obtain ⟨k, x⟩ := a
    by_cases hlt : i < k
    · rw [Table.put, if_pos hlt, Table.put, if_neg (Nat.lt_irrefl i), if_pos rfl, Table.put, if_pos hlt]
    · by_cases he : i = k
      · rw [Table.put, if_neg hlt, if_pos he, Table.put, if_neg (Nat.lt_irrefl i), if_pos rfl, Table.put, if_neg hlt, if_pos he]
      · rw [Table.put, if_neg hlt, if_neg he, Table.put, if_neg hlt, if_neg he, ih, Table.put, if_neg hlt, if_neg he]

section
variable {s : State} {h : Handle} {b : Bag} (hb : s.bag? h = some b) (c tag : Nat)
include hb

/-- An unknown tag is the bag's, and the bag takes the reason. -/
theorem State.identify_unknown (hno : s.store.tagMap.get? tag = none) : s.identify c h b tag = (s.setStore { s.store with
    tagMap := s.store.tagMap.put tag h
    bags := s.store.bags.put h.index { b with tag := some tag, reason := keepDouble b.reason .unknownTag } }, .confirm) := by
  have hgive : s.setStore (s.store.giveTag h tag) = s.setStore { s.store with
      tagMap := s.store.tagMap.put tag h, bags := s.store.bags.put h.index { b with tag := some tag } } := by
    rw [Store.giveTag, Store.modifyBag, show s.store.bag? h = some b from hb]
    rfl
  obtain ⟨hgen, -⟩ := Store.bag?_eq_some.1 hb
  have hb' : (s.setStore { s.store with tagMap := s.store.tagMap.put tag h
                                        bags := s.store.bags.put h.index { b with tag := some tag } }).bag? h =
      some { b with tag := some tag } := Store.bag?_eq_some.2 ⟨hgen, Table.get?_put_same ..⟩
  rw [State.identify, Store.lookup_none hno]
  dsimp only
  rw [hgive, State.modifyBag_live hb', State.setStore_store, Table.put_put]
  rfl

theorem State.identify_closed (hcl : s.store.lookup tag = .closedTag) :
    s.identify c h b tag = (s.setStore { s.store with
      bags := s.store.bags.put h.index { b with reason := keepDouble b.reason .wrongSailing } }, .neutral) := by
  rw [State.identify, hcl]
  dsimp only
  rw [State.modifyBag_live hb]

omit hb

theorem State.identify_other {g : Handle} {y : Bag} (hf : s.store.lookup tag = .found g y) (h1 : y.state ≠ .registered)
    (h2 : y.state ≠ .missing) : s.identify c h b tag = (s, .neutral) := by
  rw [State.identify, hf]
  exact if_neg (not_or.2 ⟨h1, h2⟩)

theorem State.identify_merge {g : Handle} {y : Bag} (hf : s.store.lookup tag = .found g y)
    (hst : y.state = .registered ∨ y.state = .missing) : s.identify c h b tag = (s.archMerge c h b g, .confirm) := by
  rw [State.identify, hf]
  exact if_pos hst

end

/-! ## A merge (R75) -/

/-- The found bag's record as it takes the carrier and the laps of the anonymous one. -/
def Bag.merged (y b : Bag) (c : Nat) : Bag :=
  { y with
    state := .onLoop, location := some (.carrier c), laps := b.laps, entered := none,
    reason := if b.reason = some .doubleLoad then b.reason else y.reason }

theorem Bag.merged_enter {y : Bag} (hst : y.state = .registered ∨ y.state = .missing) (b : Bag) (c now : Nat) :
    { y.enter .onLoop (some (.carrier c)) now with
      laps := b.laps
      reason := if b.reason = some .doubleLoad then b.reason else (y.enter .onLoop (some (.carrier c)) now).reason } =
        y.merged b c := by
  unfold Bag.enter Bag.merged
  rcases hst with h | h <;> simp [h]

/-- The merge, before the anonymous record retires. -/
def State.mergedInto (s : State) (c : Nat) (b : Bag) (g : Handle) : State :=
  ((s.moveBag g .onLoop (some (.carrier c))).modifyBag g
    (fun x => { x with laps := b.laps, reason := if b.reason = some .doubleLoad then b.reason else x.reason })).setContent
      c (.loaded g)

theorem State.archMerge_eq (s : State) (c : Nat) (h : Handle) (b : Bag) (g : Handle) :
    s.archMerge c h b g = (s.mergedInto c b g).retireRecord h := rfl

theorem Recast.mergedInto {s : State} {g : Handle} {y : Bag} (hg : s.bag? g = some y)
    (hst : y.state = .registered ∨ y.state = .missing) (c : Nat) (b : Bag) :
    Recast s (s.mergedInto c b g) g y (y.merged b c) (fun n => n.move y.state .onLoop) := by
  have hr := ((Recast.moveBag hg .onLoop (some (.carrier c))).modifyBag
    (f := fun x => { x with laps := b.laps, reason := if b.reason = some .doubleLoad then b.reason else x.reason }) rfl
    (Keeps.moveBag s g _ _).bags).ofStore (u := s.mergedInto c b g) rfl
  rw [Bag.merged_enter hst] at hr
  exact hr

theorem Keeps.mergedInto (s : State) (c : Nat) (b : Bag) (g : Handle) : Keeps [.store, .loop] s (s.mergedInto c b g) :=
  ((Keeps.moveBag s g _ _).trans (Keeps.modifyBag _ g _)).comp (Keeps.setContent _ c _) (by decide) (by decide)

/-- What a merge leaves: the found bag on the carrier, the anonymous record gone. -/
structure Merges (s t : State) (c : Nat) (e : Carrier) (h g : Handle) (b y : Bag) : Prop where
  changes : Changes [.store, .link, .loop] s t
  carrier : t.carrier? c = some ⟨.loaded g, e.armed⟩
  gone : t.bag? h = none
  bag : t.bag? g = some (y.merged b c)
  others : ∀ i, i ≠ g.index → i ≠ h.index → t.store.bags.get? i = s.store.bags.get? i
  counts : ∀ v, (t.store.slot v).counts = (if b.home.any (fun k => k.slot == v) = true
    then (if y.home.any (fun k => k.slot == v) = true then ((s.store.slot v).counts.dec y.state).inc .onLoop
      else (s.store.slot v).counts).dec b.state
    else if y.home.any (fun k => k.slot == v) = true then ((s.store.slot v).counts.dec y.state).inc .onLoop
      else (s.store.slot v).counts)
  holds : BagTableLaw s → HoldsFollow s t False

theorem Merges.archMerge {s : State} {c : Nat} {e : Carrier} {h g : Handle} {b y : Bag} (he : s.carrier? c = some e)
    (hb : s.bag? h = some b) (hy : s.bag? g = some y) (hst : y.state = .registered ∨ y.state = .missing)
    (hne : h.index ≠ g.index) : Merges s (s.archMerge c h b g) c e h g b y := by
  have hrec := Recast.mergedInto hy hst c b
  have hkeep := Keeps.mergedInto s c b g
  have hbm : (s.mergedInto c b g).bag? h = some b := (hrec.other h fun heq => hne (by rw [heq])).trans hb
  obtain ⟨hstore, hloop⟩ := State.retireRecord_frame (s.mergedInto c b g) h
  obtain ⟨hbags, hgens, -, hcounts, -⟩ := Store.retire_store (t := (s.mergedInto c b g).store) hbm
  have hmove : ∀ n : Counters, n.move y.state .onLoop = (n.dec y.state).inc .onLoop := fun n => by
    rcases hst with h | h <;> rw [h] <;> rfl
  have hcarrier : (s.mergedInto c b g).carrier? c = some ⟨.loaded g, e.armed⟩ := by
    refine (State.setContent_carrier? ..).trans ?_
    rw [if_pos rfl]
    change Option.map _ (s.carrier? c) = _
    rw [he]
    rfl
  obtain ⟨hgen, hget⟩ := Store.bag?_eq_some.1 hrec.bag
  rw [State.archMerge_eq]
  refine ⟨hkeep.changes.comp (Keeps.retireRecord _ h).changes (by decide) (by decide), ?_, ?_, ?_, fun i hg hh => ?_, fun v => ?_,
    fun hl => ?_⟩
  · rw [State.carrier?, hloop]
    exact hcarrier
  · cases hx : ((s.mergedInto c b g).retireRecord h).bag? h with
    | none => rfl
    | some z =>
      have hz := (Store.bag?_eq_some.1 hx).2
      rw [hstore, hbags, Table.get?_erase_same] at hz
      cases hz
  · refine Store.bag?_eq_some.2 ⟨?_, ?_⟩
    · rw [hstore, hgens, if_neg (Ne.symm hne)]
      exact hgen
    · rw [hstore, hbags, Table.get?_erase_other _ (Ne.symm hne)]
      exact hget
  · rw [hstore, hbags, Table.get?_erase_other _ hh]
    exact hrec.others i hg
  · rw [hstore, hcounts v, hrec.counted v]
    dsimp only
    rw [hmove]
  · have hsame : SameHolds s (s.mergedInto c b g) := ⟨rfl, rfl, tableLow_of_length (hrec.size hl), rfl, rfl⟩
    exact (HoldsFollow.retireRecord _ h).before hsame

theorem keepDouble_eq (r : Option StrayReason) (w : StrayReason) :
    keepDouble r w = if r = some .doubleLoad then r else some w := rfl

theorem archIdentifies : Claim.ArchIdentifies := by
  intro f arch occupied read tag x a c d e h b s ha hs hp hc he ho hr h1 h2 hload hb htag s1 keeping htrack
  have hstore : s1.store = s.store := State.afterCheck_store ..
  have hslot : ∀ v, s1.store.slot v = s.store.slot v := fun v => by rw [hstore]
  have he1 : s1.carrier? c = some e := (State.afterCheck_carrier? ..).trans he
  have hb1 : s1.bag? h = some b := (State.afterCheck_bag? ..).trans hb
  have hocc : (decide (occupied.toNat = 1) || (ReadResult.one tag.toNat != .noTag)) = true := Bool.or_true _
  have hexec : ∀ u seen, s1.identify c h b tag.toNat = (u, seen) →
      exec (.arch f arch occupied read tag) s = .next (u.classify seen) := fun u seen hu => by
    rw [exec_arch_resolved ha hs ho (ReadResult.ofBytes_one hr h1 h2) hp hc]
    exact congrArg Host.Outcome.next (State.archSees_eq htrack
      (by rw [hocc, State.observe_loaded he1 hload, State.seeLoaded_anonymous hb1 c htag, hu]))
  refine ⟨fun hno => ?_, fun g y hg hy => ⟨fun hcl => ?_, fun hopen => ?_⟩⟩
  · exact hexec _ _ (State.identify_unknown hb1 c tag.toNat (by rw [hstore]; exact hno))
  · obtain ⟨k, hk, hcl⟩ := hcl
    have hclosed : s1.store.lookup tag.toNat = .closedTag := by
      rw [hstore]
      exact Store.lookup_closed hg hy hk hcl
    rw [hexec _ _ (State.identify_closed hb1 c tag.toNat hclosed), State.classify_neutral]
    rfl
  · have hfound : s1.store.lookup tag.toNat = .found g y := by
      rw [hstore]
      exact Store.lookup_found hg hy hopen
    have hy1 : s1.bag? g = some y := (State.afterCheck_bag? ..).trans hy
    refine ⟨fun hr1 hr2 => ?_, fun hst hne => ?_⟩
    · rw [hexec _ _ (State.identify_other c tag.toNat hfound hr1 hr2), State.classify_neutral]
    · have hm := Merges.archMerge he1 hb1 hy1 hst hne
      exact ⟨_, hexec _ _ (State.identify_merge c tag.toNat hfound hst), hm.changes, hm.carrier, hm.gone, hm.bag,
        fun i hi hh => (hm.others i hi hh).trans (by rw [hstore]), fun v => by rw [hm.counts v, hslot],
        fun hl => hm.holds (BagTableLaw.ofStore hstore hl)⟩

end Sys2Proof.Machine
end

section
/-! A carrier placed by lookup, and from that ARCH (R2, R21, R31, R72, R73, R76, R156, R157). -/

namespace Sys2Proof.Machine

/-! ## What a lookup places (R73) -/

/-- A found bag can be the one seen: it is REGISTERED, MISSING or STRAY, or ON_LOOP on some carrier. -/
def Bag.Placeable (b : Bag) : Prop :=
  b.state = .registered ∨ b.state = .missing ∨ b.state = .stray ∨ b.state = .onLoop ∧ ∃ n, b.location = some (.carrier n)

/-- The record of a bag that a lookup places on a carrier. -/
def Bag.placed (b : Bag) (c : Nat) : Bag :=
  { b with
    state := .onLoop, location := some (.carrier c), laps := if b.state = .stray then 0 else b.laps,
    reason := if b.state = .stray then none else b.reason,
    reinduct := b.reinduct && b.state != .stray, aged := b.aged && b.state != .stray,
    entered := if b.state = .onLoop then b.entered else none }

theorem Bag.enter_placed {b : Bag} (hst : b.state = .registered ∨ b.state = .missing) (c now : Nat) :
    b.enter .onLoop (some (.carrier c)) now = b.placed c := by
  unfold Bag.enter Bag.placed
  rcases hst with h | h
  · simp only [h]
    simp
    exact ⟨rfl, rfl⟩
  · simp only [h]
    simp
    exact ⟨rfl, rfl⟩

theorem Bag.stray_placed {b : Bag} (hst : b.state = .stray) (c now : Nat) :
    { b.enter .onLoop (some (.carrier c)) now with laps := 0, reason := none } = b.placed c := by
  unfold Bag.enter Bag.placed
  simp [hst]

theorem Bag.moved_placed {b : Bag} (hst : b.state = .onLoop) (c : Nat) :
    { b with location := some (.carrier c) } = b.placed c := by
  unfold Bag.placed
  simp [hst]

section
variable {s : State} {r : ReadResult} (c : Nat)

theorem State.placeByLookup_new {tag : Option Nat} {w : StrayReason} (hf : s.find r = .fresh tag w) :
    s.placeByLookup c r = s.placeFresh c tag w := by
  rw [State.placeByLookup, hf]

variable {g : Handle} {b : Bag} (hf : s.find r = .bag g b)
include hf

theorem State.placeByLookup_other (hno : ¬b.Placeable) : s.placeByLookup c r = s.placeFresh c none .duplicateTag := by
  rw [State.placeByLookup, hf]
  dsimp only
  cases hst : b.state with
  | registered => exact absurd (.inl hst) hno
  | missing => exact absurd (.inr (.inl hst)) hno
  | stray => exact absurd (.inr (.inr (.inl hst))) hno
  | onLoop =>
    cases hl : b.location with
    | none => rfl
    | some l =>
      cases l with
      | carrier n => exact absurd (.inr (.inr (.inr ⟨hst, n, hl⟩))) hno
      | chute k => rfl
      | cart n => rfl
      | pen p => rfl
  | landing => rfl
  | jammed => rfl
  | inCart => rfl
  | aboard => rfl
  | offload => rfl

theorem State.placeByLookup_idle (hst : b.state = .registered ∨ b.state = .missing) :
    s.placeByLookup c r = (s.moveBag g .onLoop (some (.carrier c))).onto c g b := by
  have hno : ¬InPen b := fun hin => by
    rcases hst with h | h <;> exact BagState.noConfusion (h.symm.trans hin.1)
  rw [State.placeByLookup, hf, State.onto, State.leavePen_none hno]
  dsimp only
  rcases hst with h | h <;> rw [h]

theorem State.placeByLookup_stray (hst : b.state = .stray) : s.placeByLookup c r =
    ((s.moveBag g .onLoop (some (.carrier c))).modifyBag g (fun x => { x with laps := 0, reason := none })).onto c g b := by
  rw [State.placeByLookup, hf]
  dsimp only
  rw [hst]
  rfl

theorem State.placeByLookup_onLoop (hst : b.state = .onLoop) {n : Nat} (hl : b.location = some (.carrier n)) :
    s.placeByLookup c r = ((s.setContent n .unknown).modifyBag g (fun b => { b with location := some (.carrier c) })).setContent
      c (.loaded g) := by
  rw [State.placeByLookup, hf]
  dsimp only
  rw [hst, hl]

end

/-- What a lookup that finds a bag leaves. -/
structure Placed (s u : State) (c : Nat) (e : Carrier) (g : Handle) (b : Bag) : Prop where
  changes : Changes [.store, .link, .loop, .pen, .notices] s u
  carrier : u.carrier? c = some ⟨.loaded g, e.armed⟩
  recast : Recast s u g b (b.placed c) (fun n => if b.state = .onLoop then n else (n.dec b.state).inc .onLoop)
  left : ∀ n y, b.state = .onLoop → b.location = some (.carrier n) → n ≠ c → s.carrier? n = some y →
    u.carrier? n = some ⟨.unknown, y.armed⟩
  pen : ∀ q, b.state = .stray → b.location = some (.pen q) → u.pen.positions.get? q = none ∧ g ∉ u.pen.strays ∧
    q ∉ u.subjects .strayAged
  holds : BagTableLaw s → HoldsFollow s u (InPen b)

theorem Recast.counter {s t : State} {g : Handle} {b y : Bag} {w v : Counters → Counters} (h : Recast s t g b y w)
    (hw : ∀ n, w n = v n) : Recast s t g b y v := funext hw ▸ h

section
variable {s : State} {c : Nat} {e : Carrier} (he : s.carrier? c = some e) {r : ReadResult} {g : Handle} {b : Bag}
include he

/-- A bag that was not on the loop: its record is rewritten, and it goes onto the carrier. -/
theorem Placed.onto {u : State} (hst : b.state ≠ .onLoop) (hch : Changes [.store] s u) (hl : BagTableLaw s → BagTableLaw u)
    (hr : Recast s u g b (b.placed c) (fun n => n.move b.state .onLoop))
    (hmove : ∀ n : Counters, n.move b.state .onLoop = (n.dec b.state).inc .onLoop) : Placed s (u.onto c g b) c e g b := by
  have he' : u.carrier? c = some e := by
    rw [State.carrier?, hch .loop (by decide)]
    exact he
  have hcar := (Carried.onto he' g b).before hch fun hs => ⟨hl hs, hr.size hs⟩
  refine ⟨hcar.changes.mono (by decide), hcar.carrier, (hr.ofStore (State.onto_store ..)).counter fun n => ?_,
    fun _ _ h => absurd h hst, fun q h1 h2 => ?_, hcar.holds⟩
  · rw [hmove, if_neg hst]
  · obtain ⟨p1, p2, p3, -⟩ := hcar.pen q h1 h2
    exact ⟨p1, p2, p3⟩

variable (hb : s.bag? g = some b)
include hb

/-- A bag on the loop: the carrier that held it is UNKNOWN. -/
theorem Placed.moved (hst : b.state = .onLoop) {n : Nat} (hl : b.location = some (.carrier n)) :
    Placed s (((s.setContent n .unknown).modifyBag g (fun b => { b with location := some (.carrier c) })).setContent c (.loaded g))
      c e g b := by
  have hno : ¬InPen b := fun hin => BagState.noConfusion (hst.symm.trans hin.1)
  have hrec : Recast s ((s.setContent n .unknown).modifyBag g (fun b => { b with location := some (.carrier c) })) g b
      (b.placed c) id := by
    rw [← Bag.moved_placed hst c]
    exact Recast.before (u := s.setContent n .unknown)
      (Recast.modifyBag' (s := s.setContent n .unknown) hb (f := fun b => { b with location := some (.carrier c) }) rfl) rfl
  have hcarrier : ∀ i, (((s.setContent n .unknown).modifyBag g (fun b => { b with location := some (.carrier c) })).setContent c
      (.loaded g)).carrier? i = if i = c then ((s.setContent n .unknown).carrier? i).map (fun e => { e with content := .loaded g })
        else (s.setContent n .unknown).carrier? i := fun i => State.setContent_carrier? ..
  refine ⟨((Keeps.setContent s n .unknown).comp (n := [.store, .loop]) (Keeps.modifyBag _ g _) (by decide) (by decide)).changes.comp
    (Keeps.setContent _ c _).changes (by decide) (by decide), ?_, Recast.ofStore (hrec.counter fun n => ?_) rfl,
    fun m y _ hm hne hy => ?_, fun q h => BagState.noConfusion (hst.symm.trans h), fun hs => ?_⟩
  · rw [hcarrier, if_pos rfl, State.setContent_carrier?, he]
    split <;> rfl
  · exact (if_pos hst).symm
  · cases hl.symm.trans hm
    rw [hcarrier, if_neg hne, State.setContent_carrier?, if_pos rfl, hy]
    rfl
  · exact HoldsFollow.congr ⟨False.elim, hno⟩ (HoldsFollow.same ⟨rfl, rfl, tableLow_of_length (hrec.size hs), rfl, rfl⟩)

theorem Placed.placeByLookup (hf : s.find r = .bag g b) (hmay : b.Placeable) : Placed s (s.placeByLookup c r) c e g b := by
  have hidle : b.state = .registered ∨ b.state = .missing → Placed s (s.placeByLookup c r) c e g b := fun hst => by
    have hrec := Recast.moveBag hb .onLoop (some (.carrier c))
    rw [Bag.enter_placed hst] at hrec
    rw [State.placeByLookup_idle c hf hst]
    refine Placed.onto he ?_ (Keeps.moveBag s g _ _).changes (Keeps.moveBag s g _ _).bags hrec fun n => ?_
    · rcases hst with h | h <;> rw [h] <;> exact BagState.noConfusion
    · rcases hst with h | h <;> rw [h] <;> rfl
  rcases hmay with hst | hst | hst | ⟨hst, n, hl⟩
  · exact hidle (.inl hst)
  · exact hidle (.inr hst)
  · have hrec := (Recast.moveBag hb .onLoop (some (.carrier c))).modifyBag (f := fun x => { x with laps := 0, reason := none }) rfl
      (Keeps.moveBag s g _ _).bags
    have hkeep : Keeps [.store] s _ :=
      (Keeps.moveBag s g .onLoop (some (.carrier c))).trans (Keeps.modifyBag _ g (fun x => { x with laps := 0, reason := none }))
    rw [Bag.stray_placed hst] at hrec
    rw [State.placeByLookup_stray c hf hst]
    refine Placed.onto he ?_ hkeep.changes hkeep.bags hrec fun n => ?_
    · rw [hst]
      exact BagState.noConfusion
    · rw [hst]
      rfl
  · rw [State.placeByLookup_onLoop c hf hst hl]
    exact Placed.moved he hb hst hl

end

/-- A read that brings a new bag places it with the read's reason. -/
theorem NewBag.placeByLookup {s : State} {read : Byte} {tag : BitVec 32} {tagged : Option Nat} {why : StrayReason}
    (h : NewBag s read tag Bag.Placeable tagged why) (c : Nat) : ∃ r, ReadResult.ofBytes read tag = some r ∧
    (r ≠ .noTag ↔ read.toNat ≠ 0) ∧ s.placeByLookup c r = s.placeFresh c tagged why := by
  obtain ⟨r, hr, hread, hf | ⟨g, b, hf, hno, rfl, rfl⟩⟩ := NewBag.read h
  · exact ⟨r, hr, hread, State.placeByLookup_new c hf⟩
  · exact ⟨r, hr, hread, State.placeByLookup_other c hf hno⟩

/-! ## A carrier believed EMPTY or UNKNOWN (R72, R73) -/

theorem archPlaces : Claim.ArchPlaces := by
  intro f arch occupied read tag x a c d e s ha hs hp hc he ho hbelief s1 seen htrack
  have hstore : s1.store = s.store := State.afterCheck_store ..
  have hlen : s1.store.bags.length = s.store.bags.length := by rw [hstore]
  have hslot : ∀ v, s1.store.slot v = s.store.slot v := fun v => by rw [hstore]
  have he1 : s1.carrier? c = some e := (State.afterCheck_carrier? ..).trans he
  have hplaces : ∀ r, ReadResult.ofBytes read tag = some r → (decide (occupied.toNat = 1) || (r != .noTag)) = true →
      exec (.arch f arch occupied read tag) s = .next ((s1.placeByLookup c r).classify seen) := fun r hr hocc => by
    rw [exec_arch_resolved ha hs ho hr hp hc]
    refine congrArg Host.Outcome.next (State.archSees_eq htrack ?_)
    rw [hocc]
    rcases hbelief with h | h
    · rw [State.observe_empty he1 h, if_pos rfl, show seen = .mismatch from if_pos h]
    · rw [State.observe_unknown he1 h, if_pos rfl,
        show seen = .neutral from if_neg (by rw [h]; exact Content.noConfusion)]
  refine ⟨fun h0 hr0 => ?_, fun tagged why hseen hnew => ?_, fun g b hfound hmay => ?_⟩
  · have hocc : (decide (occupied.toNat = 1) || (ReadResult.noTag != .noTag)) = false := by
      rw [h0]
      rfl
    rw [exec_arch_resolved ha hs ho (ReadResult.ofBytes_noTag hr0 tag) hp hc]
    refine congrArg Host.Outcome.next ?_
    rcases hbelief with h | h
    · rw [if_pos h]
      exact State.archSees_eq htrack (by rw [hocc, State.observe_empty he1 h]; rfl)
    · rw [if_neg (by rw [h]; exact Content.noConfusion)]
      refine (State.archSees_eq (u := s1.setContent c .empty) (seen := .neutral) htrack ?_).trans (State.classify_neutral _)
      rw [hocc, State.observe_unknown he1 h]
      rfl
  · obtain ⟨r, hr, hread, hplace⟩ := NewBag.placeByLookup (NewBag.before hnew hstore) c
    have hocc : (decide (occupied.toNat = 1) || (r != .noTag)) = true := by
      rcases hseen with h | h
      · rw [h]
        rfl
      · rw [bne_iff_ne.2 (hread.2 h), Bool.or_true]
    have hexec := hplaces r hr hocc
    rw [hplace] at hexec
    refine ⟨fun hfull => ?_, fun hfree => ?_⟩
    · rw [hexec, State.placeFresh_full tagged why (by rw [hlen]; exact hfull)]
    · have hfree1 : s1.store.bags.length < bagRecords := by rw [hlen]; exact hfree
      exact ⟨_, _, hexec, (Keeps.placeFresh s1 c tagged why).changes, State.placeFresh_carrier? he1 tagged why hfree1,
        Created.before (Created.placeFresh tagged why hfree1) hstore,
        fun k => (State.placeFresh_counts tagged why k).trans (by rw [hslot]), fun _ => HoldsFollow.placeFresh tagged why⟩
  · obtain ⟨hr, hfind⟩ := FoundBag.read (FoundBag.before hfound hstore)
    have hb1 : s1.bag? g = some b := (State.afterCheck_bag? ..).trans hfound.2.2.2.2.1
    obtain ⟨hch, hcar, hrec, hleft, hpen, hholds⟩ := Placed.placeByLookup he1 hb1 hfind hmay
    exact ⟨_, hplaces _ hr (Bool.or_true _), hch, hcar, hrec.bag, fun i hi => (hrec.others i hi).trans (by rw [hstore]),
      hrec.counted.before hstore, fun n y h1 h2 h3 hy => hleft n y h1 h2 h3 ((State.afterCheck_carrier? ..).trans hy), hpen,
      fun hl => hholds (BagTableLaw.ofStore hstore hl)⟩

/-! ## A carrier with a tagged bag (R76) -/

section
variable {s t : State} {read : Byte} {tag : BitVec 32} {h : Handle} {b y : Bag} {w : Counters → Counters}
  (hr : Recast s t h b y w) (hslot : ∀ v, t.slotState v = s.slotState v) (hne : s.store.tagMap.get? tag.toNat ≠ some h)
include hr hslot hne

/-- What a read finds does not rest on the record of a bag that it does not name. -/
theorem FoundBag.recast {g : Handle} {o : Bag} (hf : FoundBag s read tag g o) : FoundBag t read tag g o := by
  obtain ⟨hread, h1, h2, hg, hb, hopen⟩ := hf
  exact ⟨hread, h1, h2, by rw [hr.tags]; exact hg, (hr.other g fun he => hne (he ▸ hg)).trans hb,
    fun k hk => by rw [hslot]; exact hopen k hk⟩

theorem NewBag.recast {may : Bag → Prop} {tagged : Option Nat} {why : StrayReason} (hf : NewBag s read tag may tagged why) :
    NewBag t read tag may tagged why := by
  rcases hf with hf | hf | ⟨hread, h1, h2, ⟨hno, hrest⟩ | ⟨htag, g, o, hg, hb, hrest⟩⟩
  · exact .inl hf
  · exact .inr (.inl hf)
  · exact .inr (.inr ⟨hread, h1, h2, .inl ⟨by rw [hr.tags]; exact hno, hrest⟩⟩)
  · refine .inr (.inr ⟨hread, h1, h2, .inr ⟨htag, g, o, by rw [hr.tags]; exact hg,
      (hr.other g fun he => hne (he ▸ hg)).trans hb, ?_⟩⟩)
    simp only [hslot]
    exact hrest

end

theorem Store.lookup_eq_found {t : Store} {tag : Nat} {g : Handle} {b : Bag} (h : t.lookup tag = .found g b) :
    t.tagMap.get? tag = some g ∧ t.bag? g = some b := by
  unfold Store.lookup at h
  split at h
  · cases h
  · next g' hg =>
    split at h
    · cases h
    · next b' hb =>
      split at h
      · split at h
        · cases h
        · cases h
          exact ⟨hg, hb⟩
      · cases h
        exact ⟨hg, hb⟩

theorem State.find_eq_bag {s : State} {tag : Nat} {g : Handle} {b : Bag} (h : s.find (.one tag) = .bag g b) :
    s.store.tagMap.get? tag = some g ∧ s.bag? g = some b := by
  unfold State.find at h
  dsimp only at h
  split at h
  · cases h
  · cases h
  · next g' b' hf =>
    cases h
    exact Store.lookup_eq_found hf

/-- A bag that a read does not name stays as the read is placed. -/
theorem State.placeByLookup_bag? {s : State} {c : Nat} {e : Carrier} (he : s.carrier? c = some e) (hl : BagTableLaw s) {tag : Nat}
    {h : Handle} {b : Bag} (hb : s.bag? h = some b) (hne : s.store.tagMap.get? tag ≠ some h) :
    (s.placeByLookup c (.one tag)).bag? h = some b := by
  cases hf : s.find (.one tag) with
  | fresh tagged w =>
    rw [State.placeByLookup_new c hf]
    exact State.placeFresh_bag? tagged w hl hb
  | bag g y =>
    obtain ⟨hg, hy⟩ := State.find_eq_bag hf
    by_cases hmay : y.Placeable
    · exact ((Placed.placeByLookup he hy hf hmay).recast.other h fun heq => hne (heq ▸ hg)).trans hb
    · rw [State.placeByLookup_other c hf hmay]
      exact State.placeFresh_bag? none .duplicateTag hl hb

theorem archDisagrees : Claim.ArchDisagrees := by
  intro f arch occupied read tag x a c d e h b n s ha hs hp hc he ho hr h1 h2 hload hb htag hn s1 htrack
  have hstore : s1.store = s.store := State.afterCheck_store ..
  have hslot : ∀ v, s1.store.slot v = s.store.slot v := fun v => by rw [hstore]
  have he1 : s1.carrier? c = some e := (State.afterCheck_carrier? ..).trans he
  have hb1 : s1.bag? h = some b := (State.afterCheck_bag? ..).trans hb
  have hof := ReadResult.ofBytes_one (tag := tag) hr h1 h2
  have hocc : (decide (occupied.toNat = 1) || (ReadResult.one tag.toNat != .noTag)) = true := Bool.or_true _
  have hexec : exec (.arch f arch occupied read tag) s = .next ((s1.disagree c h b tag.toNat).classify .mismatch) := by
    rw [exec_arch_resolved ha hs ho hof hp hc]
    exact congrArg Host.Outcome.next (State.archSees_eq htrack
      (by rw [hocc, State.observe_loaded he1 hload, State.seeLoaded_other hb1 c htag hn]))
  refine ⟨fun hfirst => ?_, fun hagain hne hl => ?_⟩
  · have hmark : s1.disagree c h b tag.toNat = s1.modifyBag h (fun x => { x with recheck := true }) :=
      if_neg (by rw [hfirst]; exact Bool.false_ne_true)
    rw [hexec, hmark, State.modifyBag_live hb1]
  · have hplace : s1.disagree c h b tag.toNat = (s1.makeMissing h).placeByLookup c (.one tag.toNat) := if_pos hagain
    have hl1 : BagTableLaw s1 := BagTableLaw.ofStore hstore hl
    have hlost := Recast.makeMissing hb1
    have hkeep := Keeps.makeMissing s1 h
    have hl2 : BagTableLaw (s1.makeMissing h) := hkeep.bags hl1
    have he2 : (s1.makeMissing h).carrier? c = some e := he1
    have hne1 : s1.store.tagMap.get? tag.toNat ≠ some h := by rw [hstore]; exact hne
    have hstates : ∀ v, (s1.makeMissing h).slotState v = s1.slotState v := State.moveBag_slotState s1 h .missing none
    have hlen2 : (s1.makeMissing h).store.bags.length = s.store.bags.length := (hlost.size hl1).trans (by rw [hstore])
    have hcounts : b.state = .onLoop → ∀ v, ((s1.makeMissing h).store.slot v).counts = LostCounts s b v := fun hon v => by
      rw [LostCounts.of hlost hon, LostCounts, hslot]
      rfl
    rw [hplace] at hexec
    refine ⟨_, b.enter .missing none s1.hallSecond, hexec,
      hkeep.changes.comp (Keeps.placeByLookup (s1.makeMissing h) c (.one tag.toNat)).changes (by decide) (by decide),
      State.placeByLookup_bag? he2 hl2 hlost.bag (by rw [hlost.tags]; exact hne1), rfl, rfl, rfl, rfl, fun g y hfound hmay => ?_,
      fun tagged why hnew => ?_⟩
    · have hfound2 := FoundBag.recast hlost hstates hne1 (FoundBag.before hfound hstore)
      obtain ⟨-, hfind⟩ := FoundBag.read hfound2
      have hp2 := Placed.placeByLookup he2 hfound2.2.2.2.2.1 hfind hmay
      refine ⟨hp2.carrier, fun hon v => ?_, _, hp2.recast.bag, rfl, rfl⟩
      refine (hp2.recast.counted v).trans ?_
      rw [hcounts hon v]
      split
      · next hv =>
        by_cases hloop : y.state = .onLoop
        · rw [if_pos hloop, if_neg fun h => h.2 hloop]
        · rw [if_neg hloop, if_pos ⟨hv, hloop⟩]
      · next hv => rw [if_neg fun h => hv h.1]
    · obtain ⟨r, hr', -, hnewplace⟩ := NewBag.placeByLookup (NewBag.recast hlost hstates hne1 (NewBag.before hnew hstore)) c
      cases hof.symm.trans hr'
      rw [hnewplace]
      refine ⟨fun hon v => (State.placeFresh_counts tagged why v).trans (hcounts hon v), fun hfull => ?_, fun hfree => ?_⟩
      · rw [State.placeFresh_full tagged why (by rw [hlen2]; exact hfull), State.setContent_carrier?, if_pos rfl, he2]
        rfl
      · have hfree2 : (s1.makeMissing h).store.bags.length < bagRecords := by rw [hlen2]; exact hfree
        exact ⟨_, State.placeFresh_carrier? he2 tagged why hfree2, Created.before (Created.recast
          (Created.placeFresh tagged why hfree2) hlost hb1 (State.makeMissing_gen hb1) hkeep.bags) hstore⟩

/-- Settles O47: an ARCH by what the carrier is believed to hold, and its classification by the tracking state. -/
theorem archObserves : Obligations.ArchObserves :=
  ⟨archSeesLoaded, archUnresolved, classificationActs, archPlaces, archIdentifies, archDisagrees⟩

end Sys2Proof.Machine
end

section
/-! The check that an ENCODE makes of a bag read by its tag, and how its answer is sent (R56, R59, R148, R158, R162). -/

namespace Sys2Proof.Machine

/-! ## What the destination of a bag in the pen rests on (R95, R158) -/

theorem Store.Alike.bagRoute {t u : Store} (h : Store.Alike t u) (b : Bag) : u.bagRoute b = t.bagRoute b := by
  unfold Store.bagRoute
  obtain ⟨-, ⟨h1, h2⟩ | ⟨c, d, hc, hd, hcd⟩⟩ := h.governing b
  · rw [h1, h2]
  · have hroute : d.uncounted.route = c.uncounted.route := congrArg Cabin.route hcd
    change d.route = c.route at hroute
    rw [hc, hd]
    simp only [bind, Option.bind_some, hroute]

section
variable {s t : State} (h : Store.Alike s.store t.store) (hs : ∀ v, t.slotState v = s.slotState v)
include h hs

theorem State.linesHeld_congr (b : Bag) : t.linesHeld b = s.linesHeld b := by
  have hclosing : t.bagClosing b = s.bagClosing b := by
    unfold State.bagClosing
    cases b.home with
    | none => rfl
    | some k => exact congrArg (· == SlotState.closing) (hs k.slot)
  rw [State.linesHeld, State.linesHeld, hclosing, h.governedStandsVoid]

theorem State.routable_congr (b : Bag) : t.routable b = s.routable b := by
  rw [State.routable, State.routable, State.penDestination, State.penDestination, State.linesHeld_congr h hs, State.linesRoute,
    State.linesRoute, h.bagRoute]

theorem reEvaluated_congr (b : Bag) (named : Option StrayReason) : reEvaluated t b named = reEvaluated s b named := by
  have hnone : t.store.governing b = none ↔ s.store.governing b = none := by
    obtain ⟨-, ⟨h1, h2⟩ | ⟨c, d, hc, hd, -⟩⟩ := h.governing b
    · rw [h1, h2]
    · rw [hc, hd]
      exact ⟨fun h => absurd h (Option.some_ne_none d), fun h => absurd h (Option.some_ne_none c)⟩
  have hvoid : (t.store.governing b).any (fun c => c.standsVoid) = (s.store.governing b).any (fun c => c.standsVoid) := by
    obtain ⟨-, ⟨h1, h2⟩ | ⟨c, d, hc, hd, hcd⟩⟩ := h.governing b
    · rw [h1, h2]
    · rw [hc, hd]
      change d.standsVoid = c.standsVoid
      rw [Cabin.standsVoid, Cabin.standsVoid, Cabin.status_of_uncounted hcd, Cabin.forward_of_uncounted hcd]
  unfold reEvaluated
  simp only [hs, hvoid, hnone]

theorem encodeReason_congr (b : Bag) (named : Option StrayReason) : encodeReason t b named = encodeReason s b named := by
  rw [encodeReason, encodeReason, h.anyStatus b (fun v => v == .void), demanded_congr h rfl rfl, reEvaluated_congr h hs]

end

/-! ## Re-evaluation (R158) -/

/-- What re-evaluating a stray gives is what the lines that decide for the pen give. -/
theorem reEvaluated_eq (s : State) (b : Bag) (named : Option StrayReason) : reEvaluated s b named =
    match s.penDestination b with
    | .stray r => some r
    | _ => b.reason.or named := by
  have hvoid : (s.store.governing b).any (fun c => c.standsVoid) = s.store.governedStandsVoid b := by
    unfold Store.governedStandsVoid
    cases s.store.governing b <;> rfl
  have hclosing : b.home.any (fun k => s.slotState k.slot == .closing) = s.bagClosing b := by
    unfold State.bagClosing
    cases b.home <;> rfl
  have hroute : s.store.governing b = none ↔ s.store.bagRoute b = none := by
    cases hh : b.home with
    | none => simp [Store.governing_of_no_home hh, Store.bagRoute, hh]
    | some k => cases hg : s.store.governing b <;> simp [Store.bagRoute, hh, hg]
  rw [reEvaluated, hvoid, hclosing, State.penDestination, State.linesHeld]
  by_cases hhold : b.hold = true
  · rw [if_pos hhold, if_pos hhold]
  · rw [if_neg hhold, if_neg hhold]
    by_cases hcl : s.bagClosing b = true
    · rw [if_pos hcl, if_pos hcl]
    · rw [if_neg hcl, if_neg hcl]
      have hpulled : (b.pull ≠ none ∨ s.store.governedStandsVoid b = true) ↔
          (b.pull.isSome || s.store.governedStandsVoid b) = true := by
        cases b.pull <;> simp
      by_cases hp : b.pull ≠ none ∨ s.store.governedStandsVoid b = true
      · rw [if_pos hp, if_pos (hpulled.1 hp)]
      · rw [if_neg hp, if_neg (mt hpulled.2 hp)]
        dsimp only
        rw [State.linesRoute]
        cases hr : s.store.bagRoute b with
        | none =>
          rw [if_pos (hroute.2 hr)]
          cases b.tag <;> rfl
        | some k => rw [if_neg fun hg => Option.some_ne_none k (hr.symm.trans (hroute.1 hg))]

theorem State.reEvaluate_live {s : State} {h : Handle} {b : Bag} (hb : s.bag? h = some b) (named : Option StrayReason) :
    s.reEvaluate h named =
      s.setStore { s.store with bags := s.store.bags.put h.index { b with reason := reEvaluated s b named } } := by
  rw [State.reEvaluate, hb, reEvaluated_eq]
  dsimp only
  cases s.penDestination b with
  | stray r => exact State.modifyBag_live hb _
  | route k =>
    refine (State.modifyBag_live hb _).trans ?_
    cases b.reason <;> rfl
  | nowhere =>
    refine (State.modifyBag_live hb _).trans ?_
    cases b.reason <;> rfl

/-! ## The check at encode (R148, R158) -/

/-- The record that the check at encode leaves. -/
def Bag.encoded (b : Bag) (s : State) (named : Option StrayReason) : Bag :=
  { b with pull := demanded s b, reason := encodeReason s b named }

theorem State.encodeCheck_live {s : State} {h : Handle} {b : Bag} (hb : s.bag? h = some b) (named : Option StrayReason) :
    s.encodeCheck h named = s.setStore { s.store with bags := s.store.bags.put h.index (b.encoded s named) } := by
  have hcheck := State.demandCheck_bag? hb
  have hlive := State.demandCheck_live hb
  rw [s.checked_eq] at hlive
  have hvoid : (s.demandCheck h).store.governedVoid { b with pull := demanded s b } =
      (s.store.governing b).any (fun c => c.status == .void) := by
    rw [Store.governedVoid_eq_any, hlive]
    exact congrArg (fun g : Option Cabin => g.any (fun c => c.status == .void)) (Store.governing_congr _ rfl)
  have hput : ∀ y : Bag, (s.demandCheck h).setStore { (s.demandCheck h).store with
      bags := (s.demandCheck h).store.bags.put h.index y } = s.setStore { s.store with bags := s.store.bags.put h.index y } := fun y => by
    rw [hlive]
    change s.setStore { s.store with bags := (s.store.bags.put h.index _).put h.index y } = _
    rw [Table.put_put]
  have hsame : reEvaluated (s.demandCheck h) { b with pull := demanded s b } named =
      reEvaluated s { b with pull := demanded s b } named := by
    rw [hlive]
    rfl
  rw [State.encodeCheck, hcheck]
  dsimp only
  rw [Option.any_some, hvoid, Bag.encoded, encodeReason]
  split
  · rw [State.giveReason, State.modifyBag_live hcheck, hput]
  · rw [State.reEvaluate_live hcheck, hput, hsame]

/-- The check at encode, of a record that has taken over another's place. -/
theorem Recast.encodeCheck {s t : State} {g : Handle} {b y : Bag} {w : Counters → Counters} (h : Recast s t g b y w)
    (hs : ∀ v, t.slotState v = s.slotState v) (hl : BagTableLaw s → BagTableLaw t) (named : Option StrayReason)
    (hd : demanded s y = demanded s b) (hr : encodeReason s y named = encodeReason s b named) :
    Recast s (t.encodeCheck g named) g b { y with pull := demanded s b, reason := encodeReason s b named } w := by
  have hfix : y.encoded t named = { y with pull := demanded s b, reason := encodeReason s b named } := by
    rw [Bag.encoded, encodeReason_congr h.alike hs, hr, demanded_congr h.alike rfl rfl, hd]
  have heq : t.encodeCheck g named =
      t.modifyBag g (fun _ => { y with pull := demanded s b, reason := encodeReason s b named }) := by
    rw [State.encodeCheck_live h.bag, hfix, State.modifyBag_live h.bag]
  rw [heq]
  exact h.modifyBag rfl hl

/-! ## Answers (R56, R59, R162) -/

/-- The answer for a record read by its own tag: its route where it is routable, else its reason. -/
def State.answerOf (s : State) (y : Bag) : EncodeAnswer :=
  match s.routable y with
  | some r => .route r
  | none => .reason (y.reason.getD .noRead)

theorem State.routeOrReason_live {s : State} {h : Handle} {y : Bag} (hy : s.bag? h = some y) :
    s.routeOrReason h = s.answerOf y := by
  rw [State.routeOrReason, hy, State.answerOf]
  rfl

theorem State.reasonOf_live {s : State} {h : Handle} {y : Bag} (hy : s.bag? h = some y) :
    s.reasonOf h = .reason (y.reason.getD .noRead) := by
  rw [State.reasonOf, hy]
  rfl

/-- An answer is no level frame: it never takes the place of a frame that waits. -/
theorem OutPayload.answer_differs (p : Nat) (a : EncodeAnswer) (f : OutFrame) :
    (OutPayload.answer p a).sameLevel f.payload = false := by
  cases f.payload <;> rfl

theorem answerIsSent : Claim.AnswerIsSent := by
  intro s p a t
  have hw := fun f (_ : f ∈ s.link.txQueue) => OutPayload.answer_differs p a f
  refine ⟨fun n hn hc => ?_, fun h => ?_⟩
  · obtain ⟨x, hx, hrole, -⟩ := State.servingNode_eq hn
    have hnode := State.send_joins_node? hn hx hw hc
    refine ⟨x, hx, hrole, (hnode n).trans (if_pos rfl), fun m hm => (hnode m).trans (if_neg hm), ?_⟩
    have ht : t = _ := State.send_joins hn hx hw hc
    refine ht.trans ?_
    rw [ht]
    rfl
  · rcases h with h | h
    · exact State.send_full hw h
    · exact State.send_none _ h

/-! ## ENCODE (R45, R162) -/

theorem exec_encode (f : FrameHead) (position read : Byte) (tag : BitVec 32) (s : State) :
    exec (.encode f position read tag) s = .next (s.receive f 0x09 ([position, read] ++ tagBytes tag) fun t =>
      t.takeFrame f ⟨.encode, none, (ReadResult.ofBytes read tag).isSome⟩ fun t =>
        t.encode position.toNat ((ReadResult.ofBytes read tag).getD .noTag)) := rfl

theorem exec_encode_read {s : State} {f : FrameHead} {x : Node} {position read : Byte} {tag : BitVec 32} {r : ReadResult}
    (ha : AdmittedEncode s f x) (hr : ReadResult.ofBytes read tag = some r) :
    exec (.encode f position read tag) s = .next ((s.afterCheck f x).encode position.toNat r) := by
  have hpass : s.passesRole x ⟨.encode, none, (ReadResult.ofBytes read tag).isSome⟩ = true := by
    rw [hr]
    exact passesRole_plain ha.2.2.2 s
  refine (exec_encode ..).trans (congrArg Host.Outcome.next ((ha.here.receive 0x09 ([position, read] ++ tagBytes tag) _
    fun t => t.encode position.toNat ((ReadResult.ofBytes read tag).getD .noTag)).trans ((if_pos hpass).trans ?_)))
  rw [hr]
  rfl

section
variable {s : State} {p : Nat} (r : ReadResult)

theorem State.encode_discarded (h : s.pen.size ≤ p) : s.encode p r = s :=
  if_neg fun hp => absurd (of_decide_eq_true hp) (Nat.not_lt.2 h)

theorem State.encode_judged (h : p < s.pen.size) : s.encode p r =
    (s.judge p r).1.send .encode 0 (.answer p (s.judge p r).2) := if_pos (decide_eq_true h)

theorem State.judge_free (h : s.pen.positions.get? p = none) : s.judge p r = s.encodeFree p r := by
  rw [State.judge, h]

variable {h : Handle} {a : Bag} (hp : s.pen.positions.get? p = some h) (ha : s.bag? h = some a)
include hp ha

theorem State.judge_anonymous (ht : a.tag = none) : s.judge p r = s.encodeAnonymous p h a r := by
  rw [State.judge, hp]
  dsimp only
  rw [ha]
  dsimp only
  rw [ht]

theorem State.judge_tagged {n : Nat} (ht : a.tag = some n) : s.judge p r = s.encodeTagged h n r := by
  rw [State.judge, hp]
  dsimp only
  rw [ha]
  dsimp only
  rw [ht]

end

end Sys2Proof.Machine
end

section
/-! ENCODE at free and at held positions (R21, R31, R45, R78, R148, R155, R157 to R162). -/

namespace Sys2Proof.Machine

/-! ## A report at a free position (R160) -/

theorem placeable_iff {b : Bag} : placeable b = true ↔ b.state = .registered ∨ b.state = .missing := by
  simp only [placeable, Bool.or_eq_true, beq_iff_eq]

section
variable {s : State} {p : Nat} {r : ReadResult}

theorem State.encodeFree_full (h : s.penRoom = 0) : s.encodeFree p r = (s, .notTaken .pen) := if_pos (by omega)

variable (h : 1 ≤ s.penRoom)
include h

theorem State.encodeFree_found {g : Handle} {b : Bag} (hf : s.find r = .bag g b) (hp : placeable b = true) :
    s.encodeFree p r = ((s.intake g p).encodeCheck g (some .noRead),
      ((s.intake g p).encodeCheck g (some .noRead)).routeOrReason g) := by
  refine (if_neg (by omega)).trans ?_
  rw [hf, Found.orDuplicate, if_pos hp]

theorem State.encodeFree_fresh {tag : Option Nat} {w : StrayReason} (hf : (s.find r).orDuplicate placeable = .fresh tag w) :
    s.encodeFree p r = s.encodeFresh p tag w := by
  refine (if_neg (by omega)).trans ?_
  rw [hf]

end

theorem State.encodeFresh_full {s : State} (h : bagRecords ≤ s.store.bags.length) (p : Nat) (tag : Option Nat) (w : StrayReason) :
    s.encodeFresh p tag w = (s, .notTaken .table) := by
  rw [State.encodeFresh, State.createBag_eq, if_neg (Nat.not_lt.2 h)]

theorem State.encodeFresh_eq {s : State} (h : s.store.bags.length < bagRecords) (p : Nat) (tag : Option Nat) (w : StrayReason) :
    s.encodeFresh p tag w = ((s.withBag (s.penBag p tag w)).occupy s.store.newHandle p, .reason w) := by
  rw [State.encodeFresh, State.createBag_eq, if_pos h]

/-! ## A bag that enters the pen at an ENCODE (R148, R155, R160) -/

theorem State.intake_slotState (s : State) (g : Handle) (p : Nat) (v : SlotId) : (s.intake g p).slotState v = s.slotState v := by
  rw [State.slotState, State.intake_store, State.modifyBag_slot]
  exact State.moveBag_slotState s g .stray (some (.pen p)) v

theorem Recast.intake {s : State} {g : Handle} {b : Bag} (hb : s.bag? g = some b) (hst : b.state ≠ .stray) (p : Nat) :
    Recast s (s.intake g p) g b (b.penned p s.hallSecond) (fun n => n.move b.state .stray) := by
  have hr := ((Recast.moveBag hb .stray (some (.pen p))).modifyBag (f := fun b => { b with aged := false, reinduct := false }) rfl
    (Keeps.moveBag s g _ _).bags).ofStore (State.intake_store s g p)
  rw [Bag.enter_penned hst] at hr
  exact hr

/-- The hold conditions do not rest on what the records say. -/
theorem HoldsFollow.thenStore {s t u : State} {a : Prop} (k : HoldsFollow s t a) (hch : Changes [.store] t u)
    (hlen : u.store.bags.length = t.store.bags.length) : HoldsFollow s u a := by
  have hpen : u.pen = t.pen := hch .pen (by decide)
  have hlim : u.limits = t.limits := hch .limits (by decide)
  exact k.after ⟨by rw [hch .loop (by decide)], by rw [hpen], tableLow_of_length hlen,
    State.subjects_congr (hch .notices (by decide)) _, by rw [hch .notices (by decide)]⟩ (by rw [penFree, penFree, hpen]) (by rw [hlim])

theorem encodeReason_named (s : State) (b : Bag) (r : StrayReason) : encodeReason s b (some r) ≠ none := by
  unfold encodeReason reEvaluated
  repeat' split
  any_goals exact Option.some_ne_none _
  cases b.reason <;> exact Option.some_ne_none _

/-- The record of a found bag that an ENCODE places at a position. -/
def Bag.encodedAt (b : Bag) (s : State) (p : Nat) : Bag :=
  { b with
    state := .stray, location := some (.pen p), pull := demanded s b, reinduct := false, aged := false
    entered := some s.hallSecond, reason := encodeReason s b (some .noRead) }

/-- The state in which a found bag has entered the pen, and been checked. -/
def State.encodedIn (s : State) (g : Handle) (p : Nat) : State := (s.intake g p).encodeCheck g (some .noRead)

section
variable {s : State} {g : Handle} {b : Bag} (hb : s.bag? g = some b) (hst : b.state = .registered ∨ b.state = .missing) (p : Nat)
include hb hst

theorem Recast.encodedIn : Recast s (s.encodedIn g p) g b (b.encodedAt s p) (fun n => (n.dec b.state).inc .stray) := by
  have hne : b.state ≠ .stray := by rcases hst with h | h <;> rw [h] <;> exact BagState.noConfusion
  have hmove : ∀ n : Counters, n.move b.state .stray = (n.dec b.state).inc .stray := fun n => by
    rcases hst with h | h <;> rw [h] <;> rfl
  have hloop : (b.recheck && b.state != .onLoop) = b.recheck := by
    rcases hst with h | h <;> rw [h] <;> exact Bool.and_true _
  have hrecord : { b.penned p s.hallSecond with pull := demanded s b, reason := encodeReason s b (some .noRead) } =
      b.encodedAt s p := by
    rw [Bag.penned, Bag.encodedAt, hloop]
  have hr := (Recast.intake hb hne p).encodeCheck (s.intake_slotState g p) (Keeps.intake s g p).bags (some .noRead)
    (demanded_congr (Store.Alike.same rfl) rfl rfl) rfl
  rw [hrecord] at hr
  exact hr.counter hmove

theorem State.encodedIn_routable (y : Bag) : (s.encodedIn g p).routable y = s.routable y := by
  refine State.routable_congr (Recast.encodedIn hb hst p).alike (fun v => ?_) y
  have hcheck := (Keeps.encodeCheck (s.intake g p) g (some .noRead)).changes
  have hne : b.state ≠ .stray := by rcases hst with h | h <;> rw [h] <;> exact BagState.noConfusion
  rw [State.encodedIn, State.encodeCheck_live (State.intake_bag? hb p hne), ← s.intake_slotState g p v]
  cases v <;> rfl

end

theorem Created.ofStore {s t u : State} {g : Handle} {but : Option Nat} {b : Bag} (h : Created s t g but b)
    (hs : u.store = t.store) : Created s u g but b := by
  unfold Created State.bag? at *
  rw [hs]
  exact h

/-- A new bag is in the pen at a position. -/
theorem HoldsFollow.encodeFresh {s : State} {b : Bag} (h : s.store.bags.length < bagRecords) (p : Nat) :
    HoldsFollow s ((s.withBag b).occupy s.store.newHandle p) True := by
  have hstore : ((s.withBag b).occupy s.store.newHandle p).store = (s.withBag b).store :=
    (Keeps.occupy _ _ p).changes .store (by decide)
  have hmade : s.createBag b = some (s.store.newHandle, s.withBag b) := by rw [State.createBag_eq, if_pos h]
  exact HoldsFollow.thenPen (HoldsFollow.createBag hmade) (HoldsFollow.occupy ..) (by rw [tableLow, tableLow, hstore])
    (State.withBag_sources ..)

theorem State.afterCheck_penRoom (s : State) (f : FrameHead) (x : Node) : (s.afterCheck f x).penRoom = s.penRoom := by
  have hchutes : (s.afterCheck f x).chutes = s.chutes := State.afterCheck_changes s f x .chutes (by decide)
  rw [State.penRoom, State.penRoom, State.freePen, State.freePen, State.strayClaims, State.strayClaims, hchutes, State.afterCheck_pen]

theorem encodePlaces : Claim.EncodePlaces := by
  intro f position read tag x s ha s1 p answers
  have hstore : s1.store = s.store := State.afterCheck_store ..
  have hpen : s1.pen = s.pen := State.afterCheck_pen ..
  have hlen : s1.store.bags.length = s.store.bags.length := by rw [hstore]
  have hslot : ∀ v, s1.store.slot v = s.store.slot v := fun v => by rw [hstore]
  have halike : Store.Alike s.store s1.store := State.afterCheck_alike s f x
  have hstates : ∀ v, s1.slotState v = s.slotState v := fun v => by rw [State.slotState, hstore]; rfl
  have hnow : s1.hallSecond = s.hallSecond := State.afterCheck_hallSecond ..
  have hroom : s1.penRoom = s.penRoom := State.afterCheck_penRoom ..
  have hexec : ∀ r t w, ReadResult.ofBytes read tag = some r → p < s.pen.size → s.pen.positions.get? p = none →
      s1.encodeFree p r = (t, w) → answers t w := fun r t w hr hp hfree ht => by
    have hjudge : s1.judge p r = (t, w) := (State.judge_free r (by rw [hpen]; exact hfree)).trans ht
    change exec (.encode f position read tag) s = _
    rw [exec_encode_read ha hr, State.encode_judged r (by rw [hpen]; exact hp), hjudge]
  refine ⟨fun hread => ?_, fun g b hp hfree hcredit hfound hst => ?_, fun tagged why hp hfree hcredit hnew => ?_⟩
  · obtain ⟨r, hr⟩ := ReadResult.ofBytes_valid hread
    refine ⟨fun hp => ?_, fun hp hfree h0 => hexec r _ _ hr hp hfree (State.encodeFree_full (hroom.trans h0))⟩
    rw [exec_encode_read ha hr, State.encode_discarded r (by rw [hpen]; exact hp)]
  · have hfound1 := FoundBag.before hfound hstore
    obtain ⟨hr, hfind⟩ := FoundBag.read hfound1
    have hb1 : s1.bag? g = some b := hfound1.2.2.2.2.1
    have hrec := Recast.encodedIn hb1 hst p
    have hne : b.state ≠ .stray := by rcases hst with h | h <;> rw [h] <;> exact BagState.noConfusion
    obtain ⟨-, -, -, hpos, hstrays, hloop, hholds⟩ := Pens.intake hb1 hne p
    have hcheck := (Keeps.encodeCheck (s1.intake g p) g (some .noRead)).changes
    have hy : b.encodedAt s1 p = b.encodedAt s p := by
      rw [Bag.encodedAt, Bag.encodedAt, hnow, demanded_congr halike rfl rfl, encodeReason_congr halike hstates]
    have hanswer : (s1.encodedIn g p).routeOrReason g = s.answerOf (b.encodedAt s p) := by
      rw [State.routeOrReason_live hrec.bag, hy, State.answerOf, State.answerOf, State.encodedIn_routable hb1 hst p,
        State.routable_congr halike hstates]
    refine ⟨s1.encodedIn g p, ?_, (Keeps.intake s1 g p).changes.comp hcheck (by decide) (by decide), ?_,
      encodeReason_named s b .noRead, fun i hi => (hrec.others i hi).trans (by rw [hstore]), hrec.tags.trans (by rw [hstore]),
      fun k hk => ?_, ?_, ?_, ?_, fun hl => ?_⟩
    · refine (hexec _ _ _ hr hp hfree (State.encodeFree_found (by rw [hroom]; exact hcredit) hfind (placeable_iff.2 hst))).trans ?_
      exact congrArg (fun w => Host.Outcome.next ((s1.encodedIn g p).send .encode 0 (.answer p w))) hanswer
    · exact hrec.bag.trans (congrArg some hy)
    · rw [hrec.counted k.slot, if_pos (by rw [hk]; simp), hslot]
    · rw [show (s1.encodedIn g p).pen = (s1.intake g p).pen from hcheck .pen (by decide)]
      exact hpos
    · rw [show (s1.encodedIn g p).pen = (s1.intake g p).pen from hcheck .pen (by decide), hstrays, hpen]
    · rw [show (s1.encodedIn g p).loop = (s1.intake g p).loop from hcheck .loop (by decide)]
      exact hloop
    · have hl1 := BagTableLaw.ofStore hstore hl
      exact (hholds hl1).thenStore hcheck ((hrec.size hl1).trans ((Recast.intake hb1 hne p).size hl1).symm)
  · obtain ⟨r, hr, hfind⟩ := NewBag.orDuplicate (NewBag.before hnew hstore) (ok := placeable) fun b => placeable_iff.1
    have hfresh := State.encodeFree_fresh (p := p) (by rw [hroom]; exact hcredit) hfind
    refine ⟨fun hfull => hexec r _ _ hr hp hfree (hfresh.trans (State.encodeFresh_full (by rw [hlen]; exact hfull) ..)), fun hrecords => ?_⟩
    have hrec1 : s1.store.bags.length < bagRecords := by rw [hlen]; exact hrecords
    have hmade : s1.createBag (s1.penBag p tagged why) = some (s1.store.newHandle, s1.withBag (s1.penBag p tagged why)) := by
      rw [State.createBag_eq, if_pos hrec1]
    have hocc := (Keeps.occupy (s1.withBag (s1.penBag p tagged why)) s1.store.newHandle p).changes
    refine ⟨_, s1.store.newHandle, hexec r _ _ hr hp hfree (hfresh.trans (State.encodeFresh_eq hrec1 ..)),
      (Keeps.createBag hmade).changes.comp hocc (by decide) (by decide), ?_, ?_, ?_, ?_, fun _ => HoldsFollow.encodeFresh hrec1 p⟩
    · have hc := Created.before ((Created.withBag s1 (s1.penBag p tagged why) hrec1).ofStore (hocc .store (by decide))) hstore
      have hbag : s1.penBag p tagged why = ⟨tagged, none, .stray, some (.pen p), 0, none, false, false, false, false, some why,
          some s.hallSecond⟩ := by
        rw [State.penBag, hnow]
        rfl
      rw [← hbag]
      exact hc
    · rw [State.occupy_pen]
      exact Table.get?_put_same ..
    · rw [State.occupy_pen, State.withBag_pen, hpen]
    · rw [State.occupy_loop, State.withBag_loop]

/-! ## A report at a held position (R159, R161) -/

section
variable {s : State} {h : Handle} {a : Bag} (ha : s.bag? h = some a) (p : Nat)
include ha

theorem State.giveReason_live (w : StrayReason) : s.giveReason h w =
    s.setStore { s.store with bags := s.store.bags.put h.index { a with reason := some w } } := State.modifyBag_live ha _

/-- A stray takes a reason, and is answered by it. -/
theorem State.giveReason_answer (w : StrayReason) : (s.giveReason h w).reasonOf h = .reason w := by
  have hbag : (s.giveReason h w).bag? h = some { a with reason := some w } := by
    rw [State.giveReason, State.modifyBag_bag?, if_pos rfl, ha]
    rfl
  rw [State.reasonOf_live hbag]
  rfl

theorem State.encodeAnonymous_unread {r : ReadResult} (hr : r = .noTag ∨ r = .several) :
    s.encodeAnonymous p h a r = (s, .reason (a.reason.getD .noRead)) := by
  rw [← State.reasonOf_live ha]
  rcases hr with rfl | rfl <;> rfl

theorem State.encodeTagged_unread (n : Nat) {r : ReadResult} (hr : r = .noTag ∨ r = .several) :
    s.encodeTagged h n r = (s, .reason (a.reason.getD .noRead)) := by
  rw [← State.reasonOf_live ha]
  rcases hr with rfl | rfl <;> rfl

theorem State.encodeTagged_other {n t : Nat} (hn : n ≠ t) :
    s.encodeTagged h n (.one t) = (s.giveReason h .mismatch, .reason .mismatch) := by
  rw [← State.giveReason_answer ha]
  exact if_neg (Ne.symm hn)

theorem State.encodeAnonymous_unknown {t : Nat} (hno : s.store.tagMap.get? t = none) :
    s.encodeAnonymous p h a (.one t) = (s.setStore { s.store with
      tagMap := s.store.tagMap.put t h
      bags := s.store.bags.put h.index { a with tag := some t, reason := some .unknownTag } }, .reason .unknownTag) := by
  have hgive : s.setStore (s.store.giveTag h t) = s.setStore { s.store with
      tagMap := s.store.tagMap.put t h, bags := s.store.bags.put h.index { a with tag := some t } } := by
    rw [Store.giveTag, Store.modifyBag, show s.store.bag? h = some a from ha]
    rfl
  obtain ⟨hgen, -⟩ := Store.bag?_eq_some.1 ha
  have hb' : (s.setStore { s.store with tagMap := s.store.tagMap.put t h
                                        bags := s.store.bags.put h.index { a with tag := some t } }).bag? h =
      some { a with tag := some t } := Store.bag?_eq_some.2 ⟨hgen, Table.get?_put_same ..⟩
  rw [State.encodeAnonymous]
  dsimp only
  rw [Store.lookup_none hno]
  dsimp only
  rw [hgive, State.giveReason_answer hb', State.giveReason_live hb', State.setStore_store, Table.put_put]
  rfl

theorem State.encodeAnonymous_closed {t : Nat} (hcl : s.store.lookup t = .closedTag) :
    s.encodeAnonymous p h a (.one t) = (s.giveReason h .wrongSailing, .reason .wrongSailing) := by
  rw [← State.giveReason_answer ha, State.encodeAnonymous]
  dsimp only
  rw [hcl]

theorem State.encodeAnonymous_duplicate {t : Nat} {g : Handle} {b : Bag} (hf : s.store.lookup t = .found g b)
    (h1 : b.state ≠ .registered) (h2 : b.state ≠ .missing) :
    s.encodeAnonymous p h a (.one t) = (s.giveReason h .duplicateTag, .reason .duplicateTag) := by
  rw [← State.giveReason_answer ha, State.encodeAnonymous]
  dsimp only
  rw [hf]
  exact if_neg (not_or.2 ⟨h1, h2⟩)

omit ha

theorem State.encodeAnonymous_merge {t : Nat} {g : Handle} {b : Bag} (hf : s.store.lookup t = .found g b)
    (hst : b.state = .registered ∨ b.state = .missing) :
    s.encodeAnonymous p h a (.one t) = (s.encodeMerge p h a g, (s.encodeMerge p h a g).routeOrReason g) := by
  rw [State.encodeAnonymous]
  dsimp only
  rw [hf]
  exact if_pos hst

end

/-! ## A merge in the pen (R159) -/

theorem Store.Alike.retire {t : Store} {h : Handle} {b : Bag} (hb : t.bag? h = some b) : Store.Alike t (t.retire h) := by
  have hcount : Store.Alike (t.untag b.tag) ((t.untag b.tag).countOut b.home b.state) := by
    rw [Store.countOut_eq]
    exact Store.Alike.recount _ _ _ fun _ => rfl
  rw [Store.retire_live hb]
  exact ((Store.Alike.same (by rw [Store.untag_frame])).trans hcount).trans (Store.Alike.same rfl)

theorem Store.retire_state {t : Store} {h : Handle} {b : Bag} (hb : t.bag? h = some b) (v : SlotId) :
    ((t.retire h).slot v).state = (t.slot v).state := by
  have hcount : (((t.untag b.tag).countOut b.home b.state).slot v).state = (t.slot v).state := by
    rw [Store.countOut_eq, (Store.Counts.recount ..).state, Store.slot_untag]
  rw [Store.retire_live hb, ← hcount]
  cases v <;> rfl

/-- The found bag's record as it takes over the anonymous stray's place. -/
def Bag.swapped (b a : Bag) (p : Nat) : Bag :=
  { b with state := .stray, location := some (.pen p), entered := a.entered, aged := a.aged }

theorem Bag.swapped_enter {b : Bag} (hst : b.state = .registered ∨ b.state = .missing) (a : Bag) (p now : Nat) :
    { b.enter .stray (some (.pen p)) now with entered := a.entered, aged := a.aged } = b.swapped a p := by
  have h1 : (!(b.state == .onLoop && BagState.stray != .onLoop)) = true := by
    rcases hst with h | h <;> rw [h] <;> rfl
  have h2 : (!(b.state == .stray && BagState.stray != .stray)) = true := by
    rcases hst with h | h <;> rw [h] <;> rfl
  rw [Bag.enter, Bag.swapped, h1, h2, Bool.and_true, Bool.and_true]

/-- The found bag in the anonymous one's place, both records there still. -/
def State.swappedIn (s : State) (p : Nat) (h : Handle) (a : Bag) (g : Handle) : State :=
  let m := (s.moveBag g .stray (some (.pen p))).modifyBag g (fun b => { b with entered := a.entered, aged := a.aged })
  m.setPen { m.pen with
    positions := m.pen.positions.put p g
    strays := m.pen.strays.map (fun x => if x = h then g else x) }

theorem State.encodeMerge_eq (s : State) (p : Nat) (h : Handle) (a : Bag) (g : Handle) :
    s.encodeMerge p h a g = ((s.swappedIn p h a g).retireRecord h).encodeCheck g a.reason := rfl

theorem State.swappedIn_states (s : State) (p : Nat) (h : Handle) (a : Bag) (g : Handle) (v : SlotId) :
    (s.swappedIn p h a g).slotState v = s.slotState v := by
  refine Eq.trans ?_ (State.moveBag_slotState s g .stray (some (.pen p)) v)
  exact congrArg Sailing.state (State.modifyBag_slot (s.moveBag g .stray (some (.pen p))) g _ v)

theorem Recast.swappedIn {s : State} {g h : Handle} {b : Bag} (hb : s.bag? g = some b)
    (hst : b.state = .registered ∨ b.state = .missing) (p : Nat) (a : Bag) :
    Recast s (s.swappedIn p h a g) g b (b.swapped a p) (fun n => (n.dec b.state).inc .stray) := by
  have hr := ((Recast.moveBag hb .stray (some (.pen p))).modifyBag (f := fun b => { b with entered := a.entered, aged := a.aged }) rfl
    (Keeps.moveBag s g _ _).bags).ofStore (u := s.swappedIn p h a g) rfl
  rw [Bag.swapped_enter hst] at hr
  exact hr.counter fun n => by rcases hst with h | h <;> rw [h] <;> rfl

/-- The record that a merge in the pen leaves. -/
def Bag.mergedAt (b a : Bag) (s : State) (p : Nat) : Bag :=
  { b with
    state := .stray, location := some (.pen p), entered := a.entered, aged := a.aged, pull := demanded s b
    reason := encodeReason s b a.reason }

/-- What a merge in the pen leaves: the found bag in the anonymous one's place, the anonymous record gone. -/
structure PenMerged (s t : State) (p : Nat) (h g : Handle) (a b : Bag) : Prop where
  gone : t.bag? h = none
  bag : t.bag? g = some (b.mergedAt a s p)
  others : ∀ i, i ≠ g.index → i ≠ h.index → t.store.bags.get? i = s.store.bags.get? i
  tags : t.store.tagMap = s.store.tagMap
  counts : ∀ v, (t.store.slot v).counts = (if a.home.any (fun k => k.slot == v) = true
    then (if b.home.any (fun k => k.slot == v) = true then ((s.store.slot v).counts.dec b.state).inc .stray
      else (s.store.slot v).counts).dec a.state
    else if b.home.any (fun k => k.slot == v) = true then ((s.store.slot v).counts.dec b.state).inc .stray
      else (s.store.slot v).counts)
  pen : t.pen = { s.pen with
    positions := s.pen.positions.put p g, strays := s.pen.strays.map (fun o => if o = h then g else o) }
  loop : t.loop = { s.loop with points := t.loop.points }
  holds : BagTableLaw s → HoldsFollow s t False

/-- The state in which the anonymous record of a merge has retired. -/
def State.swapRetired (s : State) (p : Nat) (h : Handle) (a : Bag) (g : Handle) : State := (s.swappedIn p h a g).retireRecord h

section
variable {s : State} {h g : Handle} {a b : Bag} (ha : s.bag? h = some a) (hb : s.bag? g = some b)
  (hst : b.state = .registered ∨ b.state = .missing) (hne : h.index ≠ g.index) (p : Nat)
include ha hb hst hne

theorem State.swappedIn_bag? : (s.swappedIn p h a g).bag? h = some a :=
  ((Recast.swappedIn hb hst p a).other h fun heq => hne (by rw [heq])).trans ha

theorem State.swapRetired_bag? : (s.swapRetired p h a g).bag? g = some (b.swapped a p) := by
  have hrec := Recast.swappedIn (h := h) hb hst p a
  obtain ⟨hstore, -⟩ := State.retireRecord_frame (s.swappedIn p h a g) h
  obtain ⟨hbags, hgens, -⟩ := Store.retire_store (t := (s.swappedIn p h a g).store) (State.swappedIn_bag? ha hb hst hne p)
  obtain ⟨hgen, hget⟩ := Store.bag?_eq_some.1 hrec.bag
  refine Store.bag?_eq_some.2 ⟨?_, ?_⟩
  · rw [State.swapRetired, hstore, hgens, if_neg (Ne.symm hne)]
    exact hgen
  · rw [State.swapRetired, hstore, hbags, Table.get?_erase_other _ (Ne.symm hne)]
    exact hget

/-- The check at encode sees what it would have seen before the merge. -/
theorem State.swapRetired_encoded : (b.swapped a p).encoded (s.swapRetired p h a g) a.reason = b.mergedAt a s p := by
  have hstore : (s.swapRetired p h a g).store = (s.swappedIn p h a g).store.retire h := (State.retireRecord_frame ..).1
  have hbm := State.swappedIn_bag? ha hb hst hne p
  have halike : Store.Alike s.store (s.swapRetired p h a g).store := by
    rw [hstore]
    exact (Recast.swappedIn (h := h) hb hst p a).alike.trans (Store.Alike.retire hbm)
  have hstates : ∀ v, (s.swapRetired p h a g).slotState v = s.slotState v := fun v => by
    rw [State.slotState, hstore, Store.retire_state hbm]
    exact s.swappedIn_states p h a g v
  have hdem : demanded s (b.swapped a p) = demanded s b := demanded_congr (Store.Alike.same rfl) rfl rfl
  have hreason : encodeReason s { b.swapped a p with reason := b.reason } a.reason = encodeReason s b a.reason := rfl
  rw [Bag.encoded, demanded_congr halike rfl rfl, encodeReason_congr halike hstates, hdem]
  exact congrArg (fun w => { b.swapped a p with pull := demanded s b, reason := w }) hreason

theorem State.encodeMerge_modifies :
    s.encodeMerge p h a g = (s.swapRetired p h a g).modifyBag g (fun _ => b.mergedAt a s p) := by
  have hbag := State.swapRetired_bag? ha hb hst hne p
  have hlive := State.encodeCheck_live hbag a.reason
  rw [State.swapRetired_encoded ha hb hst hne p] at hlive
  rw [State.modifyBag_live hbag]
  exact hlive

theorem State.encodeMerge_length (hl : BagTableLaw s) :
    (s.encodeMerge p h a g).store.bags.length = (s.swapRetired p h a g).store.bags.length := by
  have hlm : BagTableLaw (s.swappedIn p h a g) :=
    ((Keeps.moveBag s g .stray (some (.pen p))).trans (Keeps.modifyBag _ g _)).bags hl
  have hlr : BagTableLaw (s.swapRetired p h a g) := (Keeps.retireRecord _ h).bags hlm
  rw [State.encodeMerge_modifies ha hb hst hne p]
  exact State.modifyBag_length hlr ..

/-- The pen's hold stays through a merge, and the bag table is tested once. -/
theorem HoldsFollow.encodeMerge (hl : BagTableLaw s) : HoldsFollow s (s.encodeMerge p h a g) False := by
  have hsame : SameHolds s (s.swappedIn p h a g) :=
    ⟨rfl, rfl, tableLow_of_length ((Recast.swappedIn (h := h) hb hst p a).size hl), rfl, rfl⟩
  have hcheck := (Keeps.encodeCheck (s.swapRetired p h a g) g a.reason).changes
  exact ((HoldsFollow.retireRecord _ h).before hsame).thenStore hcheck (State.encodeMerge_length ha hb hst hne p hl)

/-- The bag table after a merge: the anonymous record gone, the found one in its place. -/
theorem State.encodeMerge_bags : (s.encodeMerge p h a g).bag? h = none ∧
    (s.encodeMerge p h a g).bag? g = some (b.mergedAt a s p) ∧
    ∀ i, i ≠ g.index → i ≠ h.index → (s.encodeMerge p h a g).store.bags.get? i = s.store.bags.get? i := by
  have hbag := State.swapRetired_bag? ha hb hst hne p
  have hbags : (s.swapRetired p h a g).store.bags = (s.swappedIn p h a g).store.bags.erase h.index :=
    (congrArg Store.bags (State.retireRecord_frame ..).1).trans
      (Store.retire_store (t := (s.swappedIn p h a g).store) (State.swappedIn_bag? ha hb hst hne p)).1
  have hgone : (s.swapRetired p h a g).bag? h = none := Option.eq_none_iff_forall_ne_some.2 fun z hz => by
    have hget := (Store.bag?_eq_some.1 hz).2
    rw [hbags, Table.get?_erase_same] at hget
    cases hget
  rw [State.encodeMerge_modifies ha hb hst hne p]
  refine ⟨?_, ?_, fun i hg hh => ?_⟩
  · rw [State.modifyBag_bag?, if_neg fun he => hne (congrArg Handle.index he), hgone]
  · rw [State.modifyBag_bag?, if_pos rfl, hbag]
    rfl
  · rw [(State.modifyBag_frame ..).2 i hg, hbags, Table.get?_erase_other _ hh]
    exact (Recast.swappedIn (h := h) hb hst p a).others i hg

theorem PenMerged.encodeMerge (ht : a.tag = none) : PenMerged s (s.encodeMerge p h a g) p h g a b := by
  have hrec := Recast.swappedIn (h := h) hb hst p a
  obtain ⟨hstore, hloop⟩ := State.retireRecord_frame (s.swappedIn p h a g) h
  obtain ⟨-, -, htags, hcounts, -⟩ :=
    Store.retire_store (t := (s.swappedIn p h a g).store) (State.swappedIn_bag? ha hb hst hne p)
  have hkeep := (Keeps.retireRecord (s.swappedIn p h a g) h).changes
  have hcheck := (Keeps.encodeCheck (s.swapRetired p h a g) g a.reason).changes
  have hrstore : (s.swapRetired p h a g).store = (s.swappedIn p h a g).store.retire h := hstore
  obtain ⟨hgone, hbag, hothers⟩ := State.encodeMerge_bags ha hb hst hne p
  refine ⟨hgone, hbag, hothers, ?_, fun v => ?_, ?_, ?_, HoldsFollow.encodeMerge ha hb hst hne p⟩
  · rw [State.encodeMerge_modifies ha hb hst hne p, (State.modifyBag_frame ..).1]
    change (s.swapRetired p h a g).store.tagMap = _
    rw [hrstore, htags, ht]
    exact hrec.tags
  · rw [State.encodeMerge_modifies ha hb hst hne p, State.modifyBag_slot, hrstore, hcounts v, hrec.counted v]
  · rw [show (s.encodeMerge p h a g).pen = (s.swapRetired p h a g).pen from hcheck .pen (by decide),
      show (s.swapRetired p h a g).pen = (s.swappedIn p h a g).pen from hkeep .pen (by decide)]
    rfl
  · rw [show (s.encodeMerge p h a g).loop = (s.swapRetired p h a g).loop from hcheck .loop (by decide)]
    exact hloop

end

section
variable {s : State} {h : Handle} {a : Bag} (ha : s.bag? h = some a)
include ha

theorem State.encodeTagged_own {n : Nat} : s.encodeTagged h n (.one n) =
    (s.setStore { s.store with bags := s.store.bags.put h.index (a.encoded s none) },
      s.answerOf (a.encoded s none)) := by
  have hlive := State.encodeCheck_live ha none
  have hbag : (s.encodeCheck h none).bag? h = some (a.encoded s none) := by
    rw [hlive]
    exact Store.bag?_eq_some.2 ⟨(Store.bag?_eq_some.1 ha).1, Table.get?_put_same ..⟩
  have halike : Store.Alike s.store (s.encodeCheck h none).store := by
    rw [hlive]
    exact Store.Alike.same rfl
  have hstates : ∀ v, (s.encodeCheck h none).slotState v = s.slotState v := fun v => by
    rw [hlive]
    cases v <;> rfl
  have hanswer : (s.encodeCheck h none).routeOrReason h = s.answerOf (a.encoded s none) := by
    rw [State.routeOrReason_live hbag, State.answerOf, State.answerOf, State.routable_congr halike hstates]
  rw [← hanswer, ← hlive]
  exact if_pos rfl

end

theorem encodeJudges : Claim.EncodeJudges := by
  intro f position read tag x h a s hadm hp hpos ha s1 p answers reasoned
  have hstore : s1.store = s.store := State.afterCheck_store ..
  have hpen : s1.pen = s.pen := State.afterCheck_pen ..
  have halike : Store.Alike s.store s1.store := State.afterCheck_alike s f x
  have hstates : ∀ v, s1.slotState v = s.slotState v := fun v => by rw [State.slotState, hstore]; rfl
  have ha1 : s1.bag? h = some a := by rw [State.bag?, hstore]; exact ha
  have hpos1 : s1.pen.positions.get? p = some h := by rw [hpen]; exact hpos
  have hexec : ∀ r t w, ReadResult.ofBytes read tag = some r → s1.judge p r = (t, w) → answers t w := fun r t w hr hj => by
    change exec (.encode f position read tag) s = _
    rw [exec_encode_read hadm hr, State.encode_judged r (by rw [hpen]; exact hp), hj]
  have hgiven : ∀ r w, ReadResult.ofBytes read tag = some r → s1.judge p r = (s1.giveReason h w, .reason w) → reasoned w :=
    fun r w hr hj => hexec r _ _ hr (hj.trans (by rw [State.giveReason_live ha1 w]))
  refine ⟨fun hread => ?_, fun h1 hlow hhigh => ?_⟩
  · obtain ⟨r, hr, hunread⟩ : ∃ r, ReadResult.ofBytes read tag = some r ∧ (r = .noTag ∨ r = .several) := by
      rcases hread with h0 | h2
      · exact ⟨_, ReadResult.ofBytes_noTag h0 tag, .inl rfl⟩
      · exact ⟨_, ReadResult.ofBytes_several h2 tag, .inr rfl⟩
    cases htag : a.tag with
    | none => exact hexec r _ _ hr ((State.judge_anonymous r hpos1 ha1 htag).trans (State.encodeAnonymous_unread ha1 p hunread))
    | some n => exact hexec r _ _ hr ((State.judge_tagged r hpos1 ha1 htag).trans (State.encodeTagged_unread ha1 n hunread))
  have hr : ReadResult.ofBytes read tag = some (.one tag.toNat) := ReadResult.ofBytes_one h1 hlow hhigh
  have hanon : a.tag = none → s1.judge p (.one tag.toNat) = s1.encodeAnonymous p h a (.one tag.toNat) :=
    State.judge_anonymous _ hpos1 ha1
  refine ⟨fun hown => ?_, fun n hn hne => ?_, fun hn hno => ?_, fun g b hn htag hb => ⟨?_, fun hopen => ⟨fun hreg hmis => ?_, ?_⟩⟩⟩
  · have hy : a.encoded s1 none = a.encoded s none := by
      rw [Bag.encoded, Bag.encoded, demanded_congr halike rfl rfl, encodeReason_congr halike hstates]
    have hanswer : s1.answerOf (a.encoded s none) = s.answerOf (a.encoded s none) := by
      rw [State.answerOf, State.answerOf, State.routable_congr halike hstates]
    have hj := (State.judge_tagged (.one tag.toNat) hpos1 ha1 hown).trans (State.encodeTagged_own ha1)
    rw [hy, hanswer] at hj
    exact hexec _ _ _ hr hj
  · exact hgiven _ _ hr ((State.judge_tagged _ hpos1 ha1 hn).trans (State.encodeTagged_other ha1 hne))
  · exact hexec _ _ _ hr ((hanon hn).trans (State.encodeAnonymous_unknown ha1 p (by rw [hstore]; exact hno)))
  · rintro ⟨k, hk, hcl⟩
    refine hgiven _ _ hr ((hanon hn).trans (State.encodeAnonymous_closed ha1 p ?_))
    rw [hstore]
    exact Store.lookup_closed htag hb hk hcl
  all_goals
    have hfound : s1.store.lookup tag.toNat = .found g b := by
      rw [hstore]
      exact Store.lookup_found htag hb hopen
  · exact hgiven _ _ hr ((hanon hn).trans (State.encodeAnonymous_duplicate ha1 p hfound hreg hmis))
  · intro hst hne y
    have hb1 : s1.bag? g = some b := by rw [State.bag?, hstore]; exact hb
    have hm := PenMerged.encodeMerge ha1 hb1 hst hne p hn
    have hy : b.mergedAt a s1 p = y := by
      rw [Bag.mergedAt, demanded_congr halike rfl rfl, encodeReason_congr halike hstates]
    refine ⟨s1.encodeMerge p h a g, ?_, hm.gone, hm.bag.trans (congrArg some hy), fun i hg hh => (hm.others i hg hh).trans (by rw [hstore]),
      hm.tags.trans (by rw [hstore]), fun v => (hm.counts v).trans (by rw [hstore]), ?_, ?_, ?_, ?_, hm.loop,
      fun hl => hm.holds (BagTableLaw.ofStore hstore hl)⟩
    · rw [← hy]
      refine hexec _ _ _ hr (((hanon hn).trans (State.encodeAnonymous_merge p hfound hst)).trans ?_)
      exact congrArg (Prod.mk _) (State.routeOrReason_live hm.bag)
    · rw [hm.pen]
      exact Table.get?_put_same ..
    all_goals rw [hm.pen, hpen]

/-- Settles O52: at a free position by the record that the report finds or makes, at a held one by what its bag's own tag says. -/
theorem encodesAnswered : Obligations.EncodesAnswered := ⟨encodePlaces, encodeJudges, answerIsSent⟩

end Sys2Proof.Machine
end

section
/-! The patrol: the walker, the pulls that complete and the bag it visits (R13, R24, R140, R144, R146, R147, R149, R165 to R168). -/

namespace Sys2Proof.Machine

/-! ## Cabins that differ in their aboard counts alone -/

theorem Table.mapValues_modify {α β : Type} (t : Table α) (i : Nat) {f : α → β} {g : α → α} (h : ∀ v, f (g v) = f v) :
    (t.modify i g).map (fun e => (e.1, f e.2)) = t.map fun e => (e.1, f e.2) := by
  rw [Table.modify_eq, List.map_map]
  refine List.map_congr_left fun e _ => ?_
  rw [Function.comp_apply]
  split
  · rw [h]
  · rfl

/-- A cabin without its aboard count. -/
def Cabin.unboarded (c : Cabin) : Cabin := { c with aboard := 0 }

/-- The cabins of two stores differ in their aboard counts alone. -/
def Store.Boardings (t u : Store) : Prop := u.cabins.mapValues Cabin.unboarded = t.cabins.mapValues Cabin.unboarded

theorem Store.Boardings.same {t u : Store} (h : u.cabins = t.cabins) : Store.Boardings t u :=
  congrArg (Table.mapValues · Cabin.unboarded) h

theorem Store.Boardings.trans {t u v : Store} (h : Store.Boardings t u) (k : Store.Boardings u v) : Store.Boardings t v :=
  Eq.trans k h

theorem Cabin.aboardMove_unboarded (c : Cabin) (p q : BagState) : (c.aboardMove p q).unboarded = c.unboarded := by
  unfold Cabin.aboardMove
  repeat' split
  all_goals rfl

theorem Store.Boardings.recount (t : Store) (home : Option CabinKey) (f : Counters → Counters) {g : Cabin → Cabin}
    (hg : ∀ c, (g c).unboarded = c.unboarded) : Store.Boardings t (t.recount home f g) := by
  cases home with
  | none => exact .same rfl
  | some k =>
    refine Store.Boardings.trans (.same (Store.cabins_count t k.slot f)) ?_
    exact Table.mapValues_modify (t.count k.slot f).cabins k.code hg

theorem Store.Boardings.moveBag (s : State) (h : Handle) (st : BagState) (loc : Option Location) :
    Store.Boardings s.store (s.moveBag h st loc).store := by
  cases hb : s.store.bag? h with
  | none => exact .same (by rw [State.moveBag_stale hb])
  | some b =>
    rw [State.moveBag, State.setStore_store, Store.moveBag_live hb]
    exact Store.Boardings.trans (.same rfl) (Store.Boardings.recount _ _ _ fun c => Cabin.aboardMove_unboarded ..)

theorem Store.Boardings.modifyBag (s : State) (h : Handle) (f : Bag → Bag) : Store.Boardings s.store (s.modifyBag h f).store :=
  .same (by rw [(State.modifyBag_store s h f).1])

theorem Store.Boardings.get? {t u : Store} (h : Store.Boardings t u) (k : Nat) :
    (u.cabins.get? k).map Cabin.unboarded = (t.cabins.get? k).map Cabin.unboarded := by
  rw [← Table.get?_mapValues, ← Table.get?_mapValues, h]

theorem Store.Boardings.cabin {t u : Store} (h : Store.Boardings t u) {k : Nat} {c : Cabin} (hc : t.cabins.get? k = some c) :
    ∃ n, u.cabins.get? k = some { c with aboard := n } := by
  have hk := h.get? k
  rw [hc] at hk
  obtain ⟨d, hd, hcd⟩ := Option.map_eq_some_iff.1 hk
  refine ⟨d.aboard, hd.trans (congrArg some ?_)⟩
  exact congrArg (fun x : Cabin => { x with aboard := d.aboard }) hcd

/-- A test that does not read the aboard count holds of the same keys. -/
theorem Store.Boardings.filter {t u : Store} (h : Store.Boardings t u) {p : Cabin → Bool} (hp : ∀ c, p c.unboarded = p c) :
    (u.cabins.filter (fun e => p e.2)).map (·.1) = (t.cabins.filter (fun e => p e.2)).map (·.1) := by
  have hmap : ∀ l : Table Cabin, (l.filter (fun e => p e.2)).map (·.1) =
      ((l.mapValues Cabin.unboarded).filter (fun e => p e.2)).map (·.1) := fun l => by
    rw [Table.mapValues, List.filter_map, List.map_map]
    congr 2
    funext e
    exact (hp e.2).symm
  rw [hmap u.cabins, hmap t.cabins, h]

/-! ## The reconcile visit (R146, R147) -/

/-- The record that a reconcile visit leaves. -/
def Bag.visited (s : State) (b : Bag) : Bag :=
  match s.store.governing b with
  | none => b
  | some c =>
    if c.status = .void then
      match b.state with
      | .aboard => { b with state := .offload, location := none, entered := none }
      | .onLoop | .offload => b
      | .stray => { b with pull := demanded s b, reason := some .pulled }
      | _ => { b with pull := demanded s b }
    else if b.state = .offload ∧ b.pull ≠ some .request then
      { b with pull := demanded s b, state := .aboard, location := none, entered := none }
    else { b with pull := demanded s b }

theorem State.reconcile_stale {s : State} {g : Handle} (h : s.bag? g = none) : s.reconcile g = s := by
  rw [State.reconcile, h]

section
variable {s : State} {g : Handle} {b : Bag} (hb : s.bag? g = some b)
include hb

theorem State.reconcile_free (hg : s.store.governing b = none) : s.reconcile g = s := by
  rw [State.reconcile, hb]
  dsimp only
  rw [hg]

variable {c : Cabin} (hg : s.store.governing b = some c)
include hg

theorem State.reconcile_void (hv : c.status = .void) : s.reconcile g = s.reconcileVoid g b := by
  rw [State.reconcile, hb]
  dsimp only
  rw [hg]
  exact if_pos hv

theorem State.reconcile_sails (hv : c.status ≠ .void) : s.reconcile g = s.reconcileSailing g b := by
  rw [State.reconcile, hb]
  dsimp only
  rw [hg]
  exact if_neg hv

theorem State.reconcile_returns (hv : c.status ≠ .void) (hoff : b.state = .offload) (hpull : b.pull ≠ some .request) :
    s.reconcile g = (s.demandCheck g).moveBag g .aboard none :=
  (State.reconcile_sails hb hg hv).trans (if_pos ⟨hoff, hpull⟩)

theorem State.reconcile_bag?_void (hv : c.status = .void) : (s.reconcile g).bag? g = some (b.visited s) := by
  have hcheck := State.demandCheck_bag? hb
  rw [State.reconcile_void hb hg hv, State.reconcileVoid, Bag.visited, hg]
  dsimp only
  rw [if_pos hv]
  cases hst : b.state
  case aboard => exact (State.offloadBag_aboard hb hst).1
  case stray =>
    dsimp only
    rw [State.modifyBag_bag?, if_pos rfl, hcheck]
    exact congrArg some (by rw [hst])
  case onLoop => exact hb
  case offload => exact hb
  all_goals exact hcheck.trans (congrArg some (by rw [hst]))

theorem State.reconcile_bag?_sails (hv : c.status ≠ .void) : (s.reconcile g).bag? g = some (b.visited s) := by
  have hcheck := State.demandCheck_bag? hb
  rw [State.reconcile_sails hb hg hv, State.reconcileSailing, Bag.visited, hg]
  dsimp only
  rw [if_neg hv]
  split
  · next h =>
    obtain ⟨hbag, -⟩ := State.moveBag_store hcheck .aboard none
    rw [hbag, if_pos rfl, Bag.enter, show ({ b with pull := demanded s b } : Bag).state = .offload from h.1]
    simp
  · exact hcheck

end

/-- The visited record after its reconcile visit. -/
theorem State.reconcile_bag? {s : State} {g : Handle} {b : Bag} (hb : s.bag? g = some b) :
    (s.reconcile g).bag? g = some (b.visited s) := by
  cases hg : s.store.governing b with
  | none => rw [State.reconcile_free hb hg, Bag.visited, hg, hb]
  | some c =>
    by_cases hv : c.status = .void
    · exact State.reconcile_bag?_void hb hg hv
    · exact State.reconcile_bag?_sails hb hg hv

theorem Store.Boardings.offloadBag (s : State) (g : Handle) : Store.Boardings s.store (s.offloadBag g).store := by
  cases hb : s.bag? g with
  | none =>
    rw [State.offloadBag, hb]
    exact .same rfl
  | some b =>
    refine (Store.Boardings.moveBag s g .offload none).trans (.same ?_)
    rw [(Turned.offloadBag hb).store, (State.offloadOut_fields s g b).1]

/-- A reconcile visit that is no offload does little: no notice, and of the cabins only aboard counts change. -/
structure Mild (s t : State) : Prop where
  cabins : Store.Boardings s.store t.store
  notices : t.notices = s.notices

theorem Mild.refl (s : State) : Mild s s := ⟨.same rfl, rfl⟩

theorem Mild.modifyBag (s : State) (h : Handle) (f : Bag → Bag) : Mild s (s.modifyBag h f) := ⟨.modifyBag .., rfl⟩

theorem Mild.trans {s t u : State} (h : Mild s t) (k : Mild t u) : Mild s u :=
  ⟨h.cabins.trans k.cabins, k.notices.trans h.notices⟩

theorem Mild.demandCheck (s : State) (h : Handle) : Mild s (s.demandCheck h) := .modifyBag ..

theorem State.reconcileVoid_cases (s : State) (g : Handle) (b : Bag) :
    Mild s (s.reconcileVoid g b) ∨ b.state = .aboard ∧ s.reconcileVoid g b = s.offloadBag g := by
  unfold State.reconcileVoid
  cases hst : b.state
  case aboard => exact .inr ⟨rfl, rfl⟩
  case stray => exact .inl ((Mild.demandCheck s g).trans (.modifyBag ..))
  case onLoop => exact .inl (.refl s)
  case offload => exact .inl (.refl s)
  all_goals exact .inl (.demandCheck s g)

theorem Mild.reconcileSailing (s : State) (g : Handle) (b : Bag) : Mild s (s.reconcileSailing g b) := by
  unfold State.reconcileSailing
  dsimp only
  split
  · exact (Mild.demandCheck s g).trans ⟨.moveBag .., rfl⟩
  · exact .demandCheck s g

theorem State.reconcile_cases (s : State) (g : Handle) :
    Mild s (s.reconcile g) ∨ ∃ b, s.bag? g = some b ∧ s.reconcile g = s.offloadBag g := by
  cases hb : s.bag? g with
  | none =>
    rw [State.reconcile_stale hb]
    exact .inl (.refl s)
  | some b =>
    cases hg : s.store.governing b with
    | none =>
      rw [State.reconcile_free hb hg]
      exact .inl (.refl s)
    | some c =>
      by_cases hv : c.status = .void
      · rw [State.reconcile_void hb hg hv]
        exact (s.reconcileVoid_cases g b).imp_right fun h => ⟨b, rfl, h.2⟩
      · rw [State.reconcile_sails hb hg hv]
        exact .inl (.reconcileSailing s g b)

theorem Store.Boardings.reconcile (s : State) (g : Handle) : Store.Boardings s.store (s.reconcile g).store := by
  rcases s.reconcile_cases g with h | ⟨b, -, h⟩
  · exact h.cabins
  · rw [h]
    exact .offloadBag s g

theorem Tells.of_offload {s t : State} (h : t.notices = s.notices) (b : Bag) :
    (t.tellOffload b).subjects .pullDone = s.subjects .pullDone ∧
    (t.tellOffload b).notices.sources.length = s.notices.sources.length := by
  unfold State.tellOffload
  split
  · refine ⟨(State.subjects_raise_other t (by decide) _).trans (State.subjects_congr h _), ?_⟩
    exact (List.length_modify ..).trans (congrArg (fun u : NoticeUnit => u.sources.length) h)
  · exact ⟨State.subjects_congr h _, by rw [h]⟩

theorem State.offloadOut_pullDone (s : State) (g : Handle) (b : Bag) :
    (s.offloadOut g b).subjects .pullDone = s.subjects .pullDone ∧
    (s.offloadOut g b).notices.sources.length = s.notices.sources.length := by
  unfold State.offloadOut
  split
  · exact Tells.of_offload rfl b
  · exact Tells.of_offload rfl b

/-- A reconcile visit raises no PULL_DONE. -/
theorem State.reconcile_pullDone (s : State) (g : Handle) :
    (s.reconcile g).subjects .pullDone = s.subjects .pullDone ∧
    (s.reconcile g).notices.sources.length = s.notices.sources.length := by
  rcases s.reconcile_cases g with h | ⟨b, hb, h⟩
  · exact ⟨State.subjects_congr h.notices _, by rw [h.notices]⟩
  · have hturned := Turned.offloadBag hb
    have hout := s.offloadOut_pullDone g b
    rw [h]
    exact ⟨(hturned.tells.quiet _ (by decide) (by decide) (by decide)).trans hout.1, hturned.tells.sources.trans hout.2⟩

/-! ## Age (R165) -/

/-- The record that a visit leaves of a bag whose age is due. -/
def Bag.agedIf (b : Bag) (due : Bool) : Bag := { b with aged := b.aged || due }

theorem State.age_live {s : State} {g : Handle} {b : Bag} (hb : s.bag? g = some b) : s.age g = if s.ageDue b = true then
    (s.modifyBag g (fun b => { b with aged := true })).raise .strayAged b.penPosition else s := by
  rw [State.age, hb]

theorem State.age_store (s : State) (g : Handle) : (s.age g).store = { s.store with bags := (s.age g).store.bags } := by
  cases hb : s.bag? g with
  | none =>
    rw [State.age, hb]
  | some b =>
    rw [State.age_live hb]
    split
    · exact (State.modifyBag_store s g _).1
    · rfl

theorem State.age_bag? {s : State} {g : Handle} {b : Bag} (hb : s.bag? g = some b) (h : Handle) :
    (s.age g).bag? h = if h = g then some (b.agedIf (s.ageDue b)) else s.bag? h := by
  rw [State.age_live hb]
  cases hd : s.ageDue b with
  | true =>
    refine (State.modifyBag_bag? s g h _).trans ?_
    rw [Bag.agedIf, Bool.or_true]
    split
    · next he =>
      rw [he, hb]
      rfl
    · rfl
  | false =>
    rw [Bag.agedIf, Bool.or_false]
    change s.bag? h = _
    split
    · next he => rw [he, hb]
    · rfl

theorem State.age_notices (s : State) (g : Handle) : (∀ w m, m ∈ s.subjects w → m ∈ (s.age g).subjects w) ∧
    (s.age g).subjects .pullDone = s.subjects .pullDone ∧ (s.age g).notices.sources.length = s.notices.sources.length := by
  unfold State.age
  split
  · exact ⟨fun _ _ h => h, rfl, rfl⟩
  · split
    · exact ⟨fun w m hm => State.mem_raise (by exact hm) _ _, State.subjects_raise_other _ (by decide) _, List.length_modify ..⟩
    · exact ⟨fun _ _ h => h, rfl, rfl⟩

theorem State.age_told {s : State} {g : Handle} {b : Bag} (hb : s.bag? g = some b) (h15 : s.notices.sources.length = 15)
    (hd : s.ageDue b = true) {p : Nat} (hp : b.location = some (.pen p)) : p ∈ (s.age g).subjects .strayAged := by
  have hpos : b.penPosition = p := by rw [Bag.penPosition, hp]
  rw [State.age_live hb, if_pos hd, hpos]
  exact (State.mem_subjects_raise (by exact h15) ..).2 (.inl rfl)

/-! ## Pulls that complete (R144, R167) -/

theorem State.tellPulls_subjects {l : List SlotId} {s : State} (h15 : s.notices.sources.length = 15) (m : Nat) :
    m ∈ (s.tellPulls l).subjects .pullDone ↔ m ∈ s.subjects .pullDone ∨ ∃ b ∈ l, m = b.toNat := by
  induction l generalizing s with
  | nil => simp [State.tellPulls]
  | cons b l ih =>
    rw [State.tellPulls, ih ((List.length_modify ..).trans h15), State.mem_subjects_raise h15]
    simp only [List.exists_mem_cons_iff]
    tauto

theorem State.tellPulls_other {w : Source} (hw : w ≠ .pullDone) (l : List SlotId) (s : State) :
    (s.tellPulls l).subjects w = s.subjects w := by
  induction l generalizing s with
  | nil => rfl
  | cons b l ih => exact (ih _).trans (State.subjects_raise_other s hw _)

theorem Cabin.pullDone_iff {c : Cabin} {p : WalkerPos} : c.pullDone p = true ↔ c.pull = .pulling ∧ ∃ q, c.pullStart = some q ∧
    q.index = p.index ∧ q.pass.toNat < p.pass.toNat := by
  unfold Cabin.pullDone Cabin.pulling
  cases c.pullStart <;> simp

theorem Cabin.finishPull_eq (c : Cabin) (p : WalkerPos) : c.finishPull p = { c with
    pull := if c.pullDone p = true then .pulled else c.pull
    pullStart := if c.pullDone p = true then none else c.pullStart } := by
  unfold Cabin.finishPull
  split <;> rfl

/-- The slots that a pull completion test tells. -/
def State.pullsDone (s : State) (p : WalkerPos) : List SlotId :=
  (s.store.cabins.filter (fun e => e.2.pullDone p)).map (fun e => slotOfCabinCode e.1)

theorem State.pullsDone_congr {s t : State} (h : Store.Boardings s.store t.store) (p : WalkerPos) :
    t.pullsDone p = s.pullsDone p := by
  have hkeys := congrArg (List.map slotOfCabinCode) (h.filter (p := fun c => c.pullDone p) fun _ => rfl)
  rw [List.map_map, List.map_map] at hkeys
  exact hkeys

theorem State.testPulls_store (s : State) (p : WalkerPos) :
    (s.testPulls p).store = { s.store with cabins := s.store.cabins.mapValues (fun c => c.finishPull p) } :=
  (Keeps.tellPulls _ _).changes .store (by decide)

theorem State.testPulls_sweep (s : State) (p : WalkerPos) :
    (s.testPulls p).sweep = { s.sweep with mode := (s.testPulls p).sweep.mode } := by
  have h : ((s.setStore { s.store with cabins := s.store.cabins.mapValues (fun c => c.finishPull p) }).tellPulls
      (s.pullsDone p)).sweep = s.sweep := (Keeps.tellPulls _ _).changes .sweep (by decide)
  exact congrArg (fun w => { w with mode := (s.testPulls p).sweep.mode }) h

theorem ModeLaw.testPulls (s : State) (p : WalkerPos) : ModeLaw (s.testPulls p) := ModeLaw.setMode _

theorem State.testPulls_subjects {s : State} (h15 : s.notices.sources.length = 15) (p : WalkerPos) (m : Nat) :
    m ∈ (s.testPulls p).subjects .pullDone ↔ m ∈ s.subjects .pullDone ∨ ∃ b ∈ s.pullsDone p, m = b.toNat :=
  State.tellPulls_subjects (s := s.setStore { s.store with cabins := s.store.cabins.mapValues (fun c => c.finishPull p) }) h15 m

theorem State.testPulls_other {w : Source} (hw : w ≠ .pullDone) (s : State) (p : WalkerPos) :
    (s.testPulls p).subjects w = s.subjects w := State.tellPulls_other hw _ _

theorem State.testPulls_stay {s : State} (p : WalkerPos) {w : Source} {m : Nat} (hm : m ∈ s.subjects w) :
    m ∈ (s.testPulls p).subjects w := by
  have hstay : ∀ (l : List SlotId) (u : State), m ∈ u.subjects w → m ∈ (u.tellPulls l).subjects w := fun l => by
    induction l with
    | nil => exact fun u h => h
    | cons b l ih => exact fun u h => ih _ (State.mem_raise h _ _)
  exact hstay _ _ hm

theorem SlotId.toNat_ofCode (k : Nat) : (slotOfCabinCode k).toNat = if k < 65536 then 0 else 1 := by
  unfold slotOfCabinCode
  split <;> rfl

/-! ## The visit (R166, R168) -/

theorem exec_patrolVisit (s : State) : exec .patrolVisit s = .next (if s.patrolling then s.visit else s) := rfl

theorem State.patrolling_iff {s : State} : s.patrolling = true ↔ s.opState = .run ∧ s.sweep.walk = none := by
  rw [State.patrolling, Bool.and_eq_true, beq_iff_eq, Option.isNone_iff_eq_none]

/-- The state in which the walker has visited an index, and left it. -/
def State.left (s : State) : State :=
  (s.visitBag s.sweep.pos.next.index).setSweep { (s.visitBag s.sweep.pos.next.index).sweep with pos := s.sweep.pos.next }

theorem State.visit_eq (s : State) : s.visit = s.left.testPulls s.sweep.pos.next := rfl

theorem State.visitBag_cases (s : State) (i : Nat) :
    s.store.bags.get? i = none ∧ s.visitBag i = s ∨
    ∃ g b, g.index = i ∧ s.bag? g = some b ∧ s.visitBag i = (s.reconcile g).age g := by
  unfold State.visitBag Store.liveAt Table.has
  cases hb : s.store.bags.get? i with
  | none => exact .inl ⟨rfl, rfl⟩
  | some b => exact .inr ⟨⟨i, s.store.gen i⟩, b, rfl, Store.bag?_eq_some.2 ⟨rfl, hb⟩, rfl⟩

theorem State.visitBag_live {s : State} {g : Handle} {b : Bag} (hb : s.bag? g = some b) :
    s.visitBag g.index = (s.reconcile g).age g := by
  obtain ⟨hgen, hget⟩ := Store.bag?_eq_some.1 hb
  have hlive : s.store.liveAt g.index = some g := by
    rw [Store.liveAt, Table.has, hget, hgen]
    rfl
  rw [State.visitBag, hlive]

theorem Store.Boardings.visitBag (s : State) (i : Nat) : Store.Boardings s.store (s.visitBag i).store := by
  rcases s.visitBag_cases i with ⟨-, h⟩ | ⟨g, b, -, -, h⟩
  · rw [h]
    exact .same rfl
  · rw [h]
    refine (Store.Boardings.reconcile s g).trans (.same ?_)
    rw [State.age_store]

theorem State.visitBag_pullDone (s : State) (i : Nat) : (s.visitBag i).subjects .pullDone = s.subjects .pullDone ∧
    (s.visitBag i).notices.sources.length = s.notices.sources.length := by
  rcases s.visitBag_cases i with ⟨-, h⟩ | ⟨g, b, -, -, h⟩
  · rw [h]
    exact ⟨rfl, rfl⟩
  · rw [h]
    obtain ⟨h1, h2⟩ := s.reconcile_pullDone g
    obtain ⟨-, k1, k2⟩ := (s.reconcile g).age_notices g
    exact ⟨k1.trans h1, k2.trans h2⟩

theorem WalkerPos.next_wraps {p : WalkerPos} (h : 16383 ≤ p.index) :
    p.next = ⟨0, if p.pass = 4294967295 then Config.passAfterLast 0 else p.pass + 1⟩ :=
  if_neg (show ¬p.index < 16383 from Nat.not_lt.2 h)

theorem State.visit_store (s : State) : s.visit.store =
    { s.left.store with cabins := s.left.store.cabins.mapValues (fun c => c.finishPull s.sweep.pos.next) } :=
  State.testPulls_store ..

theorem State.visit_cabin (s : State) (k : Nat) :
    s.visit.store.cabins.get? k = (s.left.store.cabins.get? k).map (fun c => c.finishPull s.sweep.pos.next) := by
  rw [s.visit_store]
  exact Table.get?_mapValues s.left.store.cabins (fun c => c.finishPull s.sweep.pos.next) k

theorem patrolWalks : Claim.PatrolWalks := by
  intro s
  refine ⟨fun hno => ?_, fun hrun hwalk => ?_⟩
  · rw [exec_patrolVisit, if_neg fun h => hno (State.patrolling_iff.1 h)]
  · intro p
    have hboard : Store.Boardings s.store s.left.store := .visitBag s _
    have hsweep : (s.visitBag p.next.index).sweep = s.sweep := (Keeps.visitBag s _).changes .sweep (by decide)
    have hleft : s.left.sweep = { s.sweep with pos := p.next } := by
      change ({ (s.visitBag p.next.index).sweep with pos := p.next } : Sweep) = _
      rw [hsweep]
    have hpos : s.visit.sweep.pos = p.next := by
      rw [s.visit_eq, State.testPulls_sweep, hleft]
    have hcompletes : ∀ c : Cabin, (c.pull = .pulling ∧ ∃ q, c.pullStart = some q ∧
        q.index = s.visit.sweep.pos.index ∧ q.pass.toNat < s.visit.sweep.pos.pass.toNat) ↔ c.pullDone p.next = true := fun c => by
      rw [hpos]
      exact Cabin.pullDone_iff.symm
    refine ⟨s.visit, ?_, (Keeps.visit s).changes.mono (by decide), ?_⟩
    · rw [exec_patrolVisit, if_pos (State.patrolling_iff.2 ⟨hrun, hwalk⟩)]
    intro completes
    have hcompletes : ∀ c : Cabin, completes c ↔ c.pullDone p.next = true := hcompletes
    refine ⟨?_, ModeLaw.testPulls _ _, fun hp => ?_, fun hp hpass => ?_, fun hp => ?_, fun k c hc => ?_, fun h15 m => ?_,
      fun hno => ?_⟩
    · rw [s.visit_eq, State.testPulls_sweep, hleft]
      exact hwalk
    · rw [hpos]
      exact if_pos hp
    · rw [hpos, WalkerPos.next_wraps hp, if_neg fun he => ?_]
      rw [he] at hpass
      exact absurd hpass (by decide)
    · rw [hpos, WalkerPos.next_wraps hp]
    · obtain ⟨n, hn⟩ := hboard.cabin hc
      refine ⟨n, ?_⟩
      rw [s.visit_cabin, hn, Option.map_some, Cabin.finishPull_eq]
      simp only [hcompletes]
      rfl
    · obtain ⟨h1, h2⟩ := s.visitBag_pullDone p.next.index
      have hsub : s.left.subjects .pullDone = s.subjects .pullDone := h1
      have h15' : s.left.notices.sources.length = 15 := h2.trans h15
      rw [s.visit_eq, State.testPulls_subjects h15', hsub, State.pullsDone_congr hboard]
      refine or_congr_right ?_
      simp only [State.pullsDone, List.mem_map, List.mem_filter, hcompletes]
      constructor
      · rintro ⟨b, ⟨e, ⟨he, hdone⟩, rfl⟩, rfl⟩
        exact ⟨e.1, e.2, he, hdone, SlotId.toNat_ofCode e.1⟩
      · rintro ⟨k, c, he, hdone, rfl⟩
        exact ⟨_, ⟨(k, c), ⟨he, hdone⟩, rfl⟩, (SlotId.toNat_ofCode k).symm⟩
    · rw [hpos] at hno
      have hidle : s.visitBag p.next.index = s := by
        rw [State.visitBag, Store.liveAt, Table.has, hno]
        rfl
      have hsame : s.left.store = s.store := show (s.visitBag p.next.index).store = s.store by rw [hidle]
      refine ⟨by rw [s.visit_store, hsame], by rw [s.visit_store, hsame], by rw [s.visit_store, hsame], fun k c hc => ?_⟩
      rw [s.visit_cabin, hsame, hc, Option.map_some, Cabin.finishPull]
      simp only [hcompletes]
      rfl

/-! ## The bag visited (R146, R147, R165, R168) -/

/-- From the state a reconcile visit leaves to the state a patrol visit leaves: the bag visited may be AGED, pulls complete and
their notices are raised. -/
structure VisitEnds (s t : State) (g : Handle) : Prop where
  bag : ∀ b, s.bag? g = some b → t.bag? g = some (b.agedIf (s.ageDue b))
  others : ∀ b h, s.bag? g = some b → h ≠ g → t.bag? h = s.bag? h
  slots : ∀ v, t.store.slot v = s.store.slot v
  cabins : ∀ k z, s.store.cabins.get? k = some z → ∃ w, t.store.cabins.get? k = some w ∧ w.aboard = z.aboard
  carts : t.carts = s.carts
  routes : t.routes = s.routes
  stay : ∀ w m, m ∈ s.subjects w → m ∈ t.subjects w
  told : ∀ b p, s.bag? g = some b → s.notices.sources.length = 15 → s.ageDue b = true → b.location = some (.pen p) →
    p ∈ t.subjects .strayAged

theorem VisitEnds.visit {s : State} {g : Handle} {b : Bag} (hb : s.bag? g = some b) (hg : g.index = s.sweep.pos.next.index) :
    VisitEnds (s.reconcile g) s.visit g := by
  have hvisit : s.visitBag s.sweep.pos.next.index = (s.reconcile g).age g := by rw [← hg, State.visitBag_live hb]
  have hstore : s.left.store = ((s.reconcile g).age g).store :=
    show (s.visitBag s.sweep.pos.next.index).store = _ by rw [hvisit]
  have hnotices : s.left.notices = ((s.reconcile g).age g).notices :=
    show (s.visitBag s.sweep.pos.next.index).notices = _ by rw [hvisit]
  have hbags : ∀ h, s.visit.bag? h = ((s.reconcile g).age g).bag? h := fun h => by
    rw [State.bag?, s.visit_store, hstore]
    rfl
  have hage := (Keeps.age (s.reconcile g) g).changes
  have htest := (Keeps.testPulls s.left s.sweep.pos.next).changes
  refine ⟨fun b hb => ?_, fun b h hb hne => ?_, fun v => ?_, fun k z hz => ?_, ?_, ?_, fun w m hm => ?_, fun b p hb h15 hd hp => ?_⟩
  · rw [hbags, State.age_bag? hb, if_pos rfl]
  · rw [hbags, State.age_bag? hb, if_neg hne]
  · rw [← Store.slot_of_bags (State.age_store (s.reconcile g) g) v, ← hstore, s.visit_store]
    cases v <;> rfl
  · have hz' : s.left.store.cabins.get? k = some z := by
      rw [hstore, State.age_store]
      exact hz
    refine ⟨z.finishPull s.sweep.pos.next, by rw [s.visit_cabin, hz']; rfl, ?_⟩
    rw [Cabin.finishPull_eq]
  · exact (htest .carts (by decide)).trans ((congrArg State.carts hvisit).trans (hage .carts (by decide)))
  · exact (htest .routes (by decide)).trans ((congrArg State.routes hvisit).trans (hage .routes (by decide)))
  · refine State.testPulls_stay (s := s.left) _ ?_
    rw [State.subjects_congr hnotices]
    exact (State.age_notices ..).1 w m hm
  · refine State.testPulls_stay (s := s.left) _ ?_
    rw [State.subjects_congr hnotices]
    exact State.age_told hb h15 hd hp

/-- The cart of an ABOARD bag that becomes OFFLOAD. -/
structure CartOffloads (s t : State) (g : Handle) (n : Nat) (z : Cart) : Prop where
  stays : z.state ≠ .atDoor → z.state ≠ .queued →
    t.cart? n = some { z with entries := z.entries.filter (fun e => e.bag != g) }
  waits : z.state = .atDoor → ((∃ e ∈ z.entries.filter (fun e => e.bag != g), e.aboard = false) ∨ z.unidentified ≠ 0) →
    (∀ d, s.doorOfCart n = some d → ∃ x, s.door? d = some x ∧ x.cart = some n) →
    t.cart? n = some { z with entries := z.entries.filter (fun e => e.bag != g) } ∧ t.routes = s.routes
  completes : ∀ d x, z.state = .atDoor → s.doorOfCart n = some d → s.door? d = some x → x.cart = some n →
    (∀ e ∈ z.entries.filter (fun e => e.bag != g), e.aboard = true) → z.unidentified = 0 → t.cart? n = none ∧
    (∀ e ∈ z.entries.filter (fun e => e.bag != g), ∀ o, s.bag? e.bag = some o →
      t.bag? e.bag = some { o with location := none }) ∧
    ∀ k r, s.notices.sources.length = 15 → z.route = some k → s.route? k = some r → (z.notify = true ∨ r.notifyAll = true) →
      k.subject ∈ t.subjects .cartDone

theorem CartOffloads.offloadBag {s : State} {g : Handle} {b : Bag} {n : Nat} {z : Cart} (hb : s.bag? g = some b)
    (hn : b.location = some (.cart n)) (hz : s.cart? n = some z) : CartOffloads s (s.offloadBag g) g n z := by
  obtain ⟨hstore, hch⟩ := State.offloadOut_fields s g b
  have hcart := State.offloadOut_cart? (h := g) hn hz
  have heq := State.offloadBag_cart hb hn
  have hdoors : (s.offloadOut g b).doors = s.doors := hch .doors (by decide)
  have hroutes : (s.offloadOut g b).routes = s.routes := hch .routes (by decide)
  have hdoor? : ∀ d, (s.offloadOut g b).door? d = s.door? d := fun d => by rw [State.door?, hdoors]; rfl
  have hof : (s.offloadOut g b).doorOfCart n = s.doorOfCart n := by rw [State.doorOfCart, hdoors]; rfl
  refine ⟨fun hd hq => ?_, fun hd hleft hdoor => ?_, fun d x hd hdoor hx hxn hall hu => ?_⟩
  · rw [heq, State.testCart_elsewhere hcart hq hd]
    exact hcart
  · have hdone : ({ z with entries := z.entries.filter (fun e => e.bag != g) } : Cart).done = false :=
      Bool.eq_false_iff.2 fun h => by
        obtain ⟨h1, h2⟩ := Cart.done_iff.1 h
        rcases hleft with ⟨e, he, hea⟩ | hne
        · exact Bool.false_ne_true (hea.symm.trans (h1 e he))
        · exact hne h2
    have hw := State.testCart_waits hcart hd hdone fun d hd => by
      rw [hof] at hd
      rw [hdoor?]
      exact hdoor d hd
    rw [heq]
    refine ⟨?_, (hw .routes (by decide)).trans hroutes⟩
    rw [State.cart?, show ((s.offloadOut g b).testCart n).carts = _ from hw .carts (by decide)]
    exact hcart
  · have hdone : ({ z with entries := z.entries.filter (fun e => e.bag != g) } : Cart).done = true := Cart.done_iff.2 ⟨hall, hu⟩
    obtain ⟨hgone, hbags, htold⟩ := State.testCart_completes hcart hd hdone (hof.trans hdoor) ((hdoor? d).trans hx) hxn
    rw [heq]
    refine ⟨hgone, fun e he o ho => ?_, fun k r h15 hk hr hflag => ?_⟩
    · have hne : e.bag ≠ g := bne_iff_ne.1 (List.mem_filter.1 he).2
      refine hbags e he o ?_
      obtain ⟨hmoved, -⟩ := State.moveBag_store hb .offload none
      rw [State.bag?, hstore]
      refine (hmoved e.bag).trans ?_
      rw [if_neg hne]
      exact ho
    · refine htold k r ((s.offloadOut_pullDone g b).2.trans h15) hk ?_ hflag
      rw [State.route?, hroutes]
      exact hr

section
variable {s : State} {b : Bag} {c : Cabin} (hg : s.store.governing b = some c)
include hg

theorem Bag.visited_void (hv : c.status = .void) : b.visited s = match b.state with
    | .aboard => { b with state := .offload, location := none, entered := none }
    | .onLoop | .offload => b
    | .stray => { b with pull := some (b.pull.getD .cabin), reason := some .pulled }
    | _ => { b with pull := some (b.pull.getD .cabin) } := by
  rw [Bag.visited, hg]
  dsimp only
  rw [if_pos hv, demanded_void hg hv]

theorem Bag.visited_sails (hv : c.status ≠ .void) : b.visited s = if b.state = .offload ∧ b.pull ≠ some .request then
      { b with pull := if b.pull = some .cabin then none else b.pull, state := .aboard, location := none, entered := none }
    else { b with pull := if b.pull = some .cabin then none else b.pull } := by
  rw [Bag.visited, hg]
  dsimp only
  rw [if_neg hv, demanded_sails hg hv]

end

/-- A stray is still one after a reconcile visit, in the place and from the time it was. -/
theorem Bag.visited_stray (s : State) {b : Bag} (hst : b.state = .stray) :
    ∃ p r, b.visited s = { b with pull := p, reason := r } := by
  cases hg : s.store.governing b with
  | none => exact ⟨b.pull, b.reason, by rw [Bag.visited, hg]⟩
  | some c =>
    by_cases hv : c.status = .void
    · rw [Bag.visited_void hg hv, hst]
      exact ⟨some (b.pull.getD .cabin), some .pulled, rfl⟩
    · rw [Bag.visited_sails hg hv, if_neg fun h => BagState.noConfusion (hst.symm.trans h.1)]
      exact ⟨_, b.reason, rfl⟩

theorem State.ageDue_iff {s : State} {b : Bag} : s.ageDue b = true ↔ b.state = .stray ∧ b.aged = false ∧ b.reinduct = false ∧
    ∃ e, b.entered = some e ∧ e + s.limits.strayAge * 60 ≤ s.hallSecond := by
  unfold State.ageDue
  cases b.entered <;> simp [and_assoc]

/-- A patrol visit of an ABOARD bag under a VOID governing cabin: its counts, and the notice. -/
structure VisitOffloads (s t : State) (b : Bag) : Prop where
  told : ∀ k, b.home = some k → s.notices.sources.length = 15 → k.slot.toNat ∈ t.subjects .offload
  counts : ∀ k, b.home = some k → (t.store.slot k.slot).counts = { (s.store.slot k.slot).counts with
    aboard := (s.store.slot k.slot).counts.aboard - 1
    offload := (s.store.slot k.slot).counts.offload + 1 }
  cabin : ∀ k z, b.home = some k → s.store.cabin? k = some z → ∃ w, t.store.cabin? k = some w ∧ w.aboard = z.aboard - 1
  others : ∀ k m z, b.home = some k → m ≠ k.code → s.store.cabins.get? m = some z →
    ∃ w, t.store.cabins.get? m = some w ∧ w.aboard = z.aboard

theorem VisitOffloads.of_ends {s t : State} {g : Handle} {b : Bag} (hb : s.bag? g = some b) (hst : b.state = .aboard)
    (h : VisitEnds (s.offloadBag g) t g) : VisitOffloads s t b := by
  obtain ⟨-, hcounts, hcabins, htold⟩ := State.offloadBag_aboard hb hst
  refine ⟨fun k hk h15 => h.stay _ _ (htold k h15 hk), fun k hk => ?_, fun k z hk hz => ?_, fun k m z hk hm hz => ?_⟩
  · rw [h.slots, hcounts, if_pos (by rw [hk]; exact (home_any k k.slot).2 rfl)]
    rfl
  · have hmoved := (hcabins k.code).trans (State.moveBag_home hb hk hz .offload none)
    rw [hst] at hmoved
    exact h.cabins _ _ hmoved
  · refine h.cabins _ _ ((hcabins m).trans ((State.moveBag_other hb (fun j hj => ?_) .offload none).trans hz))
    cases hk.symm.trans hj
    exact hm

/-- A patrol visit of an OFFLOAD bag under a governing cabin that sails: its counts. -/
structure VisitReturns (s t : State) (b : Bag) : Prop where
  counts : ∀ k, b.home = some k → (t.store.slot k.slot).counts = { (s.store.slot k.slot).counts with
    offload := (s.store.slot k.slot).counts.offload - 1
    aboard := (s.store.slot k.slot).counts.aboard + 1 }
  cabin : ∀ k z, b.home = some k → s.store.cabin? k = some z → ∃ w, t.store.cabin? k = some w ∧ w.aboard = z.aboard + 1
  others : ∀ k m z, b.home = some k → m ≠ k.code → s.store.cabins.get? m = some z →
    ∃ w, t.store.cabins.get? m = some w ∧ w.aboard = z.aboard

theorem VisitReturns.of_ends {s t : State} {g : Handle} {b : Bag} (hb : s.bag? g = some b) (hst : b.state = .offload)
    (h : VisitEnds ((s.demandCheck g).moveBag g .aboard none) t g) : VisitReturns s t b := by
  have hcheck := State.demandCheck_bag? hb
  have hcabs : (s.demandCheck g).store.cabins = s.store.cabins := by rw [State.demandCheck, (State.modifyBag_store s g _).1]
  have hslot : ∀ v, (s.demandCheck g).store.slot v = s.store.slot v := fun v => State.modifyBag_slot ..
  obtain ⟨-, -, -, -, hcounts⟩ := State.moveBag_store hcheck .aboard none
  refine ⟨fun k hk => ?_, fun k z hk hz => ?_, fun k m z hk hm hz => ?_⟩
  · rw [h.slots, hcounts, if_pos (by rw [show ({ b with pull := demanded s b } : Bag).home = some k from hk]; exact (home_any k k.slot).2 rfl),
      hslot, show ({ b with pull := demanded s b } : Bag).state = .offload from hst]
    rfl
  · have hz' : (s.demandCheck g).store.cabin? k = some z := by
      rw [Store.cabin?, hcabs]
      exact hz
    have hmoved := State.moveBag_home (k := k) hcheck hk hz' .aboard none
    rw [show ({ b with pull := demanded s b } : Bag).state = .offload from hst] at hmoved
    exact h.cabins _ _ hmoved
  · refine h.cabins _ _ ((State.moveBag_other hcheck (fun j hj => ?_) .aboard none).trans (by rw [hcabs]; exact hz))
    cases hk.symm.trans hj
    exact hm

theorem patrolReconciles : Claim.PatrolReconciles := by
  intro g b s hrun hwalk hidx hb old
  have hends := VisitEnds.visit hb hidx
  have hvis := State.reconcile_bag? hb
  have hch := (Keeps.reconcile s g).changes
  have hdue : ∀ y : Bag, (s.reconcile g).ageDue y = s.ageDue y := fun y => by
    rw [State.ageDue, State.ageDue, show (s.reconcile g).limits = s.limits from hch .limits (by decide),
      show (s.reconcile g).hallSecond = s.hallSecond from hch .hallSecond (by decide)]
  have hnodue : (b.visited s).state ≠ .stray → (b.visited s).agedIf (s.ageDue (b.visited s)) = b.visited s := fun hst => by
    have hno : s.ageDue (b.visited s) = false := Bool.eq_false_iff.2 fun h => hst (State.ageDue_iff.1 h).1
    rw [hno, Bag.agedIf, Bool.or_false]
  have hlen : (s.reconcile g).notices.sources.length = s.notices.sources.length := (s.reconcile_pullDone g).2
  have hoffload : ∀ c, s.store.governing b = some c → c.status = .void → b.state = .aboard →
      s.reconcile g = s.offloadBag g := fun c hg hv hst => by
    rw [State.reconcile_void hb hg hv, State.reconcileVoid, hst]
  refine ⟨s.visit, (b.visited s).agedIf (s.ageDue (b.visited s)), ?_, ?_, fun hst => ?_, fun c hg hv => ⟨fun hst => ?_, fun hst => ?_,
    fun hst => ?_, fun hst n z hn hz => ?_⟩, fun c hg hv => ⟨?_, ?_, ?_, fun k hk hst hpull => ?_⟩, fun hg => ?_⟩
  · rw [exec_patrolVisit, if_pos (State.patrolling_iff.2 ⟨hrun, hwalk⟩)]
  · rw [← hdue]
    exact hends.bag _ hvis
  · obtain ⟨p, r, hy⟩ := Bag.visited_stray s hst
    have hold : s.ageDue (b.visited s) = true ↔ old := by
      rw [State.ageDue_iff, hy]
      exact and_iff_right hst
    refine ⟨fun ho => ?_, fun hno => ?_, ?_, fun h15 ho p hp => ?_⟩
    · rw [hold.2 ho]
      exact Bool.or_true _
    · rw [Bool.eq_false_iff.2 (mt hold.1 hno), hy]
      exact Bool.or_false _
    · rw [hy]
      rfl
    · refine hends.told _ p hvis (hlen.trans h15) ((hdue _).trans (hold.2 ho)) ?_
      rw [hy]
      exact hp
  · change (b.visited s).state = _ ∧ (b.visited s).pull = _ ∧ (b.visited s).reason = _
    rw [Bag.visited_void hg hv]
    rcases hst with h | h | h | h | h | h
    all_goals
      rw [h]
      exact ⟨rfl, rfl, rfl⟩
  · have hsame : b.visited s = b := by
      rw [Bag.visited_void hg hv]
      rcases hst with h | h
      all_goals rw [h]
    rw [hnodue, hsame]
    rw [hsame]
    rcases hst with h | h
    all_goals
      rw [h]
      exact BagState.noConfusion
  · have hout := hoffload c hg hv hst
    have hvisits : VisitOffloads s s.visit b := .of_ends hb hst (hout ▸ hends)
    have hy : b.visited s = { b with state := .offload, location := none, entered := none } := by
      rw [Bag.visited_void hg hv, hst]
    refine ⟨by rw [hy]; rfl, by rw [hy]; rfl, fun k hk => ⟨hvisits.told k hk, hvisits.counts k hk, fun z => hvisits.cabin k z hk,
      fun m z => hvisits.others k m z hk⟩⟩
  · have hcart : CartOffloads s (s.reconcile g) g n z := by
      rw [hoffload c hg hv hst]
      exact .offloadBag hb hn hz
    have hcart? : s.visit.cart? n = (s.reconcile g).cart? n := by rw [State.cart?, hends.carts]; rfl
    refine ⟨fun hd hq => hcart?.trans (hcart.stays hd hq), fun hd hleft hdoor => ?_, fun d x hd hdoor hx hxn hall hu => ?_⟩
    · obtain ⟨h1, h2⟩ := hcart.waits hd hleft hdoor
      exact ⟨hcart?.trans h1, hends.routes.trans h2⟩
    · obtain ⟨hgone, hbags, htold⟩ := hcart.completes d x hd hdoor hx hxn hall hu
      refine ⟨hcart?.trans hgone, fun e he o ho => ⟨_, (hends.others _ _ hvis ?_).trans (hbags e he o ho), rfl, rfl⟩,
        fun k r h15 hk hr hflag => hends.stay _ _ (htold k r h15 hk hr hflag)⟩
      exact bne_iff_ne.1 (List.mem_filter.1 he).2
  · change (b.visited s).pull = _
    rw [Bag.visited_sails hg hv]
    split <;> rfl
  · change (b.visited s).reason = _
    rw [Bag.visited_sails hg hv]
    split <;> rfl
  · change (b.visited s).state = _
    rw [Bag.visited_sails hg hv]
    split <;> rfl
  · have hvisits : VisitReturns s s.visit b := .of_ends hb hst (State.reconcile_returns hb hg hv hst hpull ▸ hends)
    exact ⟨hvisits.counts k hk, fun z => hvisits.cabin k z hk, fun m z => hvisits.others k m z hk⟩
  · have hsame : b.visited s = b := by rw [Bag.visited, hg]
    rw [hsame]
    exact ⟨rfl, rfl, rfl⟩

/-- Settles O53: the walker's position and the pulls that complete there, and the bag it visits there by its governing cabin. -/
theorem patrolVisits : Obligations.PatrolVisits := ⟨patrolWalks, patrolReconciles⟩

end Sys2Proof.Machine
end

section
/-! The visits of a walk before its last, and the steps that are not its own (R17, R31, R157, R169, R171, log 2). -/

namespace Sys2Proof.Machine

/-! ## Whose step a walk takes -/

theorem exec_closeWalkVisit (s : State) : exec .closeWalkVisit s = .next (match s.closing? with
    | some w => s.walkStep w
    | none => s) := rfl

theorem exec_closeWalkComplete (s : State) : exec .closeWalkComplete s = .next (match s.closing? with
    | some w => if w.last then s.walkStep w else s
    | none => s) := rfl

theorem exec_clearWalkVisit (s : State) : exec .clearWalkVisit s = .next (match s.clearing? with
    | some w => s.walkStep w
    | none => s) := rfl

theorem exec_clearWalkComplete (s : State) : exec .clearWalkComplete s = .next (match s.clearing? with
    | some w => if w.last then s.walkStep w else s
    | none => s) := rfl

theorem State.closing?_eq_some {s : State} {w : Walk} : s.closing? = some w ↔ s.sweep.walk = some w ∧ w.kind ≠ .clear := by
  rw [State.closing?, Option.filter_eq_some_iff, bne_iff_ne]

theorem State.clearing?_eq_some {s : State} {w : Walk} : s.clearing? = some w ↔ s.sweep.walk = some w ∧ w.kind = .clear := by
  rw [State.clearing?, Option.filter_eq_some_iff, beq_iff_eq]

theorem Walk.last_iff {w : Walk} : w.last = true ↔ 22527 ≤ w.next := by
  rw [Walk.last, decide_eq_true_iff, show walkRecords = 22528 from rfl]
  omega

theorem walksWait : Claim.WalksWait := by
  intro s
  refine ⟨fun h => ?_, fun h => ?_, fun h => ?_, fun h => ?_⟩
  · rw [exec_closeWalkVisit]
    split
    · next w hw =>
      obtain ⟨hrun, hkind⟩ := State.closing?_eq_some.1 hw
      exact absurd (h w hrun) hkind
    · rfl
  · rw [exec_clearWalkVisit]
    split
    · next w hw =>
      obtain ⟨hrun, hkind⟩ := State.clearing?_eq_some.1 hw
      exact absurd hkind (h w hrun)
    · rfl
  · rw [exec_closeWalkComplete]
    split
    · next w hw =>
      obtain ⟨hrun, hkind⟩ := State.closing?_eq_some.1 hw
      rw [if_neg fun hlast => absurd (Walk.last_iff.1 hlast) (Nat.not_le.2 ((h w hrun).resolve_left hkind))]
    · rfl
  · rw [exec_clearWalkComplete]
    split
    · next w hw =>
      obtain ⟨hrun, hkind⟩ := State.clearing?_eq_some.1 hw
      rw [if_neg fun hlast => absurd (Walk.last_iff.1 hlast) (Nat.not_le.2 ((h w hrun).resolve_left (absurd hkind)))]
    · rfl

/-- A walk's own visit takes its step. -/
theorem exec_walkVisit {s : State} {w : Walk} {i : Instr} (hw : s.sweep.walk = some w)
    (hi : i = .closeWalkVisit ∧ w.kind ≠ .clear ∨ i = .clearWalkVisit ∧ w.kind = .clear) :
    exec i s = .next (s.walkStep w) := by
  rcases hi with ⟨rfl, hk⟩ | ⟨rfl, hk⟩
  · rw [exec_closeWalkVisit, State.closing?_eq_some.2 ⟨hw, hk⟩]
  · rw [exec_clearWalkVisit, State.clearing?_eq_some.2 ⟨hw, hk⟩]

theorem exec_closeLast {s : State} {b : SlotId} {n : Nat} {i : Instr} (hw : s.sweep.walk = some ⟨.close b, n⟩) (hn : 22527 ≤ n)
    (hi : i = .closeWalkVisit ∨ i = .closeWalkComplete) : exec i s = .next (s.walkStep ⟨.close b, n⟩) := by
  have hk : (⟨.close b, n⟩ : Walk).kind ≠ .clear := WalkKind.noConfusion
  rcases hi with rfl | rfl
  · exact exec_walkVisit hw (.inl ⟨rfl, hk⟩)
  · rw [exec_closeWalkComplete, State.closing?_eq_some.2 ⟨hw, hk⟩]
    exact congrArg Host.Outcome.next (if_pos (Walk.last_iff.2 hn))

theorem exec_clearLast {s : State} {n : Nat} {i : Instr} (hw : s.sweep.walk = some ⟨.clear, n⟩) (hn : 22527 ≤ n)
    (hi : i = .clearWalkVisit ∨ i = .clearWalkComplete) : exec i s = .next (s.walkStep ⟨.clear, n⟩) := by
  rcases hi with rfl | rfl
  · exact exec_walkVisit hw (.inr ⟨rfl, rfl⟩)
  · rw [exec_clearWalkComplete, State.clearing?_eq_some.2 ⟨hw, rfl⟩]
    exact congrArg Host.Outcome.next (if_pos (Walk.last_iff.2 hn))

/-! ## The visit of a bag record (R169, R171) -/

theorem walkClears_iff {w : WalkKind} {o : Option SlotId} : walkClears w o = true ↔ w = .clear ∨ ∃ b, w = .close b ∧ o = some b := by
  unfold walkClears
  cases w with
  | close b => simp
  | clear => simp

section
variable {s : State} {n : Nat} (w : WalkKind)

theorem State.walkRecord_bag (hn : n < 16384) : s.walkRecord w n = s.walkBag w n := if_pos hn

theorem State.walkRecord_cabin (hn : 16384 ≤ n) : s.walkRecord w n = s.walkCabin w (n - 16384) := if_neg (Nat.not_lt.2 hn)

theorem State.walkBag_none (hb : s.store.bags.get? n = none) : s.walkBag w n = s := by
  rw [State.walkBag, Store.liveAt, Table.has, hb]
  rfl

theorem State.walkBag_live {b : Bag} (hb : s.store.bags.get? n = some b) : s.walkBag w n =
    if walkClears w (b.home.map (·.slot)) = true then s.retireBag ⟨n, s.store.gen n⟩ else s := by
  have hlive : s.store.liveAt n = some ⟨n, s.store.gen n⟩ := by
    rw [Store.liveAt, Table.has, hb]
    rfl
  have hbag : s.bag? ⟨n, s.store.gen n⟩ = some b := Store.bag?_eq_some.2 ⟨rfl, hb⟩
  rw [State.walkBag, hlive]
  dsimp only
  rw [hbag]

end

/-! ## The visit of a cabin record (R17, R169, R171) -/

/-- The cabin at a walk's record. -/
theorem Store.cabinAt_find {t : Store} {n : Nat} (hn : 16384 ≤ n) :
    t.cabinAt (n - 16384) = t.cabins.find? (fun e => e.2.place + 16384 == n) := by
  refine congrArg (List.find? · t.cabins) (funext fun e => ?_)
  rw [Bool.eq_iff_iff, beq_iff_eq, beq_iff_eq]
  omega

/-- The slot of a cabin table key, as the statements write it. -/
theorem slotOfCabinCode_eq (key : Nat) : slotOfCabinCode key = if key < 65536 then SlotId.berthA else SlotId.berthB := rfl

/-- A cabin is erased, and the cabin it forwards to loses 1. -/
theorem State.eraseCabin_get? (s : State) (key : Nat) (forward : Option Nat) (j : Nat) :
    (s.eraseCabin key forward).store.cabins.get? j = if j = key then none
      else if forward.any (fun n => CabinKey.code ⟨slotOfCabinCode key, n⟩ == j) = true then
        (s.store.cabins.get? j).map (fun y => { y with forwardedIn := y.forwardedIn - 1 })
      else s.store.cabins.get? j := by
  unfold State.eraseCabin
  by_cases hj : j = key
  · rw [if_pos hj, hj]
    exact Table.get?_erase_same ..
  · rw [if_neg hj]
    refine (Table.get?_erase_other _ hj).trans ?_
    cases forward with
    | none => rfl
    | some n =>
      by_cases hn : CabinKey.code ⟨slotOfCabinCode key, n⟩ = j
      · subst hn
        have hany : (some n).any (fun m => CabinKey.code ⟨slotOfCabinCode key, m⟩ == CabinKey.code ⟨slotOfCabinCode key, n⟩) = true :=
          beq_iff_eq.2 rfl
        refine Eq.trans ?_ (if_pos hany).symm
        exact Store.modifyCabin_same s.store ⟨slotOfCabinCode key, n⟩ fun c => { c with forwardedIn := c.forwardedIn - 1 }
      · have hany : ¬(some n).any (fun n => CabinKey.code ⟨slotOfCabinCode key, n⟩ == j) = true := mt beq_iff_eq.1 hn
        refine Eq.trans ?_ (if_neg hany).symm
        exact Store.modifyCabin_other s.store ⟨slotOfCabinCode key, n⟩ (fun c => { c with forwardedIn := c.forwardedIn - 1 })
          (Ne.symm hn)

theorem State.eraseCabin_frame (s : State) (key : Nat) (forward : Option Nat) : s.eraseCabin key forward =
    s.setStore { s.store with cabins := (s.eraseCabin key forward).store.cabins } := by
  cases forward <;> rfl

/-- What the visit of a cabin record leaves: a cabin of the walk's slot retired, every other as it was. -/
theorem State.walkCabin_found {s : State} {w : WalkKind} {n key : Nat} {c : Cabin} (hn : 16384 ≤ n)
    (hc : s.store.cabins.find? (fun e => e.2.place + 16384 == n) = some (key, c)) : s.walkCabin w (n - 16384) =
      if walkClears w (some (slotOfCabinCode key)) = true then (s.eraseCabin key c.forward).setMode else s := by
  rw [State.walkCabin, Store.cabinAt_find hn, hc]

theorem State.walkCabin_none {s : State} {n : Nat} (w : WalkKind) (hn : 16384 ≤ n)
    (hc : s.store.cabins.find? (fun e => e.2.place + 16384 == n) = none) : s.walkCabin w (n - 16384) = s := by
  rw [State.walkCabin, Store.cabinAt_find hn, hc]

theorem State.walkCabin_frame (s : State) (w : WalkKind) (place : Nat) :
    (s.walkCabin w place).store = { s.store with cabins := (s.walkCabin w place).store.cabins } ∧
    (s.walkCabin w place).sweep = { s.sweep with mode := (s.walkCabin w place).sweep.mode } := by
  unfold State.walkCabin
  split
  · exact ⟨rfl, rfl⟩
  · next key c _ =>
    split
    · have hframe := s.eraseCabin_frame key c.forward
      exact ⟨congrArg State.store hframe, congrArg (fun u : State => { u.sweep with
        mode := (s.eraseCabin key c.forward).setMode.sweep.mode }) hframe⟩
    · exact ⟨rfl, rfl⟩

theorem State.walkRecord_sweep (s : State) (w : WalkKind) (n : Nat) :
    (s.walkRecord w n).sweep = { s.sweep with mode := (s.walkRecord w n).sweep.mode } := by
  unfold State.walkRecord
  split
  · rw [show (s.walkBag w n).sweep = s.sweep from (Keeps.walkBag s w n).changes .sweep (by decide)]
  · exact (s.walkCabin_frame w _).2

theorem State.walkStep_before {s : State} {w : Walk} (hn : w.next < 22527) :
    s.walkStep w = (s.walkRecord w.kind w.next).setWalk (some ⟨w.kind, w.next + 1⟩) :=
  if_pos (show w.next + 1 < 22528 by omega)

theorem walksVisit : Claim.WalksVisit := by
  intro w i s hw hn hi takes
  have htakes : ∀ o, takes o ↔ walkClears w.kind o = true := fun o => walkClears_iff.symm
  refine ⟨s.walkStep w, exec_walkVisit hw hi, ?_⟩
  rw [State.walkStep_before hn]
  refine ⟨rfl, ?_, fun b hlow hb hin => ?_, fun b hlow hb hout => ?_, fun hlow hb => ?_, fun hhigh => ⟨?_, fun k c hc => ⟨fun hin => ?_,
    fun hout => ?_⟩, fun hc => ?_⟩⟩
  · change (s.walkRecord w.kind w.next).sweep.pos = _
    rw [State.walkRecord_sweep]
  · have hbag : s.bag? ⟨w.next, s.store.gen w.next⟩ = some b := Store.bag?_eq_some.2 ⟨rfl, hb⟩
    rw [State.walkRecord_bag _ hlow, State.walkBag_live _ hb, if_pos ((htakes _).1 hin)]
    exact ⟨Retired.retireBag hbag, fun _ => HoldsFollow.retireBag hbag⟩
  · rw [State.walkRecord_bag _ hlow, State.walkBag_live _ hb, if_neg (mt (htakes _).2 hout)]
    rfl
  · rw [State.walkRecord_bag _ hlow, State.walkBag_none _ hb]
    rfl
  · change (s.walkRecord w.kind w.next).store.bags = _
    rw [State.walkRecord_cabin _ hhigh, (s.walkCabin_frame ..).1]
  · have hclears : walkClears w.kind (some (slotOfCabinCode k)) = true := (htakes _).1 hin
    rw [State.walkRecord_cabin _ hhigh, State.walkCabin_found hhigh hc, if_pos hclears]
    exact ⟨ModeLaw.setMode _, State.eraseCabin_get? s k c.forward⟩
  · have hclears : ¬walkClears w.kind (some (slotOfCabinCode k)) = true := mt (htakes _).2 hout
    change (s.walkRecord w.kind w.next).store.cabins = _
    rw [State.walkRecord_cabin _ hhigh, State.walkCabin_found hhigh hc, if_neg hclears]
  · change (s.walkRecord w.kind w.next).store.cabins = _
    rw [State.walkRecord_cabin _ hhigh, State.walkCabin_none _ hhigh hc]

end Sys2Proof.Machine
end

section
/-! What the claims of a chute and the entries of a cart leave of bags and cabins as they are lost (R13, R102, R114, R117, R120,
R122, R136). -/

namespace Sys2Proof.Machine

/-! ## Bags that are lost were in the hall (R102, R120, R122, R136) -/

theorem Table.modify_id {α : Type} (t : Table α) (i : Nat) {f : α → α} (h : ∀ v, f v = v) : t.modify i f = t := by
  rw [Table.modify_eq]
  refine Eq.trans (List.map_congr_left fun e _ => ?_) (List.map_id t)
  split
  · rw [h]
    rfl
  · rfl

theorem Cabin.aboardMove_missing {c : Cabin} {p : BagState} (h : p ≠ .aboard) : c.aboardMove p .missing = c := by
  cases p
  case aboard => exact absurd rfl h
  all_goals rfl

/-- A bag that is not ABOARD becomes MISSING without a change to any cabin. -/
theorem State.makeMissing_cabins {s : State} {h : Handle} (hb : ∀ b, s.bag? h = some b → b.state ≠ .aboard) :
    (s.makeMissing h).store.cabins = s.store.cabins := by
  cases hx : s.bag? h with
  | none => rw [State.makeMissing, State.moveBag_stale hx]
  | some b =>
    rw [State.makeMissing, State.moveBag, State.setStore_store, Store.moveBag_live hx]
    cases b.home with
    | none => rfl
    | some k =>
      refine (Table.modify_id _ k.code fun c => Cabin.aboardMove_missing (hb b hx)).trans ?_
      exact Store.cabins_count ..

/-- No bag comes to be ABOARD. -/
def NoneBoard (s t : State) : Prop :=
  ∀ g x, t.bag? g = some x → x.state = .aboard → ∃ y, s.bag? g = some y ∧ y.state = .aboard

theorem NoneBoard.same {s t : State} (h : t.store = s.store) : NoneBoard s t := fun g x hx ha =>
  ⟨x, by rw [State.bag?, ← h]; exact hx, ha⟩

theorem NoneBoard.trans {s t u : State} (h : NoneBoard s t) (k : NoneBoard t u) : NoneBoard s u := fun g x hx ha =>
  let ⟨y, hy, hya⟩ := k g x hx ha
  h g y hy hya

theorem NoneBoard.makeMissing (s : State) (h : Handle) : NoneBoard s (s.makeMissing h) := by
  intro g x hx ha
  cases hb : s.bag? h with
  | none =>
    rw [State.makeMissing, State.moveBag_stale hb] at hx
    exact ⟨x, hx, ha⟩
  | some b =>
    rw [State.makeMissing, (State.moveBag_store hb .missing none).1] at hx
    split at hx
    · cases hx
      cases ha
    · exact ⟨x, hx, ha⟩

theorem NoneBoard.unlocate (s : State) (h : Handle) : NoneBoard s (s.modifyBag h (fun b => { b with location := none })) := by
  intro g x hx ha
  rw [State.modifyBag_bag?] at hx
  split at hx
  · obtain ⟨y, hy, rfl⟩ := Option.map_eq_some_iff.1 hx
    exact ⟨y, hy, ha⟩
  · exact ⟨x, hx, ha⟩

/-- Bags that become MISSING, none of them ABOARD: no cabin changes. -/
theorem State.makeAllMissing_cabins (l : List Handle) {s : State} (hl : ∀ h ∈ l, ∀ b, s.bag? h = some b → b.state ≠ .aboard) :
    (s.makeAllMissing l).store.cabins = s.store.cabins := by
  induction l generalizing s with
  | nil => rfl
  | cons h r ih =>
    refine (ih fun g hg x hx ha => ?_).trans (State.makeMissing_cabins (hl h List.mem_cons_self))
    obtain ⟨y, hy, hya⟩ := NoneBoard.makeMissing s h g x hx ha
    exact hl g (List.mem_cons_of_mem _ hg) y hy hya

theorem NoneBoard.makeAllMissing (l : List Handle) (s : State) : NoneBoard s (s.makeAllMissing l) := by
  induction l generalizing s with
  | nil => exact .same rfl
  | cons h r ih => exact (NoneBoard.makeMissing s h).trans (ih _)

theorem Store.Boardings.makeAllMissing (l : List Handle) (s : State) : Store.Boardings s.store (s.makeAllMissing l).store := by
  induction l generalizing s with
  | nil => exact .same rfl
  | cons h r ih => exact (Store.Boardings.moveBag s h .missing none).trans (ih _)

/-! ## Entries of a cart that retires (R114) -/

theorem NoneBoard.leaveCart (l : List Entry) (s : State) : NoneBoard s (s.leaveCart l) := by
  induction l generalizing s with
  | nil => exact .same rfl
  | cons e r ih =>
    rw [State.leaveCart]
    split
    · exact (NoneBoard.unlocate s e.bag).trans (ih _)
    · exact (NoneBoard.makeMissing s e.bag).trans (ih _)

theorem Store.Boardings.leaveCart (l : List Entry) (s : State) : Store.Boardings s.store (s.leaveCart l).store := by
  induction l generalizing s with
  | nil => exact .same rfl
  | cons e r ih =>
    rw [State.leaveCart]
    split
    · exact (Store.Boardings.modifyBag s e.bag _).trans (ih _)
    · exact (Store.Boardings.moveBag s e.bag .missing none).trans (ih _)

theorem State.leaveCart_cabins (l : List Entry) {s : State}
    (hl : ∀ e ∈ l, e.aboard = false → ∀ b, s.bag? e.bag = some b → b.state ≠ .aboard) :
    (s.leaveCart l).store.cabins = s.store.cabins := by
  induction l generalizing s with
  | nil => rfl
  | cons e r ih =>
    have hrest : ∀ u, NoneBoard s u → ∀ x ∈ r, x.aboard = false → ∀ b, u.bag? x.bag = some b → b.state ≠ .aboard :=
      fun u hu x hx hxa b hb ha => by
        obtain ⟨y, hy, hya⟩ := hu _ b hb ha
        exact hl x (List.mem_cons_of_mem _ hx) hxa y hy hya
    rw [State.leaveCart]
    split
    · refine (ih (hrest _ (NoneBoard.unlocate s e.bag))).trans ?_
      rw [(State.modifyBag_store ..).1]
    · next he =>
      refine (ih (hrest _ (NoneBoard.makeMissing s e.bag))).trans (State.makeMissing_cabins ?_)
      exact hl e List.mem_cons_self (Bool.eq_false_iff.2 he)

/-! ## What is emptied -/

/-- An operation that empties chutes and carts: of the cabins only aboard counts change, and none while lists hold no ABOARD bags,
which they then do not after it. -/
structure Empties (s t : State) : Prop where
  cabins : Store.Boardings s.store t.store
  listed : ListedInHall s → ListedInHall t ∧ t.store.cabins = s.store.cabins

theorem Empties.trans {s t u : State} (h : Empties s t) (k : Empties t u) : Empties s u where
  cabins := h.cabins.trans k.cabins
  listed hl := by
    obtain ⟨ht, hts⟩ := h.listed hl
    obtain ⟨hu, hut⟩ := k.listed ht
    exact ⟨hu, hut.trans hts⟩

theorem ListedInHall.imp {s t : State} (h : ListedInHall s) (hb : NoneBoard s t)
    (hk : ∀ k c, t.chute? k = some c → ∃ d, s.chute? k = some d ∧ (∀ e ∈ c.landing, e ∈ d.landing) ∧ ∀ g ∈ c.jams, g ∈ d.jams)
    (hc : ∀ n x, t.cart? n = some x → ∃ y, s.cart? n = some y ∧ ∀ e ∈ x.entries, e ∈ y.entries) : ListedInHall t := by
  obtain ⟨hchutes, hcarts⟩ := h
  refine ⟨fun k c hkc => ?_, fun n x hx e he hea b hbag ha => ?_⟩
  · obtain ⟨d, hd, hland, hjams⟩ := hk k c hkc
    obtain ⟨h1, h2⟩ := hchutes k d hd
    refine ⟨fun e he b hbag ha => ?_, fun g hg b hbag ha => ?_⟩
    · obtain ⟨y, hy, hya⟩ := hb _ b hbag ha
      exact h1 e (hland e he) y hy hya
    · obtain ⟨y, hy, hya⟩ := hb _ b hbag ha
      exact h2 g (hjams g hg) y hy hya
  · obtain ⟨z, hz, hsub⟩ := hc n x hx
    obtain ⟨y, hy, hya⟩ := hb _ b hbag ha
    exact hcarts n z hz e (hsub e he) hea y hy hya

/-- An operation that leaves the store, and of the chutes' and carts' lists at most drops some. -/
theorem Empties.lists {s t : State} (hs : t.store = s.store)
    (hk : ∀ k c, t.chute? k = some c → ∃ d, s.chute? k = some d ∧ (∀ e ∈ c.landing, e ∈ d.landing) ∧ ∀ g ∈ c.jams, g ∈ d.jams)
    (hc : ∀ n x, t.cart? n = some x → ∃ y, s.cart? n = some y ∧ ∀ e ∈ x.entries, e ∈ y.entries) : Empties s t :=
  ⟨.same (by rw [hs]), fun h => ⟨h.imp (.same hs) hk hc, by rw [hs]⟩⟩

theorem Empties.refl (s : State) : Empties s s := ⟨.same rfl, fun h => ⟨h, rfl⟩⟩

theorem Empties.modifyChute (s : State) (k : Nat) {f : Chute → Chute} (hl : ∀ c, ∀ e ∈ (f c).landing, e ∈ c.landing)
    (hj : ∀ c, ∀ g ∈ (f c).jams, g ∈ c.jams) : Empties s (s.modifyChute k f) := by
  refine .lists rfl (fun j c hc => ?_) fun n x hx => ⟨x, hx, fun _ h => h⟩
  rw [State.modifyChute_chute?] at hc
  split at hc
  · obtain ⟨d, hd, rfl⟩ := Option.map_eq_some_iff.1 hc
    exact ⟨d, hd, hl d, hj d⟩
  · exact ⟨c, hc, fun _ h => h, fun _ h => h⟩

theorem Empties.modifyCart (s : State) (n : Nat) {f : Cart → Cart} (hf : ∀ x, (f x).entries = x.entries) :
    Empties s (s.modifyCart n f) := by
  refine .lists rfl (fun j c hc => ⟨c, hc, fun _ h => h, fun _ h => h⟩) fun m x hx => ?_
  rw [State.modifyCart_cart?] at hx
  split at hx
  · obtain ⟨y, hy, rfl⟩ := Option.map_eq_some_iff.1 hx
    exact ⟨y, hy, fun e he => by rw [← hf y]; exact he⟩
  · exact ⟨x, hx, fun _ h => h⟩

theorem Empties.raise (s : State) (w : Source) (n : Nat) : Empties s (s.raise w n) :=
  .lists rfl (fun _ c hc => ⟨c, hc, fun _ h => h, fun _ h => h⟩) fun _ x hx => ⟨x, hx, fun _ h => h⟩

theorem Empties.swap (s : State) (k : Nat) : Empties s (s.swap k) := by
  unfold State.swap
  repeat' split
  · exact .refl s
  · exact .refl s
  · exact (Empties.modifyCart _ _ (by exact fun _ => rfl)).trans (.modifyChute _ _ (by exact fun _ _ h => h) (by exact fun _ _ h => h))
  · exact (Empties.modifyChute _ _ (by exact fun _ _ h => h) (by exact fun _ _ h => h)).trans (.raise ..)
  · exact .modifyChute _ _ (fun _ _ h => h) fun _ _ h => h

theorem Empties.settleCut (s : State) (k : Nat) : Empties s (s.settleCut k) := by
  unfold State.settleCut
  repeat' split
  · exact .refl s
  · exact .refl s
  · exact (Empties.modifyCart _ _ (by exact fun _ => rfl)).trans (.swap ..)
  · exact .refl s

theorem Empties.retireCart (s : State) (n : Nat) : Empties s (s.retireCart n) := by
  cases hx : s.cart? n with
  | none =>
    rw [State.retireCart, hx]
    exact .refl s
  | some x =>
    have hr : s.retireCart n = (s.leaveCart x.entries).setCarts (s.carts.erase n) := by rw [State.retireCart, hx]
    have hcarts : ∀ m y, (s.retireCart n).cart? m = some y → s.cart? m = some y := fun m y hy => by
      rw [hr] at hy
      by_cases hm : m = n
      · subst hm
        exact absurd ((Table.get?_erase_same ..).symm.trans hy) (Option.some_ne_none y).symm
      · exact (Table.get?_erase_other _ hm).symm.trans hy
    have hchutes : (s.retireCart n).chutes = s.chutes := (Keeps.retireCart s n).changes .chutes (by decide)
    have hboard : NoneBoard s (s.retireCart n) := by
      rw [hr]
      exact (NoneBoard.leaveCart x.entries s).trans (.same rfl)
    refine ⟨?_, fun hl => ⟨hl.imp hboard (fun k c hc => ⟨c, ?_, fun _ h => h, fun _ h => h⟩)
      fun m y hy => ⟨y, hcarts m y hy, fun _ h => h⟩, ?_⟩⟩
    · rw [hr]
      exact .leaveCart ..
    · rw [State.chute?, ← hchutes]
      exact hc
    · rw [hr]
      exact State.leaveCart_cabins _ (hl.2 n x hx)

theorem Empties.loseClaims (s : State) (k : Nat) : Empties s (s.loseClaims k) := by
  cases hk : s.chute? k with
  | none =>
    rw [State.loseClaims, hk]
    exact .refl s
  | some c =>
    obtain ⟨-, -, hchute, hothers, -⟩ := ClaimsLost.loseClaims hk
    have hkeep := (Keeps.loseClaims s k).changes
    have hstore : (s.loseClaims k).store = (s.makeAllMissing (c.landing.map (·.bag) ++ c.jams)).store := by
      rw [State.loseClaims, hk]
      exact (Keeps.faultChute _ k .cartLost).changes .store (by decide)
    have hcarts : (s.loseClaims k).carts = s.carts := hkeep .carts (by decide)
    have hboard : NoneBoard s (s.loseClaims k) := (NoneBoard.makeAllMissing _ s).trans (.same hstore)
    refine ⟨?_, fun hl => ⟨hl.imp hboard (fun j d hd => ?_) fun n x hx => ⟨x, ?_, fun _ h => h⟩, ?_⟩⟩
    · rw [hstore]
      exact .makeAllMissing ..
    · by_cases hj : j = k
      · subst hj
        cases hchute.symm.trans hd
        exact ⟨c, hk, fun _ h => absurd h List.not_mem_nil, fun _ h => absurd h List.not_mem_nil⟩
      · exact ⟨d, (hothers j hj).symm.trans hd, fun _ h => h, fun _ h => h⟩
    · rw [State.cart?, ← hcarts]
      exact hx
    · obtain ⟨hland, hjams⟩ := hl.1 k c hk
      rw [hstore]
      refine State.makeAllMissing_cabins _ fun h hh => ?_
      rcases List.mem_append.1 hh with hh | hh
      · obtain ⟨e, he, rfl⟩ := List.mem_map.1 hh
        exact hland e he
      · exact hjams h hh

end Sys2Proof.Machine
end

section
/-! A chute of a closed slot is released: its claims lost, a cut completed, its carts gone or without a route (R119, R170). -/

namespace Sys2Proof.Machine

theorem PosName.eq_other {p q : PosName} (h : q ≠ p) : q = p.other := by
  cases p <;> cases q
  · exact absurd rfl h
  · rfl
  · rfl
  · exact absurd rfl h

theorem Chute.position_put_same (c : Chute) (p : PosName) (v : Position) : (c.putPosition p v).position p = v := by
  cases p <;> rfl

theorem Chute.position_put_other (c : Chute) {p q : PosName} (h : q ≠ p) (v : Position) :
    (c.putPosition p v).position q = c.position q := by
  cases p <;> cases q
  · exact absurd rfl h
  · rfl
  · rfl
  · exact absurd rfl h

theorem Chute.claims_eq_zero {c : Chute} : c.claims = 0 ↔ c.landing = [] ∧ c.jams = [] ∧ c.reserved = 0 := by
  rw [Chute.claims, ← List.length_eq_zero_iff, ← List.length_eq_zero_iff]
  omega

/-! ## What the release of a chute may touch -/

/-- An operation at a chute: of the chutes only it, and of the carts only those that stand there, change; its positions stay or
come empty, no cart comes, and a cart's route stays or goes. -/
structure TouchesChute (s t : State) (k : Nat) : Prop where
  others : ∀ j, j ≠ k → t.chute? j = s.chute? j
  absent : s.chute? k = none → t.chute? k = none
  places : ∀ c, s.chute? k = some c → ∃ d, t.chute? k = some d ∧ ∀ p, d.position p = c.position p ∨ d.position p = .empty
  carts : ∀ m, (∀ c p, s.chute? k = some c → c.position p ≠ .cart m) → t.cart? m = s.cart? m
  gone : ∀ m, s.cart? m = none → t.cart? m = none
  routed : ∀ e ∈ t.carts, ∃ x ∈ s.carts, x.1 = e.1 ∧ (e.2.route = none ∨ e.2.route = x.2.route)
  sources : t.notices.sources.length = s.notices.sources.length

section
variable {k : Nat}

theorem TouchesChute.refl (s : State) : TouchesChute s s k where
  others _ _ := rfl
  absent h := h
  places c hc := ⟨c, hc, fun _ => .inl rfl⟩
  carts _ _ := rfl
  gone _ h := h
  routed e he := ⟨e, he, rfl, .inr rfl⟩
  sources := rfl

theorem TouchesChute.trans {s t u : State} (h : TouchesChute s t k) (g : TouchesChute t u k) : TouchesChute s u k where
  others j hj := (g.others j hj).trans (h.others j hj)
  absent hn := g.absent (h.absent hn)
  places c hc := by
    obtain ⟨d, hd, hdc⟩ := h.places c hc
    obtain ⟨e, he, hed⟩ := g.places d hd
    exact ⟨e, he, fun p => (hed p).elim (fun hp => hp ▸ hdc p) .inr⟩
  carts m hm := by
    refine (g.carts m fun d p hd hdm => ?_).trans (h.carts m hm)
    cases hs : s.chute? k with
    | none => cases (h.absent hs).symm.trans hd
    | some c =>
      obtain ⟨e, he, hec⟩ := h.places c hs
      cases he.symm.trans hd
      rcases hec p with hp | hp
      · exact hm c p hs (hp.symm.trans hdm)
      · exact Position.noConfusion (hp.symm.trans hdm)
  gone m hm := g.gone m (h.gone m hm)
  routed e he := by
    obtain ⟨x, hx, hxe, hr⟩ := g.routed e he
    obtain ⟨y, hy, hyx, hr'⟩ := h.routed x hx
    exact ⟨y, hy, hyx.trans hxe, hr.elim .inl fun hr => hr'.elim (fun hn => .inl (hr.trans hn)) fun hn => .inr (hr.trans hn)⟩
  sources := g.sources.trans h.sources

/-- An operation that leaves the chutes' positions and the carts. -/
theorem TouchesChute.modifyChute (s : State) (k : Nat) {f : Chute → Chute}
    (hf : ∀ c p, (f c).position p = c.position p ∨ (f c).position p = .empty) : TouchesChute s (s.modifyChute k f) k where
  others j hj := by rw [State.modifyChute_chute?, if_neg hj]
  absent hn := by rw [State.modifyChute_chute?, if_pos rfl, hn]; rfl
  places c hc := ⟨f c, State.modifyChute_same hc f, hf c⟩
  carts _ _ := rfl
  gone _ h := h
  routed e he := ⟨e, he, rfl, .inr rfl⟩
  sources := rfl

/-- A cart that stands at the chute changes. -/
theorem TouchesChute.modifyCart {s : State} {c : Chute} {p : PosName} {n : Nat} {f : Cart → Cart} (hc : s.chute? k = some c)
    (hp : c.position p = .cart n) (hf : ∀ x, (f x).route = none ∨ (f x).route = x.route) :
    TouchesChute s (s.modifyCart n f) k where
  others _ _ := rfl
  absent h := h
  places d hd := ⟨d, hd, fun _ => .inl rfl⟩
  carts m hm := State.modifyCart_other s (fun he : m = n => hm c p hc (hp.trans (congrArg Position.cart he.symm))) f
  gone m hm := by
    rw [State.modifyCart_cart?, hm]
    exact ite_self _
  routed e he := by
    obtain ⟨x, hx, rfl⟩ := List.mem_map.1 he
    refine ⟨x, hx, ?_⟩
    split
    · exact ⟨rfl, hf x.2⟩
    · exact ⟨rfl, .inr rfl⟩
  sources := rfl

theorem TouchesChute.raise (s : State) (w : Source) (n : Nat) : TouchesChute s (s.raise w n) k where
  others _ _ := rfl
  absent h := h
  places d hd := ⟨d, hd, fun _ => .inl rfl⟩
  carts _ _ := rfl
  gone _ h := h
  routed e he := ⟨e, he, rfl, .inr rfl⟩
  sources := State.raise_sources ..

theorem TouchesChute.retireCart {s : State} {c : Chute} {p : PosName} {n : Nat} (hc : s.chute? k = some c)
    (hp : c.position p = .cart n) : TouchesChute s (s.retireCart n) k := by
  have hch := (Keeps.retireCart s n).changes
  have hchute : ∀ j, (s.retireCart n).chute? j = s.chute? j := fun j => by
    rw [State.chute?, show (s.retireCart n).chutes = s.chutes from hch .chutes (by decide)]
    rfl
  have hcarts : (s.retireCart n).carts = s.carts ∨ (s.retireCart n).carts = s.carts.erase n := by
    unfold State.retireCart
    split
    · exact .inl rfl
    · exact .inr rfl
  refine ⟨fun j _ => hchute j, fun h => (hchute k).trans h, fun d hd => ⟨d, (hchute k).trans hd, fun _ => .inl rfl⟩, fun m hm => ?_,
    fun m hm => ?_, fun e he => ⟨e, ?_, rfl, .inr rfl⟩, by rw [hch .notices (by decide)]⟩
  · rcases hcarts with h | h
    · rw [State.cart?, h]; rfl
    · rw [State.cart?, h]
      exact Table.get?_erase_other _ fun he : m = n => hm c p hc (hp.trans (congrArg Position.cart he.symm))
  · rcases hcarts with h | h
    · rw [State.cart?, h]; exact hm
    · rw [State.cart?, h]
      by_cases he : m = n
      · rw [he]
        exact Table.get?_erase_same ..
      · exact (Table.get?_erase_other _ he).trans hm
  · rcases hcarts with h | h
    · rw [← h]; exact he
    · rw [h] at he
      exact List.mem_of_mem_filter he

theorem TouchesChute.swap (s : State) (k : Nat) : TouchesChute s (s.swap k) k := by
  unfold State.swap
  split
  · exact .refl s
  · next c hc =>
    split
    · exact .refl s
    · next p hp =>
      split
      · next n hn =>
        obtain ⟨hpos, -⟩ := State.standby?_eq_some.1 hn
        exact (TouchesChute.modifyCart hc hpos (by exact fun _ => .inr rfl)).trans
          (.modifyChute _ k (by exact fun _ q => .inl (by cases q <;> rfl)))
      · split
        · exact (TouchesChute.modifyChute s k (by exact fun _ q => .inl (by cases q <;> rfl))).trans (.raise ..)
        · exact .modifyChute s k (by exact fun _ q => .inl (by cases q <;> rfl))

theorem TouchesChute.settleCut (s : State) (k : Nat) : TouchesChute s (s.settleCut k) k := by
  unfold State.settleCut
  split
  · exact .refl s
  · next c hc =>
    split
    · exact .refl s
    · next n x hx =>
      split
      · obtain ⟨p, -, hpos, -⟩ := State.activeCart_eq hx
        exact (TouchesChute.modifyCart hc hpos (by exact fun _ => .inr rfl)).trans (.swap ..)
      · exact .refl s

theorem TouchesChute.loseClaims (s : State) (k : Nat) : TouchesChute s (s.loseClaims k) k := by
  cases hk : s.chute? k with
  | none =>
    rw [State.loseClaims, hk]
    exact .refl s
  | some c =>
    obtain ⟨-, -, hchute, hothers, -, -, hsources⟩ := ClaimsLost.loseClaims hk
    have hcarts : (s.loseClaims k).carts = s.carts := (Keeps.loseClaims s k).changes .carts (by decide)
    refine ⟨hothers, fun h => absurd (h.symm.trans hk) (Option.some_ne_none c).symm, fun d hd => ⟨_, hchute, fun p => ?_⟩, fun m _ => ?_,
      fun m hm => ?_, fun e he => ⟨e, hcarts ▸ he, rfl, .inr rfl⟩, hsources⟩
    · cases hk.symm.trans hd
      cases p <;> exact .inl rfl
    all_goals rw [State.cart?, hcarts]
    · rfl
    · exact hm

end

/-! ## The claims of a released chute (R117, R119) -/

/-- The claims of a chute are lost, where it has any, and a cut is completed. -/
def State.claimsGone (s : State) (k : Nat) (c : Chute) : State := if c.claims = 0 then s else (s.loseClaims k).settleCut k

/-- Of the carts only states change, a CLOSING cart's and a STANDBY cart's. -/
def StatesChange (s t : State) : Prop :=
  ∀ m y, s.cart? m = some y → ∃ v, t.cart? m = some { y with state := v } ∧
    (y.state ≠ .closing → y.state ≠ .standby → v = y.state)

theorem StatesChange.refl (s : State) : StatesChange s s := fun _ y hy => ⟨y.state, hy, fun _ _ => rfl⟩

theorem StatesChange.swap (s : State) (k : Nat) : StatesChange s (s.swap k) := by
  cases hk : s.chute? k with
  | none =>
    rw [State.swap, hk]
    exact .refl s
  | some c =>
    cases ha : c.active with
    | none =>
      rw [State.swap, hk]
      dsimp only
      rw [ha]
      exact .refl s
    | some p =>
      obtain ⟨⟨q, -, -, hstands, -⟩, -, hstay, -⟩ := State.swap_left hk ha
      intro m y hy
      by_cases hs : c.position p.other = .cart m ∧ s.cart? m = some y ∧ y.state = .standby
      · exact ⟨.filling, (hstands m y hs).2.1, fun _ h => absurd hs.2.2 h⟩
      · refine ⟨y.state, (hstay m fun z hz => hs ?_).trans hy, fun _ _ => rfl⟩
        obtain ⟨h1, h2, h3⟩ := hz
        cases hy.symm.trans h2
        exact ⟨h1, hy, h3⟩

theorem StatesChange.settleCut (s : State) (k : Nat) : StatesChange s (s.settleCut k) := by
  cases hk : s.chute? k with
  | none =>
    rw [State.settleCut, hk]
    exact .refl s
  | some c =>
    cases hc : s.activeCart c with
    | none =>
      rw [State.settleCut, hk]
      dsimp only
      rw [hc]
      exact .refl s
    | some e =>
      obtain ⟨n, x⟩ := e
      obtain ⟨p, -, -, hx⟩ := State.activeCart_eq hc
      by_cases hdue : x.state = .closing ∧ c.claims = 0
      · rw [State.settleCut_due hk hc hdue]
        have hswap := StatesChange.swap (s.modifyCart n (fun x => { x with state := .cut })) k
        intro m y hy
        by_cases hm : m = n
        · subst hm
          cases hx.symm.trans hy
          obtain ⟨v, hv, -⟩ := hswap m _ (State.modifyCart_same hx _)
          exact ⟨v, hv, fun h => absurd hdue.1 h⟩
        · obtain ⟨v, hv, hvs⟩ := hswap m y ((State.modifyCart_other s hm _).trans hy)
          exact ⟨v, hv, hvs⟩
      · rw [State.settleCut_early hk hc hdue]
        exact .refl s

/-- What is left of a chute once its claims are gone. -/
structure ClaimsGone (s t : State) (k : Nat) (c : Chute) : Prop where
  touches : TouchesChute s t k
  states : StatesChange s t
  empties : Empties s t
  chute : ∃ d, t.chute? k = some d ∧ d.claims = 0 ∧ ∀ p, d.position p = c.position p
  cut : c.claims ≠ 0 → ∀ m y, s.activeCart c = some (m, y) → y.state = .closing → t.cart? m = some { y with state := .cut }

theorem ClaimsGone.claimsGone {s : State} {k : Nat} {c : Chute} (hk : s.chute? k = some c) :
    ClaimsGone s (s.claimsGone k c) k c := by
  unfold State.claimsGone
  split
  · next h0 => exact ⟨.refl s, .refl s, .refl s, ⟨c, hk, h0, fun _ => rfl⟩, fun h => absurd h0 h⟩
  · obtain ⟨-, -, hchute, -⟩ := ClaimsLost.loseClaims hk
    have hcarts : (s.loseClaims k).carts = s.carts := (Keeps.loseClaims s k).changes .carts (by decide)
    have hcart? : ∀ m, (s.loseClaims k).cart? m = s.cart? m := fun m => by rw [State.cart?, hcarts]; rfl
    obtain ⟨d, hd, hdc, -, hcut, -⟩ := CutSettled.settleCut hchute
    refine ⟨(TouchesChute.loseClaims s k).trans (.settleCut ..), fun m y hy => ?_, (Empties.loseClaims s k).trans (.settleCut ..),
      ⟨d, hd, ?_, fun p => ?_⟩, fun _ m y hc hst => ?_⟩
    · exact StatesChange.settleCut (s.loseClaims k) k m y ((hcart? m).trans hy)
    · rw [hdc]
      rfl
    · rw [hdc]
      cases p <;> rfl
    · obtain ⟨p, ha, hpos, hy⟩ := State.activeCart_eq hc
      obtain ⟨hm, -⟩ := hcut m y (State.activeCart_of ha (by cases p <;> exact hpos) ((hcart? m).trans hy))
      rw [hm, if_pos ⟨hst, by rw [hdc]; rfl⟩]

/-! ## The carts of a released chute (R170) -/

/-- A cart of a closed slot keeps its place without a route. -/
def Cart.unrouted (x : Cart) : Cart := { x with route := none }

/-- The chute after an empty cart left a position. -/
def Chute.emptied (c : Chute) (p : PosName) : Chute :=
  { c.putPosition p .empty with active := if c.active = some p then none else c.active }

/-- What stands at a position retires, stays without a route, or is none. -/
theorem State.leavePosition_cases {s : State} {k : Nat} {c : Chute} (hk : s.chute? k = some c) (p : PosName) :
    (∃ m x, c.position p = .cart m ∧ s.cart? m = some x ∧ x.isEmpty = true ∧
      s.leavePosition k p = (s.retireCart m).modifyChute k (fun c => c.emptied p)) ∨
    (∃ m x, c.position p = .cart m ∧ s.cart? m = some x ∧ x.isEmpty = false ∧
      s.leavePosition k p = s.modifyCart m Cart.unrouted) ∨
    (∀ m x, c.position p = .cart m → s.cart? m ≠ some x) ∧ s.leavePosition k p = s := by
  have hleave : s.leavePosition k p = match (c.position p).serial? with
      | none => s
      | some n => s.leaveCartOf k p n := by
    rw [State.leavePosition, hk]
    rfl
  rw [hleave]
  cases hp : c.position p with
  | empty => exact .inr (.inr ⟨fun m x h => Position.noConfusion h, rfl⟩)
  | marked => exact .inr (.inr ⟨fun m x h => Position.noConfusion h, rfl⟩)
  | cart m =>
    dsimp only [Position.serial?]
    unfold State.leaveCartOf
    cases hx : s.cart? m with
    | none =>
      refine .inr (.inr ⟨fun n x h hn => ?_, rfl⟩)
      cases h
      cases hx.symm.trans hn
    | some x =>
      dsimp only
      cases he : x.isEmpty with
      | true => exact .inl ⟨m, x, rfl, hx, he, rfl⟩
      | false => exact .inr (.inl ⟨m, x, rfl, hx, he, rfl⟩)

section
variable {s : State} {k : Nat} {c : Chute} (hk : s.chute? k = some c) (p : PosName)
include hk

theorem TouchesChute.leavePosition : TouchesChute s (s.leavePosition k p) k := by
  rcases State.leavePosition_cases hk p with ⟨m, x, hp, -, -, h⟩ | ⟨m, x, hp, -, -, h⟩ | ⟨-, h⟩
  · rw [h]
    refine (TouchesChute.retireCart hk hp).trans (.modifyChute _ k fun d q => ?_)
    by_cases hq : q = p
    · rw [hq]
      exact .inr (by cases p <;> rfl)
    · refine .inl (Eq.trans ?_ (d.position_put_other hq .empty))
      cases q <;> rfl
  · rw [h]
    exact .modifyCart hk hp fun _ => .inl rfl
  · rw [h]
    exact .refl s

theorem Empties.leavePosition : Empties s (s.leavePosition k p) := by
  rcases State.leavePosition_cases hk p with ⟨m, x, -, -, -, h⟩ | ⟨m, x, -, -, -, h⟩ | ⟨-, h⟩
  · rw [h]
    refine (Empties.retireCart s m).trans (.modifyChute _ k (fun d e he => ?_) fun d g hg => ?_)
    · cases p <;> exact he
    · cases p <;> exact hg
  · rw [h]
    exact .modifyCart _ _ (by exact fun _ => rfl)
  · rw [h]
    exact .refl s

/-- The chute after a position was left: as it was, or emptied there. -/
theorem State.leavePosition_chute : ∃ d, (s.leavePosition k p).chute? k = some d ∧ (d = c ∨ d = c.emptied p) := by
  rcases State.leavePosition_cases hk p with ⟨m, x, hp, -, -, h⟩ | ⟨m, x, -, -, -, h⟩ | ⟨-, h⟩
  · have hk' : (s.retireCart m).chute? k = some c := by
      rw [State.chute?, show (s.retireCart m).chutes = s.chutes from (Keeps.retireCart s m).changes .chutes (by decide)]
      exact hk
    rw [h]
    exact ⟨_, State.modifyChute_same hk' _, .inr rfl⟩
  · rw [h]
    exact ⟨c, hk, .inl rfl⟩
  · rw [h]
    exact ⟨c, hk, .inl rfl⟩

end

theorem Chute.emptied_claims (c : Chute) (p : PosName) : (c.emptied p).claims = c.claims := by cases p <;> rfl

theorem Chute.emptied_same (c : Chute) (p : PosName) : (c.emptied p).position p = .empty := by cases p <;> rfl

theorem Chute.emptied_other (c : Chute) {p q : PosName} (h : q ≠ p) : (c.emptied p).position q = c.position q :=
  Eq.trans (by cases q <;> rfl) (c.position_put_other h .empty)

theorem Chute.emptied_active {c : Chute} {p : PosName} (q : PosName) (h : q = p ∨ c.active ≠ some q) :
    (c.emptied p).active ≠ some q := by
  unfold Chute.emptied
  dsimp only
  split
  · exact (Option.some_ne_none q).symm
  · next ha => exact h.elim (fun he => he ▸ ha) id

/-! ## A cart with unidentified items stays without a route -/

/-- Every record of a serial has no route. -/
def Unrouted (s : State) (m : Nat) : Prop := ∀ e ∈ s.carts, e.1 = m → e.2.route = none

theorem Unrouted.touched {s t : State} {k m : Nat} (h : Unrouted s m) (g : TouchesChute s t k) : Unrouted t m := by
  intro e he hem
  obtain ⟨x, hx, hxe, hr⟩ := g.routed e he
  exact hr.elim id fun hr => hr.trans (h x hx (hxe.trans hem))

theorem Unrouted.modifyCart (s : State) (m : Nat) : Unrouted (s.modifyCart m Cart.unrouted) m := by
  intro e he hem
  obtain ⟨x, hx, rfl⟩ := List.mem_map.1 he
  split at hem
  · next h => rw [if_pos h]; rfl
  · next h => exact absurd hem h

/-- A cart with unidentified items stands at a position of a chute without claims. -/
structure Held (s : State) (k : Nat) (p : PosName) (m : Nat) (z : Cart) : Prop where
  chute : ∃ q, s.chute? k = some q ∧ q.claims = 0 ∧ q.position p = .cart m
  cart : s.cart? m = some z
  items : z.unidentified ≠ 0

theorem Held.leavePosition {s : State} {k m : Nat} {p : PosName} {z : Cart} (h : Held s k p m z) (r : PosName) :
    ∃ y, (y = z ∨ y = z.unrouted) ∧ Held (s.leavePosition k r) k p m y ∧
      (r = p → y = z.unrouted ∧ Unrouted (s.leavePosition k r) m) := by
  obtain ⟨⟨q, hq, hq0, hqp⟩, hz, hu⟩ := h
  have hfull : z.isEmpty = false := Bool.eq_false_iff.2 fun he => hu (Cart.isEmpty_iff.1 he).2
  rcases State.leavePosition_cases hq r with ⟨n, x, hn, hx, he, ht⟩ | ⟨n, x, hn, hx, -, ht⟩ | ⟨hno, ht⟩
  · have hmn : m ≠ n := fun hmn => by
      subst hmn
      cases hz.symm.trans hx
      exact Bool.false_ne_true (hfull.symm.trans he)
    have hrp : p ≠ r := fun hpr => by
      subst hpr
      cases hqp.symm.trans hn
      exact hmn rfl
    obtain ⟨d, hd, hdq⟩ := State.leavePosition_chute hq r
    refine ⟨z, .inl rfl, ⟨⟨d, hd, ?_, ?_⟩, ?_, hu⟩, fun hpr => absurd hpr.symm hrp⟩
    · rcases hdq with rfl | rfl
      · exact hq0
      · exact (q.emptied_claims r).trans hq0
    · rcases hdq with rfl | rfl
      · exact hqp
      · exact (q.emptied_other hrp).trans hqp
    · rw [ht]
      exact (State.retireCart_other hx hmn).trans hz
  · by_cases hmn : m = n
    · subst hmn
      cases hz.symm.trans hx
      rw [ht]
      exact ⟨z.unrouted, .inr rfl, ⟨⟨q, hq, hq0, hqp⟩, State.modifyCart_same hz _, hu⟩, fun _ => ⟨rfl, Unrouted.modifyCart s m⟩⟩
    · rw [ht]
      refine ⟨z, .inl rfl, ⟨⟨q, hq, hq0, hqp⟩, (State.modifyCart_other s hmn _).trans hz, hu⟩, fun hpr => ?_⟩
      subst hpr
      cases hqp.symm.trans hn
      exact absurd rfl hmn
  · rw [ht]
    refine ⟨z, .inl rfl, ⟨⟨q, hq, hq0, hqp⟩, hz, hu⟩, fun hpr => ?_⟩
    subst hpr
    exact absurd hz (hno m z hqp)

/-! ## An empty cart leaves its position -/

/-- An empty cart stands at one position of a chute without claims. -/
structure EmptyAt (s : State) (k : Nat) (p : PosName) (m : Nat) : Prop where
  chute : ∃ q, s.chute? k = some q ∧ q.claims = 0 ∧ q.position p = .cart m ∧ ∀ r, r ≠ p → q.position r ≠ .cart m
  cart : ∃ z, s.cart? m = some z ∧ z.isEmpty = true

/-- An empty cart is gone from a position of a chute without claims. -/
structure Vacated (s : State) (k : Nat) (p : PosName) (m : Nat) : Prop where
  chute : ∃ q, s.chute? k = some q ∧ q.claims = 0 ∧ q.position p = .empty ∧ q.active ≠ some p
  cart : s.cart? m = none

theorem Vacated.leavePosition {s : State} {k m : Nat} {p : PosName} (h : Vacated s k p m) (r : PosName) :
    Vacated (s.leavePosition k r) k p m := by
  obtain ⟨⟨q, hq, hq0, hqp, hqa⟩, hz⟩ := h
  obtain ⟨d, hd, hdq⟩ := State.leavePosition_chute hq r
  refine ⟨⟨d, hd, ?_⟩, (TouchesChute.leavePosition hq r).gone m hz⟩
  rcases hdq with rfl | rfl
  · exact ⟨hq0, hqp, hqa⟩
  · refine ⟨(q.emptied_claims r).trans hq0, ?_, Chute.emptied_active p (.inr hqa)⟩
    by_cases hr : p = r
    · rw [hr]
      exact q.emptied_same r
    · exact (q.emptied_other hr).trans hqp

theorem EmptyAt.vacates {s : State} {k m : Nat} {p : PosName} (h : EmptyAt s k p m) : Vacated (s.leavePosition k p) k p m := by
  obtain ⟨⟨q, hq, hq0, hqp, -⟩, z, hz, he⟩ := h
  rcases State.leavePosition_cases hq p with ⟨n, x, hn, hx, -, ht⟩ | ⟨n, x, hn, hx, hf, -⟩ | ⟨hno, -⟩
  · cases hqp.symm.trans hn
    have hq' : (s.retireCart m).chute? k = some q := by
      rw [State.chute?, show (s.retireCart m).chutes = s.chutes from (Keeps.retireCart s m).changes .chutes (by decide)]
      exact hq
    rw [ht]
    refine ⟨⟨_, State.modifyChute_same hq' _, (q.emptied_claims p).trans hq0, q.emptied_same p, Chute.emptied_active p (.inl rfl)⟩, ?_⟩
    rw [State.modifyChute_cart?, State.retireCart, hx]
    exact Table.get?_erase_same ..
  · cases hqp.symm.trans hn
    cases hz.symm.trans hx
    exact absurd (hf.symm.trans he) Bool.false_ne_true
  · exact absurd hz (hno m z hqp)

theorem EmptyAt.leavePosition {s : State} {k m : Nat} {p r : PosName} (h : EmptyAt s k p m) (hr : r ≠ p) :
    EmptyAt (s.leavePosition k r) k p m := by
  obtain ⟨⟨q, hq, hq0, hqp, hqo⟩, z, hz, he⟩ := h
  obtain ⟨d, hd, hdq⟩ := State.leavePosition_chute hq r
  refine ⟨⟨d, hd, ?_⟩, z, ?_, he⟩
  · rcases hdq with rfl | rfl
    · exact ⟨hq0, hqp, hqo⟩
    · refine ⟨(q.emptied_claims r).trans hq0, (q.emptied_other (Ne.symm hr)).trans hqp, fun o ho => ?_⟩
      by_cases hor : o = r
      · rw [hor, q.emptied_same r]
        exact Position.noConfusion
      · rw [q.emptied_other hor]
        exact hqo o ho
  · rcases State.leavePosition_cases hq r with ⟨n, x, hn, hx, -, ht⟩ | ⟨n, x, hn, -, -, ht⟩ | ⟨-, ht⟩
    all_goals rw [ht]
    · exact (State.retireCart_other hx fun hmn : m = n => hqo r hr (hmn ▸ hn)).trans hz
    · exact (State.modifyCart_other s (fun hmn : m = n => hqo r hr (hmn ▸ hn)) _).trans hz
    · exact hz

/-! ## The release (R119, R170) -/

/-- A chute as its slot closes. -/
def Chute.released (c : Chute) : Chute := { c with assigned := none, state := .closed }

theorem State.releaseChute_eq {s : State} {k : Nat} {c : Chute} (hk : s.chute? k = some c) : s.releaseChute k =
    (((s.claimsGone k c).leavePosition k .x).leavePosition k .y).modifyChute k Chute.released := by
  rw [State.releaseChute, hk]
  rfl

theorem State.releaseChute_absent {s : State} {k : Nat} (hk : s.chute? k = none) : s.releaseChute k = s := by
  rw [State.releaseChute, hk]

/-- A chute of a closed slot: unassigned, CLOSED and without claims. -/
def IsReleased (s : State) (k : Nat) : Prop := ∃ q, s.chute? k = some q ∧ q.assigned = none ∧ q.state = .closed ∧ q.claims = 0

section
variable {s : State} {k : Nat} {c : Chute} (hk : s.chute? k = some c)
include hk

/-- What the two positions leave, after the claims are gone. -/
theorem State.positionsLeft : ∃ d e, (s.claimsGone k c).chute? k = some d ∧
    ((s.claimsGone k c).leavePosition k .x).chute? k = some e ∧ e.claims = 0 ∧
    ∃ q, (((s.claimsGone k c).leavePosition k .x).leavePosition k .y).chute? k = some q ∧ q.claims = 0 := by
  obtain ⟨d, hd, hd0, -⟩ := (ClaimsGone.claimsGone hk).chute
  obtain ⟨e, he, hde⟩ := State.leavePosition_chute hd .x
  have he0 : e.claims = 0 := hde.elim (fun h => h ▸ hd0) fun h => h ▸ (d.emptied_claims .x).trans hd0
  obtain ⟨q, hq, heq⟩ := State.leavePosition_chute he .y
  exact ⟨d, e, hd, he, he0, q, hq, heq.elim (fun h => h ▸ he0) fun h => h ▸ (e.emptied_claims .y).trans he0⟩

theorem IsReleased.releaseChute : IsReleased (s.releaseChute k) k := by
  obtain ⟨-, -, -, -, -, q, hq, hq0⟩ := State.positionsLeft hk
  rw [State.releaseChute_eq hk]
  exact ⟨_, State.modifyChute_same hq _, rfl, rfl, hq0⟩

theorem TouchesChute.releaseLive : TouchesChute s (s.releaseChute k) k := by
  obtain ⟨d, e, hd, he, -⟩ := State.positionsLeft hk
  rw [State.releaseChute_eq hk]
  exact (((ClaimsGone.claimsGone hk).touches.trans (.leavePosition hd .x)).trans (.leavePosition he .y)).trans
    (.modifyChute _ k fun c p => .inl (by cases p <;> rfl))

theorem Empties.releaseLive : Empties s (s.releaseChute k) := by
  obtain ⟨d, e, hd, he, -⟩ := State.positionsLeft hk
  rw [State.releaseChute_eq hk]
  exact (((ClaimsGone.claimsGone hk).empties.trans (.leavePosition hd .x)).trans (.leavePosition he .y)).trans
    (.modifyChute _ k (fun _ _ h => h) fun _ _ h => h)

end

theorem TouchesChute.releaseChute (s : State) (k : Nat) : TouchesChute s (s.releaseChute k) k := by
  cases hk : s.chute? k with
  | none =>
    rw [State.releaseChute_absent hk]
    exact .refl s
  | some c => exact .releaseLive hk

theorem Empties.releaseChute (s : State) (k : Nat) : Empties s (s.releaseChute k) := by
  cases hk : s.chute? k with
  | none =>
    rw [State.releaseChute_absent hk]
    exact .refl s
  | some c => exact .releaseLive hk

/-- A cart with unidentified items, once the claims of its chute are gone, ends without a route. -/
theorem Held.releaseChute {s : State} {k m : Nat} {c : Chute} {p : PosName} {z : Cart} (hk : s.chute? k = some c)
    (h : Held (s.claimsGone k c) k p m z) : Held (s.releaseChute k) k p m z.unrouted ∧ Unrouted (s.releaseChute k) m := by
  obtain ⟨x, hx, hheld, hxp⟩ := h.leavePosition .x
  obtain ⟨d, e, hd, he, -⟩ := State.positionsLeft hk
  obtain ⟨y, hy, ⟨⟨q, hq, hq0, hqp⟩, hc, hu⟩, hyp⟩ := hheld.leavePosition .y
  have hlast : y = z.unrouted ∧ Unrouted (((s.claimsGone k c).leavePosition k .x).leavePosition k .y) m := by
    cases p with
    | x =>
      obtain ⟨rfl, hun⟩ := hxp rfl
      exact ⟨hy.elim id id, hun.touched (.leavePosition he .y)⟩
    | y =>
      obtain ⟨rfl, hun⟩ := hyp rfl
      exact ⟨hx.elim (fun h => by rw [h]) fun h => by rw [h]; rfl, hun⟩
  obtain ⟨rfl, hun⟩ := hlast
  rw [State.releaseChute_eq hk]
  exact ⟨⟨⟨_, State.modifyChute_same hq _, hq0, by cases p <;> exact hqp⟩, hc, hu⟩, hun⟩

/-- An empty cart, once the claims of its chute are gone, leaves its position. -/
theorem EmptyAt.releaseChute {s : State} {k m : Nat} {c : Chute} {p : PosName} (hk : s.chute? k = some c)
    (h : EmptyAt (s.claimsGone k c) k p m) : Vacated (s.releaseChute k) k p m := by
  have hlast : Vacated (((s.claimsGone k c).leavePosition k .x).leavePosition k .y) k p m := by
    cases p with
    | x => exact h.vacates.leavePosition .y
    | y => exact (h.leavePosition (r := .x) PosName.noConfusion).vacates
  obtain ⟨⟨q, hq, hq0, hqp, hqa⟩, hz⟩ := hlast
  rw [State.releaseChute_eq hk]
  exact ⟨⟨_, State.modifyChute_same hq _, hq0, by cases p <;> exact hqp, hqa⟩, hz⟩

/-- A position vacated stays so as the chute is released once more. -/
theorem Vacated.releaseChute {s : State} {k m : Nat} {p : PosName} (h : Vacated s k p m) (j : Nat) :
    Vacated (s.releaseChute j) k p m := by
  obtain ⟨q, hq, hq0, hqp, hqa⟩ := h.chute
  have htouch := TouchesChute.releaseChute s j
  by_cases hj : j = k
  · subst hj
    have hsame : s.claimsGone j q = s := if_pos hq0
    obtain ⟨⟨d, hd, hd0, hdp, hda⟩, hz⟩ := (h.leavePosition .x).leavePosition .y
    rw [State.releaseChute_eq hq, hsame]
    exact ⟨⟨_, State.modifyChute_same hd _, hd0, by cases p <;> exact hdp, hda⟩, hz⟩
  · exact ⟨⟨q, (htouch.others k (Ne.symm hj)).trans hq, hq0, hqp, hqa⟩, htouch.gone m h.cart⟩

theorem IsReleased.again {s : State} {k : Nat} (h : IsReleased s k) (j : Nat) : IsReleased (s.releaseChute j) k := by
  obtain ⟨q, hq, hrest⟩ := h
  by_cases hj : j = k
  · subst hj
    exact .releaseChute hq
  · exact ⟨q, ((TouchesChute.releaseChute s j).others k (Ne.symm hj)).trans hq, hrest⟩

/-- No chute but one has a cart. -/
def OnlyAt (s : State) (k m : Nat) : Prop := ∀ j o, j ≠ k → s.chute? j = some o → ∀ p, o.position p ≠ .cart m

theorem OnlyAt.touched {s t : State} {i k m : Nat} (h : OnlyAt s k m) (g : TouchesChute s t i) : OnlyAt t k m := by
  intro j o hj ho p hp
  by_cases hi : j = i
  · subst hi
    cases hs : s.chute? j with
    | none => cases (g.absent hs).symm.trans ho
    | some c =>
      obtain ⟨d, hd, hdc⟩ := g.places c hs
      cases hd.symm.trans ho
      exact (hdc p).elim (fun h' => h j c hj hs p (h'.symm.trans hp)) fun h' => Position.noConfusion (h'.symm.trans hp)
  · exact h j o hj ((g.others j hi).symm.trans ho) p hp

/-- The release of another chute leaves a cart that stands only at one. -/
theorem OnlyAt.cart? {s : State} {j k m : Nat} (h : OnlyAt s k m) (hj : j ≠ k) : (s.releaseChute j).cart? m = s.cart? m :=
  (TouchesChute.releaseChute s j).carts m fun c p hc => h j c hj hc p

/-- A cart with unidentified items stays without a route as any chute is released. -/
structure Settled (s : State) (k : Nat) (p : PosName) (m : Nat) (z : Cart) : Prop where
  held : Held s k p m z.unrouted
  unrouted : Unrouted s m
  only : OnlyAt s k m

theorem Settled.releaseChute {s : State} {k m : Nat} {p : PosName} {z : Cart} (h : Settled s k p m z) (j : Nat) :
    Settled (s.releaseChute j) k p m z := by
  have htouch := TouchesChute.releaseChute s j
  refine ⟨?_, h.unrouted.touched htouch, h.only.touched htouch⟩
  obtain ⟨q, hq, hq0, hqp⟩ := h.held.chute
  by_cases hj : j = k
  · subst hj
    have hsame : s.claimsGone j q = s := if_pos hq0
    exact (Held.releaseChute (z := z.unrouted) hq (by rw [hsame]; exact h.held)).1
  · exact ⟨⟨q, (htouch.others k (Ne.symm hj)).trans hq, hq0, hqp⟩, (h.only.cart? hj).trans h.held.cart, h.held.items⟩

/-! ## The chutes of a slot, released in turn -/

/-- What each release keeps, once a chute of the list has brought it about. -/
theorem State.releaseChutes_reach {before after : State → Prop} {k : Nat} (hstart : ∀ u, before u → after (u.releaseChute k))
    (hbefore : ∀ u j, j ≠ k → before u → before (u.releaseChute j)) (hafter : ∀ u j, after u → after (u.releaseChute j)) :
    ∀ (l : List Nat) (s : State), k ∈ l → before s → after (s.releaseChutes l) := by
  have hstay : ∀ (l : List Nat) (s : State), after s → after (s.releaseChutes l) := fun l => by
    induction l with
    | nil => exact fun _ h => h
    | cons j r ih => exact fun s h => ih _ (hafter s j h)
  intro l
  induction l with
  | nil => exact fun _ h => absurd h List.not_mem_nil
  | cons j r ih =>
    intro s hmem hs
    by_cases hj : j = k
    · rw [hj]
      exact hstay r _ (hstart s hs)
    · exact ih _ ((List.mem_cons.1 hmem).resolve_left (Ne.symm hj)) (hbefore s j hj hs)

theorem State.releaseChutes_keep {kept : State → Prop} (h : ∀ u j, kept u → kept (u.releaseChute j)) (l : List Nat) :
    ∀ s : State, kept s → kept (s.releaseChutes l) := by
  induction l with
  | nil => exact fun _ hs => hs
  | cons j r ih => exact fun s hs => ih _ (h s j hs)

theorem Empties.releaseChutes (l : List Nat) (s : State) : Empties s (s.releaseChutes l) := by
  induction l generalizing s with
  | nil => exact .refl s
  | cons k r ih => exact (Empties.releaseChute s k).trans (ih _)

theorem State.releaseChutes_sources (l : List Nat) (s : State) :
    (s.releaseChutes l).notices.sources.length = s.notices.sources.length :=
  State.releaseChutes_keep (kept := fun u => u.notices.sources.length = s.notices.sources.length)
    (fun u j hu => (TouchesChute.releaseChute u j).sources.trans hu) l s rfl

end Sys2Proof.Machine
end

section
/-! The completion of a close walk (R9, R17, R119, R167, R169, R170). -/

namespace Sys2Proof.Machine

/-! ## Carts that retire in turn -/

theorem State.retireCart_self (s : State) (n : Nat) : (s.retireCart n).cart? n = none := by
  cases hx : s.cart? n with
  | none =>
    rw [State.retireCart, hx]
    exact hx
  | some x =>
    rw [State.retireCart, hx]
    exact Table.get?_erase_same ..

theorem State.retireCart_apart (s : State) {n m : Nat} (h : m ≠ n) : (s.retireCart n).cart? m = s.cart? m := by
  cases hx : s.cart? n with
  | none => rw [State.retireCart, hx]
  | some x => exact State.retireCart_other hx h

theorem State.retireCarts_cart? (l : List Nat) (s : State) (m : Nat) :
    (s.retireCarts l).cart? m = if m ∈ l then none else s.cart? m := by
  induction l generalizing s with
  | nil => rfl
  | cons n r ih =>
    rw [State.retireCarts, ih]
    by_cases hr : m ∈ r
    · rw [if_pos hr, if_pos (List.mem_cons_of_mem _ hr)]
    · rw [if_neg hr]
      by_cases hm : m = n
      · rw [hm, if_pos List.mem_cons_self]
        exact s.retireCart_self n
      · rw [if_neg fun h => (List.mem_cons.1 h).elim hm hr]
        exact s.retireCart_apart hm

theorem Empties.retireCarts (l : List Nat) (s : State) : Empties s (s.retireCarts l) := by
  induction l generalizing s with
  | nil => exact .refl s
  | cons n r ih => exact (Empties.retireCart s n).trans (ih _)

/-! ## Routes that become UNSET -/

theorem State.unsetRoutes_route? (l : List RouteKey) (s : State) (j : RouteKey) : (s.unsetRoutes l).route? j =
    if ∃ k ∈ l, k.subject = j.subject then (s.route? j).map (fun _ => Route.reset) else s.route? j := by
  induction l generalizing s with
  | nil => simp [State.unsetRoutes]
  | cons k r ih =>
    rw [State.unsetRoutes, ih, State.modifyRoute_route?]
    by_cases hk : j.subject = k.subject
    · rw [if_pos hk, if_pos (⟨k, List.mem_cons_self, hk.symm⟩ : ∃ i ∈ k :: r, i.subject = j.subject), Option.map_map]
      exact ite_self _
    · have hiff : (∃ i ∈ k :: r, i.subject = j.subject) ↔ ∃ i ∈ r, i.subject = j.subject := by
        rw [List.exists_mem_cons_iff]
        exact or_iff_right (Ne.symm hk)
      rw [if_neg hk]
      simp only [hiff]

theorem slotRoutes_subject {b : SlotId} {k : Nat} (h : k < 12) : ∃ i ∈ slotRoutes b, i.subject = (⟨b, k⟩ : RouteKey).subject :=
  ⟨⟨b, k⟩, List.mem_map_of_mem (List.mem_range.2 h), rfl⟩

theorem slotRoutes_other {b : SlotId} {k : Nat} (h : k < 12) :
    ¬∃ i ∈ slotRoutes b, i.subject = (⟨b.other, k⟩ : RouteKey).subject := by
  rintro ⟨i, hi, he⟩
  obtain ⟨j, hj, rfl⟩ := List.mem_map.1 hi
  have hj := List.mem_range.1 hj
  cases b <;> simp only [RouteKey.subject, SlotId.other, SlotId.toNat] at he <;> omega

/-! ## Notices that go -/

theorem State.mem_dropSubjects {s : State} {v w : Source} {p : Nat → Bool} {m : Nat} (h : m ∈ (s.dropSubjects v p).subjects w) :
    m ∈ s.subjects w ∧ (w = v → p m = false) := by
  unfold State.subjects at h ⊢
  change m ∈ match (s.notices.sources.modify v.number fun n => { n with subjects := n.subjects.filter (fun n => !p n) })[w.number]? with
    | some n => n.subjects
    | none => [] at h
  rw [List.getElem?_modify] at h
  cases hs : s.notices.sources[w.number]? with
  | none =>
    rw [hs] at h
    cases h
  | some x =>
    rw [hs] at h
    change m ∈ (if v.number = w.number then { x with subjects := x.subjects.filter (fun n => !p n) } else x : Notice).subjects at h
    split at h
    · obtain ⟨hm, hp⟩ := List.mem_filter.1 h
      exact ⟨hm, fun _ => by simpa using hp⟩
    · next hw => exact ⟨h, fun he => absurd (congrArg Source.number he.symm) hw⟩

theorem State.dropSubjects_sources (s : State) (v : Source) (p : Nat → Bool) :
    (s.dropSubjects v p).notices.sources.length = s.notices.sources.length := List.length_modify ..

/-! ## The cabin that the last visit retires (R17, R167, R169, R171) -/

theorem Store.Boardings.any {t u : Store} (h : Store.Boardings t u) {p : Cabin → Bool} (hp : ∀ c, p c.unboarded = p c) :
    u.cabins.any (fun e => p e.2) = t.cabins.any (fun e => p e.2) := by
  have hmap : ∀ l : Table Cabin, l.any (fun e => p e.2) = (l.mapValues Cabin.unboarded).any (fun e => p e.2) := fun l => by
    rw [Table.mapValues, List.any_map]
    exact congrArg (fun q => List.any l q) (funext fun e => (hp e.2).symm)
  rw [hmap u.cabins, hmap t.cabins, h]

/-- A cabin stays but for its aboard count, and that too where nothing changes. -/
theorem Store.Boardings.stays {t u : Store} (h : Store.Boardings t u) {q : Prop} (hq : q → u.cabins = t.cabins) (j : Nat) :
    (t.cabins.get? j = none → u.cabins.get? j = none) ∧
    ∀ y, t.cabins.get? j = some y → ∃ a, u.cabins.get? j = some { y with aboard := a } ∧ (q → a = y.aboard) := by
  refine ⟨fun hn => ?_, fun y hy => ?_⟩
  · have hj := h.get? j
    rw [hn] at hj
    exact Option.map_eq_none_iff.1 hj
  · obtain ⟨a, ha⟩ := h.cabin hy
    refine ⟨a, ha, fun hh => ?_⟩
    rw [hq hh, hy] at ha
    exact (congrArg Cabin.aboard (Option.some.inj ha)).symm

theorem ListedInHall.walkCabin {s : State} (h : ListedInHall s) (w : WalkKind) (place : Nat) :
    ListedInHall (s.walkCabin w place) := by
  have hk := (Keeps.walkCabin s w place).changes
  have hstore := (s.walkCabin_frame w place).1
  refine h.imp (fun g x hx ha => ⟨x, ?_, ha⟩) (fun k c hc => ⟨c, ?_, fun _ h => h, fun _ h => h⟩) fun n x hx => ⟨x, ?_, fun _ h => h⟩
  · rw [State.bag?, hstore] at hx
    exact hx
  · rw [State.chute?, ← show (s.walkCabin w place).chutes = s.chutes from hk .chutes (by decide)]
    exact hc
  · rw [State.cart?, ← show (s.walkCabin w place).carts = s.carts from hk .carts (by decide)]
    exact hx

/-- A walk's last visit and its completion, for the cabins: what the visit leaves, but for aboard counts. -/
theorem CabinVisited.of_walkCabin {s t : State} {kind : WalkKind} {n : Nat} {takes : SlotId → Prop} (hn : 16384 ≤ n)
    (htakes : ∀ v, takes v ↔ walkClears kind (some v) = true)
    (hcab : Store.Boardings (s.walkCabin kind (n - 16384)).store t.store)
    (hsame : ListedInHall s → t.store.cabins = (s.walkCabin kind (n - 16384)).store.cabins)
    (hmode : t.sweep.mode = (s.walkCabin kind (n - 16384)).sweep.mode) : CabinVisited s t n takes := by
  refine ⟨fun key c hc hin => ?_, fun hout => ?_⟩
  · have hclears : walkClears kind (some (slotOfCabinCode key)) = true := (htakes _).1 hin
    have hw : s.walkCabin kind (n - 16384) = (s.eraseCabin key c.forward).setMode := by
      rw [State.walkCabin_found hn hc, if_pos hclears]
    have hget : ∀ j, (s.walkCabin kind (n - 16384)).store.cabins.get? j = (s.eraseCabin key c.forward).store.cabins.get? j :=
      fun j => by rw [hw]; rfl
    refine ⟨?_, ?_, fun j hj => ?_⟩
    · unfold ModeLaw
      rw [hcab.any fun _ => rfl, hmode, hw]
      exact ModeLaw.setMode _
    · exact (hcab.stays hsame key).1 ((hget key).trans ((s.eraseCabin_get? key c.forward key).trans (if_pos rfl)))
    · have hstays := hcab.stays hsame j
      rw [hget j, s.eraseCabin_get? key c.forward j, if_neg hj] at hstays
      exact hstays
  · have hw : s.walkCabin kind (n - 16384) = s := by
      cases hc : s.store.cabins.find? (fun e => e.2.place + 16384 == n) with
      | none => exact State.walkCabin_none kind hn hc
      | some e =>
        obtain ⟨key, c⟩ := e
        have hclears : ¬walkClears kind (some (slotOfCabinCode key)) = true := mt (htakes _).2 (hout key c hc)
        rw [State.walkCabin_found hn hc, if_neg hclears]
    rw [hw] at hcab hsame hmode
    exact ⟨hmode, fun j => hcab.stays hsame j⟩

/-! ## What the completion of a close walk leaves -/

/-- The chutes of a slot released, and its queued carts gone. -/
def State.cartsLeft (s : State) (b : SlotId) : State :=
  (s.releaseChutes (s.slotChutes b)).retireCarts ((s.releaseChutes (s.slotChutes b)).slotQueued b)

/-- Its routes UNSET. -/
def State.routesLeft (s : State) (b : SlotId) : State := (s.cartsLeft b).unsetRoutes (slotRoutes b)

/-- The doors of a slot that closes. -/
def State.doorsLeft (s : State) (b : SlotId) : State :=
  s.setDoors (s.doors.mapValues (fun x => if x.berth = b then { x with lastServed := none } else x))

/-- The record of a slot that closes, its walk's end and the notice. -/
def State.shut (s : State) (b : SlotId) : State := ((s.putSlot b Sailing.reset).setWalk none).raise .walkDone b.toNat

/-- The doors, notices, record and walk of a slot that closes. -/
def State.closeSlot (s : State) (b : SlotId) : State := ((s.doorsLeft b).dropSlotNotices b).shut b

theorem State.completeClose_eq (s : State) (b : SlotId) : s.completeClose b = (s.routesLeft b).closeSlot b := rfl

theorem State.shut_fields (s : State) (b : SlotId) : (s.shut b).carts = s.carts ∧ (s.shut b).chutes = s.chutes ∧
    (s.shut b).routes = s.routes ∧ (s.shut b).store = s.store.putSlot b Sailing.reset ∧
    (s.shut b).sweep = { s.sweep with walk := none } ∧ (s.shut b).doors = s.doors := ⟨rfl, rfl, rfl, rfl, rfl, rfl⟩

theorem State.closeSlot_fields (s : State) (b : SlotId) : (s.closeSlot b).carts = s.carts ∧ (s.closeSlot b).chutes = s.chutes ∧
    (s.closeSlot b).routes = s.routes ∧ (s.closeSlot b).store = s.store.putSlot b Sailing.reset ∧
    (s.closeSlot b).sweep = { s.sweep with walk := none } ∧
    (s.closeSlot b).doors = s.doors.mapValues (fun x => if x.berth = b then { x with lastServed := none } else x) := by
  obtain ⟨h1, h2, h3, h4, h5, h6⟩ := ((s.doorsLeft b).dropSlotNotices b).shut_fields b
  have hdrop := (Keeps.dropSlotNotices (s.doorsLeft b) b).changes
  have hstore : ((s.doorsLeft b).dropSlotNotices b).store = s.store := hdrop .store (by decide)
  have hsweep : ((s.doorsLeft b).dropSlotNotices b).sweep = s.sweep := hdrop .sweep (by decide)
  exact ⟨h1.trans (hdrop .carts (by decide)), h2.trans (hdrop .chutes (by decide)), h3.trans (hdrop .routes (by decide)),
    h4.trans (by rw [hstore]), h5.trans (by rw [hsweep]), h6.trans (hdrop .doors (by decide))⟩

theorem State.closeSlot_told {s : State} (h15 : s.notices.sources.length = 15) (b : SlotId) :
    b.toNat ∈ (s.closeSlot b).subjects .walkDone := by
  have hdrop : ((s.doorsLeft b).dropSlotNotices b).notices.sources.length = 15 := by
    unfold State.dropSlotNotices
    rw [State.dropSubjects_sources, State.dropSubjects_sources, State.dropSubjects_sources, State.dropSubjects_sources]
    exact h15
  exact (State.mem_subjects_raise (s := (((s.doorsLeft b).dropSlotNotices b).putSlot b Sailing.reset).setWalk none) hdrop ..).2
    (.inl rfl)

theorem State.closeSlot_dropped {s : State} {b : SlotId} {w : Source} (hw : w ≠ .walkDone) {m : Nat}
    (hm : m ∈ (s.closeSlot b).subjects w) :
    (w = .offload ∨ w = .pullDone → m ≠ b.toNat) ∧ (w = .cartDone ∨ w = .routeIdle → m / 12 ≠ b.toNat) := by
  have hm4 : m ∈ ((s.doorsLeft b).dropSlotNotices b).subjects w := by
    unfold State.closeSlot State.shut at hm
    rw [State.subjects_raise_other _ hw] at hm
    exact hm
  obtain ⟨hm3, hpull⟩ := State.mem_dropSubjects hm4
  obtain ⟨hm2, hoff⟩ := State.mem_dropSubjects hm3
  obtain ⟨hm1, hidle⟩ := State.mem_dropSubjects hm2
  obtain ⟨-, hdone⟩ := State.mem_dropSubjects hm1
  refine ⟨fun h => ?_, fun h => ?_⟩
  · rcases h with h | h
    · exact beq_eq_false_iff_ne.1 (hoff h)
    · exact beq_eq_false_iff_ne.1 (hpull h)
  · rcases h with h | h
    · exact of_decide_eq_false (hdone h)
    · exact of_decide_eq_false (hidle h)

section
variable (s : State) (b : SlotId)

theorem Changes.cartsLeft : Changes [.store, .carts, .chutes, .loop, .notices] s (s.cartsLeft b) :=
  ((Keeps.releaseChutes _ s).comp (n := [.store, .carts, .chutes, .loop, .notices]) (Keeps.retireCarts _ _) (by decide)
    (by decide)).changes

theorem Empties.cartsLeft : Empties s (s.cartsLeft b) := (Empties.releaseChutes _ s).trans (.retireCarts ..)

theorem Changes.routesLeft : Changes [.routes] (s.cartsLeft b) (s.routesLeft b) := (Keeps.unsetRoutes ..).changes

theorem State.completeClose_carts : (s.completeClose b).carts = (s.cartsLeft b).carts := by
  rw [s.completeClose_eq, ((s.routesLeft b).closeSlot_fields b).1]
  exact Changes.routesLeft s b .carts (by decide)

theorem State.completeClose_chutes : (s.completeClose b).chutes = (s.releaseChutes (s.slotChutes b)).chutes := by
  obtain ⟨-, h, -⟩ := (s.routesLeft b).closeSlot_fields b
  rw [s.completeClose_eq, h]
  exact (Changes.routesLeft s b .chutes (by decide)).trans ((Keeps.retireCarts _ _).changes .chutes (by decide))

theorem State.completeClose_store : (s.completeClose b).store = (s.cartsLeft b).store.putSlot b Sailing.reset := by
  obtain ⟨-, -, -, h, -⟩ := (s.routesLeft b).closeSlot_fields b
  rw [s.completeClose_eq, h, show (s.routesLeft b).store = _ from Changes.routesLeft s b .store (by decide)]

theorem State.completeClose_sweep : (s.completeClose b).sweep = { s.sweep with walk := none } := by
  obtain ⟨-, -, -, -, h, -⟩ := (s.routesLeft b).closeSlot_fields b
  have hsweep : (s.routesLeft b).sweep = s.sweep :=
    (Changes.routesLeft s b .sweep (by decide)).trans (Changes.cartsLeft s b .sweep (by decide))
  rw [s.completeClose_eq, h, hsweep]

theorem State.completeClose_door? (d : Nat) : (s.completeClose b).door? d =
    (s.door? d).map (fun x => if x.berth = b then { x with lastServed := none } else x) := by
  obtain ⟨-, -, -, -, -, h⟩ := (s.routesLeft b).closeSlot_fields b
  have hdoors : (s.routesLeft b).doors = s.doors :=
    (Changes.routesLeft s b .doors (by decide)).trans (Changes.cartsLeft s b .doors (by decide))
  rw [s.completeClose_eq, State.door?, h, hdoors]
  exact Table.get?_mapValues ..

theorem State.completeClose_route? (j : RouteKey) : (s.completeClose b).route? j =
    if ∃ k ∈ slotRoutes b, k.subject = j.subject then (s.route? j).map (fun _ => Route.reset) else s.route? j := by
  obtain ⟨-, -, h, -⟩ := (s.routesLeft b).closeSlot_fields b
  have hroutes : (s.cartsLeft b).routes = s.routes := Changes.cartsLeft s b .routes (by decide)
  have hj : (s.cartsLeft b).route? j = s.route? j := by rw [State.route?, hroutes]; rfl
  rw [s.completeClose_eq, State.route?, h, ← hj]
  exact State.unsetRoutes_route? (slotRoutes b) (s.cartsLeft b) j

theorem State.routesLeft_sources : (s.routesLeft b).notices.sources.length = s.notices.sources.length := by
  have hunset : (s.routesLeft b).notices = (s.releaseChutes (s.slotChutes b)).notices :=
    (Changes.routesLeft s b .notices (by decide)).trans ((Keeps.retireCarts _ _).changes .notices (by decide))
  rw [hunset]
  exact State.releaseChutes_sources ..

theorem CabinVisited.completeClose {n : Nat} (hn : 16384 ≤ n) :
    CabinVisited s ((s.walkCabin (.close b) (n - 16384)).completeClose b) n (· = b) := by
  set w := s.walkCabin (.close b) (n - 16384) with hw
  have hempties := Empties.cartsLeft w b
  have hcabins : (w.completeClose b).store.cabins = (w.cartsLeft b).store.cabins := by
    rw [State.completeClose_store]
    cases b <;> rfl
  refine .of_walkCabin hn (fun v => ?_) (hempties.cabins.trans (.same hcabins))
    (fun hl => hcabins.trans (hempties.listed (hl.walkCabin ..)).2) (by rw [State.completeClose_sweep])
  rw [walkClears_iff]
  constructor
  · rintro rfl
    exact .inr ⟨v, rfl, rfl⟩
  · rintro (h | ⟨c, h, hc⟩)
    · cases h
    · cases h
      cases hc
      rfl

end

end Sys2Proof.Machine
end

section
/-! The carts and chutes of a slot as its close walk completes (R9, R119, R170). -/

namespace Sys2Proof.Machine

section
variable {s : State} {b : SlotId}

/-- The state in which the chutes of a slot are released. -/
def State.chutesLeft (s : State) (b : SlotId) : State := s.releaseChutes (s.slotChutes b)

theorem Changes.chutesLeft (s : State) (b : SlotId) : Changes [.store, .carts, .chutes, .loop, .notices] s (s.chutesLeft b) :=
  (Keeps.releaseChutes _ s).changes

theorem State.mem_slotChutes {k : Nat} {c : Chute} {v : RouteKey} (hk : s.chute? k = some c) (hv : c.assigned = some v)
    (hb : v.slot = b) : k ∈ s.slotChutes b := by
  refine List.mem_map.2 ⟨(k, c), List.mem_filter.2 ⟨Table.mem_of_get? hk, ?_⟩, rfl⟩
  rw [hv]
  exact beq_iff_eq.2 hb

theorem State.mem_slotQueued_of_route {k m : Nat} {r : Route} (hk : k < 12) (hr : s.route? ⟨b, k⟩ = some r) (hm : m ∈ r.queue) :
    m ∈ s.slotQueued b := by
  refine List.mem_append.2 (.inl (List.mem_flatMap.2 ⟨⟨b, k⟩, List.mem_map_of_mem (List.mem_range.2 hk), ?_⟩))
  rw [hr]
  exact hm

theorem State.mem_slotQueued_of_cart {m : Nat} {y : Cart} {v : RouteKey} (hy : s.cart? m = some y) (hq : y.state = .queued)
    (hv : y.route = some v) (hb : v.slot = b) : m ∈ s.slotQueued b := by
  refine List.mem_append.2 (.inr (List.mem_map.2 ⟨(m, y), List.mem_filter.2 ⟨Table.mem_of_get? hy, ?_⟩, rfl⟩))
  rw [Bool.and_eq_true, beq_iff_eq]
  refine ⟨hq, ?_⟩
  rw [hv]
  exact beq_iff_eq.2 hb

/-- A cart in no queue, without a route, is none that a slot's end retires. -/
theorem State.not_mem_slotQueued {m : Nat} (hq : ∀ r ∈ s.routes, m ∉ r.queue) (hu : Unrouted s m) : m ∉ s.slotQueued b := by
  intro hm
  rcases List.mem_append.1 hm with h | h
  · obtain ⟨k, -, hk⟩ := List.mem_flatMap.1 h
    cases hr : s.route? k with
    | none =>
      rw [hr] at hk
      cases hk
    | some r =>
      rw [hr] at hk
      exact hq r (List.mem_of_getElem? hr) hk
  · obtain ⟨e, he, hem⟩ := List.mem_map.1 h
    obtain ⟨hmem, hp⟩ := List.mem_filter.1 he
    rw [hu e hmem hem, Bool.and_eq_true] at hp
    exact Bool.false_ne_true hp.2

theorem State.cartsLeft_cart? (m : Nat) : (s.cartsLeft b).cart? m =
    if m ∈ (s.chutesLeft b).slotQueued b then none else (s.chutesLeft b).cart? m := State.retireCarts_cart? ..

theorem State.completeClose_cart? (m : Nat) : (s.completeClose b).cart? m = (s.cartsLeft b).cart? m := by
  rw [State.cart?, State.completeClose_carts]
  rfl

theorem State.completeClose_chute? (k : Nat) : (s.completeClose b).chute? k = (s.chutesLeft b).chute? k := by
  rw [State.chute?, State.completeClose_chutes]
  rfl

theorem State.completeClose_retired {m : Nat} (h : m ∈ (s.chutesLeft b).slotQueued b) : (s.completeClose b).cart? m = none := by
  rw [State.completeClose_cart?, State.cartsLeft_cart?, if_pos h]

theorem State.completeClose_gone {m : Nat} (h : (s.chutesLeft b).cart? m = none) : (s.completeClose b).cart? m = none := by
  rw [State.completeClose_cart?, State.cartsLeft_cart?, h]
  exact ite_self _

/-- A cart that the queues of a slot hold. -/
theorem State.completeClose_queue {k m : Nat} {r : Route} (hk : k < 12) (hr : s.route? ⟨b, k⟩ = some r) (hm : m ∈ r.queue) :
    (s.completeClose b).cart? m = none := by
  refine State.completeClose_retired (State.mem_slotQueued_of_route hk ?_ hm)
  rw [State.route?, show (s.chutesLeft b).routes = s.routes from Changes.chutesLeft s b .routes (by decide)]
  exact hr

/-- No chute has a cart. -/
def AtNoChute (s : State) (m : Nat) : Prop := ∀ k c, s.chute? k = some c → ∀ p, c.position p ≠ .cart m

theorem AtNoChute.releaseChute {m : Nat} (h : AtNoChute s m) (j : Nat) :
    AtNoChute (s.releaseChute j) m ∧ (s.releaseChute j).cart? m = s.cart? m := by
  have htouch := TouchesChute.releaseChute s j
  refine ⟨fun k c hc p hp => ?_, htouch.carts m fun c p hc => h j c hc p⟩
  by_cases hj : k = j
  · subst hj
    cases hs : s.chute? k with
    | none => cases (htouch.absent hs).symm.trans hc
    | some d =>
      obtain ⟨e, he, hed⟩ := htouch.places d hs
      cases he.symm.trans hc
      exact (hed p).elim (fun h' => h k d hs p (h'.symm.trans hp)) fun h' => Position.noConfusion (h'.symm.trans hp)
  · exact h k c ((htouch.others k hj).symm.trans hc) p hp

/-- A queued cart of the slot that stands at no chute. -/
theorem State.completeClose_queued {m : Nat} {y : Cart} {v : RouteKey} (hy : s.cart? m = some y) (hq : y.state = .queued)
    (hv : y.route = some v) (hb : v.slot = b) (hno : AtNoChute s m) : (s.completeClose b).cart? m = none := by
  refine State.completeClose_retired (State.mem_slotQueued_of_cart ?_ hq hv hb)
  exact (State.releaseChutes_keep (kept := fun u => AtNoChute u m ∧ u.cart? m = some y)
    (fun u j hu => ⟨(hu.1.releaseChute j).1, (hu.1.releaseChute j).2.trans hu.2⟩) (s.slotChutes b) s ⟨hno, hy⟩).2

section
variable {k : Nat} {c : Chute} {v : RouteKey} (hk : s.chute? k = some c) (hv : c.assigned = some v) (hb : v.slot = b)
include hk hv hb

theorem State.completeClose_released : IsReleased (s.completeClose b) k := by
  have hreleased : IsReleased (s.chutesLeft b) k := State.releaseChutes_reach (before := fun u => u.chute? k = some c)
    (after := fun u => IsReleased u k) (fun u hu => .releaseChute hu)
    (fun u j hj hu => ((TouchesChute.releaseChute u j).others k (Ne.symm hj)).trans hu) (fun u j hu => hu.again j)
    (s.slotChutes b) s (State.mem_slotChutes hk hv hb) hk
  unfold IsReleased at hreleased ⊢
  rw [State.completeClose_chute?]
  exact hreleased

/-- What the release of a cart's own chute brings about, and further releases keep. -/
theorem State.chutesLeft_reach {m : Nat} {y : Cart} {after : State → Prop} (hy : s.cart? m = some y) (ho : OnlyAt s k m)
    (hstart : ∀ u, u.chute? k = some c → u.cart? m = some y → OnlyAt u k m → after (u.releaseChute k))
    (hafter : ∀ u j, after u → after (u.releaseChute j)) : after (s.chutesLeft b) :=
  State.releaseChutes_reach (before := fun u => u.chute? k = some c ∧ u.cart? m = some y ∧ OnlyAt u k m)
    (fun u ⟨h1, h2, h3⟩ => hstart u h1 h2 h3)
    (fun u j hj ⟨h1, h2, h3⟩ => ⟨((TouchesChute.releaseChute u j).others k (Ne.symm hj)).trans h1, (h3.cart? hj).trans h2,
      h3.touched (TouchesChute.releaseChute u j)⟩) hafter (s.slotChutes b) s (State.mem_slotChutes hk hv hb) ⟨hk, hy, ho⟩

variable {m : Nat} {y : Cart} {p : PosName} (hp : c.position p = .cart m) (hy : s.cart? m = some y) (ho : OnlyAt s k m)
include hp hy ho

/-- An empty cart at one position of a chute of the slot. -/
theorem Vacated.completeClose (hother : c.position p.other ≠ .cart m) (he : y.isEmpty = true) : Vacated (s.completeClose b) k p m := by
  have hleft : Vacated (s.chutesLeft b) k p m := State.chutesLeft_reach (after := fun u => Vacated u k p m) hk hv hb hy ho (fun u hu hyu _ => by
    have hgone := ClaimsGone.claimsGone hu
    obtain ⟨d, hd, hd0, hdp⟩ := hgone.chute
    obtain ⟨w, hw, -⟩ := hgone.states m y hyu
    refine EmptyAt.releaseChute hu ⟨⟨d, hd, hd0, (hdp p).trans hp, fun r hr => ?_⟩, _, hw, he⟩
    rw [hdp r, PosName.eq_other hr]
    exact hother) fun u j hu => hu.releaseChute j
  obtain ⟨hchute, hcart⟩ := hleft
  refine ⟨?_, State.completeClose_gone hcart⟩
  rw [State.completeClose_chute?]
  exact hchute

/-- A cart with unidentified items at a chute of the slot, that no queue holds, by what it is once the claims are gone. -/
theorem Settled.completeClose {is : Cart → Prop} (hq : ∀ r ∈ s.routes, m ∉ r.queue)
    (hz : ∀ u : State, u.chute? k = some c → u.cart? m = some y →
      ∃ z, is z ∧ z.unidentified ≠ 0 ∧ (u.claimsGone k c).cart? m = some z) :
    ∃ z, is z ∧ (s.completeClose b).cart? m = some z.unrouted ∧
      ∃ q, (s.completeClose b).chute? k = some q ∧ q.position p = .cart m := by
  have hleft : ∃ z, is z ∧ Settled (s.chutesLeft b) k p m z :=
    State.chutesLeft_reach (after := fun u => ∃ z, is z ∧ Settled u k p m z) hk hv hb hy ho (fun u hku hyu hou => by
      obtain ⟨d, hd, hd0, hdp⟩ := (ClaimsGone.claimsGone hku).chute
      obtain ⟨z, hisz, hu, hzc⟩ := hz u hku hyu
      obtain ⟨hheld, hun⟩ := Held.releaseChute hku ⟨⟨d, hd, hd0, (hdp p).trans hp⟩, hzc, hu⟩
      exact ⟨z, hisz, hheld, hun, hou.touched (TouchesChute.releaseChute u k)⟩) fun u j ⟨z, hisz, hset⟩ =>
        ⟨z, hisz, hset.releaseChute j⟩
  obtain ⟨z, hisz, ⟨⟨q, hq', -, hqp⟩, hcart, -⟩, hun, -⟩ := hleft
  have hroutes : (s.chutesLeft b).routes = s.routes := Changes.chutesLeft s b .routes (by decide)
  refine ⟨z, hisz, ?_, q, (State.completeClose_chute? k).trans hq', hqp⟩
  rw [State.completeClose_cart?, State.cartsLeft_cart?, if_neg (State.not_mem_slotQueued (by rw [hroutes]; exact hq) hun)]
  exact hcart

end

end

/-! ## The claim -/

theorem State.walkStep_last {s : State} {w : Walk} (hn : 22527 ≤ w.next) :
    s.walkStep w = (s.walkCabin w.kind (w.next - 16384)).completeWalk w.kind := by
  have hlast : ¬w.next + 1 < walkRecords := Nat.not_lt.2 (Nat.succ_le_succ hn)
  rw [State.walkStep, State.walkRecord_cabin w.kind (by omega)]
  exact if_neg hlast

theorem closeWalkCompletes : Claim.CloseWalkCompletes := by
  intro b n i s hw hn hi
  set w := s.walkCabin (.close b) (n - 16384) with hwdef
  have hk := (Keeps.walkCabin s (.close b) (n - 16384)).changes
  have hchute : ∀ k, w.chute? k = s.chute? k := fun k => by
    rw [State.chute?, show w.chutes = s.chutes from hk .chutes (by decide)]; rfl
  have hcart : ∀ m, w.cart? m = s.cart? m := fun m => by
    rw [State.cart?, show w.carts = s.carts from hk .carts (by decide)]; rfl
  have hroutes : w.routes = s.routes := hk .routes (by decide)
  have hroute : ∀ j, w.route? j = s.route? j := fun j => by rw [State.route?, hroutes]; rfl
  have hdoor : ∀ d, w.door? d = s.door? d := fun d => by
    rw [State.door?, show w.doors = s.doors from hk .doors (by decide)]; rfl
  have hnotices : w.notices = s.notices := hk .notices (by decide)
  have honly : ∀ k m, (∀ j o, j ≠ k → s.chute? j = some o → o.posX ≠ .cart m ∧ o.posY ≠ .cart m) → OnlyAt w k m :=
    fun k m h j o hj ho p => by
      obtain ⟨hx, hy⟩ := h j o hj ((hchute j).symm.trans ho)
      cases p
      · exact hx
      · exact hy
  refine ⟨w.completeClose b, (exec_closeLast hw hn hi).trans (congrArg _ (State.walkStep_last hn)), ?_, ?_,
    .completeClose s b (by omega), ?_, ?_, fun h15 => ?_, fun k hk12 h24 => ?_, fun k hk12 => ?_, fun k c v hc hv hb => ?_,
    fun d x hx => ?_, fun k r m hk12 hr hm => ?_, fun m y v hy hq hv hb hno => ?_, fun k c v m y hc hv hb h0 ha hst hu ho hq => ?_,
    fun k c v p m y hc hv hb hp hy hother ho => ⟨fun he hu => ?_, fun hu _ hq => ?_⟩, fun m hm => ?_, fun m hm => ?_⟩
  · exact hk.comp (Keeps.completeClose w b).changes (by decide) (by decide)
  · rw [State.completeClose_store, Store.slot_putSlot, if_pos rfl]
    rfl
  · rw [State.completeClose_sweep]
  · rw [State.completeClose_sweep, hwdef, (s.walkCabin_frame _ _).2]
  · have hleft : (w.routesLeft b).notices.sources.length = 15 := by
      rw [State.routesLeft_sources, hnotices, h15]
    exact State.closeSlot_told hleft b
  · have hlt : (⟨b, k⟩ : RouteKey).subject < s.routes.length := by
      rw [h24]
      cases b <;> simp only [RouteKey.subject, SlotId.toNat] <;> omega
    rw [State.completeClose_route?, if_pos (slotRoutes_subject hk12), hroute, State.route?, List.getElem?_eq_getElem hlt]
    rfl
  · rw [State.completeClose_route?, if_neg (slotRoutes_other hk12), hroute]
  · obtain ⟨q, hq, hqa, hqs, hq0⟩ := State.completeClose_released ((hchute k).trans hc) hv hb
    obtain ⟨hland, hjams, hres⟩ := Chute.claims_eq_zero.1 hq0
    exact ⟨q, hq, hqa, hqs, hland, hjams, hres⟩
  · rw [State.completeClose_door?, hdoor, hx]
    rfl
  · exact State.completeClose_queue hk12 ((hroute _).trans hr) hm
  · refine State.completeClose_queued ((hcart m).trans hy) hq hv hb fun k c hc p => ?_
    obtain ⟨hx, hy⟩ := hno k c ((hchute k).symm.trans hc)
    cases p
    · exact hx
    · exact hy
  · obtain ⟨p, hact, hp, hy⟩ := State.activeCart_eq ha
    obtain ⟨z, rfl, hz, -⟩ := Settled.completeClose (is := (· = { y with state := .cut })) ((hchute k).trans hc) hv hb hp
      ((hcart m).trans hy) (honly k m ho) (by rw [hroutes]; exact hq) fun u hku hyu =>
        ⟨_, rfl, hu, (ClaimsGone.claimsGone hku).cut h0 m y (State.activeCart_of hact hp hyu) hst⟩
    exact hz
  · obtain ⟨⟨q, hq, -, hqp, hqa⟩, hgone⟩ := Vacated.completeClose ((hchute k).trans hc) hv hb hp ((hcart m).trans hy) (honly k m ho)
      hother (Cart.isEmpty_iff.2 ⟨he, hu⟩)
    exact ⟨hgone, q, hq, hqp, hqa⟩
  · obtain ⟨z, ⟨v, rfl, hv'⟩, hz, q, hq', hqp⟩ := Settled.completeClose
      (is := fun z => ∃ v, z = { y with state := v } ∧ (y.state ≠ .closing → y.state ≠ .standby → v = y.state))
      ((hchute k).trans hc) hv hb hp ((hcart m).trans hy) (honly k m ho) (by rw [hroutes]; exact hq) fun u hku hyu => by
        obtain ⟨v, hv, hvs⟩ := (ClaimsGone.claimsGone hku).states m y hyu
        exact ⟨_, ⟨v, rfl, hvs⟩, hu, hv⟩
    exact ⟨q, v, hq', hqp, hz, hv'⟩
  · rcases hm with hm | hm
    · exact (State.closeSlot_dropped (by decide) hm).1 (.inl rfl)
    · exact (State.closeSlot_dropped (by decide) hm).1 (.inr rfl)
  · rcases hm with hm | hm
    · exact (State.closeSlot_dropped (by decide) hm).2 (.inl rfl)
    · exact (State.closeSlot_dropped (by decide) hm).2 (.inr rfl)

end Sys2Proof.Machine
end

section
/-! The completion of the clear walk (R17, R167, R169, R171). -/

namespace Sys2Proof.Machine

/-- Every live cart retired. -/
def State.cartsGone (s : State) : State := s.retireCarts (s.carts.map (·.1))

/-- The chutes, routes and doors of the hall that is cleared. -/
def State.vacated (s : State) : State :=
  ((s.setChutes (s.chutes.mapValues Chute.vacate)).setRoutes (s.routes.map (fun _ => Route.reset))).setDoors
    (s.doors.mapValues (fun x => { x with cart := none }))

/-- The slots, notices and walk of the hall that is cleared. -/
def State.unsailed (s : State) : State :=
  ((s.setStore { s.store with slotA := Sailing.reset, slotB := Sailing.reset }).setNotices s.notices.empty).setWalk none

theorem State.completeClear_eq (s : State) : s.completeClear = s.cartsGone.vacated.unsailed.setBelts.raise .walkDone 2 := by
  unfold State.completeClear State.cartsGone State.vacated State.unsailed
  rfl

theorem State.vacated_fields (s : State) : s.vacated.chutes = s.chutes.mapValues Chute.vacate ∧
    s.vacated.routes = s.routes.map (fun _ => Route.reset) ∧ s.vacated.doors = s.doors.mapValues (fun x => { x with cart := none }) ∧
    Changes [.chutes, .routes, .doors] s s.vacated := by
  refine ⟨rfl, rfl, rfl, fun b hb => ?_⟩
  cases b
  case chutes => exact absurd List.mem_cons_self hb
  case routes => exact absurd (List.mem_cons_of_mem _ List.mem_cons_self) hb
  case doors => exact absurd (List.mem_cons_of_mem _ (List.mem_cons_of_mem _ List.mem_cons_self)) hb
  all_goals rfl

theorem State.unsailed_fields (s : State) : s.unsailed.store = { s.store with slotA := Sailing.reset, slotB := Sailing.reset } ∧
    s.unsailed.notices = s.notices.empty ∧ s.unsailed.sweep = { s.sweep with walk := none } ∧
    Changes [.store, .notices, .sweep] s s.unsailed := by
  refine ⟨rfl, rfl, rfl, fun b hb => ?_⟩
  cases b
  case store => exact absurd List.mem_cons_self hb
  case notices => exact absurd (List.mem_cons_of_mem _ List.mem_cons_self) hb
  case sweep => exact absurd (List.mem_cons_of_mem _ (List.mem_cons_of_mem _ List.mem_cons_self)) hb
  all_goals rfl

theorem Table.eq_nil_of_get? {α : Type} {t : Table α} (h : ∀ i, Table.get? t i = none) : t = [] := by
  cases t with
  | nil => rfl
  | cons e r =>
    have he := h e.1
    rw [Table.get?, if_pos rfl] at he
    cases he

theorem State.cartsGone_carts (s : State) : s.cartsGone.carts = [] := by
  refine Table.eq_nil_of_get? fun m => ?_
  have hm : s.cartsGone.cart? m = if m ∈ s.carts.map (·.1) then none else s.cart? m := State.retireCarts_cart? ..
  refine hm.trans ?_
  split
  · rfl
  · next hno =>
    cases hx : s.cart? m with
    | none => rfl
    | some x => exact absurd (Table.any_key_iff hx) hno

/-- What the completion of the clear walk leaves, part by part. -/
structure HallCleared (s t : State) : Prop where
  carts : t.carts = []
  chutes : t.chutes = s.chutes.mapValues Chute.vacate
  routes : t.routes = s.routes.map (fun _ => Route.reset)
  doors : ∀ d x, t.door? d = some x → x.cart = none
  slots : ∀ b, t.store.slot b = Sailing.reset
  cabins : t.store.cabins = s.cartsGone.store.cabins
  sweep : t.sweep = { s.sweep with walk := none }
  notices : t.notices = s.notices.empty.onSubjects .walkDone (insertSubject 2)

theorem HallCleared.completeClear (s : State) : HallCleared s s.completeClear := by
  have hgone := (Keeps.retireCarts (s.carts.map (·.1)) s).changes
  obtain ⟨hchutes, hroutes, hdoors, hvac⟩ := s.cartsGone.vacated_fields
  obtain ⟨hstore, hnotices, hsweep, huns⟩ := s.cartsGone.vacated.unsailed_fields
  have hbelts := (Keeps.setBelts s.cartsGone.vacated.unsailed).changes
  have hgchutes : s.cartsGone.chutes = s.chutes := hgone .chutes (by decide)
  have hgroutes : s.cartsGone.routes = s.routes := hgone .routes (by decide)
  have hgnotices : s.cartsGone.vacated.notices = s.notices := (hvac .notices (by decide)).trans (hgone .notices (by decide))
  have hgsweep : s.cartsGone.vacated.sweep = s.sweep := (hvac .sweep (by decide)).trans (hgone .sweep (by decide))
  have hgstore : s.cartsGone.vacated.store = s.cartsGone.store := hvac .store (by decide)
  have htstore : s.cartsGone.vacated.unsailed.setBelts.store = s.cartsGone.vacated.unsailed.store := hbelts .store (by decide)
  rw [State.completeClear_eq]
  generalize hb : s.cartsGone.vacated.unsailed.setBelts = b at hbelts htstore ⊢
  refine ⟨?_, ?_, ?_, fun d x hx => ?_, fun v => ?_, ?_, ?_, ?_⟩
  · exact (hbelts .carts (by decide)).trans ((huns .carts (by decide)).trans ((hvac .carts (by decide)).trans s.cartsGone_carts))
  · rw [← hgchutes, ← hchutes]
    exact (hbelts .chutes (by decide)).trans (huns .chutes (by decide))
  · rw [← hgroutes, ← hroutes]
    exact (hbelts .routes (by decide)).trans (huns .routes (by decide))
  · have hx' : b.door? d = some x := hx
    rw [← hb, State.setBelts_door?] at hx'
    obtain ⟨y, hy, rfl⟩ := Option.map_eq_some_iff.1 hx'
    rw [State.door?, show s.cartsGone.vacated.unsailed.doors = s.cartsGone.vacated.doors from huns .doors (by decide), hdoors,
      Table.get?_mapValues] at hy
    obtain ⟨z, -, rfl⟩ := Option.map_eq_some_iff.1 hy
    rfl
  · change b.store.slot v = _
    rw [htstore, hstore]
    cases v <;> rfl
  · change b.store.cabins = _
    rw [htstore, hstore, hgstore]
  · refine (hbelts .sweep (by decide)).trans ?_
    rw [hsweep, hgsweep]
  · change b.notices.onSubjects .walkDone (insertSubject 2) = _
    rw [show b.notices = s.cartsGone.vacated.unsailed.notices from hbelts .notices (by decide), hnotices, hgnotices]

/-- Every source's set emptied, and then WALK_DONE of subject 2. -/
theorem NoticeUnit.cleared_source {u : NoticeUnit} {j : Nat} {o : Notice} (ho : u.sources[j]? = some o) :
    (u.empty.onSubjects .walkDone (insertSubject 2)).sources[j]? =
      some ⟨if j = 14 then [2] else [], o.enabled, o.priority⟩ := by
  have hempty : u.empty.sources[j]? = some { o with subjects := [] } := by
    change (u.sources.map fun n => { n with subjects := [] })[j]? = _
    rw [List.getElem?_map, ho]
    rfl
  change (u.empty.sources.modify 14 fun n => { n with subjects := insertSubject 2 n.subjects })[j]? = _
  rw [List.getElem?_modify, hempty]
  by_cases hj : j = 14
  · subst hj
    rfl
  · rw [if_neg hj]
    change some (if 14 = j then _ else _) = _
    rw [if_neg (Ne.symm hj)]

theorem clearWalkCompletes : Claim.ClearWalkCompletes := by
  intro n i s hw hn hi
  have hk := (Keeps.walkCabin s .clear (n - 16384)).changes
  have hframe := (s.walkCabin_frame .clear (n - 16384)).2
  have hexec : exec i s = .next (s.walkCabin .clear (n - 16384)).completeClear :=
    (exec_clearLast hw hn hi).trans (congrArg _ (State.walkStep_last hn))
  have hvisited : ListedInHall s → ListedInHall (s.walkCabin .clear (n - 16384)) := fun hl => hl.walkCabin ..
  have hcabin : ∀ t, Store.Boardings (s.walkCabin .clear (n - 16384)).store t.store →
      (ListedInHall s → t.store.cabins = (s.walkCabin .clear (n - 16384)).store.cabins) →
      t.sweep.mode = (s.walkCabin .clear (n - 16384)).sweep.mode → CabinVisited s t n (fun _ => True) :=
    fun t h1 h2 h3 => .of_walkCabin (kind := .clear) (by omega) (fun _ => ⟨fun _ => rfl, fun _ => trivial⟩) h1 h2 h3
  generalize s.walkCabin .clear (n - 16384) = w at hk hframe hexec hvisited hcabin
  obtain ⟨hcarts, hchutes, hroutes, hdoors, hslots, hcabins, hsweep, hnotices⟩ := HallCleared.completeClear w
  have hch := (Keeps.completeClear w).changes
  have hempties := Empties.retireCarts (w.carts.map (·.1)) w
  have hwn : w.notices = s.notices := hk .notices (by decide)
  rw [hwn] at hnotices
  refine ⟨w.completeClear, hexec, (hch .opState (by decide)).trans (hk .opState (by decide)), hcarts, by rw [hsweep], ?_, ?_, hslots,
    fun k c hc => ?_, fun r hr => ?_, ?_, hdoors, (hch .nextSerial (by decide)).trans (hk .nextSerial (by decide)), ?_, ?_,
    fun j o ho => ?_⟩
  · exact hcabin _ (hempties.cabins.trans (.same hcabins)) (fun hl => hcabins.trans (hempties.listed (hvisited hl)).2) (by rw [hsweep])
  · rw [hsweep, hframe]
  · rw [State.chute?, hchutes, Table.get?_mapValues] at hc
    obtain ⟨d, -, rfl⟩ := Option.map_eq_some_iff.1 hc
    exact ⟨rfl, rfl, rfl⟩
  · rw [hroutes] at hr
    obtain ⟨x, -, rfl⟩ := List.mem_map.1 hr
    rfl
  · rw [hroutes, List.length_map, show w.routes = s.routes from hk .routes (by decide)]
  · rw [hnotices]
    rfl
  · unfold NoticeLaw
    rw [hnotices]
    exact NoticeUnit.drive_pin _
  · rw [hnotices]
    exact NoticeUnit.cleared_source ho

/-- Settles O54: the steps that wait, a walk's visit of each kind of record, and the completion of either walk. -/
theorem walksRetire : Obligations.WalksRetire := ⟨walksWait, walksVisit, closeWalkCompletes, clearWalkCompletes⟩

end Sys2Proof.Machine
end

section
/-! That no operation which a frame leads to touches the bytes that the receiver holds: FRAME_DISCARD, FRAME_BYTE_TIMEOUT and the
taking of a frame as such alone do (R44). -/

namespace Sys2Proof.Machine

/-- The receiver holds the same bytes. -/
structure HoldsRx (s t : State) : Prop where
  rx : t.link.rx = s.link.rx

/-- The last step is named first, so that the state between is read off it. -/
theorem HoldsRx.after {s t u : State} (k : HoldsRx t u) (h : HoldsRx s t) : HoldsRx s u := ⟨k.rx.trans h.rx⟩

theorem HoldsRx.same {s t : State} (h : t.link = s.link) : HoldsRx s t := ⟨by rw [h]⟩

theorem HoldsRx.of {l : List Block} {s t : State} (h : Keeps l s t) (hl : Block.link ∉ l := by decide) : HoldsRx s t :=
  .same (h.changes .link hl)

theorem HoldsRx.sends {s t : State} (h : SendsOnly s t) : HoldsRx s t := by
  obtain ⟨hrx, -, -, -⟩ := h
  exact ⟨hrx⟩

/-! ## Holds, the loop and the records -/

theorem HoldsRx.putCauseAll (s : State) (x : HoldCause) (v : Bool) : HoldsRx s (s.putCauseAll x v) :=
  .sends (.putCauseAll s x v)

theorem HoldsRx.causeOfLoss (s : State) : HoldsRx s s.causeOfLoss := .sends (.causeOfLoss s)

theorem HoldsRx.createBag {s t : State} {b : Bag} {h : Handle} (hc : s.createBag b = some (h, t)) : HoldsRx s t := by
  unfold State.createBag at hc
  split at hc
  · cases hc
  · simp only [Option.some.injEq, Prod.mk.injEq] at hc
    obtain ⟨-, rfl⟩ := hc
    split
    · exact .after (.putCauseAll ..) (.after (.of (Keeps.raise ..)) (.same rfl))
    · exact .same rfl

theorem HoldsRx.retireRecord (s : State) (h : Handle) : HoldsRx s (s.retireRecord h) := by
  unfold State.retireRecord
  dsimp only
  split
  · exact .after (.putCauseAll ..) (.same rfl)
  · exact .same rfl

theorem HoldsRx.regainTracking (s : State) : HoldsRx s s.regainTracking :=
  .after (.putCauseAll ..) (.after (.of (Keeps.raise ..)) (.same rfl))

theorem HoldsRx.classify (s : State) (c : Classification) : HoldsRx s (s.classify c) := by
  unfold State.classify
  split
  · exact .same rfl
  · dsimp only
    split
    · exact .after (.causeOfLoss ..) (.same rfl)
    · exact .same rfl
  · dsimp only
    split
    · exact .after (.regainTracking ..) (.same rfl)
    · exact .same rfl
  · exact .same rfl
  · exact .same rfl

/-! ## The stray pen -/

theorem HoldsRx.setPen (s : State) (v : Pen) : HoldsRx s (s.setPen v) := ⟨rfl⟩

theorem HoldsRx.testPenHold (s : State) : HoldsRx s s.testPenHold := by
  unfold State.testPenHold
  split
  · exact .after (.of (Keeps.raise ..)) (.after (.putCauseAll ..) (.same rfl))
  · split
    · exact .after (.putCauseAll ..) (.same rfl)
    · exact .same rfl

theorem HoldsRx.freePosition (s : State) (h : Handle) (p : Nat) : HoldsRx s (s.freePosition h p) :=
  .after (.testPenHold _) (.after (.of (Keeps.dropSubjects ..)) (.same rfl))

theorem HoldsRx.occupy (s : State) (h : Handle) (p : Nat) : HoldsRx s (s.occupy h p) :=
  .after (.testPenHold ..) (.same rfl)

theorem HoldsRx.intake (s : State) (h : Handle) (p : Nat) : HoldsRx s (s.intake h p) :=
  .after (.occupy ..) (.of ((Keeps.moveBag s h _ _).trans (Keeps.modifyBag _ _ _)))

theorem HoldsRx.leavePen (s : State) (h : Handle) (b : Bag) : HoldsRx s (s.leavePen h b) := by
  unfold State.leavePen
  split
  · exact .freePosition ..
  · exact .same rfl

/-! ## Doors and carts -/

theorem HoldsRx.setBelt (s : State) (d : Nat) : HoldsRx s (s.setBelt d) := .sends (.setBelt s d)

theorem HoldsRx.addHalt (s : State) (d : Nat) (x : HaltReason) : HoldsRx s (s.addHalt d x) := .sends (.addHalt s d x)

theorem HoldsRx.takeToDoor (s : State) (d : Nat) (k : RouteKey) : HoldsRx s (s.takeToDoor d k) := by
  unfold State.takeToDoor
  split
  · exact .same rfl
  · split
    · exact .same rfl
    · dsimp only
      split
      · split
        · exact .same rfl
        · exact .after (.addHalt ..) (.same rfl)
      · exact .same rfl

theorem HoldsRx.doorTurn {s t : State} {d : Nat} (h : s.doorTurn d = some t) : HoldsRx s t := by
  unfold State.doorTurn at h
  split at h
  · cases h
  · split at h
    · split at h
      · cases h
      · split at h
        · cases h
          exact .of (Keeps.completeCart ..)
        · cases h
    · obtain ⟨k, -, rfl⟩ := Option.map_eq_some_iff.1 h
      exact .takeToDoor ..

theorem HoldsRx.settleDoor (s : State) (d : Nat) : HoldsRx s (s.settleDoor d) := by
  have turns (fuel : Nat) (s : State) : HoldsRx s (s.doorTurns d fuel) := by
    induction fuel generalizing s with
    | zero => exact .setBelt s d
    | succ n ih =>
      unfold State.doorTurns
      split
      · exact .setBelt s d
      · next ht => exact .after (ih _) (.doorTurn ht)
  exact turns ..

theorem HoldsRx.testCart (s : State) (n : Nat) : HoldsRx s (s.testCart n) := by
  unfold State.testCart
  split
  · exact .same rfl
  · split
    · split
      · exact .of (Keeps.retireQueued s n)
      · exact .same rfl
    · split
      · exact .settleDoor ..
      · exact .same rfl
    · exact .same rfl

theorem HoldsRx.departCart (s : State) (n : Nat) : HoldsRx s (s.departCart n) := by
  unfold State.departCart
  split
  · exact .same rfl
  · split
    · exact .of (Keeps.retireCart s n)
    · unfold State.settleRoute
      split
      · exact .after (.settleDoor ..) (.same rfl)
      · exact .same rfl

theorem HoldsRx.cartLeaves (s : State) (n : Nat) : HoldsRx s (s.cartLeaves n) := by
  have departs (g : Cart → Cart) : HoldsRx s ((s.modifyCart n g).departCart n) :=
    .after (.departCart ..) (.same rfl)
  have retires : HoldsRx s (s.retireCart n) := .of (Keeps.retireCart s n)
  unfold State.cartLeaves
  split
  · exact .same rfl
  · split
    · exact retires
    · split
      · exact retires
      · exact departs _
    · split
      · exact retires
      · exact departs _
    · exact .departCart s n
    · exact .departCart s n
    · exact .same rfl
    · exact .same rfl

theorem HoldsRx.cartRemoved (s : State) (k : Nat) (p : PosName) : HoldsRx s (s.cartRemoved k p) := by
  unfold State.cartRemoved
  split
  · exact .same rfl
  · split
    · exact .same rfl
    · unfold State.removeCart
      dsimp only
      split
      · exact .after (.of (Keeps.swap ..)) (.after (.of (Keeps.settleClaims ..)) (.after (.cartLeaves ..)
          (.same rfl)))
      · exact .after (.cartLeaves ..) (.same rfl)
    · exact .same rfl

/-! ## Landings -/

theorem HoldsRx.landBag (s : State) (k : Nat) (c : Chute) (h : Handle) : HoldsRx s (s.landBag k c h) := by
  unfold State.landBag
  split
  · exact .intake ..
  · split
    · exact .of (Keeps.landInCart ..)
    · exact .after (.of (Keeps.loseClaims ..)) (.of (Keeps.makeMissing ..))

theorem HoldsRx.landAnonymous (s : State) (k : Nat) : HoldsRx s (s.landAnonymous k) := by
  unfold State.landAnonymous
  split
  · split
    · next hc => exact .after (.occupy ..) (.createBag hc)
    · exact .of (Keeps.faultChute s k _)
  · exact .of (Keeps.faultChute s k _)

theorem HoldsRx.takeLanding (s : State) (k : Nat) : HoldsRx s (s.takeLanding k) := by
  unfold State.takeLanding
  split
  · exact .same rfl
  · refine .after (.after (.of (Keeps.settleCut ..)) (.of (Keeps.settleFull ..))) ?_
    split
    · exact .after (.landBag ..) (.same rfl)
    · split
      · exact .of (Keeps.landUnidentified ..)
      · exact .landAnonymous ..

/-! ## Pitches -/

theorem HoldsRx.arm (s : State) (i k : Nat) (c : Chute) (pitch : Byte) (r : Option StrayReason) :
    HoldsRx s (s.arm i k c pitch r) := .after (.sends (.send ..)) (.same rfl)

theorem HoldsRx.tryArm (s : State) (i k : Nat) (c : Chute) (pitch : Byte) (h : Handle) :
    HoldsRx s (s.tryArm i k c pitch h) := by
  unfold State.tryArm
  repeat' split
  all_goals first | exact .same rfl | exact .arm ..

theorem HoldsRx.serveChute (s : State) (pitch : Byte) (k : Nat) : HoldsRx s (s.serveChute pitch k) := by
  unfold State.serveChute
  split
  · exact .same rfl
  · dsimp only
    split
    · exact .same rfl
    · split
      · split
        · exact .after (.tryArm ..) (.of (Keeps.demandCheck ..))
        · exact .same rfl
      · exact .same rfl

theorem HoldsRx.serveChutes (pitch : Byte) (l : List Nat) (s : State) : HoldsRx s (s.serveChutes pitch l) := by
  induction l generalizing s with
  | nil => exact .same rfl
  | cons k t ih => exact .after (ih _) (.serveChute s pitch k)

theorem HoldsRx.processPitch (s : State) (pitch : Byte) : HoldsRx s (s.processPitch pitch) := by
  have laps : HoldsRx s s.advance.countLap := .after (.of (Keeps.countLap _)) (.same rfl)
  have serves (u : State) : HoldsRx u (u.servePitch pitch) :=
    .after (.of (Keeps.jamDueAll ..)) (.after (.of (Keeps.testMarks ..)) (.after (.serveChutes ..) (.same rfl)))
  exact .after (serves _) ⟨laps.rx⟩

theorem HoldsRx.processPitches (n : Nat) (c : Byte) (s : State) : HoldsRx s (s.processPitches c n) := by
  induction n generalizing s c with
  | zero => exact .same rfl
  | succ n ih => exact .after (ih _ _) (.processPitch s _)

theorem HoldsRx.takePitch (s : State) (c : Byte) : HoldsRx s (s.takePitch c) := by
  have tracks : HoldsRx s (s.trackPitch c) := by
    unfold State.trackPitch
    split
    · exact ⟨rfl⟩
    · dsimp only
      split
      · exact .processPitches ..
      · split
        · exact .after (.processPitches ..) (.causeOfLoss s)
        · exact ⟨(HoldsRx.causeOfLoss s).rx⟩
  exact ⟨tracks.rx⟩

theorem HoldsRx.takeHome (s : State) (c : Nat) (d : Int) : HoldsRx s (s.takeHome c d) := by
  unfold State.takeHome
  split
  · exact .same rfl
  · split
    · exact .same rfl
    · exact .after (.causeOfLoss ..) (.same rfl)
  · split
    · exact .same rfl
    · exact .after (.causeOfLoss ..) (.same rfl)
  · exact .same rfl

/-! ## Launches and arches -/

theorem HoldsRx.launchFound (s : State) (c : Nat) (h : Handle) (b : Bag) (double : Bool) :
    HoldsRx s (s.launchFound c h b double) :=
  .after (.of (Keeps.demandCheck ..)) (.after (.of (Keeps.setContent ..)) (.after (.leavePen ..) (.of
      ((Keeps.moveBag s h _ _).trans (Keeps.modifyBag _ _ _)))))

theorem HoldsRx.placeFresh (s : State) (c : Nat) (tag : Option Nat) (r : StrayReason) :
    HoldsRx s (s.placeFresh c tag r) := by
  unfold State.placeFresh
  split
  · next hc => exact .after (.of (Keeps.setContent ..)) (.createBag hc)
  · exact .of (Keeps.setContent ..)

theorem HoldsRx.launch (s : State) (c : Nat) (read : ReadResult) : HoldsRx s (s.launch c read) := by
  unfold State.launch
  split
  · exact .same rfl
  · dsimp only
    split
    · split
      · exact .launchFound ..
      · exact .placeFresh ..
    · split
      · exact .after (.launchFound ..) (.of (Keeps.makeMissing ..))
      · exact .after (.placeFresh ..) (.of (Keeps.makeMissing ..))

theorem HoldsRx.placeByLookup (s : State) (c : Nat) (read : ReadResult) : HoldsRx s (s.placeByLookup c read) := by
  unfold State.placeByLookup
  split
  · exact .placeFresh ..
  · split
    · exact .after (.of (Keeps.setContent ..)) (.of (Keeps.moveBag s _ _ _))
    · exact .after (.of (Keeps.setContent ..)) (.of (Keeps.moveBag s _ _ _))
    · exact .after (.of (Keeps.setContent ..)) (.after (.of (Keeps.modifyBag ..)) (.of (Keeps.setContent ..)))
    · exact .after (.of (Keeps.setContent ..)) (.after (.leavePen ..) (.of ((Keeps.moveBag s _ _ _).trans
        (Keeps.modifyBag ..))))
    · exact .placeFresh ..

theorem HoldsRx.identify (s : State) (c : Nat) (h : Handle) (b : Bag) (tag : Nat) :
    HoldsRx s (s.identify c h b tag).1 := by
  unfold State.identify
  split
  · exact .after (.of (Keeps.modifyBag ..)) (.same rfl)
  · exact .of (Keeps.modifyBag ..)
  · split
    · exact .after (.after (.retireRecord ..) (.of (Keeps.setContent ..))) (.of
        ((Keeps.moveBag s _ _ _).trans (Keeps.modifyBag ..)))
    · exact .same rfl

theorem HoldsRx.disagree (s : State) (c : Nat) (h : Handle) (b : Bag) (tag : Nat) : HoldsRx s (s.disagree c h b tag) := by
  unfold State.disagree
  split
  · exact .after (.placeByLookup ..) (.of (Keeps.makeMissing ..))
  · exact .of (Keeps.modifyBag ..)

theorem HoldsRx.seeLoaded (s : State) (c : Nat) (h : Handle) (o : Bool) (read : ReadResult) :
    HoldsRx s (s.seeLoaded c h o read).1 := by
  unfold State.seeLoaded
  repeat' split
  all_goals first
    | exact .same rfl
    | exact .identify ..
    | exact .of (Keeps.modifyBag s h _)
    | exact .disagree ..

theorem HoldsRx.observe (s : State) (c : Nat) (o : Bool) (read : ReadResult) : HoldsRx s (s.observe c o read).1 := by
  unfold State.observe
  repeat' split
  all_goals first
    | exact .same rfl
    | exact .placeByLookup ..
    | exact .of (Keeps.setContent ..)
    | exact .seeLoaded ..

theorem HoldsRx.archSees (s : State) (c : Nat) (o : Bool) (read : ReadResult) : HoldsRx s (s.archSees c o read) := by
  unfold State.archSees
  split
  · exact .after (.classify ..) (.observe ..)
  · exact .same rfl

/-! ## Scans and the pen's reports -/

theorem HoldsRx.board (s : State) (d : Nat) (x : Door) (h : Handle) (n : Nat) (k : RouteKey) :
    HoldsRx s (s.board d x h n k) := by
  unfold State.board
  dsimp only
  split
  · exact .after (.settleDoor ..) (.after (.of (Keeps.modifyCart ..)) (.after (.of (Keeps.moveBag ..))
      (.same rfl)))
  · exact .after (.after (.settleDoor ..) (.testCart ..)) (.after (.of (Keeps.dropEntry ..)) (.after (.of
      (Keeps.moveBag ..)) (.same rfl)))

theorem HoldsRx.boardingTest (s : State) (d : Nat) (x : Door) (h : Handle) (n : Nat) (k : RouteKey) :
    HoldsRx s (s.boardingTest d x h n k) := by
  have h1 : HoldsRx s (s.demandCheck h) := .of (Keeps.demandCheck s h)
  unfold State.boardingTest
  dsimp only
  repeat' split
  all_goals first
    | exact h1
    | exact .after (.addHalt ..) h1
    | exact .after (.board ..) h1

theorem HoldsRx.scan (s : State) (d : Nat) (read : ReadResult) : HoldsRx s (s.scan d read) := by
  unfold State.scan State.scanTag
  repeat' split
  all_goals first
    | exact .same rfl
    | exact .addHalt ..
    | exact .boardingTest ..

theorem HoldsRx.encodeMerge (s : State) (p : Nat) (h : Handle) (a : Bag) (g : Handle) :
    HoldsRx s (s.encodeMerge p h a g) := by
  unfold State.encodeMerge
  dsimp only
  refine .after (.of (Keeps.encodeCheck ..)) ?_
  refine .after (.retireRecord ..) ?_
  exact .after (.setPen ..) (.of ((Keeps.moveBag s g _ _).trans (Keeps.modifyBag ..)))

theorem HoldsRx.encodeAnonymous (s : State) (p : Nat) (h : Handle) (a : Bag) (read : ReadResult) :
    HoldsRx s (s.encodeAnonymous p h a read).1 := by
  unfold State.encodeAnonymous State.giveReason
  split
  · dsimp only
    split
    · exact .after (.of (Keeps.modifyBag ..)) (.same rfl)
    · exact .of (Keeps.modifyBag ..)
    · next g b _ =>
      by_cases hb : b.state = .registered ∨ b.state = .missing
      · simp only [hb, if_true]
        exact .encodeMerge ..
      · simp only [hb, if_false]
        exact .of (Keeps.modifyBag ..)
  · exact .same rfl

theorem HoldsRx.encodeFree (s : State) (p : Nat) (read : ReadResult) : HoldsRx s (s.encodeFree p read).1 := by
  unfold State.encodeFree
  split
  · exact .same rfl
  · split
    · exact .after (.of (Keeps.encodeCheck ..)) (.intake ..)
    · unfold State.encodeFresh
      split
      · next hc => exact .after (.occupy ..) (.createBag hc)
      · exact .same rfl

theorem HoldsRx.encode (s : State) (p : Nat) (read : ReadResult) : HoldsRx s (s.encode p read) := by
  have judges : HoldsRx s (s.judge p read).1 := by
    unfold State.judge
    repeat' split
    all_goals first
      | exact .same rfl
      | exact .encodeFree ..
      | exact .encodeAnonymous ..
      | exact .of (Keeps.encodeTagged ..)
  unfold State.encode
  split
  · exact .after (.sends (.send ..)) judges
  · exact .same rfl

/-! ## Frames taken -/

theorem HoldsRx.atStamp {s : State} {act : Nat → Int → State} (h : ∀ c d, HoldsRx s (act c d)) (stamp : Byte)
    (offset : Nat) : HoldsRx s (s.atStamp stamp offset act) := by
  unfold State.atStamp
  split
  · exact .same rfl
  · exact .causeOfLoss s
  · exact h ..

end Sys2Proof.Machine
end

section
/-! Frames that are not taken: what a frame row and the receiver share, and that a frame's bytes read back as its row (R44 to R46,
R183). -/

namespace Sys2Proof.Machine

/-! ## A frame's bytes -/

theorem field_one {n : Nat} (h : n < 256) : field 1 n = [BitVec.ofNat 8 n] := by
  rw [field, if_pos (by omega)]
  simp [List.range, List.range.loop]

theorem readFrame_frameBytes (f : FrameHead) (kind : Byte) {payload : List Byte} (h : payload.length ≤ 8) :
    readFrame (frameBytes f.node f.seq kind f.stamp payload) = frameOfKind f kind.toNat payload := by
  have hlen : (BitVec.ofNat 8 payload.length).toNat = payload.length := by
    rw [BitVec.toNat_ofNat]
    omega
  unfold frameBytes
  rw [field_one (by omega)]
  simp [readFrame, hlen, h]

theorem tagBytes_eq (tag : BitVec 32) : ∃ a b c d, tagBytes tag = [a, b, c, d] ∧ word32 a b c d = tag := by
  have hlt := tag.isLt
  refine ⟨BitVec.ofNat 8 (tag.toNat / 16777216), BitVec.ofNat 8 (tag.toNat / 65536), BitVec.ofNat 8 (tag.toNat / 256),
    BitVec.ofNat 8 tag.toNat, ?_, BitVec.eq_of_toNat_eq ?_⟩
  · rw [tagBytes, field, if_pos (by omega)]
    simp [List.range, List.range.loop]
  · simp only [word32, be32, BitVec.toNat_ofNat]
    omega

theorem readFrame_tagged (f : FrameHead) (kind : Byte) {front : List Byte} (h : front.length ≤ 4) (tag : BitVec 32) :
    ∃ a b c d, word32 a b c d = tag ∧ readFrame (frameBytes f.node f.seq kind f.stamp (front ++ tagBytes tag)) =
      frameOfKind f kind.toNat (front ++ [a, b, c, d]) := by
  obtain ⟨a, b, c, d, htag, hword⟩ := tagBytes_eq tag
  refine ⟨a, b, c, d, hword, ?_⟩
  rw [htag]
  exact readFrame_frameBytes f kind (by rw [List.length_append]; exact Nat.add_le_add_right h 4)

/-! ## What every frame row shares -/

/-- A frame row is a frame that is taken in one way: as its kind among bytes, or on its own, by the same report and act. -/
structure IsFrame (i : Instr) (f : FrameHead) (r : Report) (act : State → State) : Prop where
  taken : ∀ s : State, s.takeKind i = s.takeFrame f r act
  received : ∃ kind payload, (∀ s, exec i s = .next (s.receive f kind payload (fun t => t.takeFrame f r act))) ∧
    (i.wellFormed = true → readFrame (frameBytes f.node f.seq kind f.stamp payload) = some i)
  role : frameRole i = some r.role
  keeps : ∀ t, HoldsRx t (act t)

section
variable (f : FrameHead)

theorem isFrame_pitch : ∃ act, IsFrame (.pitch f) f ⟨.loop, none, true⟩ act :=
  ⟨_, fun _ => rfl, ⟨_, _, fun _ => rfl, fun _ => readFrame_frameBytes f _ (by decide)⟩, rfl, fun t => .takePitch t _⟩

theorem isFrame_home : ∃ act, IsFrame (.home f) f ⟨.loop, none, true⟩ act :=
  ⟨_, fun _ => rfl, ⟨_, _, fun _ => rfl, fun _ => readFrame_frameBytes f _ (by decide)⟩, rfl,
    fun t => .atStamp (fun _ _ => .takeHome t _ _) _ _⟩

theorem isFrame_launch (point read : Byte) (tag : BitVec 32) : ∃ act, IsFrame (.launch f point read tag) f
    ⟨.induct, some point.toNat, (ReadResult.ofBytes read tag).isSome⟩ act := by
  obtain ⟨a, b, c, d, hword, hread⟩ := readFrame_tagged f 0x03 (front := [point, read]) (by simp) tag
  exact ⟨_, fun _ => rfl, ⟨_, _, fun _ => rfl, fun _ => hread.trans (by rw [← hword]; rfl)⟩, rfl,
    fun t => .atStamp (fun _ _ => .launch t _ _) _ _⟩

theorem isFrame_arch (arch occupied read : Byte) (tag : BitVec 32) : ∃ act, IsFrame (.arch f arch occupied read tag) f
    ⟨.arch, some arch.toNat, (bitOfByte occupied).isSome && (ReadResult.ofBytes read tag).isSome⟩ act := by
  obtain ⟨a, b, c, d, hword, hread⟩ := readFrame_tagged f 0x04 (front := [arch, occupied, read]) (by simp) tag
  exact ⟨_, fun _ => rfl, ⟨_, _, fun _ => rfl, fun _ => hread.trans (by rw [← hword]; rfl)⟩, rfl,
    fun t => .atStamp (fun _ _ => .archSees t _ _ _) _ _⟩

theorem isFrame_check (chute occupied : Byte) : ∃ act, IsFrame (.check f chute occupied) f
    ⟨.chute, some chute.toNat, (bitOfByte occupied).isSome⟩ act :=
  ⟨_, fun _ => rfl, ⟨_, _, fun _ => rfl, fun _ => readFrame_frameBytes f _ (by simp)⟩, rfl,
    fun t => .atStamp (fun _ _ => .of (Keeps.check t _ _ _)) _ _⟩

theorem isFrame_land (chute : Byte) : ∃ act, IsFrame (.land f chute) f ⟨.chute, some chute.toNat, true⟩ act :=
  ⟨_, fun _ => rfl, ⟨_, _, fun _ => rfl, fun _ => readFrame_frameBytes f _ (by simp)⟩, rfl, fun t => .takeLanding t _⟩

theorem isFrame_cartPresent (chute position : Byte) : ∃ act, IsFrame (.cartPresent f chute position) f
    ⟨.chute, some chute.toNat, (PosName.ofByte position).isSome⟩ act :=
  ⟨_, fun _ => rfl, ⟨_, _, fun _ => rfl, fun _ => readFrame_frameBytes f _ (by simp)⟩, rfl,
    fun t => .of (Keeps.cartPresent t _ _)⟩

theorem isFrame_cartRemoved (chute position report : Byte) : ∃ act, IsFrame (.cartRemoved f chute position report) f
    ⟨.chute, some chute.toNat, (PosName.ofByte position).isSome && decide (report.toNat = 0)⟩ act :=
  ⟨_, fun _ => rfl, ⟨_, _, fun _ => rfl, fun hw =>
    (readFrame_frameBytes f _ (by simp)).trans (congrArg some (if_neg (of_decide_eq_true hw)))⟩, rfl,
    fun t => .cartRemoved t _ _⟩

theorem isFrame_doorscan (door read : Byte) (tag : BitVec 32) : ∃ act, IsFrame (.doorscan f door read tag) f
    ⟨.door, some door.toNat, (ReadResult.ofBytes read tag).isSome⟩ act := by
  obtain ⟨a, b, c, d, hword, hread⟩ := readFrame_tagged f 0x08 (front := [door, read]) (by simp) tag
  exact ⟨_, fun _ => rfl, ⟨_, _, fun _ => rfl, fun _ => hread.trans (by rw [← hword]; rfl)⟩, rfl,
    fun t => .scan t _ _⟩

theorem isFrame_encode (position read : Byte) (tag : BitVec 32) : ∃ act, IsFrame (.encode f position read tag) f
    ⟨.encode, none, (ReadResult.ofBytes read tag).isSome⟩ act := by
  obtain ⟨a, b, c, d, hword, hread⟩ := readFrame_tagged f 0x09 (front := [position, read]) (by simp) tag
  exact ⟨_, fun _ => rfl, ⟨_, _, fun _ => rfl, fun _ => hread.trans (by rw [← hword]; rfl)⟩, rfl,
    fun t => .encode t _ _⟩

end

theorem isFrame_of_frameHead {i : Instr} {f : FrameHead} (hi : frameHead i = some f) : ∃ r act, IsFrame i f r act := by
  cases i
  case pitch => cases hi; exact ⟨_, isFrame_pitch f⟩
  case home => cases hi; exact ⟨_, isFrame_home f⟩
  case launch => cases hi; exact ⟨_, isFrame_launch f ..⟩
  case arch => cases hi; exact ⟨_, isFrame_arch f ..⟩
  case check => cases hi; exact ⟨_, isFrame_check f ..⟩
  case land => cases hi; exact ⟨_, isFrame_land f _⟩
  case cartPresent => cases hi; exact ⟨_, isFrame_cartPresent f ..⟩
  case cartRemoved => cases hi; exact ⟨_, isFrame_cartRemoved f ..⟩
  case doorscan => cases hi; exact ⟨_, isFrame_doorscan f ..⟩
  case encode => cases hi; exact ⟨_, isFrame_encode f ..⟩
  all_goals cases hi

/-! ## Frames that are not admitted (R44, R45) -/

theorem State.exists_role_of_knows {s : State} {f : FrameHead} (h : s.knows f = true) :
    ∃ role, (s.node? f.node.toNat).bind (·.role) = some role := Option.isSome_iff_exists.1 h

/-- A frame that is not admitted only uses up the bytes held. -/
theorem takeFrame_notAdmitted {s : State} {f : FrameHead} {role : Role}
    (hr : (s.node? f.node.toNat).bind (·.role) = some role) (ha : (s.setRx []).admission role = none) (r : Report)
    (act : State → State) : s.takeFrame f r act = s.setRx [] := by
  unfold State.takeFrame
  dsimp only
  rw [hr]
  dsimp only
  rw [ha]

section
variable {s : State} (ho : s.opState = .setup)
include ho

theorem takeFrame_setup {f : FrameHead} (hk : s.knows f = true) (r : Report) (act : State → State) :
    s.takeFrame f r act = s.setRx [] := by
  obtain ⟨role, hr⟩ := State.exists_role_of_knows hk
  exact takeFrame_notAdmitted hr (by simp only [State.admission, (State.setRx_opState s []).trans ho]) r act

/-- In SETUP the reading of bytes changes nothing but those held. -/
theorem readBytes_setup (late : Bool) (fuel : Nat) (l : List Byte) : ∃ m, s.readBytes late fuel l = s.setRx m := by
  induction fuel generalizing s l with
  | zero => exact ⟨l, rfl⟩
  | succ fuel ih =>
    unfold State.readBytes
    split
    · exact ⟨[], rfl⟩
    · split
      · split
        · exact ih ho _
        · exact ⟨_, rfl⟩
      · exact ih ho _
      · next i rest _ =>
        split
        · next hk =>
          obtain ⟨f, hf, hk⟩ := (Option.any_eq_true _ _).1 hk
          obtain ⟨r, act, hfr⟩ := isFrame_of_frameHead hf
          rw [hfr.taken, takeFrame_setup ho hk]
          obtain ⟨m, hm⟩ := ih (s := s.setRx []) ((State.setRx_opState s []).trans ho) rest
          exact ⟨m, hm.trans (State.setRx_setRx ..)⟩
        · exact ih ho _

theorem receive_setup {f : FrameHead} (kind : Byte) (payload : List Byte) (r : Report) (act : State → State) :
    ∃ m, s.receive f kind payload (fun t => t.takeFrame f r act) = s.setRx m := by
  obtain ⟨m, hm⟩ : ∃ m, s.settleRx = s.setRx m := readBytes_setup ho ..
  have ho' : (s.setRx m).opState = .setup := (State.setRx_opState s m).trans ho
  unfold State.receive
  rw [hm]
  dsimp only
  split
  · next hk => exact ⟨[], (takeFrame_setup ho' hk r act).trans (State.setRx_setRx ..)⟩
  · obtain ⟨n, hn⟩ : ∃ n, (s.setRx m).hears false (frameBytes f.node f.seq kind f.stamp payload).tail = (s.setRx m).setRx n :=
      readBytes_setup ho' ..
    exact ⟨n, hn.trans (State.setRx_setRx ..)⟩

end

/-- In REST a node that is neither the LOOP nor the ENCODE node is not heard. -/
theorem State.admission_rest_none {s : State} (ho : s.opState = .rest) {role : Role} (hl : role ≠ .loop)
    (he : role ≠ .encode) : s.admission role = none := by
  unfold State.admission
  rw [ho]
  cases role
  case loop => exact absurd rfl hl
  case encode => exact absurd rfl he
  all_goals rfl

/-- The role test fails a frame of another kind than its node's. -/
theorem passesRole_other {x : Node} {r : Report} (h : x.role ≠ some r.role) (s : State) : s.passesRole x r = false := by
  simp [State.passesRole, h]

/-- An admitted frame that fails the role test ends with its sequence check. -/
theorem IsFrame.checked {i : Instr} {f : FrameHead} {r : Report} {act : State → State} (hi : IsFrame i f r act) {s : State}
    {x : Node} (h : TakenHere s f x) (hp : s.passesRole x r = false) : exec i s = .next (s.afterCheck f x) := by
  obtain ⟨kind, payload, hexec, -⟩ := hi.received
  rw [hexec, h.receive, hp]
  rfl

theorem framesDiscarded : Claim.FramesDiscarded := by
  intro i f s hi
  obtain ⟨r, act, hfr⟩ := isFrame_of_frameHead hi
  obtain ⟨kind, payload, hexec, hread⟩ := hfr.received
  refine ⟨⟨s.settleRx, rfl, settleRx_rx s, ?_⟩, ?_, ?_, fun x hx hr => ?_⟩
  · rw [hexec, hexec, receive_settleRx]
  · rintro (ho | ⟨ho, hq, x, role, hx, hr, hl, he⟩)
    · obtain ⟨m, hm⟩ := receive_setup ho (f := f) kind payload r act
      exact ⟨m, (hexec s).trans (congrArg Host.Outcome.next hm)⟩
    · refine ⟨[], (hexec s).trans (congrArg Host.Outcome.next ?_)⟩
      have hrole : ((s.setRx []).node? f.node.toNat).bind (·.role) = some role := by
        rw [State.setRx_node?, hx]
        exact hr
      rw [receive_known hq (knows_of_role hx (by rw [hr]; rfl)), takeFrame_notAdmitted hrole]
      · exact State.setRx_setRx ..
      · rw [State.setRx_setRx]
        exact State.admission_rest_none ((State.setRx_opState s []).trans ho) hl he
  · intro hq hx hw
    refine ⟨(frameBytes f.node f.seq kind f.stamp payload).tail, hread hw, (hexec s).trans (congrArg Host.Outcome.next ?_)⟩
    have hk : (s.setRx []).knows f = false := knows_eq_false (s := s.setRx []) fun x h => hx x h
    rw [State.receive, hq.settleRx]
    dsimp only
    rw [hk]
    rfl
  · exact hfr.checked hx.here (passesRole_other (fun h => hr (h.trans hfr.role.symm)) s)

end Sys2Proof.Machine
end

section
/-! Frames whose payload is not read, and what the receiver makes of bytes (R43, R44, R46, R183). -/

namespace Sys2Proof.Machine

/-! ## Payloads outside their tables (R46, R183) -/

theorem passesRole_unserved {s : State} {x : Node} {r : Role} {n : Nat} (h : n ∉ x.objects ∨ s.configured r n = false)
    (valid : Bool) : s.passesRole x ⟨r, some n, valid⟩ = false := by
  rcases h with h | h <;> simp [State.passesRole, h]

theorem passesRole_invalid (s : State) (x : Node) (r : Role) (o : Option Nat) : s.passesRole x ⟨r, o, false⟩ = false := by
  simp [State.passesRole]

theorem ReadResult.ofBytes_unread {read : Byte} {tag : BitVec 32}
    (h : 2 < read.toNat ∨ read.toNat = 1 ∧ (tag.toNat = 0 ∨ 999999999 < tag.toNat)) :
    (ReadResult.ofBytes read tag).isSome = false := by
  unfold ReadResult.ofBytes
  rcases h with h | ⟨h1, h2⟩
  · rw [if_neg (by omega), if_neg (by omega), if_neg (by omega)]
    rfl
  · have htag : tagInRange tag.toNat = false := by
      refine Bool.eq_false_iff.2 fun h => ?_
      obtain ⟨hlow, hhigh⟩ := Bool.and_eq_true_iff.1 h
      have hlow : 1 ≤ tag.toNat := of_decide_eq_true hlow
      have hhigh : tag.toNat ≤ 999999999 := of_decide_eq_true hhigh
      omega
    rw [if_neg (by omega), if_pos h1, htag]
    rfl

theorem bitOfByte_above {b : Byte} (h : 1 < b.toNat) : bitOfByte b = none := by
  rw [bitOfByte, if_neg (by omega), if_neg (by omega)]

theorem framesUnread : Claim.FramesUnread := by
  intro f x s checked unread
  have ends {i : Instr} {r : Report} (hh : TakenHere s f x) (hi : ∃ act, IsFrame i f r act)
      (hp : s.passesRole x r = false) : checked i := by
    obtain ⟨act, hi⟩ := hi
    exact hi.checked hh hp
  refine ⟨fun ha n b => ⟨fun h r w => ?_, fun h r w => ?_, fun h => ?_, fun h r w => ?_, fun hb => ?_, fun r w hu => ?_⟩,
    fun ha n r w hu => ?_⟩
  · refine ends ha.here (isFrame_launch f n r w) (passesRole_unserved (h.imp_right fun h => ?_) _)
    simp [State.configured, Table.has, h]
  · refine ends ha.here (isFrame_arch f n b r w) (passesRole_unserved (h.imp_right fun h => ?_) _)
    simp [State.configured, Table.has, h]
  · have hp (valid : Bool) : s.passesRole x ⟨.chute, some n.toNat, valid⟩ = false := by
      refine passesRole_unserved (h.imp_right fun h => ?_) _
      rw [State.chute?] at h
      simp [State.configured, Table.has, h]
    exact ⟨ends ha.here (isFrame_check f n b) (hp _), ends ha.here (isFrame_land f n) (hp _),
      ends ha.here (isFrame_cartPresent f n b) (hp _), fun r => ends ha.here (isFrame_cartRemoved f n b r) (hp _)⟩
  · refine ends ha.here (isFrame_doorscan f n r w) (passesRole_unserved (h.imp_right fun h => ?_) _)
    rw [State.door?] at h
    simp [State.configured, Table.has, h]
  · have hbit := bitOfByte_above hb
    refine ⟨fun r w => ends ha.here (isFrame_arch f n b r w) ?_, ends ha.here (isFrame_check f n b) ?_,
      ends ha.here (isFrame_cartPresent f n b) ?_, fun r => ends ha.here (isFrame_cartRemoved f n b r) ?_⟩
    · rw [hbit]
      exact passesRole_invalid ..
    · rw [hbit]
      exact passesRole_invalid ..
    · rw [PosName.ofByte, hbit]
      exact passesRole_invalid ..
    · rw [PosName.ofByte, hbit]
      exact passesRole_invalid ..
  · have hread := ReadResult.ofBytes_unread hu
    refine ⟨ends ha.here (isFrame_launch f n r w) ?_, ends ha.here (isFrame_arch f n b r w) ?_,
      ends ha.here (isFrame_doorscan f n r w) ?_⟩
    · rw [hread]
      exact passesRole_invalid ..
    · rw [hread, Bool.and_false]
      exact passesRole_invalid ..
    · rw [hread]
      exact passesRole_invalid ..
  · refine ends ha.here (isFrame_encode f n r w) ?_
    rw [ReadResult.ofBytes_unread hu]
    exact passesRole_invalid ..

/-! ## A frame among bytes: taken as on its own, the receiver's bytes used up -/

theorem HoldsRx.modifyNode (s : State) (n : Nat) (g : Node → Node) : HoldsRx s (s.modifyNode n g) := by
  unfold State.modifyNode
  split
  · exact .same rfl
  · exact ⟨rfl⟩

theorem HoldsRx.heard (s : State) (n : Nat) (x : Node) (seq : Byte) : HoldsRx s (s.heard n x seq) := by
  unfold State.heard
  split
  · split
    · exact .after (.sends (.inSequence ..)) (.modifyNode ..)
    · exact .after (.modifyNode ..) (.sends (.gap s x))
  · exact .after (.sends (.nodeReturns ..)) (.modifyNode ..)

theorem State.admission_rx {s t : State} {role : Role} (h : s.admission role = some t) : t.link.rx = s.link.rx := by
  unfold State.admission at h
  split at h
  · cases h
  · cases h
    rfl
  · split at h
    · cases h
      rfl
    · cases h
      exact (HoldsRx.sends s.wake_sendsOnly).rx
    · cases h

section
variable {s : State} {f : FrameHead} (hk : s.knows f = true)
include hk

/-- Which bytes are held does not matter to a frame that is taken. -/
theorem takeFrame_setRx (m : List Byte) (r : Report) (act : State → State) :
    (s.setRx m).takeFrame f r act = s.takeFrame f r act := by
  obtain ⟨role, hr⟩ := State.exists_role_of_knows hk
  cases ha : (s.setRx []).admission role with
  | none => exact (takeFrame_notAdmitted (s := s.setRx m) hr ha r act).trans (takeFrame_notAdmitted hr ha r act).symm
  | some u => exact takeFrame_of_admission hr hr ha ha

theorem takeFrame_rx (r : Report) {act : State → State} (hact : ∀ t, HoldsRx t (act t)) :
    (s.takeFrame f r act).link.rx = [] := by
  obtain ⟨role, hr⟩ := State.exists_role_of_knows hk
  unfold State.takeFrame
  dsimp only
  rw [hr]
  dsimp only
  split
  · rfl
  · next u hu =>
    have hrx : u.link.rx = [] := State.admission_rx hu
    split
    · exact hrx
    · split
      · exact ((HoldsRx.after (hact _) (.heard ..)).rx).trans hrx
      · exact (HoldsRx.heard ..).rx.trans hrx

section
variable {i : Instr} (hi : frameHead i = some f)
include hi

theorem takeKind_setRx (m : List Byte) : (s.setRx m).takeKind i = s.takeKind i := by
  obtain ⟨r, act, hfr⟩ := isFrame_of_frameHead hi
  rw [hfr.taken, hfr.taken, takeFrame_setRx hk]

theorem takeKind_rx : (s.takeKind i).link.rx = [] := by
  obtain ⟨r, act, hfr⟩ := isFrame_of_frameHead hi
  rw [hfr.taken]
  exact takeFrame_rx hk r hfr.keeps

/-- A frame among bytes is taken as it is on its own, where none are held. -/
theorem exec_frame_takeKind : exec i (s.setRx []) = .next (s.takeKind i) := by
  obtain ⟨r, act, hfr⟩ := isFrame_of_frameHead hi
  obtain ⟨kind, payload, hexec, -⟩ := hfr.received
  have hk' : (s.setRx []).knows f = true := hk
  rw [hexec, receive_known (.ofEmpty rfl) hk', hfr.taken, ← takeFrame_setRx hk [] r act]
  rfl

end
end

/-! ## The receiver's reading (R44) -/

/-- What is left of the bytes after a frame among them is no longer than they are. -/
theorem length_rest_lt {l rest : List Byte} {i : Instr} (h : candidate l = .frame i rest) : rest.length < l.length := by
  unfold candidate at h
  repeat' split at h
  all_goals cases h
  rw [List.length_drop]
  omega

/-- Neither the fuel, where it is enough, nor the bytes held matter to the reading of bytes. -/
theorem readBytes_congr (late : Bool) {fuel fuel' : Nat} {l : List Byte} (h : l.length < fuel) (h' : l.length < fuel')
    (s : State) (m : List Byte) : (s.setRx m).readBytes late fuel l = s.readBytes late fuel' l := by
  induction fuel generalizing fuel' s l m with
  | zero => omega
  | succ fuel ih =>
    obtain ⟨fuel', rfl⟩ : ∃ k, fuel' = k + 1 := ⟨fuel' - 1, by omega⟩
    have hl := length_hunt_le l
    unfold State.readBytes
    split
    · exact State.setRx_setRx ..
    · next sync t ht =>
      rw [ht, List.length_cons] at hl
      split
      · split
        · exact ih (by omega) (by omega) s m
        · exact State.setRx_setRx ..
      · exact ih (by omega) (by omega) s m
      · next i rest hc =>
        have hrest := length_rest_lt hc
        rw [List.length_cons] at hrest
        have hknows : (s.setRx m).knows = s.knows := rfl
        rw [hknows]
        split
        · next hk =>
          obtain ⟨f, hf, hk⟩ := (Option.any_eq_true _ _).1 hk
          rw [takeKind_setRx hk hf]
          exact ih (fuel' := fuel') (by omega) (by omega) (s.takeKind i) (s.takeKind i).link.rx
        · exact ih (by omega) (by omega) s m

section
variable {s : State} (late : Bool)

theorem State.hears_eq {l : List Byte} {fuel : Nat} (h : (s.link.rx ++ l).length < fuel) :
    s.hears late l = s.readBytes late fuel (s.link.rx ++ l) :=
  readBytes_congr late (Nat.lt_succ_self _) h s s.link.rx

/-- The bytes that are left are read as bytes that come to a receiver that holds none. -/
theorem readBytes_eq_hears {t : List Byte} {fuel : Nat} (h : t.length < fuel) :
    s.readBytes late fuel t = (s.setRx []).hears late t :=
  (readBytes_congr late (l := t) (Nat.lt_succ_self _) h s []).symm

variable {bytes : List Byte}

theorem State.hears_nothing (h : hunt (s.link.rx ++ bytes) = []) : s.hears late bytes = s.setRx [] := by
  rw [State.hears, State.readBytes, h]

section
variable {sync : Byte} {t : List Byte} (h : hunt (s.link.rx ++ bytes) = sync :: t)
include h

theorem length_after_sync : t.length < (s.link.rx ++ bytes).length := by
  have := length_hunt_le (s.link.rx ++ bytes)
  rw [h, List.length_cons] at this
  omega

theorem State.hears_waits (hc : candidate (sync :: t) = .waits) :
    s.hears late bytes = if late then (s.setRx []).hears late t else s.setRx (sync :: t) := by
  rw [State.hears, State.readBytes, h]
  dsimp only
  rw [hc]
  dsimp only
  rw [readBytes_eq_hears late (length_after_sync h)]

theorem State.hears_bad (hc : candidate (sync :: t) = .bad) : s.hears late bytes = (s.setRx []).hears late t := by
  rw [State.hears, State.readBytes, h]
  dsimp only
  rw [hc]
  exact readBytes_eq_hears late (length_after_sync h)

variable {i : Instr} {f : FrameHead} {rest : List Byte} (hc : candidate (sync :: t) = .frame i rest)
  (hi : frameHead i = some f)
include hc hi

theorem State.hears_frame_unknown (hk : s.knows f = false) : s.hears late bytes = (s.setRx []).hears late t := by
  have hany : (frameHead i).any s.knows = false := by rw [hi]; exact hk
  rw [State.hears, State.readBytes, h]
  dsimp only
  rw [hc]
  dsimp only
  rw [hany]
  exact readBytes_eq_hears late (length_after_sync h)

theorem State.hears_frame_known (hk : s.knows f = true) : s.hears late bytes = (s.takeKind i).hears late rest := by
  have hany : (frameHead i).any s.knows = true := by rw [hi]; exact hk
  have hrest := length_rest_lt hc
  have ht := length_after_sync h
  rw [List.length_cons] at hrest
  rw [State.hears, State.readBytes, h]
  dsimp only
  rw [hc]
  dsimp only
  rw [hany, if_pos rfl, readBytes_eq_hears late (by omega), setRx_self (takeKind_rx hk hi)]

end
end

/-! ## Candidates -/

theorem candidate_waits {sync : Byte} {t : List Byte}
    (h : t = [] ∨ ∃ len r, t = len :: r ∧ len.toNat ≤ 8 ∧ r.length < 6 + len.toNat) : candidate (sync :: t) = .waits := by
  rcases h with rfl | ⟨len, r, rfl, h8, hr⟩
  · rfl
  · have hlen : (sync :: len :: r).length < 8 + len.toNat := by
      simp only [List.length_cons]
      omega
    exact (if_neg (by omega)).trans (if_pos hlen)

theorem candidate_long {sync len : Byte} {r : List Byte} (h : 8 < len.toNat) : candidate (sync :: len :: r) = .bad := if_pos h

theorem candidate_whole {sync len : Byte} {r : List Byte} (h8 : len.toNat ≤ 8) (hr : 6 + len.toNat ≤ r.length) :
    candidate (sync :: len :: r) = (readFrame (sync :: len :: r.take (6 + len.toNat))).elim .bad
      (fun i => .frame i (r.drop (6 + len.toNat))) := by
  have hlen : ¬(sync :: len :: r).length < 8 + len.toNat := by
    simp only [List.length_cons]
    omega
  have h2 : 8 + len.toNat = (6 + len.toNat) + 1 + 1 := by omega
  unfold candidate
  dsimp only [List.getElem?_cons_succ, List.getElem?_cons_zero]
  rw [if_neg (by omega), if_neg hlen, h2, List.take_succ_cons, List.take_succ_cons, List.drop_succ_cons,
    List.drop_succ_cons]
  cases readFrame (sync :: len :: r.take (6 + len.toNat)) <;> rfl

theorem receiverReads : Claim.ReceiverReads := by
  intro late bytes s given cleared
  have hgiven (l : List Byte) (u : State) : given l u = .next (u.hears late l) := by
    cases late <;> rfl
  refine ⟨fun gap => ?_, fun h => ?_, fun t h => ⟨fun hw => ?_, fun len r ht h8 => ?_, fun len r ht h8 hr => ⟨fun hn => ?_,
    fun i f hread hi => ⟨fun hx => ?_, fun x hx hrole => ?_⟩⟩⟩⟩
  · by_cases hg : 1000 < gap
    · rw [if_pos hg]
      change Host.Outcome.next (s.hears (decide (1000 < gap)) bytes) = _
      rw [decide_eq_true hg]
      rfl
    · rw [if_neg hg]
      change Host.Outcome.next (s.hears (decide (1000 < gap)) bytes) = _
      rw [decide_eq_false hg]
      rfl
  · rw [hgiven, State.hears_nothing late h]
    rfl
  · have hears := State.hears_waits late h (candidate_waits hw)
    refine ⟨fun hl => ?_, fun hl => ?_⟩
    · rw [hgiven, hgiven, hears, if_pos hl]
      rfl
    · rw [hgiven, hears, if_neg (by rw [hl]; decide)]
      rfl
  · subst ht
    rw [hgiven, hgiven, State.hears_bad late h (candidate_long h8)]
    rfl
  · subst ht
    have hc := candidate_whole (sync := 0xA5) h8 hr
    rw [hn] at hc
    rw [hgiven, hgiven, State.hears_bad late h hc]
    rfl
  · subst ht
    have hc := candidate_whole (sync := 0xA5) h8 hr
    rw [hread] at hc
    rw [hgiven, hgiven, State.hears_frame_unknown late h hc hi (knows_eq_false hx)]
    rfl
  · subst ht
    have hc := candidate_whole (sync := 0xA5) h8 hr
    rw [hread] at hc
    have hk : s.knows f = true := knows_of_role hx (Option.isSome_iff_ne_none.2 hrole)
    refine ⟨s.takeKind i, exec_frame_takeKind hk hi, ?_⟩
    rw [hgiven, hgiven, State.hears_frame_known late h hc hi hk]

/-- Settles O36: frames not taken, and the receiver's reading, step by step. -/
theorem framesNotTaken : Obligations.FramesNotTaken := ⟨framesDiscarded, framesUnread, receiverReads⟩

end Sys2Proof.Machine
end

section
/-! The cuts that come due where no chute has anything reserved and none is OPEN, as HALL CLEAR leaves them: what completing them
leaves (R106, R108, R118, R119). -/

namespace Sys2Proof.Machine

/-! ## Cuts where nothing is reserved -/

/-- No chute has anything reserved. -/
def State.NoneReserved (s : State) : Prop := ∀ k c, s.chute? k = some c → c.reserved = 0

section
variable {s : State} (h : s.NoneReserved)
include h

theorem Releases.settleCut_free (j : Nat) : Releases s (s.settleCut j) (fun k => if k = j then 1 else 0) := by
  refine Releases.settleCut (fun k => ?_) rfl rfl
  split
  · cases hc : s.chute? k with
    | none => rfl
    | some c =>
      have hr := h k c hc
      rw [Option.map_some]
      congr 1
      cases c
      cases hr
      rfl
  · rfl

theorem State.NoneReserved.settleCut (j : Nat) : (s.settleCut j).NoneReserved := by
  intro k q hq
  have hrel := Releases.settleCut_free h j
  obtain ⟨c, hc, -⟩ := hrel.back k q hq
  obtain ⟨r, hr, -, hres, -⟩ := hrel.chute k c hc
  cases hq.symm.trans hr
  rw [hres, h k c hc, Nat.zero_sub]

end

theorem Releases.settleCuts (l : List Nat) {s : State} (h : s.NoneReserved) :
    Releases s (s.settleCuts l) (fun k => l.count k) := by
  induction l generalizing s with
  | nil => exact Releases.same rfl rfl rfl
  | cons j r ih =>
    have hcount : (fun k => (j :: r).count k) = fun k => (if k = j then 1 else 0) + r.count k := by
      funext k
      rw [List.count_cons, Nat.add_comm]
      simp only [beq_iff_eq, @eq_comm _ j k]
    rw [hcount]
    exact (Releases.settleCut_free h j).trans (ih (h.settleCut j))

/-! ## Cuts where no chute is OPEN -/

/-- The chutes keep their states, and the notice unit stays. -/
structure Quiet (s t : State) : Prop where
  notices : t.notices = s.notices
  state : ∀ k, (t.chute? k).map (·.state) = (s.chute? k).map (·.state)

theorem Quiet.refl (s : State) : Quiet s s := ⟨rfl, fun _ => rfl⟩

theorem Quiet.trans {s t u : State} (h : Quiet s t) (g : Quiet t u) : Quiet s u :=
  ⟨g.notices.trans h.notices, fun k => (g.state k).trans (h.state k)⟩

theorem Quiet.modifyCart (s : State) (n : Nat) (f : Cart → Cart) : Quiet s (s.modifyCart n f) := ⟨rfl, fun _ => rfl⟩

theorem Quiet.modifyChute (s : State) (k : Nat) {f : Chute → Chute} (hf : ∀ c, (f c).state = c.state) :
    Quiet s (s.modifyChute k f) := by
  refine ⟨rfl, fun j => ?_⟩
  rw [State.modifyChute_chute?]
  split
  · rw [Option.map_map]
    exact congrArg (Option.map · _) (funext hf)
  · rfl

/-- No chute is OPEN. -/
def State.NoneOpen (s : State) : Prop := ∀ k c, s.chute? k = some c → c.state ≠ .opened

theorem State.NoneOpen.of_quiet {s t : State} (h : s.NoneOpen) (q : Quiet s t) : t.NoneOpen := by
  intro k c hc
  have hs := q.state k
  rw [hc] at hs
  obtain ⟨d, hd, hdc⟩ := Option.map_eq_some_iff.1 hs.symm
  exact fun ho => h k d hd (hdc.trans ho)

theorem Quiet.swap {s : State} (h : s.NoneOpen) (k : Nat) : Quiet s (s.swap k) := by
  unfold State.swap
  split
  · exact .refl s
  · next c hc =>
    split
    · exact .refl s
    · split
      · exact (Quiet.modifyCart ..).trans (.modifyChute _ k fun _ => rfl)
      · rw [if_neg (h k c hc)]
        exact .modifyChute s k fun _ => rfl

theorem Quiet.settleCut {s : State} (h : s.NoneOpen) (k : Nat) : Quiet s (s.settleCut k) := by
  unfold State.settleCut
  split
  · exact .refl s
  · split
    · exact .refl s
    · split
      · exact (Quiet.modifyCart ..).trans (.swap (h.of_quiet (.modifyCart ..)) k)
      · exact .refl s

theorem Quiet.settleCuts (l : List Nat) {s : State} (h : s.NoneOpen) : Quiet s (s.settleCuts l) := by
  induction l generalizing s with
  | nil => exact .refl s
  | cons k t ih =>
    have hk := Quiet.settleCut h k
    exact hk.trans (ih (h.of_quiet hk))

end Sys2Proof.Machine
end

section
/-! The level frames of a stop: the frames made where points come to HOLD and belts stop, and what they leave of the link (R43, R56,
R58, R77, R134). -/

namespace Sys2Proof.Machine

/-! ## Frames of some payloads -/

/-- Frames with payloads that meet `P` have been made: a frame that waited keeps its place, and its payload or one of its level; a
node that is not configured stays. -/
structure Lowers (P : OutPayload → Prop) (s t : State) : Prop where
  sent : Sent s t
  kept : ∀ (j : Nat) f, s.link.txQueue[j]? = some f → ∃ w, t.link.txQueue[j]? = some { f with payload := w } ∧
    (w = f.payload ∨ P w ∧ w.sameLevel f.payload = true)
  idle : ∀ n x, s.node? n = some x → x.role = none → t.node? n = some x

theorem OutPayload.sameLevel_trans {p q r : OutPayload} (h : p.sameLevel q = true) (k : q.sameLevel r = true) :
    p.sameLevel r = true := by
  rw [OutPayload.sameLevel_iff] at h k ⊢
  exact ⟨h.1, k.2.trans h.2⟩

section
variable {P : OutPayload → Prop} {s t u : State}

theorem Lowers.same (h : t.link = s.link) : Lowers P s t := by
  have hn : ∀ n, t.node? n = s.node? n := fun n => by unfold State.node?; rw [h]
  exact {
    sent := Sent.same (by rw [h]) hn (by rw [h]) fun n => by unfold State.waiting; rw [h]
    kept := fun j f hf => ⟨f.payload, by rw [h]; exact hf, .inl rfl⟩
    idle := fun n x hx _ => (hn n).trans hx }

theorem Lowers.trans (h : Lowers P s t) (g : Lowers P t u) : Lowers P s u where
  sent := h.sent.trans g.sent
  kept j f hf := by
    obtain ⟨w, hw, hwf⟩ := h.kept j f hf
    obtain ⟨v, hv, hvw⟩ := g.kept j _ hw
    refine ⟨v, hv, ?_⟩
    rcases hvw with hvw | ⟨hP, hvw⟩
    · rw [show v = w from hvw]
      exact hwf
    · rcases hwf with rfl | ⟨-, hwf⟩
      · exact .inr ⟨hP, hvw⟩
      · exact .inr ⟨hP, OutPayload.sameLevel_trans hvw hwf⟩
  idle n x hx hr := g.idle n x (h.idle n x hx hr) hr

theorem Lowers.send (s : State) (r : Role) (object : Nat) {p : OutPayload} (hp : P p) : Lowers P s (s.send r object p) where
  sent := Sent.send s r object p
  kept j f hf := by
    cases h : s.servingNode r object with
    | none => exact ⟨f.payload, by rw [State.send_none p h]; exact hf, .inl rfl⟩
    | some n =>
      by_cases hw : ∃ f ∈ s.link.txQueue, p.sameLevel f.payload = true
      · rw [State.send_waiting h hw, State.setLink_link, List.getElem?_map, hf, Option.map_some]
        split
        · next hl => exact ⟨p, rfl, .inr ⟨hp, hl⟩⟩
        · exact ⟨f.payload, rfl, .inl rfl⟩
      · have hw' : ∀ f ∈ s.link.txQueue, p.sameLevel f.payload = false := fun f hf =>
          Bool.eq_false_iff.2 fun hb => hw ⟨f, hf, hb⟩
        by_cases hc : s.link.txQueue.length < txCapacity
        · obtain ⟨x, hx, -⟩ := State.servingNode_eq h
          refine ⟨f.payload, ?_, .inl rfl⟩
          rw [State.send_joins h hx hw' hc, State.setLink_link,
            List.getElem?_append_left (List.getElem?_eq_some_iff.1 hf).1]
          exact hf
        · refine ⟨f.payload, ?_, .inl rfl⟩
          rw [State.send_full hw' (Nat.le_of_not_lt hc)]
          exact hf
  idle n x hx hr := by
    cases h : s.servingNode r object with
    | none => rw [State.send_none p h]; exact hx
    | some m =>
      obtain ⟨y, hy, hrole, -⟩ := State.servingNode_eq h
      have hnm : n ≠ m := by
        rintro rfl
        cases hx.symm.trans hy
        rw [hr] at hrole
        cases hrole
      by_cases hw : ∃ f ∈ s.link.txQueue, p.sameLevel f.payload = true
      · rw [State.send_waiting h hw]
        exact hx
      · have hw' : ∀ f ∈ s.link.txQueue, p.sameLevel f.payload = false := fun f hf =>
          Bool.eq_false_iff.2 fun hb => hw ⟨f, hf, hb⟩
        by_cases hc : s.link.txQueue.length < txCapacity
        · rw [State.send_joins_node? h hy hw' hc, if_neg hnm]
          exact hx
        · rw [State.send_full hw' (Nat.le_of_not_lt hc)]
          exact hx

end

/-! ## Points that come to HOLD (R77) -/

theorem HoldSet.put_held (c : HoldSet) (x : HoldCause) : (c.put x true).isEmpty = false := by
  cases x <;> simp [HoldSet.put, HoldSet.isEmpty]

/-- A cause put on points sends HOLD alone, and for points that there are. -/
theorem Lowers.putCauses {P : OutPayload → Prop} (x : HoldCause) (l : List Nat) {s : State}
    (hP : ∀ i p, s.loop.points.get? i = some p → P (.induct i false)) : Lowers P s (s.putCauses x true l) := by
  induction l generalizing s with
  | nil => exact .same rfl
  | cons i t ih =>
    have hput : Lowers P s (s.putCause i x true) := by
      unfold State.putCause State.onCauses
      split
      · exact .same rfl
      · next p hp =>
        dsimp only
        rw [HoldSet.put_held]
        split
        · exact .same rfl
        · exact Lowers.trans (by exact .same rfl) (Lowers.send _ .induct i (hP i p hp))
    refine hput.trans (ih fun j p hp => ?_)
    rw [State.putCause, State.onCauses_get?] at hp
    split at hp
    · obtain ⟨q, hq, -⟩ := Option.map_eq_some_iff.1 hp
      exact hP j q hq
    · exact hP j p hp

/-- Where every point stands at HOLD, a cause more makes no frame. -/
theorem State.putCauses_held (x : HoldCause) (l : List Nat) {s : State}
    (h : ∀ i p, s.loop.points.get? i = some p → p.go = false) : (s.putCauses x true l).link = s.link := by
  induction l generalizing s with
  | nil => rfl
  | cons i t ih =>
    have hput : (s.putCause i x true).link = s.link := by
      unfold State.putCause State.onCauses
      split
      · rfl
      · next p hp =>
        dsimp only
        rw [HoldSet.put_held, if_pos (h i p hp).symm]
        rfl
    refine (ih fun j p hp => ?_).trans hput
    rw [State.putCause, State.onCauses_get?] at hp
    split at hp
    · obtain ⟨q, -, rfl⟩ := Option.map_eq_some_iff.1 hp
      exact HoldSet.put_held ..
    · exact h j p hp

/-! ## Belts that stop (R134) -/

theorem State.beltRuns_stopped {s : State} (ho : s.opState ≠ .run) (x : Door) : s.beltRuns x = false := by
  simp [State.beltRuns, ho]

/-- Outside RUN the belts are sent STOP alone, and for doors that there are. -/
theorem Lowers.setBeltsOf {P : OutPayload → Prop} (l : List Nat) {s : State} (ho : s.opState ≠ .run)
    (hP : ∀ d x, s.door? d = some x → P (.door d false)) : Lowers P s (s.setBeltsOf l) := by
  induction l generalizing s with
  | nil => exact .same rfl
  | cons d t ih =>
    have hbelt : Lowers P s (s.setBelt d) := by
      unfold State.setBelt
      split
      · exact .same rfl
      · next x hx =>
        dsimp only
        rw [State.beltRuns_stopped ho]
        split
        · exact .same rfl
        · exact Lowers.trans (by exact .same rfl) (Lowers.send _ .door d (hP d x hx))
    have hop : (s.setBelt d).opState ≠ .run := by
      rw [(Keeps.setBelt s d).changes .opState (by decide)]
      exact ho
    refine hbelt.trans (ih hop fun e x hx => ?_)
    rw [State.setBelt_door?] at hx
    split at hx
    · obtain ⟨y, hy, -⟩ := Option.map_eq_some_iff.1 hx
      exact hP e y hy
    · exact hP e x hx

end Sys2Proof.Machine
end

section
/-! HALL CLEAR: what its parts leave in turn, the hold of the points, the cuts and the belts, and from that its obligation (R42, R53,
R56, R58, R62, R63, R77, R81, R106, R108, R118, R119, R132, R134, R171). -/

namespace Sys2Proof.Machine

/-! ## Its parts -/

/-- HALL CLEAR before the points' causes, the cuts and the belts. -/
def State.wiped (s : State) : State :=
  let s2 := (s.setOpState .setup).setStore { s.store with slotA := s.store.slotA.close, slotB := s.store.slotB.close }
  let s4 := (((s2.setLoop s.loop.clear).setLink s.link.unhear).setChutes (s.chutes.mapValues Chute.clear)).setRoutes
    (s.routes.map (fun r => { r with chutes := [] }))
  (s4.setDoors (s.doors.mapValues Door.clear)).setSweep { s.sweep with walk := some ⟨.clear, 0⟩ }

/-- HALL CLEAR before the belts. -/
def State.cutsWiped (s : State) : State := s.wiped.holdAll.settleCuts (s.wiped.chutes.map (·.1))

theorem State.hallClear_eq (s : State) : s.hallClear = s.cutsWiped.setBelts := rfl

theorem State.wiped_changes (s : State) :
    Changes [.opState, .store, .loop, .link, .chutes, .routes, .doors, .sweep] s s.wiped := by
  intro b hb
  cases b <;> first | rfl | simp at hb

theorem State.wiped_node? (s : State) (n : Nat) : s.wiped.node? n = (s.node? n).map (fun x =>
    if x.role.isSome then { x with state := .unheard, expected := none, lastHeard := none } else x) :=
  State.roused_node? s n

/-! ## The points -/

theorem State.holdAll_loop (s : State) : s.holdAll.loop = { s.loop with points := s.holdAll.loop.points } := by
  rw [State.holdAll, State.putCauseAll_loop, State.putCauseAll_loop, State.putCauseAll_loop]

theorem State.holdAll_point (s : State) (i : Nat) : s.holdAll.loop.points.get? i = (s.loop.points.get? i).map (fun p =>
    ⟨p.offset, p.node, { p.causes with state := true, tracking := true, node := true }, false⟩) := by
  rw [State.holdAll, State.putCauseAll_get?, State.putCauseAll_get?, State.putCauseAll_get?, Option.map_map, Option.map_map]
  refine congrArg (Option.map · _) (funext fun p => ?_)
  simp [Induction.withCauses, HoldSet.put, HoldSet.isEmpty]

theorem State.putCauseAll_point_held {s : State} {x : HoldCause} {i : Nat} {p : Induction}
    (hp : (s.putCauseAll x true).loop.points.get? i = some p) : p.go = false := by
  rw [State.putCauseAll_get?] at hp
  obtain ⟨q, -, rfl⟩ := Option.map_eq_some_iff.1 hp
  exact HoldSet.put_held ..

/-- The three causes together make the frames of the first. -/
theorem State.holdAll_link {s : State} (hp : Table.wf s.loop.points = true) : s.holdAll.link =
    (s.sendAll ((s.loop.points.filter (·.2.go)).map (fun e => (.induct, e.1, .induct e.1 false)))).link :=
  (State.putCauses_held .node _ fun _ _ => State.putCauseAll_point_held).trans
    ((State.putCauses_held .tracking _ fun _ _ => State.putCauseAll_point_held).trans (State.putCauseAll_link hp .state))

theorem Lowers.holdAll {P : OutPayload → Prop} {s : State}
    (hP : ∀ i p, s.loop.points.get? i = some p → P (.induct i false)) : Lowers P s s.holdAll := by
  have hput {u : State} (x : HoldCause) (hu : ∀ i p, u.loop.points.get? i = some p → P (.induct i false)) (i : Nat)
      (p : Induction) (hp : (u.putCauseAll x true).loop.points.get? i = some p) : P (.induct i false) := by
    rw [State.putCauseAll_get?] at hp
    obtain ⟨q, hq, -⟩ := Option.map_eq_some_iff.1 hp
    exact hu i q hq
  exact ((Lowers.putCauses .state _ hP).trans (.putCauses .tracking _ (hput _ hP))).trans
    (.putCauses .node _ (hput _ (hput _ hP)))

/-! ## The cuts -/

section
variable (s : State)

theorem State.wiped_chute? (k : Nat) : s.wiped.holdAll.chute? k = (s.chute? k).map Chute.clear := by
  rw [State.chute?, (Keeps.holdAll s.wiped).changes .chutes (by decide)]
  exact Table.get?_mapValues ..

theorem State.wiped_cart? (n : Nat) : s.wiped.holdAll.cart? n = s.cart? n := by
  rw [State.cart?, (Keeps.holdAll s.wiped).changes .carts (by decide)]
  rfl

theorem State.wiped_notices : s.wiped.holdAll.notices = s.notices :=
  (Keeps.holdAll s.wiped).changes .notices (by decide)

theorem State.wiped_noneReserved : s.wiped.holdAll.NoneReserved := by
  intro k c hc
  rw [State.wiped_chute?] at hc
  obtain ⟨d, -, rfl⟩ := Option.map_eq_some_iff.1 hc
  rfl

theorem State.wiped_noneOpen : s.wiped.holdAll.NoneOpen := by
  intro k c hc
  rw [State.wiped_chute?] at hc
  obtain ⟨d, -, rfl⟩ := Option.map_eq_some_iff.1 hc
  exact fun h => ChuteState.noConfusion h

theorem State.cutsWiped_quiet : Quiet s.wiped.holdAll s.cutsWiped := Quiet.settleCuts _ s.wiped_noneOpen

theorem State.cutsWiped_releases : Releases s.wiped.holdAll s.cutsWiped (fun k => (s.wiped.chutes.map (·.1)).count k) :=
  Releases.settleCuts _ s.wiped_noneReserved

/-- The cuts take no subject, no chute being OPEN. -/
theorem State.cutsWiped_changes : Changes [.chutes, .carts] s.wiped.holdAll s.cutsWiped := by
  intro b hb
  by_cases hn : b = .notices
  · subst hn
    exact s.cutsWiped_quiet.notices
  · refine (Keeps.settleCuts _ s.wiped.holdAll).changes b fun hm => ?_
    simp only [List.mem_cons, List.not_mem_nil, or_false] at hm hb
    tauto

theorem State.wiped_activeCart (c : Chute) : s.wiped.holdAll.activeCart c.clear = s.activeCart c := by
  unfold State.activeCart
  simp only [State.wiped_cart?]
  rfl

end

/-! ## What HALL CLEAR leaves -/

section
variable (s : State)

theorem State.hallClear_changes :
    Changes [.opState, .store, .loop, .link, .chutes, .routes, .doors, .sweep, .carts] s s.hallClear := by
  have hheld := s.wiped_changes.comp (n := [.opState, .store, .loop, .link, .chutes, .routes, .doors, .sweep, .carts])
    (Keeps.holdAll s.wiped).changes (by decide) (by decide)
  have hcut := hheld.comp (n := [.opState, .store, .loop, .link, .chutes, .routes, .doors, .sweep, .carts])
    s.cutsWiped_changes (by decide) (by decide)
  exact hcut.comp (Keeps.setBelts s.cutsWiped).changes (by decide) (by decide)

/-- After the first part, the points, the link, the chutes, the carts and the doors alone change. -/
theorem State.hallClear_late : Changes [.loop, .link, .chutes, .carts, .doors] s.wiped s.hallClear := by
  have hcut := (Keeps.holdAll s.wiped).changes.comp (n := [.loop, .link, .chutes, .carts]) s.cutsWiped_changes (by decide)
    (by decide)
  exact hcut.comp (Keeps.setBelts s.cutsWiped).changes (by decide) (by decide)

theorem State.cutsWiped_opState : s.cutsWiped.opState = .setup :=
  (s.cutsWiped_changes .opState (by decide)).trans ((Keeps.holdAll s.wiped).changes .opState (by decide))

theorem State.cutsWiped_doors : s.cutsWiped.doors = s.doors.mapValues Door.clear :=
  (s.cutsWiped_changes .doors (by decide)).trans ((Keeps.holdAll s.wiped).changes .doors (by decide))

theorem State.hallClear_loop : s.hallClear.loop = s.wiped.holdAll.loop :=
  ((Keeps.setBelts s.cutsWiped).changes .loop (by decide)).trans (s.cutsWiped_changes .loop (by decide))

theorem State.hallClear_door? (d : Nat) : s.hallClear.door? d = (s.door? d).map (fun x =>
    { x with halts := HaltSet.empty, lastServed := none, running := false }) := by
  have hop : s.cutsWiped.setBelts.opState ≠ .run := by
    rw [(Keeps.setBelts s.cutsWiped).changes .opState (by decide), s.cutsWiped_opState]
    exact fun h => OpState.noConfusion h
  rw [State.hallClear_eq, State.setBelts_door?, State.door?, s.cutsWiped_doors, Table.get?_mapValues, Option.map_map]
  refine congrArg (Option.map · _) (funext fun x => ?_)
  rw [Function.comp_apply, State.beltRuns_stopped hop]
  rfl

theorem State.hallClear_chutes : s.hallClear.chutes = s.cutsWiped.chutes :=
  (Keeps.setBelts s.cutsWiped).changes .chutes (by decide)

theorem State.hallClear_carts : s.hallClear.carts = s.cutsWiped.carts :=
  (Keeps.setBelts s.cutsWiped).changes .carts (by decide)

theorem State.hallClear_notices : s.hallClear.notices = s.cutsWiped.notices :=
  (Keeps.setBelts s.cutsWiped).changes .notices (by decide)

/-! ### The frames made -/

/-- The payloads of a stop: HOLD for a point that there is, STOP for a door that there is. -/
def State.Stops (w : OutPayload) : Prop :=
  (∃ i p, s.loop.points.get? i = some p ∧ w = .induct i false) ∨ ∃ d x, s.door? d = some x ∧ w = .door d false

theorem Lowers.hallClear : Lowers s.Stops s.wiped s.hallClear := by
  refine ((Lowers.holdAll fun i p hp => .inl ⟨i, p, hp, rfl⟩).trans (.same (s.cutsWiped_changes .link (by decide)))).trans
    (.setBeltsOf _ ?_ fun d x hx => ?_)
  · rw [s.cutsWiped_opState]
    exact fun h => OpState.noConfusion h
  · rw [State.door?, s.cutsWiped_doors, Table.get?_mapValues] at hx
    obtain ⟨y, hy, -⟩ := Option.map_eq_some_iff.1 hx
    exact .inr ⟨d, y, hy, rfl⟩

theorem State.hallClear_link (hp : Table.wf s.loop.points = true) (hd : Table.wf s.doors = true) :
    s.hallClear.link = (s.wiped.sendAll (levelsStopped s)).link := by
  have hwf : Table.wf (s.doors.mapValues Door.clear) = true := Table.wf_mapValues hd _
  have hkeys : s.cutsWiped.doors.map (·.1) = (s.doors.mapValues Door.clear).map (·.1) := by rw [s.cutsWiped_doors]
  have hstop : s.cutsWiped.opState ≠ .run := by
    rw [s.cutsWiped_opState]
    exact fun h => OpState.noConfusion h
  have hrunning : (s.doors.mapValues Door.clear).filter (·.2.running) =
      (s.doors.filter (·.2.running)).map (fun e => (e.1, e.2.clear)) := List.filter_map
  have hbelts := State.setBeltsOf_link (s.doors.mapValues Door.clear) s.cutsWiped hstop (Table.keys_pairwise hwf)
    fun e he => by
      rw [State.door?, s.cutsWiped_doors]
      exact Table.get?_of_mem hwf he
  rw [State.hallClear_eq, State.setBelts, hkeys, hbelts, hrunning, List.map_map, levelsStopped, State.sendAll_append]
  refine State.sendAll_link_congr _ ?_
  exact (s.cutsWiped_changes .link (by decide)).trans (State.holdAll_link (s := s.wiped) hp)

end

/-- Which node serves an object is a matter of the roles and objects alone. -/
theorem findNode_map {p : Node → Bool} {g : Node → Node} (hg : ∀ x, p (g x) = p x) (l : List Node) (i : Nat) :
    findNode p (l.map g) i = findNode p l i := by
  induction l generalizing i with
  | nil => rfl
  | cons x t ih => rw [List.map_cons, findNode, findNode, hg, ih]

theorem State.wiped_servingNode (s : State) (r : Role) (object : Nat) :
    s.wiped.servingNode r object = s.servingNode r object := by
  refine findNode_map (fun x => ?_) s.link.nodes 1
  split <;> rfl

theorem LevelsMade.hallClear {s : State} (hp : Table.wf s.loop.points = true) (hd : Table.wf s.doors = true) :
    LevelsMade s s.hallClear 0 (levelsStopped s) := by
  have hmade : LevelsMade s.wiped (s.wiped.sendAll (levelsStopped s)) 0 (levelsStopped s) := by
    refine LevelsMade.sendAll (levelsStopped s) s.wiped (fun e he => ?_)
      (levels_pairwise (fun e : Nat × Induction => .induct e.1 false) (fun e : Nat × Door => .door e.1 false)
        ((Table.keys_pairwise hp).filter _) ((Table.keys_pairwise hd).filter _))
    rcases List.mem_append.1 he with h | h <;> obtain ⟨x, -, rfl⟩ := List.mem_map.1 h <;> rfl
  have hlink := s.hallClear_link hp hd
  have hnodes : ∀ n, s.hallClear.node? n = (s.wiped.sendAll (levelsStopped s)).node? n := fun n => by
    unfold State.node?
    rw [hlink]
  obtain ⟨hkept, hjoined, hseq, hnode⟩ := hmade
  unfold LevelsMade
  simp only [State.wiped_servingNode] at hkept hjoined
  simp only [hlink, hnodes]
  refine ⟨hkept, hjoined, fun j f x hj hf hx => ?_, fun n x hx => ?_⟩
  · have hx' := s.wiped_node? f.node
    rw [hx, Option.map_some] at hx'
    obtain ⟨hstamp, hs⟩ := hseq j f _ hj hf hx'
    refine ⟨hstamp, hs.trans ?_⟩
    split <;> rfl
  · have hx' := s.wiped_node? n
    rw [hx, Option.map_some] at hx'
    obtain ⟨y, hy, hr, ho, hs⟩ := hnode n _ hx'
    refine ⟨y, hy, hr.trans ?_, ho.trans ?_, hs.trans ?_⟩ <;> split <;> rfl

end Sys2Proof.Machine
end

section
/-! HALL CLEAR as a request: what it leaves of the chutes and their carts, the nodes and the frames that waited, and its obligation
(R42, R56, R106, R108, R118, R119, R171). -/

namespace Sys2Proof.Machine

section
variable {s : State}

/-! ## Chutes and carts -/

theorem OwnCarts.wiped {k : Nat} {c : Chute} (h : OwnCarts s k c) : OwnCarts s.wiped.holdAll k c.clear := by
  intro p m hm j o hj ho q
  rw [State.wiped_chute?] at ho
  obtain ⟨d, hd, rfl⟩ := Option.map_eq_some_iff.1 ho
  have hpos (e : Chute) (r : PosName) : e.clear.position r = e.position r := Chute.position_congr rfl rfl r
  rw [hpos] at hm ⊢
  exact h p m hm j d hj hd q

/-- A chute after HALL CLEAR, and the cut that it completes (R106, R108, R118, R119). -/
theorem State.hallClear_chute {k : Nat} {c : Chute} (hc : s.chute? k = some c) :
    ∃ a, s.hallClear.chute? k = some { c with
        state := .closed, assigned := none, reserved := 0, failures := 0, active := a } ∧
      (a ≠ c.active → c.landing = [] ∧ c.jams = [] ∧ ∃ n x, s.activeCart c = some (n, x) ∧ x.state = .closing) ∧
      (∀ n x, s.activeCart c = some (n, x) → x.state = .closing → c.landing = [] → c.jams = [] →
        s.hallClear.cart? n = some { x with state := .cut } ∧
          (OwnCarts s k c → ∀ q, s.hallClear.chute? k = some q → Swaps s s.hallClear k n c q .closed)) := by
  have hck : s.wiped.holdAll.chute? k = some c.clear := by rw [State.wiped_chute?, hc]; rfl
  obtain ⟨q, hq, hqc, hres, hno, hidle, hcut⟩ := s.cutsWiped_releases.chute k c.clear hck
  have hstate : q.state = .closed := by
    have h := s.cutsWiped_quiet.state k
    rw [hq, hck] at h
    exact Option.some.inj h
  have hres : q.reserved = 0 := hres.trans (Nat.zero_sub _)
  have hqc : q = { c with state := .closed, assigned := none, reserved := 0, failures := 0, active := q.active } := by
    rw [hqc, hres, hstate]
    rfl
  have hclaims : q.claims = c.landing.length + c.jams.length := by
    rw [hqc]
    exact congrArg (· + c.jams.length) (Nat.zero_add _)
  have hchute : s.hallClear.chute? k = some q := by rw [State.chute?, s.hallClear_chutes]; exact hq
  have hcart : ∀ n, s.hallClear.cart? n = s.cutsWiped.cart? n := fun n => by rw [State.cart?, s.hallClear_carts]; rfl
  refine ⟨q.active, hchute.trans (congrArg some hqc), fun ha => ?_, fun n x hx hcl hl hj => ?_⟩
  · have hempty : c.landing.length + c.jams.length = 0 := by
      by_contra h
      exact ha (hidle (.inr (by rw [hclaims]; exact h))).2.1
    refine ⟨List.eq_nil_of_length_eq_zero (by omega), List.eq_nil_of_length_eq_zero (by omega), ?_⟩
    by_contra hnone
    refine ha (hno fun n x hx hcl => hnone ⟨n, x, ?_, hcl⟩).2
    rw [← State.wiped_activeCart]
    exact hx
  · have hin : k ∈ s.wiped.chutes.map (·.1) := by
      refine Table.any_key_iff (v := c.clear) ?_
      rw [← hck, State.chute?, (Keeps.holdAll s.wiped).changes .chutes (by decide)]
    have hclaims : q.claims = 0 := by rw [hclaims, hl, hj]; rfl
    obtain ⟨hn, hswap⟩ := hcut n x ((State.wiped_activeCart s c).trans hx) hcl
      (Nat.ne_of_gt (List.count_pos_iff.2 hin)) hclaims
    refine ⟨(hcart n).trans hn, fun ho r hr => ?_⟩
    cases hchute.symm.trans hr
    obtain ⟨p, hcp, -, -⟩ := State.activeCart_eq hx
    have hsources : s.wiped.holdAll.notices.sources.length = s.notices.sources.length := by rw [State.wiped_notices]
    have hs : Swaps s s.cutsWiped k n c q .closed := Swaps.before (fun _ m _ => State.wiped_cart? s m) rfl
      (Chute.position_congr rfl rfl) hsources (hswap ho.wiped)
    exact hs.after hcp rfl rfl (s.cutsWiped_releases.sources.trans hsources)
      (Releases.same s.hallClear_chutes s.hallClear_carts s.hallClear_notices)

theorem State.hallClear_chute_none {k : Nat} (hc : s.chute? k = none) : s.hallClear.chute? k = none := by
  rw [State.chute?, s.hallClear_chutes]
  cases hq : s.cutsWiped.chutes.get? k with
  | none => rfl
  | some q =>
    obtain ⟨c, hck, -⟩ := s.cutsWiped_releases.back k q hq
    rw [State.wiped_chute?, hc] at hck
    cases hck

theorem State.hallClear_cart (m : Nat) : (s.cart? m = none → s.hallClear.cart? m = none) ∧
    ∀ x, s.cart? m = some x → ∃ v, s.hallClear.cart? m = some { x with state := v } ∧
      (v = x.state ∨ x.state = .closing ∧ v = .cut ∨ x.state = .standby ∧ v = .filling) := by
  have hcart : s.hallClear.cart? m = s.cutsWiped.cart? m := by rw [State.cart?, s.hallClear_carts]; rfl
  rw [hcart]
  refine ⟨fun h => s.cutsWiped_releases.gone m ?_, fun x h => s.cutsWiped_releases.cart m x ?_⟩
  · rw [State.wiped_cart?]
    exact h
  · rw [State.wiped_cart?]
    exact h

/-! ## Nodes and frames -/

theorem State.hallClear_node {n : Nat} {x : Node} (hx : s.node? n = some x) :
    (x.role ≠ none → s.hallClear.node? n = some { x with
      state := .unheard, expected := none, lastHeard := none,
      outSeq := x.outSeq + BitVec.ofNat 8 (s.hallClear.waiting n - s.waiting n) }) ∧
    (x.role = none → s.hallClear.node? n = some x) := by
  have hlow := Lowers.hallClear s
  have hn := s.wiped_node? n
  rw [hx, Option.map_some] at hn
  refine ⟨fun hr => ?_, fun hr => ?_⟩
  · rw [if_pos (Option.isSome_iff_ne_none.2 hr)] at hn
    exact hlow.sent.node n _ hn
  · rw [hr] at hn
    exact hlow.idle n x hn hr

theorem State.hallClear_stampRef (s : State) : s.hallClear.link.stampRef = none := by
  rw [(Lowers.hallClear s).sent.link]
  rfl

/-- A frame that waited keeps its place, and its level but for that of a point or a door that has stopped (R56). -/
theorem State.hallClear_frame {j : Nat} {f : OutFrame} (hf : s.link.txQueue[j]? = some f) :
    ∃ w, s.hallClear.link.txQueue[j]? = some { f with payload := w } ∧
      (w = f.payload ∨ (∃ i go p, f.payload = .induct i go ∧ s.loop.points.get? i = some p ∧ w = .induct i false) ∨
        ∃ d run x, f.payload = .door d run ∧ s.door? d = some x ∧ w = .door d false) := by
  obtain ⟨w, hw, hwf⟩ := (Lowers.hallClear s).kept j f hf
  refine ⟨w, hw, hwf.imp_right fun ⟨hstop, hlevel⟩ => ?_⟩
  have hlevel := ((OutPayload.sameLevel_iff ..).1 hlevel).2
  rcases hstop with ⟨i, p, hp, rfl⟩ | ⟨d, x, hx, rfl⟩
  · left
    cases hpay : f.payload with
    | induct k go =>
      rw [hpay] at hlevel
      cases hlevel
      exact ⟨_, go, p, rfl, hp, rfl⟩
    | door => rw [hpay] at hlevel; cases hlevel
    | divert => rw [hpay] at hlevel; cases hlevel
    | answer => rw [hpay] at hlevel; cases hlevel
  · right
    cases hpay : f.payload with
    | door k run =>
      rw [hpay] at hlevel
      cases hlevel
      exact ⟨_, run, x, rfl, hx, rfl⟩
    | induct => rw [hpay] at hlevel; cases hlevel
    | divert => rw [hpay] at hlevel; cases hlevel
    | answer => rw [hpay] at hlevel; cases hlevel

/-! ## The store, the loop and the points -/

theorem State.hallClear_store (s : State) : s.hallClear.store =
    { s.store with slotA := s.store.slotA.close, slotB := s.store.slotB.close } := s.hallClear_late .store (by decide)

theorem Sailing.close_eq (v : Sailing) : v.close = { v with state := if v.state = .free then .free else .closing } := by
  unfold Sailing.close
  split
  · next h =>
    rw [← h]
  · rfl

theorem State.hallClear_slot (b : SlotId) : s.hallClear.store.slot b =
    { s.store.slot b with state := if s.slotState b = .free then .free else .closing } := by
  rw [s.hallClear_store]
  cases b
  · exact Sailing.close_eq _
  · exact Sailing.close_eq _

theorem State.hallClear_track (s : State) :
    s.hallClear.loop = { s.loop.clear with points := s.hallClear.loop.points } := by
  rw [s.hallClear_loop, State.holdAll_loop]
  rfl

theorem State.hallClear_point (i : Nat) : s.hallClear.loop.points.get? i = (s.loop.points.get? i).map (fun p =>
    ⟨p.offset, p.node, { p.causes with state := true, tracking := true, node := true }, false⟩) := by
  rw [s.hallClear_loop]
  exact State.holdAll_point s.wiped i

end

/-- Settles O12: the first part of the clear by its fields, the frames of the stop by the sends, and the cuts chute by chute. -/
theorem hallClearStarts : Obligations.HallClearStarts := by
  intro h s hr
  have hrun := request_guarded hr 0x09 (fun t => [(t.sweep.walk.isNone, .busy)])
    (fun t => (t.hallClear, ⟨.accepted, .empty⟩))
  refine ⟨fun hw => ?_, fun hw => ?_⟩
  · exact hrun.trans (ruled_fail (firstFailure_stop (Bool.eq_false_iff.2 fun hb => hw (Option.isNone_iff_eq_none.1 hb))) ..)
  · have hx := hrun.trans (ruled_pass (firstFailure_pass (Option.isNone_iff_eq_none.2 hw) rfl) ..)
    have htrack := s.taken.hallClear_track
    have hstore := s.taken.hallClear_store
    have hlate := s.taken.hallClear_late
    exact ⟨s.taken.hallClear, hx, s.taken.hallClear_changes.ofTaken (by decide) (by decide), hlate .opState (by decide),
      hlate .sweep (by decide), fun b => State.hallClear_slot (s := s.taken) b, by rw [hstore]; rfl, by rw [hstore]; rfl,
      by rw [hstore]; rfl, s.taken.hallClear_stampRef, fun n x hn hrole => (State.hallClear_node (s := s.taken) hn).1 hrole,
      fun n x hn hrole => (State.hallClear_node (s := s.taken) hn).2 hrole,
      fun j f hf => State.hallClear_frame (s := s.taken) hf, fun hp hd => LevelsMade.hallClear (s := s.taken) hp hd,
      by rw [htrack]; rfl, by rw [htrack]; rfl, by rw [htrack]; rfl, by rw [htrack]; rfl, by rw [htrack]; rfl,
      by rw [htrack]; rfl, by rw [htrack]; rfl, by rw [htrack]; rfl,
      fun k c hc => State.hallClear_chute (s := s.taken) hc, fun k hc => State.hallClear_chute_none (s := s.taken) hc,
      fun m hm => (State.hallClear_cart (s := s.taken) m).1 hm, fun m x hm => (State.hallClear_cart (s := s.taken) m).2 x hm,
      hlate .routes (by decide), fun d => State.hallClear_door? s.taken d,
      fun i => State.hallClear_point (s := s.taken) i⟩

end Sys2Proof.Machine
end
